-- ==== Sys2Proof/Word.lean ====
section
/-! DEFINITION. Word types and the plainest arithmetic on them.
Widths follow R7 (bytes, little-endian), R148 (registers), R189 (instruction words), R226 (descriptors). -/

namespace Sys2Proof

abbrev Byte := BitVec 8
abbrev Half := BitVec 16
abbrev Word := BitVec 32
abbrev DWord := BitVec 64
/-- One instruction word (R189). -/
abbrev IWord := BitVec 128
/-- One tensor descriptor (R226). -/
abbrev DescWord := BitVec 256
/-- A marrow's finite part (R86): bit 0 weighs 2^−300. -/
abbrev Marrow := BitVec 640

/-- A family of instances or cells of which only those that differ from their reset value are listed:
keys strictly rising, no listed value equal to the value an unlisted key has. -/
abbrev Sparse (α : Type) := List (Nat × α)

end Sys2Proof
end

