-- ==== Sys2Proof/Messages.lean ====
section
/-! DEFINITION. What reaches the device from outside in one piece: fabric packets and blocks, memory requests,
dictionary operations and frames, and the facts of the surroundings that a start-up step meets. -/

namespace Sys2Proof

/-- A fabric packet: the fields of the header flit (R339) and the data bytes of its flits.
`good` tells whether the CRC-32C of R341 is right at this device. -/
structure Packet where
  ptype   : Nat          -- [255:248]
  cls     : Nat          -- [247:246]
  channel : Nat          -- [245:244]
  dest    : Half         -- [237:222]
  src     : Half         -- [221:206]
  detour  : Bool         -- [205]
  inter   : Half         -- [204:189]
  dir0    : BitVec 4     -- [188:185]
  dir1    : BitVec 4     -- [184:181]
  context : Nat          -- [179:176]
  tag     : Half         -- [175:160]
  addr    : BitVec 48    -- [143:96]
  arg     : DWord        -- [95:32]
  data    : List Byte
  good    : Bool
  rank    : Nat := 0     -- the held rank whose addresses `addr` names, at a device that holds several (log 40)
  deriving DecidableEq, Repr

/-- A FEC block as a receiver sees it: the block header (R338), whether all three codewords could be corrected
(R337), the corrected symbols of each receive lane, and the packets whose last flit it carries. -/
structure FecBlock where
  seq         : BitVec 14
  ack         : BitVec 14
  nak         : Bool
  stamp       : BitVec 16
  creditClass : Nat
  creditChan  : Nat
  credits     : Nat
  correctable : Bool
  corrected   : List Nat
  packets     : List Packet
  deriving DecidableEq, Repr

/-- Who asks for a memory access (R278, R289): the sub-unit that an uncorrectable result is handled for. -/
inductive Requester where
  | core (c : Nat)            -- the move engine of physical core c
  | update (u : Nat)          -- an update unit
  | control (cc : Nat)        -- a control core
  | host (fn : Nat)           -- the host interface, for BAR2 of function fn
  | inbound (port : Nat)      -- the inbound side of a Scatex port
  deriving DecidableEq, Repr

/-- What a memory request does (R285, R288). -/
inductive MemOp where
  | read
  | write (data : List Byte)
  | partialWrite (mask : DWord) (data : List Byte)
  deriving DecidableEq, Repr

/-- One term of a remote scatter-add (R250): its element's address (in E2M1 that of its byte, with the nibble and the
address of the block's scale byte), the contribution's format, bits and scale byte, its weight if any, and the
generator's word for the element. -/
structure ScatterTerm where
  addr      : Nat
  high      : Bool
  scaleAddr : Nat
  fmt       : Nat
  bits      : Word
  scale     : Byte
  weight    : Option (Nat × Word × Byte)
  u         : Word
  deriving DecidableEq, Repr

/-- One 64-byte request at a controller or a CXL port. `context` is the context whose work it is.
`errors` are the symbols that the memory returns wrongly, as (position, xor) pairs over the 66 stored symbols
of R276 (0 to 63 data, 64 and 65 check). -/
structure MemReq where
  who     : Requester
  context : Nat
  addr    : BitVec 48
  op      : MemOp
  errors  : List (Nat × Byte)
  deriving DecidableEq, Repr

/-- One operation of a Waizer frame (R550). `clean` tells that its reserved bytes are 0. -/
structure WOp where
  op        : Nat
  index     : Nat
  sub       : Nat
  instances : Nat
  value     : DWord
  clean     : Bool
  deriving DecidableEq, Repr

/-- A Waizer request frame (R548, R549) with the source address it came from. `clean` tells that version and kind
are those of a request, that the reserved bytes are 0 and that the frame is as long as its operations. -/
structure WFrame where
  source   : BitVec 48
  seq      : Half
  remote   : Bool
  target   : Half
  span     : Half
  ops      : List WOp
  clean    : Bool
  deriving DecidableEq, Repr

/-- One memory expander as start-up step 10 finds it (R296, R297, R307). -/
structure Expander where
  present  : Bool
  capacity : Nat        -- bytes
  speed    : Nat        -- R307 code
  width    : Nat
  deriving DecidableEq, Repr

/-- What the surroundings answer while one start-up step runs (R582). -/
structure StepFacts where
  refclk      : Bool                       -- REFCLK counted within R634 (step 1)
  failedCores : List Nat                   -- cores that fail their self-test tile (step 8)
  expanders   : List Expander              -- CXL ports 0 and 1 (step 10)
  deriving DecidableEq, Repr

/-- What an answer to a CXL.mem request carries (R298 to R300). -/
structure CxlAnswer where
  addr     : BitVec 48
  poisoned : Bool
  overload : Bool
  deriving DecidableEq, Repr

/-- How a host-memory read ends (R302). -/
inductive HostAnswer where
  | data (bytes : List Byte)
  | poisoned
  | unsupported
  | abort
  deriving DecidableEq, Repr

/-- The state of one port inside a link record (R342, subtype 0x08). -/
structure LinkEnd where
  state     : Nat
  neighbour : Half
  deriving DecidableEq, Repr

/-- One entry of a coordinator's decision (R459). -/
structure DecisionEntry where
  kind     : Nat
  position : Nat
  rank     : Nat
  backup   : Nat
  step     : DWord
  deriving DecidableEq, Repr

/-- Four counts of one watch or of one counter set (R138, R433). -/
structure Counts where
  outputs   : Nat
  zeros     : Nat
  saturated : Nat
  nonFinite : Nat
  deriving DecidableEq, Repr

end Sys2Proof
end

