-- ==== Sys2Proof/Syntax.lean ====
section
/-! DEFINITION. The commands: one constructor for each row of spec/opcode_table.json, in the table's order.

Operand names. c: physical core (R15); w: instruction word (R189); a: array; k: context (R509); j: job slot (R516);
r: held rank (R444); l: logical core (R27); b: virtual barrier and q: virtual semaphore (R308); p: Scatex port (R17) or
packet (R339); h: GDDR7 channel (R16); m: master (R541); fn: PCIe function; index, sub: dictionary names (R535). -/

namespace Sys2Proof

inductive Instr where
  /-- LOOP (R221). Steps a held loop counter and its A registers, then branches back to the target or releases the counter and falls through. -/
  | loop (c : Nat) (w : IWord)
  /-- JUMP (R223). Continues at the target when the condition on the S register holds, otherwise at the next instruction. -/
  | jump (c : Nat) (w : IWord)
  /-- BANKSWAP (R163). Swaps to the inactive bank holding block b, or stops issue until the loader has loaded it. -/
  | bankswap (c : Nat) (w : IWord)
  /-- YIELD (R224). Marks an instruction-block boundary and gives way to another runnable context or fold member. -/
  | yield (c : Nat) (w : IWord)
  /-- HALT (R178). Ends the logical core's program normally with reason 0x00 and gives way. -/
  | halt (c : Nat) (w : IWord)
  /-- MWT (R195). Loads weights into the shadow tile of the named array and records its shape and format. -/
  | mwt (c : Nat) (w : IWord)
  /-- MSTR (R196). Streams M rows through the active tile of the named arrays into marrow rows b to b + M − 1. -/
  | mstr (c : Nat) (w : IWord)
  /-- MOUT (R198). Converts marrow rows to the destination and folds row records, top-k lists and counter sets. -/
  | mout (c : Nat) (w : IWord)
  /-- MSWAP (R202). Orders the exchange of active and shadow tiles of the named arrays. -/
  | mswap (c : Nat) (w : IWord)
  /-- TILE_SWAP_EFFECT (R127). The tile exchange takes effect once all earlier passes have been admitted and all earlier loads are complete. -/
  | tileSwapEffect (c : Nat)
  /-- PASS_ADMITTED (R130). A waiting pass whose credit reaches 8 is admitted, and its terms are added on the fast or wide path. -/
  | passAdmitted (c : Nat)
  /-- ACTIVITY_RISE (R132). λ rises by one when a pass waits and λ has been unchanged for 3 cycles. -/
  | activityRise (c a : Nat)
  /-- ACTIVITY_FALL (R132). λ falls by one after a run of at least 32 idle cycles when it has been unchanged for 3 cycles. -/
  | activityFall (c a : Nat)
  /-- MOUT_ROW_READ (R125). The conversion unit reads a marrow row once its passes are readable, rounds it and writes it to SRAM 6 cycles later. -/
  | moutRowRead (c a : Nat)
  /-- BANK_LOAD_DONE (R163). A loader load of a block into a bank completes, and any pending swap or waiting context proceeds. -/
  | bankLoadDone (c bank : Nat)
  /-- TOKEN_WAIT_END (R160). An access held by a region token or pending bit proceeds in the first cycle that allows it. -/
  | tokenWaitEnd (c : Nat)
  /-- VADD (R209). Delivers a + b elementwise through one conversion. -/
  | vadd (c : Nat) (w : IWord)
  /-- VADD_SUBTRACT (R209). Delivers a − b elementwise through one conversion (op 1). -/
  | vaddSubtract (c : Nat) (w : IWord)
  /-- VFMA (R209). Delivers the fused a × b + c through one conversion. -/
  | vfma (c : Nat) (w : IWord)
  /-- VFMA_MULTIPLY (R209). Delivers a × b with no addend through one conversion (op 1). -/
  | vfmaMultiply (c : Nat) (w : IWord)
  /-- VFMA_SUBTRACT (R209). Delivers a × b − c through one conversion (op 2). -/
  | vfmaSubtract (c : Nat) (w : IWord)
  /-- VDIV (R209). Delivers a / b correctly rounded. -/
  | vdiv (c : Nat) (w : IWord)
  /-- VSQRT (R209). Delivers √a correctly rounded. -/
  | vsqrt (c : Nat) (w : IWord)
  /-- VCVT (R211). Converts a to the destination format under the named rounding and saturation. -/
  | vcvt (c : Nat) (w : IWord)
  /-- VTAB (R212). Evaluates a ROM or user table f(x) under R81. -/
  | vtab (c : Nat) (w : IWord)
  /-- VTABD (R212). Evaluates the derivative table f′(x). -/
  | vtabd (c : Nat) (w : IWord)
  /-- VTABD_PRODUCT (R212). Delivers f′(x) × g as one exact product and one conversion (op 1). -/
  | vtabdProduct (c : Nat) (w : IWord)
  /-- VRED (R213). Accumulates a whole tensor into a vector marrow register and, on finish, converts it once into dst. -/
  | vred (c : Nat) (w : IWord)
  /-- VRED_ROWS (R215). Reduces each row of a in turn and writes one result per row. -/
  | vredRows (c : Nat) (w : IWord)
  /-- VTOPK (R217). Writes the k greatest elements of each row, with their positions, as INT32. -/
  | vtopk (c : Nat) (w : IWord)
  /-- VRNG_INT (R218). Delivers the generator word as INT32 (op 0). -/
  | vrngInt (c : Nat) (w : IWord)
  /-- VRNG_UNIFORM (R218). Delivers u × 2^−32, uniform on [0, 1) (op 1). -/
  | vrngUniform (c : Nat) (w : IWord)
  /-- VRNG_THRESHOLD (R218). Delivers 1 when u is below the threshold a, otherwise 0 (op 2). -/
  | vrngThreshold (c : Nat) (w : IWord)
  /-- VSCALE (R219). Delivers a × 2^e through one conversion. -/
  | vscale (c : Nat) (w : IWord)
  /-- DCOPY (R234). Copies src to dst elementwise between any tiers, converting where the formats differ. -/
  | dcopy (c : Nat) (w : IWord)
  /-- DXPOSE (R235). Writes the transpose of src into a tier-0 dst. -/
  | dxpose (c : Nat) (w : IWord)
  /-- DGATH (R239). Gathers table rows through an index tensor (op 0). -/
  | dgath (c : Nat) (w : IWord)
  /-- DGATH_POOLED_SUM (R240). Writes the exact pooled sum of each bag, converted once (op 1). -/
  | dgathPooledSum (c : Nat) (w : IWord)
  /-- DGATH_POOLED_MEAN (R240). Writes each bag's exact sum divided by its non-padding count, converted once (op 2). -/
  | dgathPooledMean (c : Nat) (w : IWord)
  /-- DSCAT (R241). Scatters src rows into a table through an index tensor; the highest entry wins (op 0). -/
  | dscat (c : Nat) (w : IWord)
  /-- DSCAT_ADD (R242). Scatter-adds exactly into a table in staging rounds with one conversion per element (op 1). -/
  | dscatAdd (c : Nat) (w : IWord)
  /-- DPREF (R252). Copies src into SRAM and opens a prefetch entry with generation and tag 0. -/
  | dpref (c : Nat) (w : IWord)
  /-- PREFETCH_REFETCH_DONE (R254). A refetched copy has landed, and the read waiting on it proceeds. -/
  | prefetchRefetchDone (c : Nat)
  /-- DREM_BROADCAST (R247). Broadcasts local data to every member of a group (op 0). -/
  | dremBroadcast (c : Nat) (w : IWord)
  /-- DREM_READ (R247). Reads from one remote device into local memory (op 1). -/
  | dremRead (c : Nat) (w : IWord)
  /-- DREM_SHARDED_GATHER (R248). Gathers rows from a sharded table, pooled exactly at the requester (op 2). -/
  | dremShardedGather (c : Nat) (w : IWord)
  /-- DREM_FABRIC_POOLED_GATHER (R249). Gathers from a sharded table with per-member partials added along the fixed tree (op 3). -/
  | dremFabricPooledGather (c : Nat) (w : IWord)
  /-- DREM_SHARDED_SCATTER_ADD (R250). Scatter-adds local rows into a sharded table, applied atomically per element (op 4). -/
  | dremShardedScatterAdd (c : Nat) (w : IWord)
  /-- DREM_PARAMETER_GATHER (R251). Reads version step − δ of a parameter shard's working copy from its owner (op 5). -/
  | dremParameterGather (c : Nat) (w : IWord)
  /-- SARM (R313). Arms a barrier with scope, depth and count, or disarms it with count 0. -/
  | sarm (c : Nat) (w : IWord)
  /-- SARR (R315). Arrives at a barrier with the core's sense and waits for the release (op 0). -/
  | sarr (c : Nat) (w : IWord)
  /-- SARR_ARRIVE (R315). Arrives at a barrier without waiting (op 1). -/
  | sarrArrive (c : Nat) (w : IWord)
  /-- SARR_WAIT (R315). Waits for the release of the core's pending phase (op 2). -/
  | sarrWait (c : Nat) (w : IWord)
  /-- SSIG (R323). Adds k to a local semaphore, or to that semaphore at every device of a group. -/
  | ssig (c : Nat) (w : IWord)
  /-- SWAIT (R324). Queues at the home until the semaphore holds at least k, then takes k. -/
  | swait (c : Nat) (w : IWord)
  /-- SDEC (R325). Subtracts k from a semaphore without waiting, or halts with reason 0x50. -/
  | sdec (c : Nat) (w : IWord)
  /-- BARRIER_ARRIVAL (R316). The home counts an arrival and, when every participant has arrived, releases the phase and flips it. -/
  | barrierArrival (k r l b : Nat)
  /-- BARRIER_RELEASE (R315). A release reaches a waiting core, which resumes issue. -/
  | barrierRelease (k r l : Nat)
  /-- SEMAPHORE_REQUEST (R327). A home applies one semaphore request per entry per cycle, ordered by router input. -/
  | semaphoreRequest (k r q : Nat)
  /-- SEMAPHORE_GRANT (R324). A home's grant reaches a core waiting at SWAIT, which resumes issue. -/
  | semaphoreGrant (k r l : Nat)
  /-- READY_TAKE (R414). The reduction side's take of the ready count is served, and a ready notice goes to the coordinator. -/
  | readyTake (k r g : Nat)
  /-- MEMORY_REQUEST (R285). A request arrives at a controller or CXL port and takes a slot, or is refused and recorded in the refusal map. -/
  | memoryRequest (q : MemReq)
  /-- SLOT_FREE_NOTICE (R286). A bank slot frees, and free notices release the requests held by every marked requester. -/
  | slotFreeNotice (unit bank : Nat)
  /-- REFRESH_WINDOW (R293). A bank's window begins at its tick: a per-bank refresh, then scrub or write-back. -/
  | refreshWindow (h bank : Nat) (errors : List (Nat × Nat × Byte))
  /-- REFRESH_RATE_CHANGE (R294). At a tick that is a multiple of 96, a channel moves between normal and double refresh rate according to device temperature. -/
  | refreshRateChange (h : Nat) (temperature : Int)
  /-- CXL_LINK_DOWN (R299). A CXL link goes down, its requests in flight complete as uncorrectable, and the port becomes unavailable. -/
  | cxlLinkDown (n : Nat)
  /-- CXL_EXPANDER_EVENT (R300). Firmware reads an expander's error event over CXL.io and enters it into the error records. -/
  | cxlExpanderEvent (n : Nat) (first second : DWord)
  /-- HOST_COMPLETION_TIMEOUT (R302). A host-memory read gets no completion within the timeout and is handled as uncorrectable. -/
  | hostCompletionTimeout (tag : Nat)
  /-- BAR2_ACCESS (R270). A host access at BAR2 reaches the context's GDDR7 partition, or completes with Unsupported Request. -/
  | bar2Access (fn : Nat) (offset : Nat) (length : Nat) (data : Option (List Byte))
  /-- SELF_REFRESH_ENTRY (R571). After 25,000,000 idle ticks, the memory group enters self-refresh at a multiple of 96. -/
  | selfRefreshEntry
  /-- MEMORY_GROUP_WAKE (R571). A woken memory group becomes active at the first qualifying multiple of 96, and waiting requests proceed. -/
  | memoryGroupWake
  /-- FLOOR_TICK (R572). At the floor tick, the floor bit takes effect, holding the memory group active or releasing it. -/
  | floorTick
  /-- FEC_BLOCK_RECEIVED (R337). A receiver decodes a block, accepts it in sequence or sends NAK, and takes its credits and acknowledgement. -/
  | fecBlockReceived (p : Nat) (b : FecBlock)
  /-- NAK_REPEAT (R349). Every 256 block times without the expected block, the receiver sends NAK again. -/
  | nakRepeat (p : Nat)
  /-- BLOCK_RELEASE (R354). A received block's flits are released to the device at global cycle S + L. -/
  | blockRelease (p : Nat)
  /-- LANE_REQUEST (R357). The sender starts the training pattern on the named sprout lane. -/
  | laneRequest (p weak sprout : Nat)
  /-- EQUALISER_ADAPTED (R357). The receiver has adapted on the sprout and sends lane ready. -/
  | equaliserAdapted (p : Nat)
  /-- LANE_READY (R357). The sender chooses switch sequence N and sends lane switch with the new mask. -/
  | laneReady (p sprout : Nat)
  /-- LANE_SWITCH (R357). The receiver records the new mask to apply from block N. -/
  | laneSwitch (p : Nat) (n : BitVec 14) (mask : BitVec 13)
  /-- LANE_SWITCH_APPLY (R356). From block N, both sides stripe and decode with the new mask, and the weak lane is retired. -/
  | laneSwitchApply (p : Nat)
  /-- MASK_CHANGE (R358). The sender applies the 11-lane mask from the named sequence, retransmission included. -/
  | maskChange (p : Nat) (n : BitVec 14) (mask : BitVec 13)
  /-- LANE_FAILURE (R358). A lane fails outright; the receiver sends NAK with a mask change and cancels any pending switch. -/
  | laneFailure (p lane : Nat)
  /-- LANE_WINDOW_END (R355). At the end of a window of 2^20 blocks, lane error counts are judged and a substitution may be requested. -/
  | laneWindowEnd (p : Nat)
  /-- TRAINING_BURST (R360). A port without a link sends the training pattern for 1,000 ticks in every 25,000,000. -/
  | trainingBurst (p : Nat)
  /-- LINK_TRAINING (R360). A receiver hears the pattern, and both sides train all 13 lanes of each direction. -/
  | linkTraining (p : Nat)
  /-- LINK_IN_SERVICE (R353). Blocks flow; each direction measures λ, sets its release latency and sends identity. -/
  | linkInService (p latency : Nat)
  /-- IDENTITY (R361). A received identity marks the port miscabled or records the neighbour and its coordinate. -/
  | identity (p : Nat) (serial : DWord) (stepping : Half) (port : Nat) (held anchored : Bool) (coord anchor : Half) (shape : Word)
  /-- REFERENCE_CANDIDATE (R363). A better reference candidate is adopted and flooded on. -/
  | referenceCandidate (p : Nat) (serial : DWord) (anchored : Bool) (coord : Half)
  /-- LINK_RECORD (R365). A newer link record updates the torus map, may change routes, and is flooded on. -/
  | linkRecord (p : Nat) (coord : Half) (version : Word) (ends : List LinkEnd)
  /-- DISCOVERY_END (R366). After 25,000 ticks without a record change, discovery ends and routes and counter synchronisation start. -/
  | discoveryEnd
  /-- DEPARTURE_ORDER (R379). An ordered departure floods a leave notice and keeps forwarding transit traffic. -/
  | departureOrder (m : Nat)
  /-- LEAVE_NOTICE (R379). Devices change their routes around the departing device and flood the notice. -/
  | leaveNotice (p : Nat) (coord : Half) (tick : DWord)
  /-- DEPARTURE_PORTS_IDLE (R379). 2,500,000 ticks after the leave notice, the departing device's ports go idle. -/
  | departurePortsIdle
  /-- PACKAGE_SLICE (R486). A slice of a newer test package is received, staged and flooded; a complete package is checked under R484. -/
  | packageSlice (p length offset : Nat) (bytes : List Byte)
  /-- TIMESTAMP_EXCHANGE (R381). Every 65,536 ticks, a device sends a timestamp request to its time parent. -/
  | timestampExchange
  /-- TIMESTAMP_REQUEST (R381). The parent stamps t2 and t3 and sends the reply. -/
  | timestampRequest (p : Nat) (t1 : DWord)
  /-- TIMESTAMP_REPLY (R382). The device computes θ and, at its first exchange, sets its counter to the parent's count. -/
  | timestampReply (p : Nat) (t1 t2 t3 : DWord)
  /-- TICK_EDGE_CORRECTION (R382). At most once every 4,096 ticks, the tick edge moves by 1/64 tick toward θ = 0. -/
  | tickEdgeCorrection
  /-- PACKET_FORWARD (R370). A router forwards a packet toward its current target by the route in its header, under output arbitration. -/
  | packetForward (q : Nat) (p : Packet)
  /-- PACKET_UNANSWERED (R373). A request or reduction packet unanswered for 250,000 ticks is recorded, its count is cleared and its job faults. -/
  | packetUnanswered (dest tag : Half)
  /-- ROUTE_CHANGE_RESUME (R371). When a destination's unanswered count reaches 0, sending resumes on the new route. -/
  | routeChangeResume (dest : Half)
  /-- READ (R303). A remote read of 1 to 31 granules is checked against the partition and served (type 0x01). -/
  | read (p : Packet)
  /-- WRITE (R303). A remote whole-granule write is checked and applied, advancing prefetch generations (type 0x02). -/
  | write (p : Packet)
  /-- PARTIAL_WRITE (R288). A remote partial write is applied by read-modify-write (type 0x03). -/
  | partialWrite (p : Packet)
  /-- SCATTER_ADD (R250). A remote scatter-add is applied atomically per element (type 0x04). -/
  | scatterAdd (p : Packet) (fmt : Nat) (terms : List ScatterTerm)
  /-- BROADCAST_DELIVERY (R50). Broadcast data are delivered to one member (type 0x05). -/
  | broadcastDelivery (p : Packet)
  /-- PARAMETER_GATHER (R410). The owner serves, holds or refuses a request for a shard version (type 0x06). -/
  | parameterGather (p : Packet)
  /-- PREFETCH_WATCH (R253). A holding device opens a watch on a tier-3 prefetch source (type 0x07). -/
  | prefetchWatch (p : Packet)
  /-- DICTIONARY_REQUEST (R555). A forwarded Waizer frame is served as master 0 or 1 at the target device (type 0x08). -/
  | dictionaryRequest (p : Packet) (m : Nat) (f : WFrame)
  /-- READ_DATA (R340). Remote read data arrive and are written to their destination (type 0x10). -/
  | readData (p : Packet)
  /-- COMPLETION (R246). A completion acknowledges remote writes, so the unanswered count falls and pending arrivals or signals may be sent (type 0x11). -/
  | completion (p : Packet)
  /-- DICTIONARY_ANSWER (R555). A remote dictionary answer is relayed to the master, or combined into an aggregate (type 0x12). -/
  | dictionaryAnswer (p : Packet)
  /-- ERROR_ANSWER (R303). A remote error answer halts the requesting core under R278 (type 0x13). -/
  | errorAnswer (p : Packet)
  /-- GENERATION_NOTICE (R253). A write on a watched tier-3 source advances the prefetch entry's generation (type 0x14). -/
  | generationNotice (p : Packet)
  /-- BARRIER_DEVICE_ARRIVAL (R319). The root counts a device arrival and, when the sum reaches the count, sends the release to every member device. -/
  | barrierDeviceArrival (p : Packet)
  /-- BARRIER_RELEASE_MESSAGE (R319). A release from the root reaches a member device's local node, which releases its cores. -/
  | barrierReleaseMessage (p : Packet)
  /-- REMOTE_SEMAPHORE_SIGNAL (R323). A remote SSIG adds k to the semaphore of the same identifier at this device. -/
  | remoteSemaphoreSignal (p : Packet)
  /-- NODE_OPERAND (R394). A first-tree operand arrives at its site and is added, or passed on, toward the root (type 0x20). -/
  | nodeOperand (p : Packet) (n : Nat)
  /-- NODE_OPERAND_SECOND_TREE (R412). A second-tree operand of a sampled shard arrives at its site and is added (type 0x27). -/
  | nodeOperandSecondTree (p : Packet) (n : Nat)
  /-- ROOT_OPERAND (R394). A root operand reaches the owner's update unit, which forms the root sum (type 0x21). -/
  | rootOperand (p : Packet) (second : Bool)
  /-- UPDATE_SLOT_FREED (R409). An update held because its copy slot held an unretired version proceeds once that version retires. -/
  | updateSlotFreed (k n : Nat)
  /-- READY_NOTICE (R415). The coordinator records a member's or backup's readiness and decides when every position has a ready member (type 0x22). -/
  | readyNotice (p : Packet)
  /-- COORDINATOR_DEADLINE (R415). At the deadline, the coordinator decides with substitutions and applies the late policy. -/
  | coordinatorDeadline (k g : Nat)
  /-- DECISION (R416). A site receives the step's decision and may evaluate its nodes (type 0x23). -/
  | decision (p : Packet)
  /-- RELEASE (R408). A consumer rank's release of a version arrives at the owner, which may retire the version (type 0x24). -/
  | release (p : Packet)
  /-- VERSION_PUSH (R411). A pushed version slot is written at a push member, and its semaphore is signalled (type 0x25). -/
  | versionPush (p : Packet)
  /-- COMPLETION_REPORT (R406). The lead collects an owner's report and, once all reports, checks and sink room are in, chooses a commit tick (type 0x26). -/
  | completionReport (p : Packet)
  /-- COMMIT_NOTICE (R406). An owner records the commit tick chosen by the lead (type 0x26). -/
  | commitNotice (p : Packet)
  /-- COMMIT_TICK (R406). At the commit tick, every shard moves to version v + 1, waiting gathers are served, pushes begin and checkpoints are written. -/
  | commitTick (k : Nat)
  /-- RATIO_PARTIAL (R403). A layer's a and b partials arrive, and the layer's update ratio is formed and written (type 0x2B). -/
  | ratioPartial (p : Packet)
  /-- CHECKPOINT_WRITE_DONE (R469). A checkpoint part write finishes, sets the checkpoint state, and is recorded on failure. -/
  | checkpointWriteDone (k : Nat) (ok : Bool)
  /-- RANK_MAP (R38). A device receives the rank map and checks every coordinate against its torus map (job control 0x01). -/
  | rankMap (k j : Nat) (entries : List Half)
  /-- ACCEPTANCE_NOTICE (R452). The lead records a device's acceptance (job control 0x02). -/
  | acceptanceNotice (k j : Nat) (src : Half) (sequence : DWord)
  /-- LAUNCH_CONFIRMATION (R452). A device stores the launch confirmation for T_L (job control 0x03). -/
  | launchConfirmation (k j : Nat) (tick : DWord)
  /-- CANCEL (R452). A device cancels the job's launch (job control 0x04). -/
  | cancel (k j cause : Nat)
  /-- LEDGER_RECORD (R456). The lead stores a record to write in its step's commit (job control 0x05). -/
  | ledgerRecord (k : Nat) (src : Half) (bytes : List Byte)
  /-- WATCH_PARTIALS (R433). The lead adds a device's watch counts and, once all are in, computes the scale updates (job control 0x06). -/
  | watchPartials (k : Nat) (src : Half) (step : DWord) (counts : List Counts)
  /-- TAP_SUMS (R472). The lead adds a device's tap sums and writes tap records (job control 0x07). -/
  | tapSums (k : Nat) (src : Half) (step : DWord) (sums : List (DWord × DWord))
  /-- END_NOTICE (R524). The lead records that a device's ranks have ended (job control 0x08). -/
  | endNotice (k : Nat) (src : Half) (last : DWord)
  /-- DONE_NOTICE (R524). A device writes its journal entry to done and moves its slot to done (job control 0x09). -/
  | doneNotice (k : Nat) (tick last digest : DWord)
  /-- TEARDOWN (R526). A device tears the job down and informs the lead, or the lead relays the teardown to every device (job control 0x0A). -/
  | teardown (k cause : Nat) (coord : Half)
  /-- REPLICA_DIGEST (R496). The job lead compares replica step digests at a comparison step (job control 0x0B). -/
  | replicaDigest (k replica : Nat) (step digest : DWord)
  /-- AGREEMENT (R496). A replica lead commits and writes a shield checkpoint, or enters disagreement handling (job control 0x0C). -/
  | agreement (k : Nat) (step : DWord) (agree : Bool)
  /-- STATUS_QUERY (R583). The lead answers with the state of the job's slot (job control 0x0D). -/
  | statusQuery (k : Nat) (src : Half) (sequence : DWord)
  /-- STATUS_ANSWER (R531). A restarting device restores its running slot to done or to accepted with rerun (job control 0x0E). -/
  | statusAnswer (k j state : Nat) (tick last digest : DWord)
  /-- REPLAY_ORDER (R504). A standby places all ranks, restores the shield checkpoint and replays steps u + 1 to w (job control 0x0F). -/
  | replayOrder (k : Nat) (u v : DWord) (replica : Nat)
  /-- REPLAY_DIGESTS (R499). The job lead judges each replica rank against the replay and expels the ranks that differ (job control 0x10). -/
  | replayDigests (k : Nat) (src : Half) (step : DWord) (ranks : List (Nat × DWord × DWord))
  /-- ACCEPTANCE_BEGIN (R522). From T_L − 500,000, in context order, the job manager checks, places, sequences, journals and accepts a slot. -/
  | acceptanceBegin (k j : Nat)
  /-- LAUNCH_DECISION (R452). At T_L − 1,000, the lead sends a launch confirmation or a cancel. -/
  | launchDecision (k j : Nat)
  /-- FAST_CLOCK_START (R452). At T_L − 400, a confirmed device starts its pods' clocks; an unconfirmed slot faults. -/
  | fastClockStart (k j : Nat)
  /-- LAUNCH (R452). At T_L cycle 0, every logical core issues its first instruction and the slot becomes running. -/
  | launch (k j : Nat)
  /-- JOB_RESUME (R529). A pre-empted job resumes by re-placement when cores become free. -/
  | jobResume (k : Nat)
  /-- CONTROL_CORE_RETIRED (R21). A retired control core's work moves to the sprout, or to its pair partner during a hand-over. -/
  | controlCoreRetired (n : Nat)
  /-- RADISH_TILE_START (R478). The test manager starts a tile pair on an eligible test core and a partner. -/
  | radishTileStart (c tile : Nat)
  /-- RADISH_TILE_END (R479). A tile pair finishes or exceeds its budget, and the pair is judged against E. -/
  | radishTileEnd (a b : Option DWord)
  /-- CORE_OVERDUE (R481). A core goes 600 s without a visit and is recorded and counted as overdue. -/
  | coreOverdue (c : Nat)
  /-- POD_CLOCK_START (R570). 400 ticks after a start request, a pod's cores receive their clock. -/
  | podClockStart (p : Nat)
  /-- POD_CLOCK_STOP (R570). A pod whose cores have been idle for 400 ticks stops its clock. -/
  | podClockStop (p : Nat)
  /-- SAG (R574). A sag is detected; the always-on branch is isolated, clocks and regulators stop, and the save begins. -/
  | sag (millivolts : Nat)
  /-- SAVE_COMPLETE (R578). The save image has been written to both flash devices. -/
  | saveComplete
  /-- SUPPLY_QUALIFIED (R580). After a save, the input has been at or above 44 V for 250,000 ticks, and start-up begins at step 1. -/
  | supplyQualified
  /-- POWER_ON_RESET (R588). The always-on branch rises from below 20 V, and start-up begins at step 1 without a save. -/
  | powerOnReset
  /-- START_UP (R582). Start-up runs its numbered steps in order with their records, limits and methods. -/
  | startUp (f : StepFacts)
  /-- STARTUP_STEP_TIMEOUT (R585). A step that exceeds its limit fails, the attempt ends and is recorded, and the failed-attempt count rises. -/
  | startupStepTimeout (unit : Word)
  /-- STARTUP_RETRY (R585). 250,000 ticks after a failed attempt, start-up begins again with alternative methods. -/
  | startupRetry
  /-- STATUS_QUERY_TIMEOUT (R583). At step 13, a lead silent for 12,500,000 ticks counts as not reporting done. -/
  | statusQueryTimeout (k j : Nat)
  /-- RESET_N_ASSERT (R588). A qualified RESET_N assertion saves, stops the clocks and holds the device. -/
  | resetNAssert
  /-- RESET_N_DEASSERT (R588). A qualified RESET_N deassertion lets start-up begin. -/
  | resetNDeassert
  /-- RESET_COMMAND (R588). Command 1 of the start-up object performs a device reset without a hold. -/
  | resetCommand (m : Nat)
  /-- LEAVE_MANAGEMENT_ONLY (R587). Command 2 of the start-up object clears the count and starts again from step 1 with normal methods. -/
  | leaveManagementOnly (m : Nat)
  /-- WATCHDOG (R588). The control cores miss their heartbeat for 2,500,000 ticks, and a device reset follows. -/
  | watchdog
  /-- PERST_N_ASSERT (R588). A PCIe fundamental reset resets the host interface only. -/
  | perstNAssert
  /-- PERST_N_DEASSERT (R631). Link training begins, and configuration requests complete after their readiness limits. -/
  | perstNDeassert
  /-- FUNCTION_LEVEL_RESET (R588). An FLR tears down context k's running job and restores its slots under R531. -/
  | functionLevelReset (k : Nat)
  /-- POWER_STATE_CHANGE (R632). A function enters or leaves D3hot, holding or releasing its BARs, MSI-X and host requests. -/
  | powerStateChange (fn : Nat) (d3 : Bool)
  /-- THROTTLE_N_ASSERT (R639). A qualified THROTTLE_N assertion starts duty-cycle gating at the next tick edge. -/
  | throttleNAssert
  /-- THROTTLE_N_DEASSERT (R639). A qualified THROTTLE_N deassertion ends throttle at the next tick edge. -/
  | throttleNDeassert
  /-- THROTTLE_STUCK (R640). THROTTLE_N asserted for 10 s sets the stuck alarm and is recorded. -/
  | throttleStuck
  /-- THERMAL_LEVEL_1_ENTRY (R645). A pod sensor or GDDR7 device reaches its level-1 threshold, and duty throttle begins. -/
  | thermalLevel1Entry (pods devices : List Int)
  /-- THERMAL_LEVEL_2_ENTRY (R645). A pod sensor reaches 105 °C, and every pod is gated. -/
  | thermalLevel2Entry (pods : List Int) (inlet : Int)
  /-- THERMAL_LEVEL_EXIT (R645). After 25,000 ticks below the leave thresholds, the thermal level falls. -/
  | thermalLevelExit (pods devices : List Int)
  /-- REFCLK_LOSS (R635). REFCLK shows no edge for 320 ns, and the always-on clock changes to the crystal. -/
  | refclkLoss
  /-- EPOCH_EDGE (R383). An EPOCH edge is checked against the count, aligns parentless devices, or advances holdover entry or exit. -/
  | epochEdge (phase : Int)
  /-- EPOCH_ABSENT (R636). 50,000,000 ticks without an EPOCH edge put the device into holdover. -/
  | epochAbsent
  /-- WAIZER_FRAME (R549). A T1S request frame is received, checked, answered again if it is a repeat, forwarded when remote, or queued to its window. -/
  | waizerFrame (f : WFrame)
  /-- REMOTE_ANSWER_TIMEOUT (R555). A forwarded frame unanswered within 1,000 ticks gives 0x07 or counts the target as not answering. -/
  | remoteAnswerTimeout (tag : Half)
  /-- SERIALISER_WINDOW_END (R557). At each window end, arrivals are applied in master order and contradictions are recorded. -/
  | serialiserWindowEnd
  /-- READ_32 (R550). Waizer op 0x01 reads one sub-entry. -/
  | read32 (m index sub : Nat)
  /-- READ_64 (R550). Waizer op 0x02 reads a 64-bit value whole. -/
  | read64 (m index sub : Nat)
  /-- WRITE_32 (R550). Waizer op 0x03 writes one sub-entry. -/
  | write32 (m index sub : Nat) (v : Word)
  /-- WRITE_64 (R550). Waizer op 0x04 writes a 64-bit value whole. -/
  | write64 (m index sub : Nat) (v : DWord)
  /-- AGGREGATE_READ_32 (R556). Waizer op 0x05 combines a 32-bit sub-entry over instances and devices. -/
  | aggregateRead32 (m index sub instances : Nat)
  /-- AGGREGATE_READ_64 (R556). Waizer op 0x06 combines a 64-bit value over instances and devices. -/
  | aggregateRead64 (m index sub instances : Nat)
  /-- DESCRIBE (R540). Waizer op 0x07 returns the description word of the target. -/
  | describe (m index sub : Nat)
  /-- BAR0_READ (R546). A BAR0 read of one or two sub-entries completes with the value or 0, and any refusal is recorded. -/
  | bar0Read (fn offset size : Nat)
  /-- BAR0_WRITE (R545). A BAR0 write of one or two sub-entries is applied in its window, or refused and recorded. -/
  | bar0Write (fn offset size : Nat) (v : DWord)
  /-- REGISTER_WRITE (R544). A write to a sub-entry with no row of its own is checked, held for wider values, and applied. -/
  | registerWrite (m index sub : Nat) (v : Word)
  /-- AGGREGATE_START (R556). A write of 1 to 0x0002.05 starts the PF's aggregate read. -/
  | aggregateStart (m : Nat)
  /-- PARTITION_WRITE (R511). A context partition base or length write is checked and takes effect at its highest sub-index. -/
  | partitionWrite (m k sub : Nat) (v : Word)
  /-- JOB_FIELD_WRITE (R517). A write to a slot's job fields is allowed only in empty or written, and moves empty to written. -/
  | jobFieldWrite (m k j sub : Nat) (v : Word)
  /-- ARM (R451). Slot command 1 checks the launch tick and role and moves the slot to armed, or re-arms a rerun. -/
  | arm (m k j : Nat)
  /-- WITHDRAW (R518). Slot command 2 returns an armed slot to written, or faults an accepted slot. -/
  | withdraw (m k j : Nat)
  /-- ABORT (R518). Slot command 3 faults a running job. -/
  | abort (m k j : Nat)
  /-- CLEAR (R518). Slot command 4 empties a written, done or faulted slot. -/
  | clear (m k j : Nat)
  /-- INSTRUCTION_LOAD_START (R187). A write of 1 starts a load into the target bank, or is refused when the bank is executing. -/
  | instructionLoadStart (m c : Nat)
  /-- HALT_RECORD_CLEAR (R181). A write of 1 to the valid bit clears the whole halt record. -/
  | haltRecordClear (m c slot : Nat)
  /-- CORE_COUNTER_CLEAR (R188). A write of 1 to sub-index 0x2F clears the core's stall and event counters. -/
  | coreCounterClear (m c : Nat)
  /-- CONTROLLER_COUNTER_CLEAR (R306). A write of 1 clears a memory controller's traffic counters. -/
  | controllerCounterClear (m n : Nat)
  /-- CXL_COUNTER_CLEAR (R307). A write of 1 clears a CXL port's traffic counters. -/
  | cxlCounterClear (m n : Nat)
  /-- PORT_COUNTER_CLEAR (R385). A write of 1 clears a Scatex port's traffic counters. -/
  | portCounterClear (m p : Nat)
  /-- LANE_ACTION (R355). The lane action object requests substitution of the named receive lane. -/
  | laneAction (m p lane : Nat)
  /-- LANE_RETIRE (R385). Bit 7 of the lane action object retires the lane without substitution. -/
  | laneRetire (m p lane : Nat)
  /-- FLOOR_WRITE (R572). A floor write is checked for its tick and scheduled to take effect at the floor tick. -/
  | floorWrite (m : Nat) (v : Word)
  /-- PACKAGE_BEGIN (R485). Package control 1 opens staging for one master and sets the offset to 0. -/
  | packageBegin (m : Nat)
  /-- PACKAGE_DATA (R485). Appends 4 bytes to the staged test package. -/
  | packageData (m : Nat) (v : Word)
  /-- PACKAGE_ACCEPT (R484). Package control 2 checks the package in order, keeps it in NOR, and forwards it when enabled. -/
  | packageAccept (m : Nat)
  /-- PACKAGE_ABORT (R485). Package control 3 discards the staging. -/
  | packageAbort (m : Nat)
  /-- CALIBRATION_UNLOCK (R562). Writing the unlock value unlocks the calibration set for the writing master. -/
  | calibrationUnlock (m : Nat) (v : Word)
  /-- CALIBRATION_COMMIT (R563). Writes the staged values over the set in both flash devices, then locks the set. -/
  | calibrationCommit (m : Nat)
  /-- CALIBRATION_ABORT (R563). Discards the staging and locks the set. -/
  | calibrationAbort (m : Nat)
  /-- CALIBRATION_LOCK_TIMEOUT (R563). After 25,000,000 ticks without a calibration write, the set locks and the staging is discarded. -/
  | calibrationLockTimeout
  /-- FIRMWARE_BEGIN (R599). Firmware command 1 opens image staging for the writing master. -/
  | firmwareBegin (m : Nat)
  /-- FIRMWARE_DATA (R599). Appends 4 bytes of the image; at the 512th byte the header is checked. -/
  | firmwareData (m : Nat) (v : Word)
  /-- FIRMWARE_CHECK (R600). Firmware command 2 verifies the body hash from NOR and sets the state to staged. -/
  | firmwareCheck (m : Nat)
  /-- FIRMWARE_ABORT (R600). Firmware command 3 closes staging and empties the inactive slot. -/
  | firmwareAbort (m : Nat)
  /-- ACTIVATE (R603). Firmware command 4 begins the pair-by-pair hand-over, or switches the boot slot at once in the management-only state. -/
  | activate (m : Nat)
  /-- HANDOVER_SWITCH (R605). At an agreed window end, an incoming control core that has caught up takes over a pair number. -/
  | handoverSwitch
  /-- MANAGEMENT_SWITCH (R606). The management controller changes program banks at a tick edge, the boot slot changes and the trial begins. -/
  | managementSwitch
  /-- HANDOVER_TIMEOUT (R607). An incoming core not ready within 2,500,000 ticks fails the hand-over, which is reversed. -/
  | handoverTimeout
  /-- CONFIRM (R612). Firmware command 5 erases old stores, raises the security minimum, revokes keys and goes idle. -/
  | confirm (m : Nat)
  /-- FALL_BACK (R613). Firmware command 6 hands the work back to the previous image. -/
  | fallBack (m : Nat)
  /-- TRIAL_LIMIT_EXPIRY (R613). An unconfirmed trial reaching its limit starts the fall-back by itself. -/
  | trialLimitExpiry
  /-- ATTESTATION_COMMAND (R619). A write of 1 produces a signed attestation report over the nonce. -/
  | attestationCommand (m : Nat) (v : Word)
  /-- UNDEFINED_OPCODE (R190). Issue of an instruction word whose opcode is not defined, such as zero-filled memory, halts the core with reason 0x02. -/
  | undefinedOpcode (c : Nat) (w : IWord)
  /-- ARM_ANSWER (R314). The home records or checks a SARM's parameters, and its answer with the current phase sense reaches the core, which stores it as its sense and lets a waiting SARR proceed. -/
  | armAnswer (k r l b : Nat)
  /-- CXL_READ_RESPONSE (R299). An expander's response to a CXL.mem request returns, possibly poisoned or carrying a DevLoad overload report, and completes the request. -/
  | cxlReadResponse (n : Nat) (a : CxlAnswer)
  /-- CXL_LINK_TRAINED (R299). A CXL port whose link went down trains again and leaves the unavailable state. -/
  | cxlLinkTrained (n speed width : Nat)
  /-- HOST_READ_COMPLETION (R302). A PCIe completion for a host-memory read arrives, with data, or poisoned, or as Unsupported Request or Completer Abort. -/
  | hostReadCompletion (tag : Nat) (a : HostAnswer)
  /-- PCIE_LINK_DOWN (R648). The PCIe link goes down, is counted, and enters error record 0x0305. -/
  | pcieLinkDown
  /-- HOLD_UP_BANK_EMPTY (R574). After a save, the hold-up bank falls to 20 V before supply returns, and the always-on domain stops. -/
  | holdUpBankEmpty
  /-- CALIBRATION_COMMIT_DONE (R563). Writing the staged calibration values to both flash devices completes, and the set leaves the committing state and locks. -/
  | calibrationCommitDone
  /-- ATTESTATION_REPORT_READY (R619). The signed attestation report is complete, and the state moves from busy to done. -/
  | attestationReportReady (m : Nat)
  /-- INLET_ABOVE_45_C (R647). The cold-plate inlet sensor rises above 45 °C, and the thermal alarm bit is set. -/
  | inletAbove45C (inlet : Int)
  deriving DecidableEq, Repr

end Sys2Proof
end

