-- ==== Sys2Proof/Decode.lean ====
section
/-! DEFINITION. The commands that a word of the opcode table spells. -/

namespace Sys2Proof

/-- The command that `nbits` bits spell. spec/opcode_table.json gives no bits for any row (every row's list of fields is
empty): the rows are operations and events, and none has a table encoding. No word spells one (log 13). -/
def decodeTableWord (_nbits _w : Nat) : Option Instr := none

end Sys2Proof
end

