-- ==== Sys2Proof/Config.lean ====
section
/-! DEFINITION. The free values: what the spec leaves open, as constants without a body, so that no proof can see one. -/

namespace Sys2Proof.Config

/-- DESIGN CHOICE (log 9). Byte `offset` of ROM table `table`, forward or derivative, in the layout of R80: R83 names
the functions and leaves the bytes to the published suite. -/
opaque romByte (derivative : Bool) (table offset : Nat) : Byte

/-- PRESUMED (log 10). SHA-384 (R482, R595, R618): named by standard, not defined in the spec. -/
opaque sha384 (bytes : List Byte) : List Byte

/-- PRESUMED (log 10). ECDSA on brainpoolP384r1 with SHA-384 (R482, R598): whether `sig` signs `msg` under `key`. -/
opaque signatureValid (key msg sig : List Byte) : Bool

/-- PRESUMED (log 10). The signature that the device identity key makes (R617, R618). -/
opaque identitySign (msg : List Byte) : List Byte

/-- DESIGN CHOICE (log 11). Temperature [1/16 °C] at the sensor of a unit at a tick (R488). -/
opaque temperature (unit : Word) (tick : DWord) : Half

/-- DESIGN CHOICE (log 11). Core supply [mV] at the sensor of a unit at a tick (R488). -/
opaque voltage (unit : Word) (tick : DWord) : Half

/-- DESIGN CHOICE (log 11). Input power [W] at the 54 V input at a tick (R590). -/
opaque inputPower (tick : DWord) : Word

/-- DESIGN CHOICE (log 12). Extent − 1 of a dimension as discovery measures its ring at a tick, none for a ring that is
broken (R362): the spec does not give how a ring is measured. -/
opaque ring (dimension : Nat) (tick : DWord) : Option (BitVec 4)

end Sys2Proof.Config
end

