-- ==== Sys2Proof/Machine/State.lean ====
section
/-! DEFINITION. The state of the block, as plain data, and the state after reset.
Every field's comment names its width, the rule that names it and its reset value. Families of instances are sparse
lists: an instance that is not listed is at its reset value. -/

namespace Sys2Proof.Machine

/-- Why the block stops with a fault. -/
inductive Fault where
  /-- Raised by any command that names a unit the device does not have (a physical core above 1,151, a port above 7, a
  controller above 23, a channel above 191, a context above 15, a slot above 7, a master above 16, a bank above its
  count). Safe: no such unit exists (R15 to R17, R509, R516, R541), so nothing that the device does is left out. -/
  | noSuchUnit
  deriving DecidableEq, Repr

/-- Why the block refuses a command. -/
inductive Refusal where
  /-- Raised by exec for a row that has no meaning in the model. Safe: nothing can be proved of the row. -/
  | notModelled (mnemonic : String)
  deriving DecidableEq, Repr

/-! ## Time and pins -/

/-- The global counter and what steers it. -/
structure Clock where
  /-- 64 bits; R4, R380; reset 0. -/
  tick : DWord := 0
  /-- Cycle within the tick, 0 to 59; R26, R569; reset 0. -/
  cycle : Nat := 0
  /-- Position of the tick edge against the always-on clock [1/64 tick]; R382, R383; reset DESIGN CHOICE 0 (log 2). -/
  edge : Int := 0
  /-- Last θ [1/64 tick], 0x0410.03; R381, R386; reset 0. -/
  theta : Int := 0
  /-- θ has been measured since the counter was set; R382; reset DESIGN CHOICE false (log 2). -/
  exchanged : Bool := false
  /-- The counter is synchronised; R380; reset DESIGN CHOICE false (log 2). -/
  synced : Bool := false
  /-- Tick of the last correction of the tick edge; R382; reset DESIGN CHOICE none (log 2). -/
  corrected : Option DWord := none
  /-- Send time t1 of a timestamp request that has no reply; R381; reset DESIGN CHOICE none (log 2). -/
  asked : Option DWord := none
  /-- Tick at which the last timestamp request was sent; R381; reset DESIGN CHOICE none (log 2). -/
  askedAt : Option DWord := none
  /-- Offset that is still to be corrected [1/64 tick]; R382; reset 0. -/
  left : Int := 0
  /-- 0x0410.01: 0 free-running, 1 aligned to EPOCH, 2 following the parent, 3 holdover; R386; reset 0. -/
  mode : Nat := 0
  /-- 0x0410.02, 0xFF for none; R386; reset 0xFF. -/
  parent : Nat := 0xFF
  /-- Tick of the last heard EPOCH edge; R636; reset DESIGN CHOICE none (log 2). -/
  epochHeard : Option DWord := none
  /-- 0x0440.02 last EPOCH interval [ticks], 32 bits; R646; reset 0. -/
  epochInterval : Word := 0
  /-- EPOCH holdover, 0x0440.01 [5]; R636, R646; reset false. -/
  holdover : Bool := false
  /-- Consecutive well-spaced edges in holdover, 0 to 3; R637; reset DESIGN CHOICE 0 (log 2). -/
  spaced : Nat := 0
  /-- REFCLK present, 0x0440.01 [7]; R634, R646; reset false. -/
  refclk : Bool := false
  /-- Always-on clock runs from the crystal, 0x0440.01 [6]; R635, R646; reset false. -/
  crystal : Bool := false
  deriving DecidableEq, Repr

/-- The control inputs after qualification, and the supply. -/
structure Pins where
  /-- RESET_N is asserted; R641; reset DESIGN CHOICE false, an open input reads high (R623, log 2). -/
  resetN : Bool := false
  /-- PERST_N is asserted, 0x0440.01 [3]; R641, R646; reset 0. -/
  perstN : Bool := false
  /-- THROTTLE_N is asserted, 0x0440.01 [4]; R639, R646; reset 0. -/
  throttleN : Bool := false
  /-- Tick at which THROTTLE_N was asserted; R640; reset DESIGN CHOICE none (log 2). -/
  throttleSince : Option DWord := none
  /-- MGMT_ID straps, 3 bits; R638; reset 7: open pins read 1. -/
  mgmtId : BitVec 3 := 7
  /-- 54 V input [mV], 0x0300.02; R590; reset 0. -/
  millivolts : Nat := 0
  deriving DecidableEq, Repr

/-- What the manufacturing record holds. -/
structure Identity where
  /-- 0 CHD4100-A, 1 CHD4100-B, 0x0100.03; R539; reset DESIGN CHOICE 0 (log 3). -/
  grade : Nat := 0
  /-- Stepping code, 16 bits, 0x0100.04; R539; reset DESIGN CHOICE 0 (log 3). -/
  stepping : Half := 0
  /-- 64 bits, 0x0100.06; R539; reset DESIGN CHOICE 0 (log 3). -/
  serial : DWord := 0
  /-- 48 bits, 0x0100.08; R539; reset DESIGN CHOICE 0 (log 3). -/
  mac : BitVec 48 := 0
  /-- Management node, 3 bits, 0x0100.0A; R539, R638; reset DESIGN CHOICE 0 (log 3). -/
  node : BitVec 3 := 0
  deriving DecidableEq, Repr

/-! ## The core and its contexts -/

/-- Where a marrow entry's finite part is held (R94 to R96). -/
inductive Place where
  | window
  | slot (n : Nat)
  | drained
  deriving DecidableEq, Repr

/-- A marrow entry (R86, R89, R90) with the place of its short form (R94). -/
structure Entry where
  /-- 640 bits; R86; reset 0 (R94). -/
  m : Marrow := 0
  /-- R89; reset 0. -/
  nan : Bool := false
  /-- R89; reset 0. -/
  pinf : Bool := false
  /-- R89; reset 0. -/
  ninf : Bool := false
  /-- R90; reset 0. -/
  negz : Bool := false
  /-- R90; reset 0. -/
  any : Bool := false
  /-- SP and position of R94; reset window, position 0. -/
  place : Place := .window
  deriving DecidableEq, Repr

/-- An exact extreme value seen by VRED maximum or minimum (R214). -/
inductive Extreme where
  | none
  | nan
  | inf (neg : Bool)
  | fin (neg : Bool) (mant : Nat) (exp : Int)
  deriving DecidableEq, Repr

/-- A marrow register of the vector engine (R113, R213). -/
structure VReg where
  /-- 640 bits and flags; R113; cleared at job start (R216). -/
  sum : Entry := {}
  /-- n, 64 bits; R213; cleared at job start. -/
  count : DWord := 0
  /-- Extreme value since start; R214; cleared at job start. -/
  extreme : Extreme := .none
  deriving DecidableEq, Repr

/-- A weight tile (R117, R118): shape and format codes, the bits of each cell (row-major over 64 columns), and the
64 scale bytes of an E2M1 tile. -/
structure Tile where
  shape : Nat
  fmt : Nat
  cells : List Word
  scales : List Byte
  deriving DecidableEq, Repr

/-- A row record (R136). `opened` tells that it was started and not yet finished (R145). -/
structure RowRecord where
  /-- Exact sum; R136; reset 0. -/
  sum : Entry := {}
  /-- Encoding, 32 bits; R136; reset 0. -/
  max : Word := 0
  /-- 32 bits, saturating; R136; reset 0. -/
  count : Nat := 0
  /-- R54 code, 8 bits; R136; reset 0. -/
  fmt : Nat := 0
  /-- 0 to 16; R136; reset 0. -/
  k : Nat := 0
  /-- Top-k record, 0xFF for none; R136; reset DESIGN CHOICE 0xFF (log 4). -/
  topk : Nat := 0xFF
  /-- Started and not finished; R145; reset false. -/
  opened : Bool := false
  deriving DecidableEq, Repr

/-- Where an instruction stands (R180): bank, index and block register. -/
structure Address where
  bank : Nat
  index : Nat
  block : Word
  deriving DecidableEq, Repr

/-- The byte ranges of data SRAM that an instruction reads and writes, first to last (R155), and the registers that
order it. -/
structure Uses where
  reads : List (Nat × Nat) := []
  writes : List (Nat × Nat) := []
  /-- Vector marrow register (R157). -/
  vreg : Option Nat := none
  /-- S register written (R154). -/
  sreg : Option Nat := none
  deriving DecidableEq, Repr

/-- An instruction that was sent to its engine (R152): its word and address (R180), the step it was sent in (R75), the A
and S registers as it read them, and its accesses. -/
structure Held where
  w : IWord
  bank : Nat
  index : Nat
  block : Word
  step : DWord
  a : Sparse DWord
  sr : Sparse Word
  uses : Uses
  deriving DecidableEq, Repr

/-- What waits in the matrix engine in issue order (R653). -/
inductive MItem where
  /-- One slice pass of one streamed row (R119, R120): its marrow row, the slice numbers of stream and weight, and
  whether it is the row's first pass. -/
  | pass (h : Held) (row sliceA sliceB : Nat) (first : Bool)
  /-- One marrow row of an MOUT (R125), with the number of columns read (R198). -/
  | out (h : Held) (row n : Nat)
  /-- A swap ordered for the named arrays (R127): bit 0 array 0, bit 1 array 1. -/
  | swap (arrays : Nat)
  /-- A weight load (R117) that waits for a swap of its array (R653) or for a prefetch check (R195). -/
  | load (h : Held)
  deriving DecidableEq, Repr

/-- One read request that has been sent and not answered: its tag, the address it reads and its length. -/
structure Ask where
  tag : Nat
  addr : Nat
  length : Nat
  deriving DecidableEq, Repr

/-- A move instruction whose remote or host data are on the way (R245, R301). Granules and bytes that have arrived are
keyed by tier × 2^64 + address, the granules divided by 64. -/
structure Fetch where
  held : Held
  asks : List Ask
  got : List Nat
  bytes : Sparse Byte
  deriving DecidableEq, Repr

/-- A prefetch entry (R252 to R258). Granules are 64-bit tier addresses divided by 64. -/
structure Prefetch where
  held : Held
  first : Nat          -- destination range, first byte
  last : Nat           -- destination range, last byte
  granules : List Nat
  tier : Nat
  generation : Nat
  strict : Bool
  forced : Bool
  arrived : Bool
  refetching : Bool
  /-- Its use has been checked while its data were late (R254). -/
  checked : Bool
  /-- Destination and tag of the watch requests at the holding device of a tier-3 source (R253). -/
  watches : List (Half × Half)
  deriving DecidableEq, Repr

/-- A core's view of one barrier (R314, R315). -/
structure CoreBarrier where
  /-- The core has armed it; R313; reset unarmed (R310). -/
  armed : Bool := false
  /-- The home's answer has arrived; R314; reset false. -/
  answered : Bool := false
  /-- R314, R315; reset 0. -/
  sense : Bool := false
  /-- Pending phase of an arrival not yet released; R315; reset none. -/
  waiting : Option Bool := none
  /-- A disarm waits for the release; R318; reset false. -/
  disarming : Bool := false
  deriving DecidableEq, Repr

/-- Why a logical core does not issue, or that it does (R151, R163, R173, R315, R324, R504, R528). One that leaves its core
waits until its engines are empty. -/
inductive Status where
  | ready
  | atBarrier (b : Nat)
  | atSemaphore (q : Nat)
  | atBank (block : Word)
  | yielding
  | leaving
  | saved
  | idle
  | halted
  | stopped
  deriving DecidableEq, Repr

/-- A synchronisation message that a core may send only when its writes are complete (R246, R321). -/
inductive SyncOut where
  | arrive (b : Nat) (sense : Bool) (at_ : Address) (after : List Held)
  | signal (q k : Nat) (targets : List Nat) (after : List Held)
  deriving DecidableEq, Repr

/-- The state of one logical core (R148, R35): what a fold switch or a save keeps together. -/
structure LCore where
  /-- Context, held rank, logical core, job slot; R27, R311, R509. -/
  k : Nat := 0
  r : Nat := 0
  l : Nat := 0
  j : Nat := 0
  /-- Program of the core; R513. -/
  program : Nat := 0
  /-- A0 to A15, 64 bits each; R148, R149; 0 at job start. -/
  a : Sparse DWord := []
  /-- L0 to L3, 32 bits each; R148, R149; 0 at job start. -/
  lc : Sparse Word := []
  /-- S0 to S15, 32 bits each; R148, R149; 0 at job start. -/
  sr : Sparse Word := []
  /-- T0 to T31, 256 bits each; R148, R149; from the image at job start. -/
  t : Sparse DescWord := []
  /-- Holder index and latched count of each held L counter; R221; none at job start. -/
  loops : Sparse (Option (Nat × Nat)) := []
  /-- Program counter, bank [10]; R148, R149; 0 at job start. -/
  bank : Nat := 0
  /-- Program counter, index [9:0]; R148, R149; 0 at job start. -/
  index : Nat := 0
  /-- Block register, 32 bits; R148, R149; 0 at job start. -/
  block : Word := 0
  /-- R151, R173. -/
  status : Status := .ready
  /-- Step number, 64 bits; R425. -/
  step : DWord := 0
  /-- The step-boundary capture waits until the core runs again; R426. -/
  boundary : Bool := false
  /-- Declared SRAM footprint [bytes]; R513, R192. -/
  footprint : Nat := 0
  /-- Declared marrow rows of arrays 0 and 1; R513. -/
  rows0 : Nat := 0
  rows1 : Nat := 0
  /-- Diagnostic mode; R510, R188. -/
  diagnostic : Bool := false
  /-- Data SRAM of the footprint, 8 bits a byte; R261; reset DESIGN CHOICE 0 (log 5). -/
  sram : Sparse Byte := []
  /-- Marrow entries, key (array × 32 + row) × 64 + column; R93, R94; reset cleared. -/
  marrow : Sparse Entry := []
  /-- Row records, key array × 32 + row; R135, R136; reset 0 (log 4). -/
  records : Sparse RowRecord := []
  /-- Top-k records 0 to 11: (encoding, position); R137; reset unfilled (log 4). -/
  topk : Sparse (List (Word × Word)) := []
  /-- Counter sets 0 to 15 as the program names them; R138, R204; reset 0. -/
  sets : Sparse Counts := []
  /-- Weight tiles, key 2 × array, + 1 for the shadow tile; R117; empty at job start (R194). -/
  tiles : Sparse (Option Tile) := []
  /-- Vector marrow registers 0 to 3; R113; cleared at job start (R216). -/
  vregs : Sparse VReg := []
  /-- Matrix work in issue order; R653; empty at job start. -/
  mq : List MItem := []
  /-- Sent instructions that wait for tokens; R155; empty at job start. -/
  held : List Held := []
  /-- Global cycle from which a marrow row is readable, key array × 32 + row; R111, R124; 0 at job start. -/
  rowAt : Sparse Nat := []
  /-- Per array: the cycle in which its loads are complete, the last admission under the active tile, and under the shadow
  tile while that was active; R121, R127, R128; 0 at job start. -/
  loads : Sparse (Nat × Nat × Nat) := []
  /-- Elements of the streamed row whose passes are being admitted, read once (R120), with its scale byte last in E2M1;
  empty at job start. -/
  streamed : List Word := []
  /-- Move instructions whose data are on the way; R245; empty at job start. -/
  fetches : List Fetch := []
  /-- Live prefetch entries, oldest first; R252; empty at job start. -/
  prefetches : List Prefetch := []
  /-- Remote writes and scatter-adds not yet acknowledged; R246; 0 at job start. -/
  unacked : Nat := 0
  /-- Synchronisation messages that wait for them; R321; empty at job start. -/
  syncOut : List SyncOut := []
  /-- Per-barrier view, key barrier; R314, R315. -/
  barriers : Sparse CoreBarrier := []
  /-- Harvest buffer: the captured counter sets; R426; empty at job start. -/
  harvest : Sparse Counts := []
  /-- Tap sums and write counts of the current step, key tap; R471; 0. -/
  taps : Sparse (DWord × DWord) := []
  /-- The captured tap sums; R472; empty at job start. -/
  harvestTaps : Sparse (DWord × DWord) := []
  deriving DecidableEq, Repr

/-- An instruction bank (R161, R187). -/
structure Bank where
  /-- Block held, 32 bits; R187; reset 0xFFFF_FFFF. -/
  block : Word := 0xFFFFFFFF
  /-- The instructions held, at most 1,024; R161; reset none. -/
  words : List IWord := []
  /-- The loader load in progress: block, source address and length; R163, R166; reset none. -/
  loading : Option (Word × Nat × Nat) := none
  deriving DecidableEq, Repr

/-- The activity ramp of one array (R130 to R132). -/
structure Ramp where
  /-- λ, 0 to 8; R130; 0 from a stopped clock (R570). -/
  lam : Nat := 0
  /-- Credit of the present cycle after its rise by λ, 0 to 16 (the next cycle begins from at most 8); R130; 0 from a
  stopped clock. -/
  credit : Nat := 0
  /-- Length of the present run of idle cycles, 32 for more; R132; reset DESIGN CHOICE 32 (log 6). -/
  idle : Nat := 32
  /-- Cycles since λ last changed, 4 for more; R132; reset DESIGN CHOICE 4 (log 6). -/
  still : Nat := 4
  deriving DecidableEq, Repr

/-- A halt record (R186). -/
structure HaltRec where
  /-- Valid [11]; R186; reset 0. -/
  valid : Bool := false
  /-- Reason [31:24]; R186; reset 0. -/
  reason : Nat := 0
  /-- Bank [10]; R186; reset 0. -/
  bank : Nat := 0
  /-- Index [9:0]; R186; reset 0. -/
  index : Nat := 0
  /-- Halt tick, 64 bits; R186; reset 0. -/
  tick : DWord := 0
  /-- Block, 32 bits; R186; reset 0. -/
  block : Word := 0
  /-- Context [19:16]; R186; reset 0. -/
  context : Nat := 0
  /-- Logical core [9:0]; R186; reset 0. -/
  lcore : Nat := 0
  /-- Detail, 32 bits; R183, R186; reset 0. -/
  detail : Word := 0
  deriving DecidableEq, Repr

/-- A physical core. Logical cores are named by their key (Ops.lkey). -/
structure Core where
  /-- Resident contexts in context slots 0 and 1; R171; reset none. -/
  res0 : Option Nat := none
  res1 : Option Nat := none
  /-- Context slot that issues; R173; reset DESIGN CHOICE 0 (log 6). -/
  issuing : Nat := 0
  /-- The global cycle in which a resident became runnable while neither issued; R174; reset none. -/
  woke : Option Nat := none
  /-- Logical cores that wait to take the core: for a block boundary of the resident context, or for others of their job to
  leave it; R43, R170; reset none. -/
  entering : List Nat := []
  /-- The logical cores of a fold, ascending; empty when the core carries none; R32; reset none. -/
  fold : List Nat := []
  /-- Instruction banks 0 and 1; R161; reset empty. -/
  bank0 : Bank := {}
  bank1 : Bank := {}
  /-- Activity ramps of arrays 0 and 1; R130. -/
  ramp0 : Ramp := {}
  ramp1 : Ramp := {}
  /-- Cycles for which the stream admits no pass: that of the last admission and its stall; R100, R101, R120; reset 0. -/
  stall : Nat := 0
  /-- Cycles for which the conversion unit of array 0 and 1 reads no row; R110, R125, R146; reset 0. -/
  conv0 : Nat := 0
  conv1 : Nat := 0
  /-- Halt records of context slots 0 and 1; R186; reset not valid. -/
  halt0 : HaltRec := {}
  halt1 : HaltRec := {}
  /-- Retired; R185; from the reserve record, reset DESIGN CHOICE false (log 3). -/
  retired : Bool := false
  /-- A radish tile runs on the core; R475; reset false. -/
  tile : Bool := false
  /-- Tick of the last visit and of the last passed visit; R481, R480; reset DESIGN CHOICE 0 (log 7). -/
  visited : DWord := 0
  passed : DWord := 0
  /-- Ticks of transient failures; R480; reset DESIGN CHOICE none (log 7). -/
  transients : List DWord := []
  /-- Tile the core must run again after a failure, and its partner in that failure; R480; reset none. -/
  retest : Option (Nat × Nat) := none
  /-- Counted as overdue; R481; reset false. -/
  overdue : Bool := false
  deriving DecidableEq, Repr

/-- A pod (R18, R570). -/
structure Pod where
  /-- Pod-local cores in the in-service slots, slot 0 first; R18. None stands for the shipment order of the grade. -/
  slots : Option (List Nat) := none
  /-- The pod's cores receive their clock, 0x0300.01 [23:16] counts them; R570, R590; reset false. -/
  clocked : Bool := false
  /-- Tick at which a start was requested; R570; reset none. -/
  startAt : Option DWord := none
  /-- Tick since which no core of the pod holds a context or a tile; R570; reset none. -/
  idleSince : Option DWord := none
  deriving DecidableEq, Repr

/-! ## Synchronisation -/

/-- Parameters of a barrier (R313). -/
structure BarrierParams where
  unit : Word
  span : Word
  depth : Nat
  count : Nat
  deriving DecidableEq, Repr

/-- A barrier entry at its home (R309, R316, R319). -/
structure Barrier where
  /-- Recorded parameters; none while unarmed; R313; unarmed at job start (R310). -/
  params : Option BarrierParams := none
  /-- Phase; R316; 0 at job start. -/
  phase : Bool := false
  /-- Logical cores that armed it; R313; none at job start. -/
  armed : List Nat := []
  /-- Logical cores that have arrived in this phase; R316; none at job start. -/
  arrived : List Nat := []
  /-- The local node has sent its arrival to the root; R319; false. -/
  sent : Bool := false
  /-- At the root: the device arrivals of this phase (rank, number); R319; none. -/
  devices : List (Nat × Nat) := []
  /-- At the root: the parameters of the first device arrival of phase 0; R320; none. -/
  root : Option BarrierParams := none
  /-- Tick since which the release of a step boundary is held until the scale writes are complete; R435; none. -/
  holding : Option DWord := none
  deriving DecidableEq, Repr

/-- Who takes from a semaphore. -/
inductive Taker where
  | core (l : Nat)
  | reduction (g : Nat)
  deriving DecidableEq, Repr

/-- What a semaphore request asks (R323 to R325, R414). -/
inductive SemAsk where
  | signal
  | take (t : Taker)
  | dec (l : Nat) (at_ : Address)
  deriving DecidableEq, Repr

/-- A request that has arrived at a semaphore's home (R327). -/
structure SemReq where
  ask : SemAsk
  k : Nat
  /-- Global cycle of arrival and router input (R651). -/
  cycle : Nat
  input : Nat
  deriving DecidableEq, Repr

/-- A semaphore entry at its home. -/
structure Sem where
  /-- 32 bits; R310; 0 at job start. -/
  value : Nat := 0
  /-- Requests not yet applied, in order of arrival; R327; none. -/
  requests : List SemReq := []
  /-- Waiters in order of arrival: taker and k; R324; none. -/
  waiters : List (Taker × Nat) := []
  /-- The first global cycle in which the home may apply a further request; R327; 0. -/
  free : Nat := 0
  deriving DecidableEq, Repr

/-- A synchronisation message on its way on the die (R24, R310). -/
inductive Flight where
  | arm (k r l b : Nat) (p : BarrierParams) (at_ : Address)
  | arrive (k r l b : Nat) (sense : Bool) (at_ : Address)
  | release (k r l b : Nat) (sense : Bool)
  | grant (k r l q : Nat)
  | granted (k r g : Nat)
  deriving DecidableEq, Repr

/-! ## The memory system -/

/-- A repair entry (R283, R284): its granule, and whether it holds data. The data are those that memory holds for the
granule. -/
structure Repair where
  granule : Nat
  written : Bool
  deriving DecidableEq, Repr

/-- A request that holds a slot (R285): the bank it names (channel × 16 + bank), who sent it, for which context, and its
address. -/
structure SlotUse where
  bank : Nat
  who : Requester
  context : Nat
  addr : Nat
  deriving DecidableEq, Repr

/-- A memory controller (R271 to R295). -/
structure Controller where
  /-- 0x9200 status [25:24]; R306; loaded by start-up, reset DESIGN CHOICE 0 in service (log 3). -/
  state : Nat := 0
  /-- Status [15:8], one bit a channel; R306; loaded by start-up, reset DESIGN CHOICE 0xFF (log 3). -/
  channels : BitVec 8 := 0xFF
  /-- Requests that hold slots; R285; reset none. -/
  slots : List SlotUse := []
  /-- Refusal maps: bank and requester; R286; reset none. -/
  refused : List (Nat × Requester) := []
  /-- Open row of each bank, key channel × 16 + bank, with its dirty mark; R280; reset none. -/
  rows : Sparse (Option (Nat × Bool)) := []
  /-- Repair store, at most 64 entries; R283; from the error log, reset DESIGN CHOICE none (log 3). -/
  repairs : List Repair := []
  /-- Granules corrected in the last scrub pass over their row; R283; reset none. -/
  scrubbed : List Nat := []
  /-- Write-back lists, at most 8 entries a channel: (channel, granule); R282; reset none. -/
  writeBacks : List (Nat × Nat) := []
  /-- Next row to scrub of each bank; R281; reset DESIGN CHOICE 0 (log 6). -/
  scrubRow : Sparse Nat := []
  /-- Channels at double refresh rate; R294; reset none. -/
  double : List Nat := []
  deriving DecidableEq, Repr

/-- A CXL port (R296 to R300, R307). -/
structure CxlPort where
  /-- 0 no link, 1 in service, 2 unavailable; R307; reset 0. -/
  state : Nat := 0
  /-- R307 code; reset 0. -/
  speed : Nat := 0
  /-- Lanes; R307; reset 0. -/
  width : Nat := 0
  /-- Bytes programmed under R297; 0x9800 status [15:0] in GiB; reset 0. -/
  size : Nat := 0
  /-- Requests in flight; R298; reset none. -/
  slots : List SlotUse := []
  /-- Requesters refused; R298; reset none. -/
  refused : List Requester := []
  deriving DecidableEq, Repr

/-- A host-memory read that is outstanding (R301): its tag, its logical core and the fetch's address and length. -/
structure HostAsk where
  tag : Nat
  core : Nat
  addr : Nat
  length : Nat
  /-- The function in D3hot for whose return it is held; R632; none otherwise. -/
  heldFor : Option Nat := none
  deriving DecidableEq, Repr

/-- The host interface (R628 to R632, R648). -/
structure HostIf where
  /-- 0x9900.01 [29:28]: 0 down, 1 training, 2 up; R648; reset 0. -/
  state : Nat := 0
  /-- 0x9900.01 [27:24]; R648; reset 0. -/
  speed : Nat := 0
  /-- 0x9900.01 [23:16] and [15:8]; R648; reset 0. -/
  width : Nat := 0
  l0p : Nat := 0
  /-- Functions in D3hot; R632; reset none. -/
  d3 : List Nat := []
  /-- BAR2 size of each function as log2, 30 to 38; R270; reset 34 (16 GiB). -/
  bar2 : Sparse Nat := []
  /-- Outstanding non-posted requests, at most 768; R301; reset none. -/
  asks : List HostAsk := []
  /-- MSI-X vectors signalled and held: (function, vector); R630, R632; reset none. -/
  msix : List (Nat × Nat) := []
  /-- MSI-X messages sent, oldest first: (function, vector); R630; reset none. -/
  sent : List (Nat × Nat) := []
  /-- Posted writes to host memory on their way: address and bytes; R301; reset none. -/
  writes : List (Nat × List Byte) := []
  /-- Posted writes of functions in D3hot, held until they return to D0: function, address and bytes; R632; reset none. -/
  heldWrites : List (Nat × Nat × List Byte) := []
  /-- The ledger tail: committed records of every job led here that wait to be written to their sinks, with their contexts;
  R576; from the save, reset none. -/
  tail : List (Nat × List Byte) := []
  /-- What the job manager has read from host memory for a context, ledger input and restore source: context, address and
  bytes; R463, R467; reset none. -/
  fetched : List (Nat × Nat × List Byte) := []
  /-- Completions of BAR accesses: function, offset, status (0 successful, 1 Unsupported Request, 4 Completer Abort) and
  data; R270, R278, R546; reset none. -/
  completions : List (Nat × Nat × Nat × List Byte) := []
  deriving DecidableEq, Repr

/-! ## The Scatex fabric -/

/-- A lane substitution in progress (R357, R358). -/
structure LaneSwap where
  weak : Option Nat
  sprout : Nat
  /-- 1 requested, 2 pattern sent, 3 ready sent, 4 switch agreed. -/
  stage : Nat
  from_ : BitVec 14
  mask : BitVec 13
  deriving DecidableEq, Repr

/-- A received block that waits for its release cycle (R354). -/
structure Waiting where
  at_ : Nat
  packets : List Packet
  deriving DecidableEq, Repr

/-- A Scatex port (R330 to R361, R385). -/
structure Port where
  /-- 0x9000 status [28:26]; R385; reset 0. -/
  state : Nat := 0
  /-- Transmit mask, 13 bits; R385; loaded at link start, 0x0FFF at shipment. -/
  txMask : BitVec 13 := 0x0FFF
  /-- Receive mask, 13 bits; R385; as the transmit mask. -/
  rxMask : BitVec 13 := 0x0FFF
  /-- Lanes retired in each direction; R357; reset DESIGN CHOICE none (log 3). -/
  txRetired : BitVec 13 := 0
  rxRetired : BitVec 13 := 0
  /-- Neighbour's port, coordinate and serial; R361, R385; reset 0. -/
  nPort : Nat := 0
  nCoord : Half := 0
  nSerial : DWord := 0
  /-- Release latency L [cycles] of the receive direction; R353, R385; reset 0. -/
  release : Nat := 0
  /-- Next sequence number to send, 14 bits; R338; reset DESIGN CHOICE 0 (log 8). -/
  nextSeq : BitVec 14 := 0
  /-- Retry buffer: sequence numbers of unacknowledged blocks, oldest first, at most 512; R348; reset none. -/
  retry : List (BitVec 14) := []
  /-- Blocks to retransmit, in order; R350; reset none. -/
  resend : List (BitVec 14) := []
  /-- Sequence number expected from the neighbour, 14 bits; R349; reset DESIGN CHOICE 0 (log 8). -/
  expect : BitVec 14 := 0
  /-- A NAK is outstanding: the expected block has not yet arrived; R349; reset false. -/
  nakking : Bool := false
  /-- NAKs sent; R349; reset 0. -/
  naksSent : Nat := 0
  /-- Consecutive NAKs received without a good block; R352; reset 0. -/
  naks : Nat := 0
  /-- Credits [flits] held for each class and channel, key class × 4 + channel; R345; full at link start. -/
  credits : Sparse Nat := []
  /-- Blocks decoded and not yet released; R354; reset none. -/
  waiting : List Waiting := []
  /-- Masks that apply from a sequence number on, transmit and receive; R356; reset none. -/
  txNext : Option (BitVec 14 × BitVec 13) := none
  rxNext : Option (BitVec 14 × BitVec 13) := none
  /-- Substitution of a receive lane, and of a transmit lane; R357; reset none. -/
  rxSwap : Option LaneSwap := none
  txSwap : Option LaneSwap := none
  /-- Corrected symbols of each receive lane in the present window; R355; reset 0. -/
  laneErrors : List Nat := []
  /-- Blocks of the present window; R355; reset 0. -/
  windowBlocks : Nat := 0
  /-- Link-control messages sent: subtype, argument, body; R342; reset none. -/
  control : List (Nat × DWord × List Byte) := []
  /-- The neighbour holds the coordinate `nCoord`; R361; reset false. -/
  nHeld : Bool := false
  /-- Flits freed and not yet returned as credits, key class × 4 + channel; R346; reset none. -/
  due : Sparse Nat := []
  /-- The class and channel whose turn it is to return credits, class × 4 + channel; R346; reset DESIGN CHOICE 0 (log 8). -/
  turn : Nat := 0
  /-- Tick at which the present training burst began; R360; reset none. -/
  burst : Option DWord := none
  deriving DecidableEq, Repr

/-- A link record of the torus map (R365). -/
structure LinkRec where
  version : Word
  ends : List LinkEnd
  deriving DecidableEq, Repr

/-- A packet sent and not answered (R371, R373). -/
structure Unanswered where
  dest : Half
  tag : Half
  ptype : Nat
  tick : DWord
  context : Nat
  job : Bool
  deriving DecidableEq, Repr

/-- A watch on a tier-3 prefetch source (R253, R258). -/
structure Watch where
  src : Half
  tag : Half
  context : Nat
  granules : List Nat
  deriving DecidableEq, Repr

/-- Why a device waits for the answer to a packet it sent. -/
inductive Purpose where
  /-- Read data for the fetch of logical core `core`. -/
  | fetch (core : Nat)
  /-- A write or scatter-add of logical core `core`: the address and opcode of its instruction, and its dst descriptor. -/
  | write (core : Nat) (at_ : Address) (opc dst : Nat)
  /-- A prefetch watch of logical core `core`. -/
  | watch (core : Nat)
  /-- A device arrival of barrier b, completed by logical core `core` with the arrival at `at_` (R320). -/
  | barrier (core b : Nat) (at_ : Address)
  /-- A write of the scale table of context k's job (R435). -/
  | scale (k : Nat)
  /-- A push of a version slot of context k's job to rank r, whose semaphore q is signalled after it (R411): the
  shard and the version. -/
  | push (k r q shard : Nat) (v : DWord)
  /-- Bytes of a shield area from an offset on, for context k's job (R498). -/
  | restore (k off : Nat)
  /-- A forwarded dictionary frame of master m. -/
  | frame (m : Nat)
  | other
  deriving DecidableEq, Repr

/-- The fabric side of the device. -/
structure Fabric where
  /-- Own coordinate, 0x0420.01; R386; reset not valid. -/
  coord : Option Half := none
  /-- Shape object, 0x0420.02, extents − 1; R386, R362; kept, reset DESIGN CHOICE not valid (log 3). -/
  shape : Option Half := none
  /-- Extents − 1 in force: the shape object at start-up, measured or adopted; R362, R386; reset none. -/
  extents : Option Half := none
  /-- Anchor, 0x0420.03; R386; kept, reset DESIGN CHOICE not valid (log 3). -/
  anchor : Option Half := none
  /-- Best reference candidate: anchored, serial, coordinate; R363; reset none. -/
  reference : Option (Bool × DWord × Half) := none
  /-- Torus map, key coordinate; R365; reset empty. -/
  records : Sparse (Option LinkRec) := []
  /-- Version of the own link record, 32 bits; R365; reset DESIGN CHOICE 0 (log 8). -/
  version : Word := 0
  /-- Tick of the last change of a record; R366; reset none. -/
  changed : Option DWord := none
  /-- Discovery runs; R366; reset false. -/
  discovering : Bool := false
  /-- The device joins a torus whose devices hold coordinates; R378, R380; reset false. -/
  joining : Bool := false
  /-- The anchor as it was at start-up; R363, R386; reset none. -/
  anchorUsed : Option Half := none
  /-- The valid shape that a neighbour with a coordinate reported; R361, R378; reset none. -/
  heardShape : Option Half := none
  /-- Tick at which the own ports go idle after a departure order; R379; reset none. -/
  leaving : Option DWord := none
  /-- Leave notices seen; R343, R379; reset none. -/
  leaves : List Half := []
  /-- Destinations whose route has changed and that wait for count 0; R371; reset none. -/
  holds : List Half := []
  /-- Packets sent and not answered; R371, R373; reset none. -/
  unanswered : List Unanswered := []
  /-- What each outstanding tag is for; R339; reset none. -/
  purposes : List (Half × Half × Purpose) := []
  /-- Next tag, 16 bits; R339; reset DESIGN CHOICE 0 (log 8). -/
  nextTag : Half := 0
  /-- Watches for tier-3 sources, at most 4,096; R258; reset none. -/
  watches : List Watch := []
  /-- Packets that wait for injection, oldest first; R375; reset none. -/
  tx : List Packet := []
  /-- Packets that left by each output: port and packet, newest first; R370; reset none. -/
  sent : List (Nat × Packet) := []
  /-- Test-package slices being received: version known, bytes; R343, R486; reset none. -/
  slices : Option (Nat × Sparse Byte) := none
  deriving DecidableEq, Repr

/-! ## Jobs -/

/-- A job slot (R516). -/
structure Slot where
  /-- 0 empty to 6 faulted; R516; from the journal, reset DESIGN CHOICE 0 empty (log 3). -/
  state : Nat := 0
  /-- Fault cause, 8 bits; R516, R526; from the journal, reset 0. -/
  cause : Nat := 0
  /-- Rerun; R516, R531; from the journal, reset 0. -/
  rerun : Bool := false
  /-- Pre-empted; R516, R528; reset 0. -/
  preempted : Bool := false
  /-- Launch tick as written, 64 bits; R516; reset 0. -/
  launchReg : DWord := 0
  /-- T_L of the last accepted arm command, 64 bits; R451; reset 0. -/
  launch : DWord := 0
  /-- Sequence, 64 bits; R516; reset all ones. -/
  sequence : DWord := 0xFFFFFFFFFFFFFFFF
  /-- Cause record, 32 bits; R516; reset all ones. -/
  causeRecord : Word := 0xFFFFFFFF
  /-- Image address, 64 bits; R516; reset 0. -/
  image : DWord := 0
  /-- Seed, 64 bits; R516; reset 0. -/
  seed : DWord := 0
  /-- Start step, 64 bits; R516; reset 0. -/
  startStep : DWord := 0
  /-- End step, 64 bits; R516; reset all ones. -/
  endStep : DWord := 0xFFFFFFFFFFFFFFFF
  /-- Role, 32 bits; R516; reset 0. -/
  role : Word := 0
  /-- End tick, 64 bits; R516; reset 0. -/
  endTick : DWord := 0
  /-- Last step, 64 bits; R516; reset 0. -/
  lastStep : DWord := 0
  /-- Step digest, 64 bits; R516; reset 0. -/
  digest : DWord := 0
  /-- Armed tick, 64 bits; R516; reset 0. -/
  armedTick : DWord := 0
  /-- Queue wait [ticks], 64 bits; R516; reset 0. -/
  queueWait : DWord := 0
  /-- Pre-emptions, 32 bits; R516; reset 0. -/
  preemptions : Nat := 0
  /-- Pre-empted [ticks], 64 bits; R516; reset 0. -/
  preemptedTicks : Nat := 0
  /-- Steps, 64 bits; R516; reset 0. -/
  steps : Nat := 0
  /-- Slow-down since launch and of the last step; R516, R533; reset 0. -/
  slowdown : Nat := 0
  lastSlow : Nat := 0
  /-- The image digest of the journal entry, 64 bits; R522, R532; reset 0. -/
  imageDigest : DWord := 0
  deriving DecidableEq, Repr

/-- One placed tensor (R41, R514): logical number, tier, base, holding rank (none for every rank), size in bytes. -/
structure Placed where
  tensor : Nat
  tier : Nat
  base : Nat
  rank : Option Nat
  size : Nat
  deriving DecidableEq, Repr

/-- One placed logical core (R31, R41). -/
structure PlacedCore where
  rank : Nat
  lcore : Nat
  phys : Nat
  fold : Bool
  deriving DecidableEq, Repr

/-- A version of a shard (R405): its number, whether it is committed, the consumer ranks that released it, and the tick in
which it retired. -/
structure Version where
  v : DWord
  committed : Bool
  released : List Nat
  retiredAt : Option DWord
  deriving DecidableEq, Repr

/-- A shard as the owner keeps it (R387, R389, R405). -/
structure Shard where
  shard : Nat
  layer : Nat
  owner : Nat
  elements : Nat
  group : Nat
  consumers : Nat
  cfmt : Nat
  optimizer : Nat
  copyFmt : Nat
  flags : Nat
  hyper : Nat
  pushSem : Nat
  pushUnit : Word
  pushSpan : Word
  master : Nat
  state : Nat
  copies : Nat
  contribution : Nat
  pushAddr : Nat
  consumerUnit : Word
  consumerSpan : Word
  lag : Nat
  versions : List Version
  /-- The newest complete version; R405. -/
  newest : DWord
  /-- Master buffer that holds it, 0 or 1; R389, R405. -/
  buffer : Nat
  /-- Releases of versions that do not exist yet: version and rank; R408. -/
  early : List (DWord × Nat)
  /-- σ of the newest complete version and of the one after it; R401, R437. -/
  sigma : Nat
  nextSigma : Nat
  /-- The master digest of the newest complete version; R402. -/
  digest : DWord
  /-- A version whose sample check failed is not committed; R413. -/
  mismatched : Bool
  deriving DecidableEq, Repr

/-- One step's readiness at a coordinator (R415). -/
structure Readiness where
  step : DWord
  first : DWord               -- tick of the first ready notice
  members : List Nat          -- ranks that are ready
  backups : List Nat          -- backup ranks that are ready
  decided : Bool
  deriving DecidableEq, Repr

/-- A reduction group (R387, R414 to R420). -/
structure Group where
  group : Nat
  unit : Word
  span : Word
  readySem : Nat
  readyCount : Nat
  deadline : Nat
  late : Nat
  backups : List (Nat × Nat)       -- (primary, backup)
  /-- The step whose ready count each held rank takes next; R414. -/
  takes : List (Nat × DWord)
  /-- Readiness by step, at the coordinator; R415. -/
  ready : List Readiness
  /-- Decisions received or made: step and entries; R416. -/
  decisions : List (DWord × List DecisionEntry)
  /-- Contributions held under delay: (step of origin, rank, late notice arrived); R417. -/
  held : List (DWord × Nat × Bool)
  deriving DecidableEq, Repr

/-- Values of a tree node that wait for its partner (R392 to R394): tree, shard, step, level, node, element values. Root
operands have level 0xFF, node 0 left and node 1 right (R421). -/
structure NodeVal where
  second : Bool
  shard : Nat
  step : DWord
  level : Nat
  node : Nat
  values : List (Nat × Word)
  deriving DecidableEq, Repr

/-- A parameter gather that waits at its owner (R410): who asked, the tag, the shard, the version, and the address. -/
structure Gather where
  src : Half
  tag : Half
  shard : Nat
  version : DWord
  addr : Nat
  length : Nat
  deriving DecidableEq, Repr

/-- One watch of the watch table as the lead keeps it (R432, R435). -/
structure WatchVar where
  e : Int            -- value in force in the present step
  next : Int         -- value set for the next step
  run : Nat
  deriving DecidableEq, Repr

/-- Where a virtual barrier or semaphore of a held rank has its entry (R309, R311): the pod of its router and the entry's
number there, or none for a backing entry in GDDR7. -/
structure HomeEntry where
  sem : Bool
  r : Nat
  id : Nat
  pod : Nat
  entry : Option Nat
  /-- It is placed at a router other than its home; R309, R329. -/
  away : Bool := false
  deriving DecidableEq, Repr

/-- The job of a context that is accepted or running at this device (R519). -/
structure Job where
  /-- Slot of the job; R519. -/
  j : Nat
  /-- This device leads the job, and the lead's coordinate; R516. -/
  lead : Bool
  leadCoord : Half
  standby : Bool
  /-- Job tag, 64 bits; R344. -/
  tag : DWord
  /-- Logical shape, extents − 1; R28. -/
  shape : Half
  ranks : Nat
  cores : Nat
  /-- Held ranks, ascending; R444. -/
  held : List Nat
  /-- Rank map: physical coordinate of each logical rank; R41. -/
  rankMap : List Half
  coreMap : List PlacedCore
  tensors : List Placed
  /-- Rank views: (rank, rank page, partition page code); R446, R458 type 0x0003. -/
  pages : List (Nat × Nat × Nat)
  /-- Save areas: (rank, logical core, address); R35, R106. -/
  saves : List (Nat × Nat × Nat)
  /-- Epoch, from tick, address and length of the placement record; R41, R42. -/
  epoch : Nat
  fromTick : DWord
  recordAddr : Nat
  recordLen : Nat
  /-- Image estimate E and releases h; R512, R533. -/
  estimate : Nat
  releases : Nat
  /-- Reduction tables; R387. -/
  groups : List Group
  shards : List Shard
  hypers : List (List Byte)
  nodes : List NodeVal
  gathers : List Gather
  /-- Operands that reached a site before the decision of their step: packet, node, second tree; R416. -/
  undecided : List (Packet × Nat × Bool)
  /-- Contributions held under delay at this device: shard, step of origin, rank, values; R417. -/
  holdData : List (Nat × DWord × Nat × List Word)
  /-- At the lead, completion reports: step, owner's device, pairs of shard and master digest; R406, R458. -/
  reports : List (DWord × Half × List (Nat × DWord))
  /-- The last step for which this device has sent its completion report; R406. -/
  reported : Option DWord
  /-- Commit tick chosen or noticed, with its step; R406. -/
  commit : Option (DWord × DWord)
  /-- The last step committed, and its digest; R406, R458. -/
  committed : Option DWord
  committedAt : DWord
  stepDigest : DWord
  /-- At the lead: the last steps whose watches and taps have been summed; R435, R472. -/
  scaled : Option DWord
  tapped : Option DWord
  /-- Layer partials a and b: (layer, a, b); R403. -/
  partials : List (Nat × Word × Word)
  /-- Watch table: watches, layers, addresses and limits; R432. -/
  watches : List WatchVar
  watchMap : List Byte
  scaleTable : Nat
  ratioTable : Nat
  ratioLimit : Word
  layers : Nat
  satLimit : Nat
  growth : Nat
  eMin : Int
  eMax : Int
  /-- At the lead, by step: the devices heard and the sums so far; R433, R472. -/
  watchGot : List (DWord × List Half × List Counts)
  tapGot : List (DWord × List Half × List (DWord × DWord))
  /-- At the lead: the scale update of the last boundary has not been written at every device; R435. -/
  scalePending : Bool
  /-- Tap table: (tensor, period, first step); R470. -/
  taps : List (Nat × Nat × DWord)
  /-- Queue table: (free, full, slots), and the stall cycles of each queue; R427, R428. -/
  queues : List (Nat × Nat × Nat)
  stalls : Sparse Nat
  /-- Entries of the barriers and semaphores of every held rank; R309. -/
  homes : List HomeEntry
  /-- Shield table D and K; R495; 0 when absent. -/
  replicas : Nat
  interval : Nat
  /-- The replica d of this device, the coordinates of every replica rank, and the coordinate of the job lead; R495, R496. -/
  replica : Nat
  replicaMap : List Half
  jobLead : Half
  /-- Digests reported by replica leads: (replica, step, digest); R496. -/
  shieldDigests : List (Nat × DWord × DWord)
  agreed : Option DWord
  /-- Agreed comparisons so far; R496. -/
  comparisons : Nat
  /-- The comparison step that the job lead has reported as agreed; R496. -/
  cleared : Option DWord
  /-- Step digests since the last agreed step; R498. -/
  digests : List (DWord × DWord)
  /-- Steps that are comparison steps besides those of the interval; R500. -/
  forced : List DWord
  /-- At the job lead: the comparison step whose digests disagree, and, once a replay was ordered, the step that it replays
  to, its standby and that standby's coordinate; R498. -/
  disputed : Option (DWord × Option (DWord × Nat × Half))
  /-- At the job lead: the replayed records written since the last agreed step; R498. -/
  history : List (Nat × Nat × DWord × List Byte)
  /-- Replicas that have left the job, and expulsions: (replica rank, standby rank); R499. -/
  left : List Nat
  expelled : List (Nat × Nat)
  /-- At the job lead: digests reported for a step: device, step, replica rank, contribution digest, owner digest; R498. -/
  judged : List (Half × DWord × Nat × DWord × DWord)
  /-- Contribution and owner digests of the steps since the last agreed one: step, rank, contribution, owner; R497. -/
  rankDigests : List (DWord × Nat × DWord × DWord)
  /-- A replay order in progress: steps u and w and the replica; R504. -/
  order : Option (DWord × DWord × Nat)
  /-- What has been read of the shield areas: device, offset, bytes; R498, R504. -/
  restored : List (Half × Nat × List Byte)
  /-- Acceptance notices, end notices; R452, R524. -/
  accepted : List Half
  ended : List Half
  confirmed : Option DWord
  /-- The last step's end and the ends of the steps; R523, R533. -/
  lastStep : Option DWord
  lastBoundary : DWord
  launched : DWord
  /-- Sum of the estimates of the steps that have ended [cycles]; R533. -/
  estimated : Nat
  ending : Bool
  /-- The step whose boundary comes next at this device; R425, R433. -/
  bound : DWord
  /-- Re-placement waits for the block boundaries of these logical cores, with their new physical cores; R43. -/
  moves : List (Nat × Nat)
  /-- Logical cores whose descriptors and keep switches are loaded anew at their next block boundary; R43, R431. -/
  reload : List Nat
  /-- The step in which the job started: that of its slot, or the next step of its restore source; R425, R467. -/
  start : DWord
  /-- The last step to run: that of its slot, or of the replay that was ordered; R523, R504. -/
  stop : DWord
  /-- Tick since which the job has been pre-empted; R516, R528. -/
  preemptedAt : Option DWord
  /-- Ledger: records waiting for their commit (type, first key field, step, body), and the ledger's sequence; R456. -/
  ledger : List (Nat × Nat × DWord × List Byte)
  ledgerSeq : Nat
  /-- Base and length of the ledger sink as read at acceptance; R462. -/
  sink : Nat × Nat
  /-- The job is a replay, and its ledger input; R463. -/
  replay : Bool
  input : List Byte
  /-- The parts that are being written, first to last: shield checkpoint, tier, address and bytes; R464, R496. -/
  parts : List (Bool × Nat × Nat × List Byte)
  deriving DecidableEq, Repr

/-! ## Test manager -/

/-- A tile of a test package (R483). -/
structure TestTile where
  tile : Nat
  narrow : Bool
  budget : Nat
  expected : DWord
  withdrawn : Bool
  deriving DecidableEq, Repr

/-- The test manager (R474 to R487). -/
structure Radish where
  /-- Version of the package held, 64 bits; R487; from NOR, reset DESIGN CHOICE 0 (log 3). -/
  version : Nat := 0
  tiles : List TestTile := []
  /-- The pair that runs: test core, partner, tile number; R478; reset none. -/
  running : Option (Nat × Nat × Nat) := none
  /-- Staging: master and bytes, newest byte last; R485; reset none. -/
  staging : Option (Nat × List Byte) := none
  /-- 0x3101.04 result; R485; reset 0. -/
  result : Nat := 0
  /-- 0x3101.05 refused tile, 32 bits; R485; reset 0xFFFF_FFFF. -/
  refusedTile : Word := 0xFFFFFFFF
  deriving DecidableEq, Repr

/-! ## Power, start-up, firmware -/

/-- A start-up step record (R592), kept in NOR. -/
structure StepRec where
  start : Nat := 0
  method : Nat := 0
  status : Nat := 0
  begin_ : DWord := 0
  end_ : DWord := 0
  detail : Word := 0
  next : Nat := 0
  deriving DecidableEq, Repr

/-- A save image (R578): cause, tick, starts since manufacture, the journal's slots by key, the ledger tail, the waiting error
records, the next job sequence and the next error sequence. -/
structure SaveImage where
  cause : Nat
  tick : DWord
  starts : Nat
  slots : Sparse Slot
  tail : List (Nat × List Byte)
  waiting : List Nat
  nextSequence : Nat
  nextError : Nat
  deriving DecidableEq, Repr

/-- Power, clocks, resets and start-up (R565 to R593). -/
structure Power where
  /-- Always-on domain runs; R574; reset true. -/
  alive : Bool := true
  /-- Control clocks run; R569; reset false. -/
  control : Bool := false
  /-- 0x0310.01 [7:0]: 0 starting, 1 ready, 2 management-only; R591; reset 0. -/
  phase : Nat := 0
  /-- 0x0310.01 [15:8] step in progress, 0 to 13; R591; reset 0. -/
  step : Nat := 0
  /-- Failed attempts, 0 to 3; R586, R591; from NOR, reset DESIGN CHOICE 0 (log 3). -/
  failed : Nat := 0
  /-- Starts since manufacture, 32 bits; R591; from NOR, reset DESIGN CHOICE 0 (log 3). -/
  starts : Nat := 0
  /-- Last cause; R591; from NOR, reset DESIGN CHOICE 0, power-on (log 3). -/
  cause : Nat := 0
  /-- Ready tick, 64 bits; R591; reset 0. -/
  readyTick : DWord := 0
  /-- Tick at which an attempt failed and waits for its retry; R585; reset none. -/
  failedAt : Option DWord := none
  /-- Step records, key step; R592; from NOR, reset DESIGN CHOICE 0 (log 3). -/
  records : Sparse StepRec := []
  /-- Tick at which the step in progress began; R582; reset none. -/
  stepBegan : Option DWord := none
  /-- A save runs, with its cause (R578); reset none. -/
  saving : Option Nat := none
  /-- The newest valid save; R578, R579; from NOR, reset DESIGN CHOICE none (log 3). -/
  save : Option SaveImage := none
  /-- The supply must be qualified before start-up begins; R580; reset false. -/
  waitSupply : Bool := false
  /-- RESET_N holds the device; R588; reset false. -/
  heldReset : Bool := false
  /-- 0x0300.01 [11:10]: 0 self-refresh, 1 waking, 2 active; R590; reset 0. -/
  memory : Nat := 0
  /-- Tick of the wake cause; R571; reset none. -/
  wakeAt : Option DWord := none
  /-- The last tick at which a condition of R571 did not hold: a request, an accepted or running slot, the floor, or the
  tick of ready; reset 0. -/
  memoryUsed : DWord := 0
  /-- The floor in force; R572; reset 0. -/
  floor : Bool := false
  /-- A floor write that takes effect at the floor tick; R572; reset none. -/
  floorNext : Option (Bool × DWord) := none
  /-- Thermal level, 0x0280.05; R647; reset 0. -/
  thermal : Nat := 0
  /-- Clock source at step 1: REFCLK; 0x0300.01 [8]; R590; reset 0. -/
  refclkSource : Bool := false
  /-- CXLp_REFCLK runs and CXLp_PERST_N is released; R624, R633; reset false. -/
  cxlReleased : Bool := false
  /-- Scatex, PCIe and CXL transmitters are electrically idle; R574, R624; reset true. -/
  txIdle : Bool := true
  /-- Status queries that no lead has answered: context, slot and tick; R583; reset none. -/
  queries : List (Nat × Nat × DWord) := []
  deriving DecidableEq, Repr

/-- An image slot (R594): the bytes of its image, none when empty. -/
structure ImageSlot where
  bytes : List Byte := []
  deriving DecidableEq, Repr

/-- Firmware update (R594 to R621). -/
structure Firmware where
  /-- 0x3000.01 [2:0]; R620; from NOR, reset DESIGN CHOICE 0 idle (log 3). -/
  state : Nat := 0
  /-- Check result, [23:16]; R620; reset 0. -/
  check : Nat := 0
  /-- Pairs handed over, [15:12]; R620; reset 0. -/
  pairs : Nat := 0
  /-- Boot slot, [8]: false A, true B; R620; from NOR, reset DESIGN CHOICE A (log 3). -/
  boot : Bool := false
  /-- The slot whose image runs, as `boot`: the other one after an alternative method of step 1 or 4; R582, R594, R601; reset
  DESIGN CHOICE A (log 3). -/
  running : Bool := false
  /-- Slots A and B; R594; from NOR, reset DESIGN CHOICE empty (log 3). -/
  slotA : ImageSlot := {}
  slotB : ImageSlot := {}
  /-- Staging: master, bytes so far; R599; reset none. -/
  staging : Option (Nat × List Byte) := none
  /-- The update state that a refused header or a reset restores: that before the begin until the header has passed (R599); from
  NOR, reset DESIGN CHOICE 0 (log 3). -/
  before : Nat := 0
  /-- Security minimum, 32 bits; R620; kept, reset DESIGN CHOICE 0 (log 3). -/
  security : Nat := 0
  /-- Valid and revoked marks of the vendor keys, bit k; R616; from NOR, reset DESIGN CHOICE 0 (log 3). -/
  valid : BitVec 8 := 0
  revoked : BitVec 8 := 0
  /-- Switches done in the hand-over; R604; reset 0. -/
  switches : Nat := 0
  /-- The hand-over goes back to the old image; R607, R613; reset false. -/
  reversing : Bool := false
  /-- Cause of the fall-back in progress; R621 kind 0x0202. -/
  backCause : Nat := 0
  /-- Tick since which the incoming core or bank has been awaited; R607; reset none. -/
  since : Option DWord := none
  /-- Tick at which the trial began or restarted; R613, R614; reset none. -/
  trialSince : Option DWord := none
  /-- Stores are kept twice; R611; reset false. -/
  twice : Bool := false
  /-- A control core was retired during the hand-over: it begins again; R608; reset false. -/
  again : Bool := false
  /-- Control cores: numbers 0 to 8 held by each physical control core; R21; reset 0 to 8. -/
  roles : List (Option Nat) := [some 0, some 1, some 2, some 3, some 4, some 5, some 6, some 7, some 8]
  /-- Pairs whose work one core carries alone; R22; reset none. -/
  alone : List Nat := []
  deriving DecidableEq, Repr

/-- The calibration set's control (R562, R563). -/
structure Calib where
  /-- 0 locked, 1 unlocked, 2 committing; R562; reset 0. -/
  state : Nat := 0
  /-- Master that unlocked; R562; reset 0. -/
  master : Nat := 0
  /-- Staged values, key index × 256 + sub-index; R563; reset none. -/
  staged : Sparse (Option Word) := []
  /-- Values in force, loaded at start-up; R564. -/
  live : Sparse Word := []
  /-- Tick of the last calibration write; R563; reset none. -/
  written : Option DWord := none
  /-- Commits since manufacture, 32 bits; R562; kept, reset DESIGN CHOICE 0 (log 3). -/
  commits : Nat := 0
  deriving DecidableEq, Repr

/-! ## Dictionary -/

/-- One error record (R488). -/
structure ErrorRec where
  kind : Nat
  effect : Nat
  seq : Nat
  tick : DWord
  wall : DWord
  unit : Word
  job : Word
  operation : Word
  temperature : Half
  voltage : Half
  step : DWord
  detail0 : DWord
  detail1 : DWord
  deriving DecidableEq, Repr

/-- The error log (R491, R577). -/
structure ErrorLog where
  /-- Records held, newest first, at most 1,024; R491; reset none. -/
  records : List ErrorRec := []
  /-- Next sequence, 32 bits; R488; from NOR, reset DESIGN CHOICE 0 (log 3). -/
  next : Nat := 0
  /-- Records that wait to be written to NOR, at most 256, oldest first; R577; reset none. -/
  waiting : List Nat := []
  /-- Records read by a master; R491 overwritten; reset none. -/
  read : List Nat := []
  deriving DecidableEq, Repr

/-- One latched or held wider value: the index, its lowest sub-index and the parts. -/
structure Wide where
  index : Nat
  sub : Nat
  parts : List (Nat × Word)
  deriving DecidableEq, Repr

/-- What one master has of its own (R539, R543, R544, R554, R556, R619). -/
structure Master where
  /-- Read latch; R543; reset none. -/
  latch : Option Wide := none
  /-- Held parts of wider writes; R544; reset none. -/
  held : List Wide := []
  /-- Describe target, 0x0001.01; R539; reset 0. -/
  describe : Word := 0
  /-- Aggregate read 0x0002: target, span, operation, instances; R556; reset 0. -/
  aTarget : Word := 0
  aSpan : Word := 0
  aOp : Word := 0
  aInstances : Word := 0
  /-- 0x0002.06 state and result code; R556; reset 0. -/
  aState : Nat := 0
  aResult : Nat := 0
  aValue : DWord := 0
  aAnswered : Word := 0
  aMissing : Word := 0
  /-- Attestation 0x3020: nonce, 32 bytes as 8 words; R619; reset 0. -/
  nonce : List Word := []
  /-- 0 idle, 1 busy, 2 done; R619; reset 0. -/
  aStat : Nat := 0
  /-- Report, 352 bytes; R618, R619; reset 0. -/
  report : List Byte := []
  deriving DecidableEq, Repr

/-- One answer entry of a Waizer frame (R551). -/
structure WAnswer where
  op : Nat
  result : Nat
  index : Nat
  sub : Nat
  value : DWord
  answered : Nat
  missing : Nat
  deriving DecidableEq, Repr

/-- A Waizer answer or notice frame that waits for transmission (R551, R560). -/
structure WReply where
  dest : BitVec 48
  kind : Nat
  seq : Half
  result : Nat
  entries : List WAnswer
  deriving DecidableEq, Repr

/-- One access applied in the present window (R559): master, index, sub-index, value written, result, and whether the
sub-entry is a command. -/
structure Applied where
  window : Nat
  m : Nat
  index : Nat
  sub : Nat
  value : Word
  result : Nat
  command : Bool
  deriving DecidableEq, Repr

/-- A frame that was forwarded to other devices (R555): its master, the frame, whether object 0x0002 asked for it, the tick,
the requests that wait for an answer (destination and tag), and the answers so far: device, frame result and entries. -/
structure Forwarded where
  m : Nat
  frame : WFrame
  object : Bool
  tick : DWord
  waiting : List (Half × Half)
  answers : List (Half × Nat × List WAnswer)
  deriving DecidableEq, Repr

/-- What waits for the end of a serialiser window (R555, R557): a frame of the T1S port, a forwarded frame with the packet that
brought it, or a BAR0 access (write or read, offset, size and value). -/
inductive Arrival where
  | frame (f : WFrame)
  | request (p : Packet) (f : WFrame)
  | bar (write : Bool) (offset size : Nat) (v : DWord)
  deriving DecidableEq, Repr

/-- The serialiser and the management port (R548 to R560). -/
structure Serialiser where
  /-- What waits for a window end: window, master and arrival, in order of arrival; R557, R558; reset none. -/
  arrivals : List (Nat × Nat × Arrival) := []
  /-- Operations applied in the present window; R558, R559; reset none. -/
  window : List Applied := []
  /-- Answers kept for the 8 most recent sources, newest first: source, sequence, tick, answer; R554; reset none. -/
  kept : List (BitVec 48 × Half × DWord × WReply) := []
  /-- Frames and answers to send on T1S, oldest first; R553; reset none. -/
  tx : List WReply := []
  /-- Forwarded frames that wait for answers; R555; reset none. -/
  forwarded : List Forwarded := []
  /-- Results of the last operation of each master: (master, result, value); R546, R551; newest first, reset none. -/
  results : List (Nat × WAnswer) := []
  /-- An alarm bit rose in the present window: (index, sub-index); R560; reset none. -/
  risen : List (Nat × Nat) := []
  /-- Tick of the last notice; R560; reset none. -/
  noticed : Option DWord := none
  deriving DecidableEq, Repr

/-! ## The whole device -/

structure State where
  /-- The commands that wait, first in, first out. Reset: none. -/
  pending : List Instr := []
  clock : Clock := {}
  pins : Pins := {}
  ident : Identity := {}
  /-- Physical cores 0 to 1,151; R15. -/
  cores : Sparse Core := []
  /-- Logical cores of accepted and running jobs, by Ops.lkey; R27; none at reset. -/
  lcores : Sparse (Option LCore) := []
  /-- Pods 0 to 63; R15. -/
  pods : Sparse Pod := []
  /-- Barrier entries, by Ops.bkey; R309, R311; unarmed at reset. -/
  barriers : Sparse Barrier := []
  /-- Semaphore entries, by Ops.skey; R309, R311; 0 at reset. -/
  sems : Sparse Sem := []
  /-- Synchronisation messages on the mesh, oldest first; R24; none at reset. -/
  flights : List Flight := []
  /-- Device-local memory, GDDR7 and CXL, 8 bits a byte, by device-local address; R266; reset DESIGN CHOICE 0 (log 5). -/
  mem : Sparse Byte := []
  /-- Memory controllers 0 to 23; R16. -/
  ctls : Sparse Controller := []
  /-- CXL ports 0 and 1; R296. -/
  cxl : Sparse CxlPort := []
  host : HostIf := {}
  /-- Scatex ports 0 to 7; R17. -/
  ports : Sparse Port := []
  fabric : Fabric := {}
  /-- Job slots, key 8 × context + slot; R516. -/
  slots : Sparse Slot := []
  /-- Rank map received for a slot that is not accepted yet, key 8 × context + slot; R38; none at reset. -/
  rankMaps : Sparse (List Half) := []
  /-- The accepted or running job of each context; R519; none at reset. -/
  jobs : Sparse (Option Job) := []
  /-- Next job sequence number, 64 bits; R522; from NOR, reset DESIGN CHOICE 0, as at manufacture (log 3). -/
  nextSequence : Nat := 0
  radish : Radish := {}
  power : Power := {}
  firmware : Firmware := {}
  calib : Calib := {}
  errors : ErrorLog := {}
  /-- Masters 0 to 16; R541. -/
  masters : Sparse Master := []
  serial : Serialiser := {}
  /-- Every dictionary sub-entry that has no field of its own: 32 bits, key index × 256 + sub-index; R535; reset as its
  table gives (Ops.dictReset). -/
  dict : Sparse Word := []
  deriving DecidableEq, Repr

/-- The device right after a power-on reset: every field at its reset value, nothing pending. -/
def State.reset : State := {}

end Sys2Proof.Machine
end

