-- ==== Sys2Proof/Machine/Ops.lean ====
section
/-! DEFINITION. The named operations over State: sparse families, bytes, memory, the dictionary's registers, error
records, digests and time. -/

namespace Sys2Proof.Machine

open Sys2Proof

/-! ## Sparse families -/

/-- The value at key `k`; an unlisted key has the value `d k`. -/
def sget {α : Type} (d : Nat → α) : Sparse α → Nat → α
  | [], k => d k
  | (i, v) :: t, k => if i = k then v else sget d t k

/-- Lists the pair in its place. -/
def sins {α : Type} : Sparse α → Nat → α → Sparse α
  | [], k, v => [(k, v)]
  | (i, x) :: t, k, v =>
    if k < i then (k, v) :: (i, x) :: t else if k = i then (k, v) :: t else (i, x) :: sins t k v

/-- Gives key `k` the value `v`; a value equal to the unlisted one is not listed. -/
def sput {α : Type} [DecidableEq α] (d : Nat → α) (m : Sparse α) (k : Nat) (v : α) : Sparse α :=
  if v = d k then m.filter (fun p => p.1 ≠ k) else sins m k v

/-- The canonical form: keys strictly rising and no listed value equal to the unlisted one. -/
def swf {α : Type} [DecidableEq α] (d : Nat → α) : Sparse α → Bool
  | [] => true
  | (k, v) :: t => decide (v ≠ d k) && t.all (fun p => decide (k < p.1)) && swf d t

/-! ## Bits and bytes -/

/-- Bits [hi:lo] of a word as a number. -/
def bits {n : Nat} (w : BitVec n) (hi lo : Nat) : Nat := (w.toNat >>> lo) % 2 ^ (hi - lo + 1)

/-- Bit i of a word. -/
def bit {n : Nat} (w : BitVec n) (i : Nat) : Bool := w.toNat.testBit i

/-- The number that bytes spell, least significant first (R7). -/
def leNat : List Byte → Nat
  | [] => 0
  | b :: t => b.toNat + 256 * leNat t

/-- The n bytes of a number, least significant first (R7). -/
def leBytes : Nat → Nat → List Byte
  | 0, _ => []
  | n + 1, v => BitVec.ofNat 8 v :: leBytes n (v / 256)

/-- Little-endian field of `n` bytes at offset `o`. -/
def field (bs : List Byte) (o n : Nat) : Nat := leNat ((bs.drop o).take n)

/-- A number read as two's complement of n bits. -/
def signed (n v : Nat) : Int := if v % 2 ^ n < 2 ^ (n - 1) then (v % 2 ^ n : Nat) else (v % 2 ^ n : Nat) - (2 ^ n : Nat)

/-- Two's complement INT32 value of 32 bits. -/
def int32 (w : Word) : Int := signed 32 w.toNat

/-- The numbers 0 to n − 1. -/
def upto (n : Nat) : List Nat := List.range n

/-- Ascending order without repeats. -/
def insertNat (a : Nat) : List Nat → List Nat
  | [] => [a]
  | b :: t => if a < b then a :: b :: t else if a = b then b :: t else b :: insertNat a t

def sortNat (l : List Nat) : List Nat := l.foldr insertNat []

/-! ## Memory -/

/-- What a byte that nothing has written reads as (DESIGN CHOICE, log 5). -/
def memFill : Nat → Byte := fun _ => 0

/-- The byte at an address. -/
def getByte (m : Sparse Byte) (a : Nat) : Byte := sget memFill m a

/-- Writes one byte. -/
def putByte (m : Sparse Byte) (a : Nat) (b : Byte) : Sparse Byte := sput memFill m a b

/-- The n bytes from an address on. -/
def getBytes (m : Sparse Byte) (a : Nat) : Nat → List Byte
  | 0 => []
  | n + 1 => getByte m a :: getBytes m (a + 1) n

/-- Writes bytes from an address on. -/
def putBytes (m : Sparse Byte) (a : Nat) : List Byte → Sparse Byte
  | [] => m
  | b :: t => putBytes (putByte m a b) (a + 1) t

/-- The canonical form of a memory. -/
def Memory.wf (m : Sparse Byte) : Bool := swf memFill m

/-! ## Instances -/

/-- Key of logical core l of held rank r of context k. -/
def lkey (k r l : Nat) : Nat := (k * 65536 + r) * 1024 + l
/-- Key of virtual barrier b (R308, R311). -/
def bkey (k r b : Nat) : Nat := (k * 65536 + r) * 256 + b
/-- Key of virtual semaphore q (R308, R311). -/
def skey (k r q : Nat) : Nat := (k * 65536 + r) * 1024 + q

def State.core (s : State) (c : Nat) : Core := sget (fun _ => ({} : Core)) s.cores c
def State.setCore (s : State) (c : Nat) (v : Core) : State := { s with cores := sput (fun _ => {}) s.cores c v }
def State.lcore (s : State) (i : Nat) : Option LCore := sget (fun _ => none) s.lcores i
def State.setLcore (s : State) (i : Nat) (v : Option LCore) : State :=
  { s with lcores := sput (fun _ => none) s.lcores i v }
def State.pod (s : State) (p : Nat) : Pod := sget (fun _ => ({} : Pod)) s.pods p
def State.setPod (s : State) (p : Nat) (v : Pod) : State := { s with pods := sput (fun _ => {}) s.pods p v }
def State.barrier (s : State) (i : Nat) : Barrier := sget (fun _ => ({} : Barrier)) s.barriers i
def State.setBarrier (s : State) (i : Nat) (v : Barrier) : State :=
  { s with barriers := sput (fun _ => {}) s.barriers i v }
def State.sem (s : State) (i : Nat) : Sem := sget (fun _ => ({} : Sem)) s.sems i
def State.setSem (s : State) (i : Nat) (v : Sem) : State := { s with sems := sput (fun _ => {}) s.sems i v }
def State.ctl (s : State) (i : Nat) : Controller := sget (fun _ => ({} : Controller)) s.ctls i
def State.setCtl (s : State) (i : Nat) (v : Controller) : State := { s with ctls := sput (fun _ => {}) s.ctls i v }
def State.cxlPort (s : State) (i : Nat) : CxlPort := sget (fun _ => ({} : CxlPort)) s.cxl i
def State.setCxl (s : State) (i : Nat) (v : CxlPort) : State := { s with cxl := sput (fun _ => {}) s.cxl i v }
def State.port (s : State) (i : Nat) : Port := sget (fun _ => ({} : Port)) s.ports i
def State.setPort (s : State) (i : Nat) (v : Port) : State := { s with ports := sput (fun _ => {}) s.ports i v }
/-- Slot j of context k. -/
def State.slot (s : State) (k j : Nat) : Slot := sget (fun _ => ({} : Slot)) s.slots (8 * k + j)
def State.setSlot (s : State) (k j : Nat) (v : Slot) : State :=
  { s with slots := sput (fun _ => {}) s.slots (8 * k + j) v }
def State.job (s : State) (k : Nat) : Option Job := sget (fun _ => none) s.jobs k
def State.setJob (s : State) (k : Nat) (v : Option Job) : State := { s with jobs := sput (fun _ => none) s.jobs k v }
def State.master (s : State) (m : Nat) : Master := sget (fun _ => ({} : Master)) s.masters m
def State.setMaster (s : State) (m : Nat) (v : Master) : State :=
  { s with masters := sput (fun _ => {}) s.masters m v }

/-! ## Registers of a logical core (R148) -/

def LCore.getA (x : LCore) (i : Nat) : DWord := sget (fun _ => 0) x.a i
def LCore.setA (x : LCore) (i : Nat) (v : DWord) : LCore := { x with a := sput (fun _ => 0) x.a i v }
def LCore.getL (x : LCore) (i : Nat) : Word := sget (fun _ => 0) x.lc i
def LCore.setL (x : LCore) (i : Nat) (v : Word) : LCore := { x with lc := sput (fun _ => 0) x.lc i v }
def LCore.getS (x : LCore) (i : Nat) : Word := sget (fun _ => 0) x.sr i
def LCore.setS (x : LCore) (i : Nat) (v : Word) : LCore := { x with sr := sput (fun _ => 0) x.sr i v }
def LCore.getT (x : LCore) (i : Nat) : DescWord := sget (fun _ => 0) x.t i
def LCore.loop (x : LCore) (i : Nat) : Option (Nat × Nat) := sget (fun _ => none) x.loops i
def LCore.setLoop (x : LCore) (i : Nat) (v : Option (Nat × Nat)) : LCore :=
  { x with loops := sput (fun _ => none) x.loops i v }
/-- Key of marrow entry (array, row, column), in the order of R93. -/
def ekey (a row col : Nat) : Nat := (a * 32 + row) * 64 + col
def LCore.entry (x : LCore) (i : Nat) : Entry := sget (fun _ => ({} : Entry)) x.marrow i
def LCore.setEntry (x : LCore) (i : Nat) (v : Entry) : LCore := { x with marrow := sput (fun _ => {}) x.marrow i v }
def LCore.record (x : LCore) (i : Nat) : RowRecord := sget (fun _ => ({} : RowRecord)) x.records i
def LCore.setRecord (x : LCore) (i : Nat) (v : RowRecord) : LCore :=
  { x with records := sput (fun _ => {}) x.records i v }
def LCore.topList (x : LCore) (i : Nat) : List (Word × Word) := sget (fun _ => []) x.topk i
def LCore.setTop (x : LCore) (i : Nat) (v : List (Word × Word)) : LCore :=
  { x with topk := sput (fun _ => []) x.topk i v }
def Counts.zero : Counts := ⟨0, 0, 0, 0⟩
def LCore.counts (x : LCore) (i : Nat) : Counts := sget (fun _ => Counts.zero) x.sets i
def LCore.setCounts (x : LCore) (i : Nat) (v : Counts) : LCore :=
  { x with sets := sput (fun _ => Counts.zero) x.sets i v }
/-- Tile of array a, active (false) or shadow (true). -/
def LCore.tile (x : LCore) (a : Nat) (shadow : Bool) : Option Tile :=
  sget (fun _ => none) x.tiles (2 * a + if shadow then 1 else 0)
def LCore.setTile (x : LCore) (a : Nat) (shadow : Bool) (v : Option Tile) : LCore :=
  { x with tiles := sput (fun _ => none) x.tiles (2 * a + if shadow then 1 else 0) v }
def LCore.vreg (x : LCore) (i : Nat) : VReg := sget (fun _ => ({} : VReg)) x.vregs i
def LCore.setVreg (x : LCore) (i : Nat) (v : VReg) : LCore := { x with vregs := sput (fun _ => {}) x.vregs i v }
def LCore.bar (x : LCore) (b : Nat) : CoreBarrier := sget (fun _ => ({} : CoreBarrier)) x.barriers b
def LCore.setBar (x : LCore) (b : Nat) (v : CoreBarrier) : LCore :=
  { x with barriers := sput (fun _ => {}) x.barriers b v }

def LCore.key (x : LCore) : Nat := lkey x.k x.r x.l

/-- Bank i of a core. -/
def Core.bank (x : Core) (i : Nat) : Bank := if i = 0 then x.bank0 else x.bank1
def Core.setBank (x : Core) (i : Nat) (v : Bank) : Core := if i = 0 then { x with bank0 := v } else { x with bank1 := v }
def Core.ramp (x : Core) (a : Nat) : Ramp := if a = 0 then x.ramp0 else x.ramp1
def Core.setRamp (x : Core) (a : Nat) (v : Ramp) : Core := if a = 0 then { x with ramp0 := v } else { x with ramp1 := v }
def Core.halt (x : Core) (i : Nat) : HaltRec := if i = 0 then x.halt0 else x.halt1
def Core.setHalt (x : Core) (i : Nat) (v : HaltRec) : Core := if i = 0 then { x with halt0 := v } else { x with halt1 := v }
/-- The logical core in context slot i. -/
def Core.res (x : Core) (i : Nat) : Option Nat := if i = 0 then x.res0 else x.res1
def Core.setRes (x : Core) (i : Nat) (v : Option Nat) : Core := if i = 0 then { x with res0 := v } else { x with res1 := v }

/-! ## The dictionary's registers -/

/-- Key of sub-index `sub` of index `idx`. -/
def dkey (idx sub : Nat) : Nat := idx * 256 + sub

/-- Reset values of the sub-entries that have no field of their own and whose reset is not 0, by offset from the start
of their instance block. The rule that gives the value is named beside it. -/
def dictReset (key : Nat) : Word :=
  let idx := key / 256
  let sub := key % 256
  if idx = 0x0300 ∧ sub = 0x04 then 8                                          -- throttle duty, R590
  else if idx = 0x3100 ∧ sub = 0x01 then 3                                     -- radish control, R487
  else if idx = 0x3101 ∧ sub = 0x06 then 1                                     -- forward, R485
  else if 0x2000 ≤ idx ∧ idx < 0x2400 then
    let o := idx % 0x40
    if o = 0x01 ∧ sub = 0x01 then 0xFF                                         -- running slot, R534
    else if o = 0x23 ∧ sub = 0x03 then 0xFF                                    -- worst queue, R428
    else if o = 0x25 ∧ (sub = 0x01 ∨ sub = 0x02) then 0xFFFFFFFF               -- checkpoint step, R468
    else if o = 0x26 ∧ (sub = 0x0F ∨ sub = 0x10) then 0xFFFFFFFF               -- last agreed step, R503
    else 0
  else if 0x9200 ≤ idx ∧ idx < 0x9800 ∧ idx % 0x40 = 1 ∧ (sub = 0x0B ∨ sub = 0x0C) then 0xFFFFFFFF  -- R306
  else if 0xA000 ≤ idx ∧ idx < 0xB000 ∧ idx % 0x100 = 0 ∧ sub = 0x06 then 0xFFFFFFFF                -- R440
  else 0

/-- The sub-entry's word. -/
def State.reg (s : State) (idx sub : Nat) : Word := sget dictReset s.dict (dkey idx sub)
def State.setReg (s : State) (idx sub : Nat) (v : Word) : State :=
  { s with dict := sput dictReset s.dict (dkey idx sub) v }
/-- A value on two sub-indices (R8). -/
def State.reg64 (s : State) (idx sub : Nat) : Nat := (s.reg idx sub).toNat + 2 ^ 32 * (s.reg idx (sub + 1)).toNat
def State.setReg64 (s : State) (idx sub : Nat) (v : Nat) : State :=
  (s.setReg idx sub (BitVec.ofNat 32 v)).setReg idx (sub + 1) (BitVec.ofNat 32 (v / 2 ^ 32))

/-- Saturating sum (R14). -/
def satAdd (top a b : Nat) : Nat := min top (a + b)
/-- Adds to a 32-bit counter, saturating (R14). -/
def State.bump (s : State) (idx sub n : Nat) : State :=
  s.setReg idx sub (BitVec.ofNat 32 (satAdd (2 ^ 32 - 1) (s.reg idx sub).toNat n))
/-- Adds to a 64-bit counter, saturating (R14). -/
def State.bump64 (s : State) (idx sub n : Nat) : State :=
  s.setReg64 idx sub (satAdd (2 ^ 64 - 1) (s.reg64 idx sub) n)
/-- Raises a counter of 32 bits to at least n. -/
def State.peak (s : State) (idx sub n : Nat) : State := s.setReg idx sub (BitVec.ofNat 32 (max n (s.reg idx sub).toNat))
/-- Sets the sub-indices `subs` of an object to 0. -/
def State.clearRegs (s : State) (idx : Nat) (subs : List Nat) : State := subs.foldl (fun t sub => t.setReg idx sub 0) s

/-- Index of object o of context k (R538). -/
def ctxObj (k o : Nat) : Nat := 0x2000 + 0x40 * k + o
/-- Index of object o of physical core c. -/
def coreObj (c o : Nat) : Nat := 0x4000 + 0x10 * c + o
/-- Index of object o of Scatex port p. -/
def portObj (p o : Nat) : Nat := 0x9000 + 0x40 * p + o
/-- Index of object o of memory controller n. -/
def ctlObj (n o : Nat) : Nat := 0x9200 + 0x40 * n + o
/-- Index of object o of CXL port n. -/
def cxlObj (n o : Nat) : Nat := 0x9800 + 0x80 * n + o
/-- Index of numerics object o of context k. -/
def numObj (k o : Nat) : Nat := 0xA000 + 0x100 * k + o

/-! ## Time -/

/-- The global cycle 60 × T + c of R26. -/
def State.now (s : State) : Nat := 60 * s.clock.tick.toNat + s.clock.cycle

/-- `n` arithmetic cycles pass (R569: 60 to a tick). -/
def Clock.pass (k : Clock) (n : Nat) : Clock :=
  { k with tick := k.tick + BitVec.ofNat 64 ((k.cycle + n) / 60), cycle := (k.cycle + n) % 60 }

/-- The arrays that an MSTR or MSWAP names (R196, R202): bit 118 array 0, bit 119 array 1. -/
def namesArray (w : IWord) (a : Nat) : Bool := bit w (118 + a)

/-- The first pass of the stream, when nothing before it holds it back: a swap that names one of its arrays (R653), or
an MOUT of its row (R126). -/
def nextPass : List MItem → List Nat → List (Nat × Nat) → Option MItem
  | [], _, _ => none
  | .swap arr :: t, sw, outs =>
    nextPass t (sw ++ (if arr % 2 = 1 then [0] else []) ++ (if arr / 2 % 2 = 1 then [1] else [])) outs
  | .out h row _ :: t, sw, outs => nextPass t sw (outs ++ [((if bit h.w 119 then 1 else 0), row)])
  | .load _ :: t, sw, outs => nextPass t sw outs
  | .pass h row sa sb f :: _, sw, outs =>
    if (upto 2).any (fun a => namesArray h.w a && (sw.contains a || outs.contains (a, row))) then none
    else some (.pass h row sa sb f)

/-- The logical core whose matrix work comes first on a core: that of the context that gave way completes before that of
the one that issues (R175, R177). -/
def matrixOwner (s : State) (x : Core) : Option Nat :=
  let hasWork := fun (o : Option Nat) =>
    match o with
    | some i => match s.lcore i with
      | some l => !l.mq.isEmpty
      | none => false
    | none => false
  if hasWork (x.res (1 - x.issuing)) then x.res (1 - x.issuing) else x.res x.issuing

/-- A pass waits for array `a` (R131). -/
def passWaits (s : State) (x : Core) (a : Nat) : Bool :=
  match matrixOwner s x with
  | none => false
  | some i =>
    match s.lcore i with
    | none => false
    | some l =>
      match nextPass l.mq [] [] with
      | some (.pass h _ _ _ _) => namesArray h.w a
      | _ => false

/-- An array's ramp after `n` > 0 cycles without an admission (R130, R132): the credit of the last of them after its
rise. -/
def Ramp.pass (r : Ramp) (n : Nat) (waits : Bool) : Ramp :=
  { r with
    credit := min 8 (min 8 r.credit + (n - 1) * r.lam) + r.lam
    idle := if waits then 0 else min 32 (r.idle + n)
    still := min 4 (r.still + n) }

/-- Cycles until an array's credit reaches 8 (R130). -/
def Ramp.until (r : Ramp) : Nat :=
  if 8 ≤ r.credit then 0 else ((upto 9).find? (fun n => 8 ≤ (r.pass (n + 1) true).credit)).getD 8 + 1

/-- The stall counter of a logical core that does not issue: bank wait, barrier wait or semaphore wait (R188). -/
def Status.counter : Status → Option Nat
  | .atBank _ => some 0x07
  | .atBarrier _ => some 0x25
  | .atSemaphore _ => some 0x27
  | _ => none

/-- `n` cycles pass on core c: in diagnostic mode its waits and the passes that the ramp holds count (R188). -/
def State.countWaits (s : State) (c : Nat) (p : Core) (n : Nat) : State :=
  let on := ((([p.res0, p.res1].filterMap id) ++ p.fold).eraseDups).filterMap (fun i =>
    match s.lcore i with
    | some x => if x.diagnostic then some x else none
    | none => none)
  if on.isEmpty then s
  else
    let t := (on.filterMap (fun x => x.status.counter)).foldl (fun (t : State) sub => t.bump64 (coreObj c 0x5) sub n) s
    let held := (upto 2).foldl (fun m a => if passWaits s p a then max m (p.ramp a).until else m) 0
    if held = 0 then t else t.bump64 (coreObj c 0x5) 0x0D (min n held)

/-- Somebody takes from the free semaphore of a queue at its home (R427). -/
def State.queueWaits (s : State) (k : Nat) (j : Job) (free : Nat) : Bool :=
  j.held.any (fun r => (s.sem (skey k r free)).waiters.any (fun w =>
    match w.1 with
    | .core _ => true
    | .reduction _ => false))

/-- `n` cycles pass while the queues of context k's job that have a waiter stall (R427, R428). -/
def State.stallQueues (s : State) (k : Nat) (j : Job) (n : Nat) : State :=
  let hit := (j.queues.zipIdx).filter (fun q => s.queueWaits k j q.1.1)
  if hit = [] then s
  else
    let st := hit.foldl (fun (m : Sparse Nat) q => sput (fun _ => 0) m q.2 (sget (fun _ => 0) m q.2 + n)) j.stalls
    let top := st.foldl (fun (b : Nat × Nat) p => if b.2 < p.2 then p else b) (0, 0)
    let t := (s.setJob k (some { j with stalls := st })).bump64 (ctxObj k 0x23) 0x01 (n * hit.length)
    (t.setReg (ctxObj k 0x23) 0x03 (BitVec.ofNat 32 top.1)).setReg64 (ctxObj k 0x23) 0x04 (min (2 ^ 64 - 1) top.2)

/-- The stalls of every job's queues in `n` cycles. -/
def State.stallAll (s : State) (n : Nat) : State :=
  s.jobs.foldl (fun (t : State) p =>
    match p.2 with
    | some j => if (s.slot p.1 j.j).state = 4 then t.stallQueues p.1 j n else t
    | none => t) s

/-- `n` arithmetic cycles pass: the counter, the activity ramps of every core, the queue stalls and the
waits of cores in diagnostic mode go on. -/
def State.passCycles (s0 : State) (n : Nat) : State :=
  if n = 0 then s0
  else
    let s := s0.cores.foldl (fun (u : State) p => u.countWaits p.1 p.2 n) (s0.stallAll n)
    let t := s.cores.foldl (fun (u : State) (p : Nat × Core) =>
      u.setCore p.1 { p.2 with stall := p.2.stall - n, conv0 := p.2.conv0 - n, conv1 := p.2.conv1 - n, ramp0 := p.2.ramp0.pass n (passWaits s p.2 0), ramp1 := p.2.ramp1.pass n (passWaits s p.2 1) }) s
    { t with clock := s.clock.pass n }

/-- One arithmetic cycle passes while the always-on domain has supply (R581). -/
def State.idle (s : State) : State := if s.power.alive then s.passCycles 1 else s

/-- Time goes on to tick `t`, cycle 0, when it lies ahead: a command that is an event at a tick is given at that tick
(DESIGN CHOICE, log 14). -/
def State.until (s : State) (t : Nat) : State :=
  if s.clock.tick.toNat < t then s.passCycles (60 * t - s.now) else s

/-- Time goes on to global cycle n when it lies ahead. -/
def State.untilCycle (s : State) (n : Nat) : State := if s.now < n then s.passCycles (n - s.now) else s

/-- The pointer (60 × T + c + o) mod n of R26, R264, R290, R291, R327 and R375. -/
def State.pointer (s : State) (o n : Nat) : Nat := (s.now + o) % n

/-! ## Interrupts and alarms -/

/-- Signals MSI-X vector v of function fn (R630): it is held while the function is in D3hot (R632) or the link is not up. -/
def State.msix (s : State) (fn v : Nat) : State :=
  if s.host.state = 2 && !(s.host.d3.contains fn) then { s with host := { s.host with sent := s.host.sent ++ [(fn, v)] } }
  else if s.host.msix.contains (fn, v) then s
  else { s with host := { s.host with msix := s.host.msix ++ [(fn, v)] } }

/-- A read of host memory under function fn, held while the function is in D3hot (R301, R632). -/
def State.hostAsk (s : State) (fn : Nat) (a : HostAsk) : State :=
  { s with host := { s.host with asks := s.host.asks ++ [{ a with heldFor := if s.host.d3.contains fn then some fn else none }] } }

/-- Posted writes to host memory under function fn, held while the function is in D3hot (R301, R632). -/
def State.hostWrites (s : State) (fn : Nat) (ws : List (Nat × List Byte)) : State :=
  if s.host.d3.contains fn then { s with host := { s.host with heldWrites := s.host.heldWrites ++ ws.map (fun w => (fn, w)) } }
  else { s with host := { s.host with writes := s.host.writes ++ ws } }

/-- The context whose function alone, beside the PF, reaches an alarm sub-entry (R542). -/
def alarmContext (idx : Nat) : Option Nat :=
  if 0x0010 ≤ idx ∧ idx < 0x0020 then some (idx - 0x10)
  else if 0xA000 ≤ idx ∧ idx < 0xB000 then some ((idx - 0xA000) / 0x100)
  else none

/-- Sets bit i of an alarm sub-entry. A bit that rises is noted for the window's notice (R560) and signals vector 1 of
the functions that reach it (R630). -/
def State.alarm (s : State) (idx sub i : Nat) : State :=
  if bit (s.reg idx sub) i then s
  else
    let s1 := s.setReg idx sub (s.reg idx sub ||| BitVec.ofNat 32 (2 ^ i))
    let s2 := { s1 with serial := { s1.serial with risen := s1.serial.risen ++ [(idx, sub)] } }
    let s3 := s2.msix 0 1
    match alarmContext idx with
    | some k => if k = 0 then s3 else s3.msix k 1
    | none => s3

/-! ## Error records (R488 to R492, R575, R577) -/

/-- The unit field of R489. -/
def unitField (kind sub number : Nat) : Word := BitVec.ofNat 32 (kind * 2 ^ 28 + sub * 2 ^ 16 + number)

/-- The job field of R488: no job. -/
def noJob : Word := 0
/-- The job field of R488: context k, and a logical core. -/
def jobField (k l : Nat) : Word := BitVec.ofNat 32 (k * 2 ^ 16 + 2 ^ 15 + l)
/-- The step field when there is none. -/
def noStep : DWord := 0xFFFFFFFFFFFFFFFF

/-- The wall time of a tick (R492). -/
def State.wall (s : State) : DWord :=
  BitVec.ofNat 64 (s.reg64 0x0430 0x03) + (s.clock.tick - BitVec.ofNat 64 (s.reg64 0x0430 0x01)) * 40

/-- The records that wait for NOR, with one more; at 256 the oldest of effect 0 makes room, else the oldest (R577). -/
def waitingWith (log : ErrorLog) (seq : Nat) : List Nat × Bool :=
  if log.waiting.length < 256 then (log.waiting ++ [seq], false)
  else
    match log.waiting.find? (fun q => log.records.any (fun r => r.seq = q && r.effect = 0)) with
    | some q => (log.waiting.erase q ++ [seq], true)
    | none => (log.waiting.drop 1 ++ [seq], false)

/-- Enters an error record (R488, R491): its sequence is the next one, and alarm bit 0 of 0x1000.04 rises. -/
def State.addError (s : State) (kind effect : Nat) (unit job : Word) (operation : Nat) (step d0 d1 : DWord) : State :=
  let q := s.errors.next
  let r : ErrorRec :=
    { kind := kind, effect := effect, seq := q, tick := s.clock.tick, wall := s.wall, unit := unit, job := job,
      operation := BitVec.ofNat 32 operation, temperature := Config.temperature unit s.clock.tick,
      voltage := Config.voltage unit s.clock.tick, step := step, detail0 := d0, detail1 := d1 }
  let w := waitingWith s.errors q
  let lost := s.errors.records.length ≥ 1024 && !(s.errors.read.contains (q - 1024))
  let s1 := { s with errors := { s.errors with records := (r :: s.errors.records).take 1024, next := q + 1, waiting := w.1 } }
  let s2 := if lost || w.2 then s1.bump 0x1000 0x03 1 else s1
  let s3 := s2.alarm 0x1000 0x04 0
  let s4 := if kind = 0x0005 then s3.alarm 0x1000 0x04 2 else s3
  if kind = 0x0032 then s4.alarm 0x1000 0x04 3 else s4

/-! ## Digests -/

/-- One byte into CRC-64 with the ECMA-182 polynomial, most significant bit first (R402). -/
def crcByte (crc : DWord) (b : Byte) : DWord :=
  (upto 8).foldl (fun c _ => if c.msb then (c <<< 1) ^^^ 0x42F0E1EBA9EA3693 else c <<< 1)
    (crc ^^^ ((b.setWidth 64) <<< 56))

/-- CRC-64 under the conventions of R402. -/
def crc64 (bs : List Byte) : DWord := bs.foldl crcByte 0

/-- mix of R74. -/
def mix (z : DWord) : DWord :=
  let z1 := (z ^^^ (z >>> 30)) * 0xBF58476D1CE4E5B9
  let z2 := (z1 ^^^ (z1 >>> 27)) * 0x94D049BB133111EB
  z2 ^^^ (z2 >>> 31)

/-- rand32 of R74. -/
def rand32 (seed step : DWord) (tensor draw purpose : Nat) (index : DWord) : Word :=
  let h1 := mix (seed + 0x9E3779B97F4A7C15)
  let h2 := mix (h1 ^^^ step)
  let h3 := mix (h2 ^^^ ((BitVec.ofNat 64 tensor <<< 32) ||| (BitVec.ofNat 64 draw <<< 16) ||| (BitVec.ofNat 64 purpose <<< 8)))
  let h4 := mix (h3 ^^^ index)
  (h4 >>> 32).setWidth 32

/-- The hash of one element write for a digest tap (R471). -/
def tapHash (tensor : Nat) (index bitsW : DWord) : DWord :=
  mix (mix (mix (BitVec.ofNat 64 tensor + 0x9E3779B97F4A7C15) ^^^ index) ^^^ bitsW)

/-! ## Outcomes -/

/-- The answer of a command that names an existing unit. -/
def onUnit (ok : Bool) (t : State) : Host.Outcome State Fault Refusal :=
  if ok then .next t else .fault .noSuchUnit

end Sys2Proof.Machine
end

