-- ==== Sys2Proof/Machine/Formats.lean ====
section
/-! DEFINITION. Number formats, exact values, the one conversion, and the elementwise operations of numerics level 1
(R54 to R79). -/

namespace Sys2Proof.Machine

/-! ## Formats -/

/-- A format code of R54 that is not reserved. -/
def fmtOk (f : Nat) : Bool := f < 8

/-- Width of an element in bits (R54). -/
def fmtWidth : Nat → Nat
  | 0 => 32 | 1 => 16 | 2 => 16 | 3 => 8 | 4 => 8 | 5 => 4 | 6 => 8 | _ => 32

/-- Exponent bits, fraction bits and bias of a floating format (R55). -/
def fmtLayout : Nat → Nat × Nat × Nat
  | 0 => (8, 23, 127) | 1 => (5, 10, 15) | 2 => (8, 7, 127) | 3 => (4, 3, 7) | 4 => (5, 2, 15) | _ => (2, 1, 1)

/-- INT8 or INT32. -/
def fmtInt (f : Nat) : Bool := f = 6 || f = 7

/-- Canonical NaN without its sign (R55). -/
def fmtNan : Nat → Nat
  | 0 => 0x7FC00000 | 1 => 0x7E00 | 2 => 0x7FC0 | 3 => 0x7F | 4 => 0x7E | _ => 0

/-- The sign bit's weight. -/
def fmtSign (f : Nat) : Nat := 2 ^ (fmtWidth f - 1)

/-- Largest finite magnitude as (mantissa, exponent): R55. -/
def fmtLargest (f : Nat) : Nat × Int :=
  let l := fmtLayout f
  if f = 3 then (14, 5)
  else if f = 5 then (3, 1)
  else (2 ^ (l.2.1 + 1) - 1, (2 ^ l.1 - 2 : Int) - l.2.2 - l.2.1)

/-- Exponent of the smallest subnormal (R55). -/
def fmtQuantum (f : Nat) : Int :=
  let l := fmtLayout f
  1 - (l.2.2 : Int) - l.2.1

/-! ## Exact values -/

/-- The exact value of an element or of a marrow entry: ±mant × 2^exp, an infinity or a NaN with its sign. -/
inductive Val where
  | nan (neg : Bool)
  | inf (neg : Bool)
  | fin (neg : Bool) (mant : Nat) (exp : Int)
  deriving DecidableEq, Repr

/-- An exact result before its conversion: ±(num / den) × 2^exp, or the root of such a quotient. -/
inductive Exact where
  | nan (neg : Bool)
  | inf (neg : Bool)
  | fin (neg : Bool) (num den : Nat) (exp : Int)
  | root (num den : Nat) (exp : Int)
  deriving DecidableEq, Repr

def Val.exact : Val → Exact
  | .nan s => .nan s
  | .inf s => .inf s
  | .fin s m e => .fin s m 1 e

def Val.isNan : Val → Bool
  | .nan _ => true
  | _ => false

def Val.isZero : Val → Bool
  | .fin _ 0 _ => true
  | _ => false

def Val.neg : Val → Bool
  | .nan s => s
  | .inf s => s
  | .fin s _ _ => s

/-- Negation that does not reach a NaN (R57, R209). -/
def Val.negate : Val → Val
  | .nan s => .nan s
  | .inf s => .inf (!s)
  | .fin s m e => .fin (!s) m e

/-- The integer value × 2^300 of a finite value whose exponent is at least −300. -/
def Val.scaled : Val → Int
  | .fin s m e => if s then -((m <<< (e + 300).toNat : Nat) : Int) else ((m <<< (e + 300).toNat : Nat) : Int)
  | _ => 0

/-- The value of an integer × 2^e. -/
def Val.ofInt (z : Int) (e : Int) : Val := .fin (decide (z < 0)) z.natAbs e

/-- The value of an element of `f` from its bits (R55, R58, R59). `d` is the block's scale byte for E2M1. -/
def decodeElem (f : Nat) (b : Nat) (d : Byte := 127) : Val :=
  if f = 6 then Val.ofInt (signed 8 b) 0
  else if f = 7 then Val.ofInt (signed 32 b) 0
  else
    let l := fmtLayout f
    let frac := b % 2 ^ l.2.1
    let e := b / 2 ^ l.2.1 % 2 ^ l.1
    let s := b.testBit (fmtWidth f - 1)
    let finite := if e = 0 then Val.fin s frac (fmtQuantum f) else Val.fin s (2 ^ l.2.1 + frac) (fmtQuantum f + (e - 1 : Nat))
    if f = 5 then
      if d = 0xFF then .nan s
      else
        match finite with
        | .fin s m x => .fin s m (x + ((d.toNat : Int) - 127))
        | v => v
    else if f = 3 then (if e = 15 ∧ frac = 7 then .nan s else finite)
    else if e = 2 ^ l.1 - 1 then (if frac = 0 then .inf s else .nan s)
    else finite

/-! ## Rounding (R65, R66) -/

/-- One root bit after another. -/
def isqrtGo (n : Nat) : Nat → Nat → Nat
  | 0, acc => acc
  | b + 1, acc => if (acc + 2 ^ b) * (acc + 2 ^ b) ≤ n then isqrtGo n b (acc + 2 ^ b) else isqrtGo n b acc

/-- The integer part of √n. -/
def isqrt (n : Nat) : Nat := isqrtGo n (n.log2 / 2 + 1) 0

/-- ⌊(num / den) × 2^e⌋ and whether that is exact. -/
def quot (num den : Nat) (e : Int) : Nat × Bool :=
  if 0 ≤ e then (num <<< e.toNat / den, num <<< e.toNat % den = 0)
  else (num / den <<< (-e).toNat, num % den <<< (-e).toNat = 0)

/-- ⌊|x| / 2^u⌋ and whether that is exact. -/
def Exact.floorAt (x : Exact) (u : Int) : Nat × Bool :=
  match x with
  | .fin _ num den e => quot num den (e - u)
  | .root num den e =>
    let q := quot num den (e - 2 * u)
    let r := isqrt q.1
    (r, q.2 && r * r = q.1)
  | _ => (0, true)

/-- ⌊log2 |x|⌋ of a nonzero finite x. -/
def Exact.top (x : Exact) : Int :=
  match x with
  | .fin _ num den e =>
    let t := (num.log2 : Int) - den.log2 + e
    if 1 ≤ (quot num den (e - t)).1 then t else t - 1
  | .root num den e =>
    let t := (num.log2 : Int) - den.log2 + e
    (if 1 ≤ (quot num den (e - t)).1 then t else t - 1) / 2
  | _ => 0

def Exact.neg : Exact → Bool
  | .nan s => s
  | .inf s => s
  | .fin s _ _ _ => s
  | .root _ _ _ => false

def Exact.isZero : Exact → Bool
  | .fin _ 0 _ _ => true
  | .root 0 _ _ => true
  | _ => false

/-- |x| / 2^u rounded to an integer in a mode of R65; `u32` is the generator's word. -/
def Exact.digits (x : Exact) (u : Int) (mode : Nat) (u32 : Word) : Nat :=
  let g := x.floorAt (u - 33)
  let q := g.1 / 2 ^ 33
  let rem := g.1 % 2 ^ 33
  if rem = 0 && g.2 then q
  else if mode = 0 then
    if 2 ^ 32 < rem || (rem = 2 ^ 32 && (!g.2 || q % 2 = 1)) then q + 1 else q
  else if mode = 1 then q
  else if mode = 2 then (if q % 2 = 1 then q else q + 1)
  else if 2 ^ 32 ≤ rem / 2 + u32.toNat then q + 1 else q

/-! ## The conversion (R64 to R69) -/

/-- A converted element: its bits and its class (R64). -/
structure Conv where
  bits : Nat
  cls : Nat
  deriving DecidableEq, Repr

/-- The sign bit of a result. -/
def signBits (f : Nat) (s : Bool) : Nat := if s then fmtSign f else 0

/-- Encodes q × 2^u, at most the largest finite value, in a floating format. -/
def encodeFloat (f : Nat) (q : Nat) (u : Int) : Nat :=
  let l := fmtLayout f
  let p := 2 ^ l.2.1
  let w := if q = 2 * p then (p, u + 1) else (q, u)
  if w.1 < p then w.1 else (w.2 - fmtQuantum f + 1).toNat * p + (w.1 - p)

/-- The digits and quantum exponent of a nonzero finite value rounded onto a floating format's grid, unbounded above. -/
def roundFloat (f mode : Nat) (u32 : Word) (x : Exact) : Nat × Int :=
  let u := max (x.top - (fmtLayout f).2.1) (fmtQuantum f)
  (x.digits u mode u32, u)

/-- Whether q × 2^u exceeds the largest finite value (R67). -/
def exceeds (f : Nat) (q : Nat) (u : Int) : Bool :=
  let m := fmtLargest f
  if m.2 < u then decide (q ≠ 0) else decide (m.1 <<< (m.2 - fmtQuantum f).toNat < q <<< (u - fmtQuantum f).toNat)

/-- Largest finite magnitude, as bits. -/
def largestBits (f : Nat) : Nat := encodeFloat f (fmtLargest f).1 (fmtLargest f).2

/-- Conversion into a floating format other than E2M1 (R68). -/
def convFloat (f mode : Nat) (sat : Bool) (u32 : Word) (x : Exact) : Conv :=
  match x with
  | .nan s => ⟨signBits f s + fmtNan f, 3⟩
  | .inf s =>
    if sat then ⟨signBits f s + largestBits f, 2⟩
    else if f = 3 then ⟨signBits f s + fmtNan f, 3⟩
    else ⟨signBits f s + (2 ^ (fmtLayout f).1 - 1) * 2 ^ (fmtLayout f).2.1, 3⟩
  | x =>
    if x.isZero then ⟨signBits f x.neg, 1⟩
    else
      let r := roundFloat f mode u32 x
      if exceeds f r.1 r.2 then
        if sat then ⟨signBits f x.neg + largestBits f, 2⟩
        else if f = 3 then ⟨signBits f x.neg + fmtNan f, 3⟩
        else if mode = 0 ∨ mode = 3 then ⟨signBits f x.neg + (2 ^ (fmtLayout f).1 - 1) * 2 ^ (fmtLayout f).2.1, 3⟩
        else ⟨signBits f x.neg + largestBits f, 0⟩
      else ⟨signBits f x.neg + encodeFloat f r.1 r.2, if r.1 = 0 then 1 else 0⟩

/-- Conversion into INT8 or INT32 (R69). -/
def convInt (f mode : Nat) (sat : Bool) (u32 : Word) (x : Exact) : Conv :=
  let n := fmtWidth f
  let above := fun (s : Bool) =>
    if sat then (⟨if s then 2 ^ (n - 1) else 2 ^ (n - 1) - 1, 2⟩ : Conv) else ⟨2 ^ (n - 1), 3⟩
  match x with
  | .nan _ => if sat then ⟨0, 3⟩ else ⟨2 ^ (n - 1), 3⟩
  | .inf s => above s
  | x =>
    if x.isZero then ⟨0, 1⟩
    else if (n : Int) < x.top then above x.neg
    else
      let q := x.digits 0 mode u32
      if q = 0 then ⟨0, 1⟩
      else if x.neg then (if 2 ^ (n - 1) < q then above true else ⟨2 ^ n - q, 0⟩)
      else if 2 ^ (n - 1) ≤ q then above false else ⟨q, 0⟩

/-- The conversion into a format other than E2M1. -/
def convert (f mode : Nat) (sat : Bool) (u32 : Word) (x : Exact) : Conv :=
  if fmtInt f then convInt f mode sat u32 x else convFloat f mode sat u32 x

/-- A finite exact value divided by 2^q. -/
def Exact.scale (x : Exact) (q : Int) : Exact :=
  match x with
  | .fin s n d e => .fin s n d (e - q)
  | .root n d e => .root n d (e - 2 * q)
  | x => x

/-- One element of an E2M1 block at scale exponent q: none when it overflows and saturation is off (R71, R72). -/
def convE2M1 (mode : Nat) (sat : Bool) (u32 : Word) (q : Int) (x : Exact) : Option Conv :=
  if x.isZero then some ⟨signBits 5 x.neg, 1⟩
  else
    let y := x.scale q
    let r := roundFloat 5 mode u32 y
    if exceeds 5 r.1 r.2 then (if sat then some ⟨signBits 5 x.neg + 7, 2⟩ else none)
    else some ⟨signBits 5 x.neg + encodeFloat 5 r.1 r.2, if r.1 = 0 then 1 else 0⟩

def Exact.finite : Exact → Bool
  | .nan _ => false
  | .inf _ => false
  | _ => true

/-- A whole block, all of its elements or none. -/
def allSome {α : Type} : List (Option α) → Option (List α)
  | [] => some []
  | none :: _ => none
  | some a :: t =>
    match allSome t with
    | some l => some (a :: l)
    | none => none

/-- Conversion of one block into E2M1 (R71 to R73): the scale byte and the elements. `us` are the generator's words. -/
def convBlock (mode : Nat) (sat : Bool) (us : List Word) (xs : List Exact) : Byte × List Conv :=
  if xs.any (fun x => !x.finite) then (0xFF, xs.map (fun _ => ⟨0, 3⟩))
  else
    match (xs.filter (fun x => !x.isZero)).map Exact.top with
    | [] => (0x7F, xs.map (fun x => ⟨signBits 5 x.neg, 1⟩))
    | t :: ts =>
      let q := max (-127) (min 127 (ts.foldl max t - 2))
      let at_ := fun (q : Int) => allSome ((xs.zip us).map (fun p => convE2M1 mode sat p.2 q p.1))
      match at_ q with
      | some cs => (BitVec.ofInt 8 (q + 127), cs)
      | none =>
        if 127 ≤ q then (0xFF, xs.map (fun _ => ⟨0, 3⟩))
        else
          match at_ (q + 1) with
          | some cs => (BitVec.ofInt 8 (q + 1 + 127), cs)
          | none => (0xFF, xs.map (fun _ => ⟨0, 3⟩))

/-- The class of an element that is copied (R64). -/
def copyClass (v : Val) : Nat :=
  match v with
  | .nan _ => 3
  | .inf _ => 3
  | .fin _ m _ => if m = 0 then 1 else 0

/-! ## Elementwise operations (R77 to R79) -/

/-- The first NaN operand in operand order, if any (R57). -/
def firstNan : List Val → Option Bool
  | [] => none
  | .nan s :: _ => some s
  | _ :: t => firstNan t

/-- The exact product of two values that are not NaN (R78, R79). -/
def mulVal (a b : Val) : Val :=
  let s := xor a.neg b.neg
  match a, b with
  | .inf _, .inf _ => .inf s
  | .inf _, v => if v.isZero then .nan false else .inf s
  | v, .inf _ => if v.isZero then .nan false else .inf s
  | .fin _ m e, .fin _ n f => .fin s (m * n) (e + f)
  | _, _ => .nan false

/-- The exact sum of two values that are not NaN (R78, R79). -/
def addVal (a b : Val) : Val :=
  match a, b with
  | .inf s, .inf t => if s = t then .inf s else .nan false
  | .inf s, _ => .inf s
  | _, .inf s => .inf s
  | .fin s m e, .fin t n f =>
    let lo := min e f
    let x : Int := ((m <<< (e - lo).toNat : Nat) : Int) * (if s then -1 else 1)
    let y : Int := ((n <<< (f - lo).toNat : Nat) : Int) * (if t then -1 else 1)
    if x + y = 0 then .fin (decide (m = 0) && decide (n = 0) && s && t) 0 lo
    else .fin (decide (x + y < 0)) (x + y).natAbs lo
  | _, _ => .nan false

/-- a + b, with R57. -/
def addOp (a b : Val) : Exact :=
  match firstNan [a, b] with
  | some s => .nan s
  | none => (addVal a b).exact

/-- a − b: the negation does not reach a NaN (R209). -/
def subOp (a b : Val) : Exact := addOp a b.negate

/-- a × b. -/
def mulOp (a b : Val) : Exact :=
  match firstNan [a, b] with
  | some s => .nan s
  | none => (mulVal a b).exact

/-- a × b + c. -/
def fmaOp (a b c : Val) : Exact :=
  match firstNan [a, b, c] with
  | some s => .nan s
  | none =>
    match mulVal a b with
    | .nan _ => .nan false
    | p => (addVal p c).exact

/-- a / b. -/
def divOp (a b : Val) : Exact :=
  match firstNan [a, b] with
  | some s => .nan s
  | none =>
    let s := xor a.neg b.neg
    match a, b with
    | .inf _, .inf _ => .nan false
    | .inf _, _ => .inf s
    | .fin _ _ _, .inf _ => .fin s 0 1 0
    | .fin _ m e, .fin _ n f =>
      if n = 0 then (if m = 0 then .nan false else .inf s) else .fin s m n (e - f)
    | _, _ => .nan false

/-- √a. -/
def sqrtOp (a : Val) : Exact :=
  match a with
  | .nan s => .nan s
  | .inf s => if s then .nan false else .inf false
  | .fin s m e => if m = 0 then .fin s 0 1 0 else if s then .nan false else .root m 1 e

/-- a × 2^e; beyond ±4,096 every format overflows or rounds as at ±4,096 (R219). -/
def scaleOp (a : Val) (e : Int) : Exact :=
  match a with
  | .fin s m x => .fin s m 1 (x + max (-4096) (min 4096 e))
  | v => v.exact

/-- Whether the value v ranks above w: by value, +0 above −0 (R141, R214). Neither is a NaN. -/
def ranksAbove (v w : Val) : Bool :=
  match v, w with
  | .inf s, .inf t => !s && t
  | .inf s, _ => !s
  | _, .inf t => t
  | v, w =>
    if v.scaled = w.scaled then v.isZero && !v.neg && w.neg else decide (w.scaled < v.scaled)

/-! ## binary32 helpers -/

/-- RNE conversion into binary32 without saturation. -/
def toB32 (x : Exact) : Word := BitVec.ofNat 32 (convFloat 0 0 false 0 x).bits
def b32 (w : Word) : Val := decodeElem 0 w.toNat
/-- Binary32 addition in RNE. -/
def add32 (a b : Word) : Word := toB32 (addOp (b32 a) (b32 b))
def sub32 (a b : Word) : Word := toB32 (subOp (b32 a) (b32 b))
def mul32 (a b : Word) : Word := toB32 (mulOp (b32 a) (b32 b))
def div32 (a b : Word) : Word := toB32 (divOp (b32 a) (b32 b))
def sqrt32 (a : Word) : Word := toB32 (sqrtOp (b32 a))
/-- Binary32 fused multiply-add in RNE. -/
def fma32 (a b c : Word) : Word := toB32 (fmaOp (b32 a) (b32 b) (b32 c))

end Sys2Proof.Machine
end

