-- ==== Sys2Proof/Machine/Marrow.lean ====
section
/-! DEFINITION. The marrow: entries, terms, the fast-path condition, spill slots and the drain (R86 to R115). -/

namespace Sys2Proof.Machine

/-! ## Entries -/

/-- Adds one term (R87, R89, R90). -/
def Entry.add (e : Entry) (v : Val) : Entry :=
  let nz := (if e.any then e.negz else true) && v.isZero && v.neg
  match v with
  | .nan _ => { e with nan := true, any := true, negz := false }
  | .inf s => { e with pinf := e.pinf || !s, ninf := e.ninf || s, any := true, negz := false }
  | .fin _ _ _ => { e with m := e.m + BitVec.ofInt 640 v.scaled, any := true, negz := nz }

def Entry.addAll (e : Entry) (vs : List Val) : Entry := vs.foldl Entry.add e

/-- V of R90. A NaN sum has sign 0 (R91). -/
def Entry.value (e : Entry) : Val :=
  if e.nan || (e.pinf && e.ninf) then .nan false
  else if e.pinf then .inf false
  else if e.ninf then .inf true
  else if e.m ≠ 0 then Val.ofInt e.m.toInt (-300)
  else .fin (e.any && e.negz) 0 0

/-- Number of trailing zeros of a nonzero number. -/
def lowBit (n : Nat) : Nat := (n &&& (n ^^^ (n - 1))).log2

/-- ⌊log2 |m|⌋ and the lowest set bit of a nonzero integer × 2^−300. -/
def span (z : Int) : Int × Int := ((z.natAbs.log2 : Int) - 300, (lowBit z.natAbs : Int) - 300)

/-- m fits the 128-bit window (R96). -/
def Entry.fits (e : Entry) : Bool :=
  if e.m = 0 then true
  else
    let p := span e.m.toInt
    decide (p.1 - min p.2 212 ≤ 126)

/-- The integers × 2^300 of the nonzero finite terms. -/
def finiteTerms (vs : List Val) : List Int := (vs.map Val.scaled).filter (fun z => z ≠ 0)

/-- All of the integers, zeros left out, lie within a span of 120 bits (R97, R114). -/
def spanOk (zs : List Int) : Bool :=
  match (zs.filter (fun z => z ≠ 0)).map span with
  | [] => true
  | p :: ps =>
    decide ((ps.foldl (fun h q => max h q.1) p.1) - (ps.foldl (fun l q => min l q.2) p.2) ≤ 119)

/-- The fast-path condition of R97 for one entry and its terms of a pass. -/
def Entry.fast (e : Entry) (vs : List Val) : Bool := (e.place = .window) && spanOk (e.m.toInt :: finiteTerms vs)

/-- Clears an entry: m, flags and position 0, and any slot is free (R108). -/
def Entry.cleared : Entry := {}

/-! ## Slots -/

/-- The spill slots that a logical core holds, with the array that counts them (R103, R146). -/
def LCore.slotsUsed (x : LCore) : List (Nat × Nat) :=
  (x.marrow.filterMap (fun p =>
    match p.2.place with
    | .slot n => some (p.1 / 2048, n)
    | _ => none)) ++
  (x.records.filterMap (fun p =>
    match p.2.sum.place with
    | .slot n => some (p.1 / 32, n)
    | _ => none))

/-- The lowest free slot that array `a` may take: 256 in the pool, 191 for one array (R103). -/
def freeSlot (used : List (Nat × Nat)) (a : Nat) : Option Nat :=
  if 191 ≤ (used.filter (fun p => p.1 = a)).length then none
  else (upto 256).find? (fun n => !(used.any (fun p => p.2 = n)))

/-- Offset in the drain area (R106) and the m that goes there. -/
abbrev Drained := Nat × Marrow

/-- The first entry that a drain of array `a` moves: marrow entries outside row `row`, in ascending order, then the
row-record sums other than that of row `keep` (R104). -/
def LCore.drainOne (x : LCore) (a row keep : Nat) : Option (LCore × Drained) :=
  match x.marrow.find? (fun p => p.1 / 2048 = a && p.1 / 64 % 32 ≠ row &&
      (match p.2.place with | .slot _ => true | _ => false)) with
  | some p => some (x.setEntry p.1 { p.2 with place := .drained }, (p.1 * 80, p.2.m))
  | none =>
    match x.records.find? (fun p => p.1 / 32 = a && p.1 % 32 ≠ keep &&
        (match p.2.sum.place with | .slot _ => true | _ => false)) with
    | some p =>
      some (x.setRecord p.1 { p.2 with sum := { p.2.sum with place := .drained } }, (327680 + p.1 * 80, p.2.sum.m))
    | none => none

/-- A slot for array `a`, after a drain when none is free (R103, R104). `other` are the slots of the other resident
context. -/
def LCore.takeSlot (x : LCore) (other : List (Nat × Nat)) (a row keep : Nat) : LCore × Place × List Drained :=
  match freeSlot (other ++ x.slotsUsed) a with
  | some n => (x, .slot n, [])
  | none =>
    match x.drainOne a row keep with
    | none => (x, .drained, [])
    | some (y, d) =>
      match freeSlot (other ++ y.slotsUsed) a with
      | some n => (y, .slot n, [d])
      | none => (y, .drained, [d])

/-- Puts entry `i` of array `a` where its m belongs (R96, R102, R105): a window when it fits, else the slot it has or a
new one. -/
def LCore.settle (x : LCore) (other : List (Nat × Nat)) (a row keep i : Nat) : LCore × List Drained :=
  let e := x.entry i
  if e.fits then (x.setEntry i { e with place := .window }, [])
  else
    match e.place with
    | .slot _ => (x, [])
    | _ =>
      let t := x.takeSlot other a row keep
      (t.1.setEntry i { t.1.entry i with place := t.2.1 }, t.2.2)

/-- The same for the sum of row record `i` of array `a`. -/
def LCore.settleSum (x : LCore) (other : List (Nat × Nat)) (a row i : Nat) : LCore × List Drained :=
  let r := x.record i
  if r.sum.fits then (x.setRecord i { r with sum := { r.sum with place := .window } }, [])
  else
    match r.sum.place with
    | .slot _ => (x, [])
    | _ =>
      let t := x.takeSlot other a row (i % 32)
      let q := t.1.record i
      (t.1.setRecord i { q with sum := { q.sum with place := t.2.1 } }, t.2.2)

/-- The slots that array `a` may still take (R103). -/
def slotsFree (used : List (Nat × Nat)) (a : Nat) : Nat :=
  min (191 - (used.filter (fun p => p.1 = a)).length) (256 - used.length)

/-- Drains as many entries of array `a` as make n slots available (R104). -/
def LCore.makeRoom (x : LCore) (other : List (Nat × Nat)) (a row keep n : Nat) : LCore × List Drained :=
  (upto (n - slotsFree (other ++ x.slotsUsed) a)).foldl (fun p _ =>
    match p.1.drainOne a row keep with
    | none => p
    | some (y, d) => (y, p.2 ++ [d])) (x, [])

/-- Settles entries of a row in order: those that fit their windows free their slots first, then a drain makes the slots
available that the others need (R102 to R104). -/
def LCore.settleAll (x : LCore) (other : List (Nat × Nat)) (a row keep : Nat) (is : List Nat) : LCore × List Drained :=
  let y := (is.filter (fun i => (x.entry i).fits)).foldl (fun (y : LCore) i => y.setEntry i { y.entry i with place := .window }) x
  let new := is.filter (fun i => !(x.entry i).fits)
  let room := y.makeRoom other a row keep (new.filter (fun i => (x.entry i).place = .window || (x.entry i).place = .drained)).length
  new.foldl (fun p i =>
    let q := p.1.settle other a row keep i
    (q.1, p.2 ++ q.2)) room

/-- Settles the entries of columns 0 to n − 1 of a row. -/
def LCore.settleRow (x : LCore) (other : List (Nat × Nat)) (a row n : Nat) : LCore × List Drained :=
  x.settleAll other a row 99 ((upto n).map (ekey a row))

/-- Brings the drained entries among columns 0 to n − 1 of a row back (R105). -/
def LCore.bringBack (x : LCore) (other : List (Nat × Nat)) (a row keep n : Nat) : LCore × List Drained :=
  x.settleAll other a row keep (((upto n).map (ekey a row)).filter (fun i => (x.entry i).place = .drained))

/-- Brings the sum of row record `i` of array `a` back when it is drained (R105). -/
def LCore.bringSum (x : LCore) (other : List (Nat × Nat)) (a row i : Nat) : LCore × List Drained :=
  if (x.record i).sum.place = .drained then x.settleSum other a row i else (x, [])

def Entry.inSlot (e : Entry) : Bool := match e.place with | .slot _ => true | _ => false

/-- Clears the entries of columns 0 to n − 1 of a row (R108, R197, R200). -/
def LCore.clearRow (x : LCore) (a row n : Nat) : LCore :=
  (upto n).foldl (fun y c => y.setEntry (ekey a row c) Entry.cleared) x

/-- How many entries of the row's first n columns are in slots. -/
def LCore.inSlots (x : LCore) (a row n : Nat) : Nat :=
  ((upto n).filter (fun c => (x.entry (ekey a row c)).inSlot)).length

end Sys2Proof.Machine
end

