-- ==== Sys2Proof/WellFormed.lean ====
section
/-! DEFINITION. Which commands name units that the device has and words that are the command's own. -/

namespace Sys2Proof

/-- The opcode of a word (R189). -/
def opcode (w : IWord) : Nat := (w.toNat >>> 120) % 256
/-- The op field of a vector word (R205). -/
def vecOp (w : IWord) : Nat := (w.toNat >>> 48) % 16
/-- The op field of a move word (R231). -/
def moveOp (w : IWord) : Nat := (w.toNat >>> 50) % 16
/-- The kind field of VRED and its rows bit (R213, R215). -/
def redRows (w : IWord) : Bool := w.toNat.testBit 43
/-- The op field of SARR, bits [111:110] (R315). -/
def sarrOp (w : IWord) : Nat := (w.toNat >>> 110) % 4

/-- Every opcode of R190. -/
def definedOpcode (n : Nat) : Bool :=
  (1 ≤ n && n ≤ 5) || (0x10 ≤ n && n ≤ 0x13) || (0x20 ≤ n && n ≤ 0x2A) || (0x30 ≤ n && n ≤ 0x35) ||
    (0x40 ≤ n && n ≤ 0x44)

/-- The command names units that exist, and its word, where it carries one, is the command's own by opcode and op
(R190). A reserved op value belongs to the row of the opcode's first op. -/
def Instr.wellFormed : Instr → Bool
  | .loop c w => decide (c < 1152 ∧ opcode w = 0x01)
  | .jump c w => decide (c < 1152 ∧ opcode w = 0x02)
  | .bankswap c w => decide (c < 1152 ∧ opcode w = 0x03)
  | .yield c w => decide (c < 1152 ∧ opcode w = 0x04)
  | .halt c w => decide (c < 1152 ∧ opcode w = 0x05)
  | .mwt c w => decide (c < 1152 ∧ opcode w = 0x10)
  | .mstr c w => decide (c < 1152 ∧ opcode w = 0x11)
  | .mout c w => decide (c < 1152 ∧ opcode w = 0x12)
  | .mswap c w => decide (c < 1152 ∧ opcode w = 0x13)
  | .tileSwapEffect c => decide (c < 1152)
  | .passAdmitted c => decide (c < 1152)
  | .activityRise c a => decide (c < 1152 ∧ a < 2)
  | .activityFall c a => decide (c < 1152 ∧ a < 2)
  | .moutRowRead c a => decide (c < 1152 ∧ a < 2)
  | .bankLoadDone c bank => decide (c < 1152 ∧ bank < 2)
  | .tokenWaitEnd c => decide (c < 1152)
  | .vadd c w => decide (c < 1152 ∧ opcode w = 0x20 ∧ vecOp w ≠ 1)
  | .vaddSubtract c w => decide (c < 1152 ∧ opcode w = 0x20 ∧ vecOp w = 1)
  | .vfma c w => decide (c < 1152 ∧ opcode w = 0x21 ∧ vecOp w ≠ 1 ∧ vecOp w ≠ 2)
  | .vfmaMultiply c w => decide (c < 1152 ∧ opcode w = 0x21 ∧ vecOp w = 1)
  | .vfmaSubtract c w => decide (c < 1152 ∧ opcode w = 0x21 ∧ vecOp w = 2)
  | .vdiv c w => decide (c < 1152 ∧ opcode w = 0x22)
  | .vsqrt c w => decide (c < 1152 ∧ opcode w = 0x23)
  | .vcvt c w => decide (c < 1152 ∧ opcode w = 0x24)
  | .vtab c w => decide (c < 1152 ∧ opcode w = 0x25)
  | .vtabd c w => decide (c < 1152 ∧ opcode w = 0x26 ∧ vecOp w ≠ 1)
  | .vtabdProduct c w => decide (c < 1152 ∧ opcode w = 0x26 ∧ vecOp w = 1)
  | .vred c w => decide (c < 1152 ∧ opcode w = 0x27 ∧ redRows w = false)
  | .vredRows c w => decide (c < 1152 ∧ opcode w = 0x27 ∧ redRows w = true)
  | .vtopk c w => decide (c < 1152 ∧ opcode w = 0x28)
  | .vrngInt c w => decide (c < 1152 ∧ opcode w = 0x29 ∧ vecOp w ≠ 1 ∧ vecOp w ≠ 2)
  | .vrngUniform c w => decide (c < 1152 ∧ opcode w = 0x29 ∧ vecOp w = 1)
  | .vrngThreshold c w => decide (c < 1152 ∧ opcode w = 0x29 ∧ vecOp w = 2)
  | .vscale c w => decide (c < 1152 ∧ opcode w = 0x2A)
  | .dcopy c w => decide (c < 1152 ∧ opcode w = 0x30)
  | .dxpose c w => decide (c < 1152 ∧ opcode w = 0x35)
  | .dgath c w => decide (c < 1152 ∧ opcode w = 0x31 ∧ moveOp w ≠ 1 ∧ moveOp w ≠ 2)
  | .dgathPooledSum c w => decide (c < 1152 ∧ opcode w = 0x31 ∧ moveOp w = 1)
  | .dgathPooledMean c w => decide (c < 1152 ∧ opcode w = 0x31 ∧ moveOp w = 2)
  | .dscat c w => decide (c < 1152 ∧ opcode w = 0x32 ∧ moveOp w ≠ 1)
  | .dscatAdd c w => decide (c < 1152 ∧ opcode w = 0x32 ∧ moveOp w = 1)
  | .dpref c w => decide (c < 1152 ∧ opcode w = 0x33)
  | .prefetchRefetchDone c => decide (c < 1152)
  | .dremBroadcast c w => decide (c < 1152 ∧ opcode w = 0x34 ∧ (moveOp w = 0 ∨ 5 < moveOp w))
  | .dremRead c w => decide (c < 1152 ∧ opcode w = 0x34 ∧ moveOp w = 1)
  | .dremShardedGather c w => decide (c < 1152 ∧ opcode w = 0x34 ∧ moveOp w = 2)
  | .dremFabricPooledGather c w => decide (c < 1152 ∧ opcode w = 0x34 ∧ moveOp w = 3)
  | .dremShardedScatterAdd c w => decide (c < 1152 ∧ opcode w = 0x34 ∧ moveOp w = 4)
  | .dremParameterGather c w => decide (c < 1152 ∧ opcode w = 0x34 ∧ moveOp w = 5)
  | .sarm c w => decide (c < 1152 ∧ opcode w = 0x40)
  | .sarr c w => decide (c < 1152 ∧ opcode w = 0x41 ∧ sarrOp w ≠ 1 ∧ sarrOp w ≠ 2)
  | .sarrArrive c w => decide (c < 1152 ∧ opcode w = 0x41 ∧ sarrOp w = 1)
  | .sarrWait c w => decide (c < 1152 ∧ opcode w = 0x41 ∧ sarrOp w = 2)
  | .ssig c w => decide (c < 1152 ∧ opcode w = 0x43)
  | .swait c w => decide (c < 1152 ∧ opcode w = 0x42)
  | .sdec c w => decide (c < 1152 ∧ opcode w = 0x44)
  | .barrierArrival k r l b => decide (k < 16 ∧ r < 65536 ∧ l < 1024 ∧ b < 256)
  | .barrierRelease k r l => decide (k < 16 ∧ r < 65536 ∧ l < 1024)
  | .semaphoreRequest k r q => decide (k < 16 ∧ r < 65536 ∧ q < 1024)
  | .semaphoreGrant k r l => decide (k < 16 ∧ r < 65536 ∧ l < 1024)
  | .readyTake k r _ => decide (k < 16 ∧ r < 65536)
  | .memoryRequest _ => true
  | .slotFreeNotice unit bank => decide (unit < 26 ∧ bank < 128)
  | .refreshWindow h bank _ => decide (h < 192 ∧ bank < 16)
  | .refreshRateChange h _ => decide (h < 192)
  | .cxlLinkDown n => decide (n < 2)
  | .cxlExpanderEvent n _ _ => decide (n < 2)
  | .hostCompletionTimeout _ => true
  | .bar2Access fn _ _ _ => decide (fn < 16)
  | .selfRefreshEntry => true
  | .memoryGroupWake => true
  | .floorTick => true
  | .fecBlockReceived p _ => decide (p < 8)
  | .nakRepeat p => decide (p < 8)
  | .blockRelease p => decide (p < 8)
  | .laneRequest p weak sprout => decide (p < 8 ∧ weak < 13 ∧ sprout < 13)
  | .equaliserAdapted p => decide (p < 8)
  | .laneReady p sprout => decide (p < 8 ∧ sprout < 13)
  | .laneSwitch p _ _ => decide (p < 8)
  | .laneSwitchApply p => decide (p < 8)
  | .maskChange p _ _ => decide (p < 8)
  | .laneFailure p lane => decide (p < 8 ∧ lane < 13)
  | .laneWindowEnd p => decide (p < 8)
  | .trainingBurst p => decide (p < 8)
  | .linkTraining p => decide (p < 8)
  | .linkInService p _ => decide (p < 8)
  | .identity p _ _ _ _ _ _ _ _ => decide (p < 8)
  | .referenceCandidate p _ _ _ => decide (p < 8)
  | .linkRecord p _ _ _ => decide (p < 8)
  | .discoveryEnd => true
  | .departureOrder m => decide (m < 17)
  | .leaveNotice p _ _ => decide (p < 8)
  | .departurePortsIdle => true
  | .packageSlice p _ _ _ => decide (p < 8)
  | .timestampExchange => true
  | .timestampRequest p _ => decide (p < 8)
  | .timestampReply p _ _ _ => decide (p < 8)
  | .tickEdgeCorrection => true
  | .packetForward q _ => decide (q < 8)
  | .packetUnanswered _ _ => true
  | .routeChangeResume _ => true
  | .read p => decide (p.ptype = 0x01 ∧ p.context < 16)
  | .write p => decide (p.ptype = 0x02 ∧ p.context < 16)
  | .partialWrite p => decide (p.ptype = 0x03 ∧ p.context < 16)
  | .scatterAdd p _ _ => decide (p.ptype = 0x04 ∧ p.context < 16)
  | .broadcastDelivery p => decide (p.ptype = 0x05 ∧ p.context < 16)
  | .parameterGather p => decide (p.ptype = 0x06 ∧ p.context < 16)
  | .prefetchWatch p => decide (p.ptype = 0x07 ∧ p.context < 16)
  | .dictionaryRequest p m _ => decide (p.ptype = 0x08 ∧ p.context < 16 ∧ m < 2)
  | .readData p => decide (p.ptype = 0x10 ∧ p.context < 16)
  | .completion p => decide (p.ptype = 0x11 ∧ p.context < 16)
  | .dictionaryAnswer p => decide (p.ptype = 0x12 ∧ p.context < 16)
  | .errorAnswer p => decide (p.ptype = 0x13 ∧ p.context < 16)
  | .generationNotice p => decide (p.ptype = 0x14 ∧ p.context < 16)
  | .barrierDeviceArrival p => decide (p.ptype = 0x28 ∧ p.context < 16)
  | .barrierReleaseMessage p => decide (p.ptype = 0x29 ∧ p.context < 16)
  | .remoteSemaphoreSignal p => decide (p.ptype = 0x2A ∧ p.context < 16)
  | .nodeOperand p _ => decide (p.ptype = 0x20 ∧ p.context < 16)
  | .nodeOperandSecondTree p _ => decide (p.ptype = 0x27 ∧ p.context < 16)
  | .rootOperand p _ => decide (p.ptype = 0x21 ∧ p.context < 16)
  | .updateSlotFreed k _ => decide (k < 16)
  | .readyNotice p => decide (p.ptype = 0x22 ∧ p.context < 16)
  | .coordinatorDeadline k _ => decide (k < 16)
  | .decision p => decide (p.ptype = 0x23 ∧ p.context < 16)
  | .release p => decide (p.ptype = 0x24 ∧ p.context < 16)
  | .versionPush p => decide (p.ptype = 0x25 ∧ p.context < 16)
  | .completionReport p => decide (p.ptype = 0x26 ∧ p.context < 16)
  | .commitNotice p => decide (p.ptype = 0x26 ∧ p.context < 16)
  | .commitTick k => decide (k < 16)
  | .ratioPartial p => decide (p.ptype = 0x2B ∧ p.context < 16)
  | .checkpointWriteDone k _ => decide (k < 16)
  | .rankMap k j _ => decide (k < 16 ∧ j < 8)
  | .acceptanceNotice k j _ _ => decide (k < 16 ∧ j < 8)
  | .launchConfirmation k j _ => decide (k < 16 ∧ j < 8)
  | .cancel k j _ => decide (k < 16 ∧ j < 8)
  | .ledgerRecord k _ _ => decide (k < 16)
  | .watchPartials k _ _ _ => decide (k < 16)
  | .tapSums k _ _ _ => decide (k < 16)
  | .endNotice k _ _ => decide (k < 16)
  | .doneNotice k _ _ _ => decide (k < 16)
  | .teardown k _ _ => decide (k < 16)
  | .replicaDigest k _ _ _ => decide (k < 16)
  | .agreement k _ _ => decide (k < 16)
  | .statusQuery k _ _ => decide (k < 16)
  | .statusAnswer k j _ _ _ _ => decide (k < 16 ∧ j < 8)
  | .replayOrder k _ _ _ => decide (k < 16)
  | .replayDigests k _ _ _ => decide (k < 16)
  | .acceptanceBegin k j => decide (k < 16 ∧ j < 8)
  | .launchDecision k j => decide (k < 16 ∧ j < 8)
  | .fastClockStart k j => decide (k < 16 ∧ j < 8)
  | .launch k j => decide (k < 16 ∧ j < 8)
  | .jobResume k => decide (k < 16)
  | .controlCoreRetired n => decide (n < 9)
  | .radishTileStart c _ => decide (c < 1152)
  | .radishTileEnd _ _ => true
  | .coreOverdue c => decide (c < 1152)
  | .podClockStart p => decide (p < 64)
  | .podClockStop p => decide (p < 64)
  | .sag _ => true
  | .saveComplete => true
  | .supplyQualified => true
  | .powerOnReset => true
  | .startUp _ => true
  | .startupStepTimeout _ => true
  | .startupRetry => true
  | .statusQueryTimeout k j => decide (k < 16 ∧ j < 8)
  | .resetNAssert => true
  | .resetNDeassert => true
  | .resetCommand m => decide (m < 17)
  | .leaveManagementOnly m => decide (m < 17)
  | .watchdog => true
  | .perstNAssert => true
  | .perstNDeassert => true
  | .functionLevelReset k => decide (k < 16)
  | .powerStateChange fn _ => decide (fn < 16)
  | .throttleNAssert => true
  | .throttleNDeassert => true
  | .throttleStuck => true
  | .thermalLevel1Entry _ _ => true
  | .thermalLevel2Entry _ _ => true
  | .thermalLevelExit _ _ => true
  | .refclkLoss => true
  | .epochEdge _ => true
  | .epochAbsent => true
  | .waizerFrame _ => true
  | .remoteAnswerTimeout _ => true
  | .serialiserWindowEnd => true
  | .read32 m _ _ => decide (m < 17)
  | .read64 m _ _ => decide (m < 17)
  | .write32 m _ _ _ => decide (m < 17)
  | .write64 m _ _ _ => decide (m < 17)
  | .aggregateRead32 m _ _ _ => decide (m < 17)
  | .aggregateRead64 m _ _ _ => decide (m < 17)
  | .describe m _ _ => decide (m < 17)
  | .bar0Read fn _ _ => decide (fn < 16)
  | .bar0Write fn _ _ _ => decide (fn < 16)
  | .registerWrite m _ _ _ => decide (m < 17)
  | .aggregateStart m => decide (m < 17)
  | .partitionWrite m k _ _ => decide (m < 17 ∧ k < 16)
  | .jobFieldWrite m k j _ _ => decide (m < 17 ∧ k < 16 ∧ j < 8)
  | .arm m k j => decide (m < 17 ∧ k < 16 ∧ j < 8)
  | .withdraw m k j => decide (m < 17 ∧ k < 16 ∧ j < 8)
  | .abort m k j => decide (m < 17 ∧ k < 16 ∧ j < 8)
  | .clear m k j => decide (m < 17 ∧ k < 16 ∧ j < 8)
  | .instructionLoadStart m c => decide (m < 17 ∧ c < 1152)
  | .haltRecordClear m c slot => decide (m < 17 ∧ c < 1152 ∧ slot < 2)
  | .coreCounterClear m c => decide (m < 17 ∧ c < 1152)
  | .controllerCounterClear m n => decide (m < 17 ∧ n < 24)
  | .cxlCounterClear m n => decide (m < 17 ∧ n < 2)
  | .portCounterClear m p => decide (m < 17 ∧ p < 8)
  | .laneAction m p lane => decide (m < 17 ∧ p < 8 ∧ lane < 13)
  | .laneRetire m p lane => decide (m < 17 ∧ p < 8 ∧ lane < 13)
  | .floorWrite m _ => decide (m < 17)
  | .packageBegin m => decide (m < 17)
  | .packageData m _ => decide (m < 17)
  | .packageAccept m => decide (m < 17)
  | .packageAbort m => decide (m < 17)
  | .calibrationUnlock m _ => decide (m < 17)
  | .calibrationCommit m => decide (m < 17)
  | .calibrationAbort m => decide (m < 17)
  | .calibrationLockTimeout => true
  | .firmwareBegin m => decide (m < 17)
  | .firmwareData m _ => decide (m < 17)
  | .firmwareCheck m => decide (m < 17)
  | .firmwareAbort m => decide (m < 17)
  | .activate m => decide (m < 17)
  | .handoverSwitch => true
  | .managementSwitch => true
  | .handoverTimeout => true
  | .confirm m => decide (m < 17)
  | .fallBack m => decide (m < 17)
  | .trialLimitExpiry => true
  | .attestationCommand m _ => decide (m < 17)
  | .undefinedOpcode c w => decide (c < 1152 ∧ definedOpcode (opcode w) = false)
  | .armAnswer k r l b => decide (k < 16 ∧ r < 65536 ∧ l < 1024 ∧ b < 256)
  | .cxlReadResponse n _ => decide (n < 2)
  | .cxlLinkTrained n _ _ => decide (n < 2)
  | .hostReadCompletion _ _ => true
  | .pcieLinkDown => true
  | .holdUpBankEmpty => true
  | .calibrationCommitDone => true
  | .attestationReportReady m => decide (m < 17)
  | .inletAbove45C _ => true

end Sys2Proof
end

