-- ==== Sys2Proof/Machine/Operands.lean ====
section
/-! DEFINITION. Operand forms: instruction fields, tensor and scalar operands, descriptors, element addresses, and the
checks that name a mistake (R189 to R193, R205, R226 to R231). -/

namespace Sys2Proof.Machine

/-- A detected mistake: reason code and detail (R183). -/
abbrev Mistake := Nat × Nat

/-- The mistake that the halt records: the lowest reason code, and the first among equals (R181). -/
def lowest : List Mistake → Option Mistake
  | [] => none
  | m :: t =>
    match lowest t with
    | none => some m
    | some n => if n.1 < m.1 then some n else some m

/-- A mistake when a condition holds. -/
def mistakeIf (b : Bool) (reason detail : Nat) : List Mistake := if b then [(reason, detail)] else []

/-- Bits hi to lo set. -/
def rangeMask (hi lo : Nat) : Nat := (2 ^ (hi - lo + 1) - 1) <<< lo

/-- The reserved bits of a word, given the ranges that its map uses: the lowest nonzero one (R13, R189). -/
def reservedBits (w : IWord) (used : List (Nat × Nat)) : List Mistake :=
  let allowed := used.foldl (fun a r => a ||| rangeMask r.1 r.2) (rangeMask 127 120)
  let bad := w.toNat &&& (rangeMask 127 0 ^^^ allowed)
  if bad = 0 then [] else [(0x01, lowBit bad)]

/-! ## Tensor operands (R191) -/

/-- The bits that a 10-bit tensor operand at `lo` uses: its register only when its offset bit is set. -/
def tensorUsed (w : IWord) (lo : Nat) : List (Nat × Nat) :=
  if bit w (lo + 4) then [(lo + 9, lo)] else [(lo + 9, lo + 4)]

/-- A descriptor with its effective base (R226, R191). -/
structure Desc where
  num : Nat
  base : Nat
  tensor : Nat
  rows : Nat
  cols : Nat
  stride : Nat
  origin : Nat
  pitch : Nat
  fmt : Nat
  tier : Nat
  strict : Bool
  deriving DecidableEq, Repr

/-- The descriptor in T`n` with `add` on its base. -/
def Desc.ofWord (n : Nat) (t : DescWord) (add : DWord) : Desc :=
  { num := n, base := (bits t 255 192 + add.toNat) % 2 ^ 64, tensor := bits t 191 160, rows := bits t 159 128,
    cols := bits t 127 112, stride := bits t 111 88, origin := bits t 87 40, pitch := bits t 39 8, fmt := bits t 7 4,
    tier := bits t 3 1, strict := bit t 0 }

/-- The descriptor that the tensor operand at `lo` names. -/
def LCore.desc (x : LCore) (w : IWord) (lo : Nat) : Desc :=
  let n := bits w (lo + 9) (lo + 5)
  Desc.ofWord n (x.getT n) (if bit w (lo + 4) then x.getA (bits w (lo + 3) lo) else 0)

/-- Bytes of one row's elements (R227, R228). -/
def Desc.rowBytes (d : Desc) : Nat := d.cols * fmtWidth d.fmt / 8

/-- The end of the byte range that the checks cover (R229). -/
def Desc.stop (d : Desc) : Nat :=
  if d.fmt = 5 then d.base + d.rows * d.stride + d.rows * (d.cols / 32) else d.base + (d.rows - 1) * d.stride + d.rowBytes

def Desc.count (d : Desc) : Nat := d.rows * d.cols

/-- Logical index of element (r, c) (R227). -/
def Desc.index (d : Desc) (r c : Nat) : Nat := d.origin + r * (if d.pitch = 0 then d.cols else d.pitch) + c

/-- Address of element (r, c): of its byte in E2M1. -/
def Desc.addr (d : Desc) (r c : Nat) : Nat :=
  d.base + r * d.stride + (if d.fmt = 5 then c / 2 else c * (fmtWidth d.fmt / 8))

/-- Address of the scale byte of element (r, c) in E2M1 (R228). -/
def Desc.scaleAddr (d : Desc) (r c : Nat) : Nat := d.base + d.rows * d.stride + r * (d.cols / 32) + c / 32

/-- Row and column of element i in logical row-major order. -/
def Desc.place (d : Desc) (i : Nat) : Nat × Nat := (i / d.cols, i % d.cols)

/-- The n bytes at an address of a source, as a number. -/
def readNat (rd : Nat → Byte) (a n : Nat) : Nat := leNat ((upto n).map (fun i => rd (a + i)))

/-- The bits of element (r, c) in the source `rd`. -/
def Desc.bitsAt (d : Desc) (rd : Nat → Byte) (r c : Nat) : Nat :=
  if d.fmt = 5 then (rd (d.addr r c)).toNat / (if c % 2 = 0 then 1 else 16) % 16
  else readNat rd (d.addr r c) (fmtWidth d.fmt / 8)

/-- The scale byte of element (r, c), 127 outside E2M1. -/
def Desc.scaleAt (d : Desc) (rd : Nat → Byte) (r c : Nat) : Byte :=
  if d.fmt = 5 then rd (d.scaleAddr r c) else 127

/-- The exact value of element (r, c). -/
def Desc.valAt (d : Desc) (rd : Nat → Byte) (r c : Nat) : Val :=
  decodeElem d.fmt (d.bitsAt rd r c) (d.scaleAt rd r c)

/-- The data SRAM of a logical core as a source. -/
def LCore.rd (x : LCore) : Nat → Byte := fun a => getByte x.sram a

/-! ## Checks of descriptors -/

/-- Bytes of data SRAM (R261). -/
def sramSize : Nat := 458752

/-- The checks that every descriptor meets, whatever its tier: its codes and extents (R54, R61, R260). -/
def Desc.formMistakes (d : Desc) (fno : Nat) : List Mistake :=
  mistakeIf (!fmtOk d.fmt) 0x03 fno ++ mistakeIf (4 < d.tier) 0x04 fno ++
  mistakeIf (d.fmt = 5 && d.cols % 32 ≠ 0) 0x12 d.num ++
  mistakeIf (d.rows = 0 || d.cols = 0 || (d.fmt = 5 && d.stride < d.cols / 2)) 0x16 fno

/-- The checks of a data SRAM range (R192): outside the SRAM, and beyond the declared footprint. -/
def sramMistakes (x : LCore) (first stop num : Nat) : List Mistake :=
  mistakeIf (sramSize < stop) 0x10 num ++ mistakeIf (x.footprint < stop) 0x13 (max first x.footprint)

/-- The checks of a compute operand (R192). -/
def Desc.computeMistakes (d : Desc) (x : LCore) (fno : Nat) : List Mistake :=
  d.formMistakes fno ++ mistakeIf (d.tier ≠ 0) 0x04 fno ++ (if d.tier = 0 then sramMistakes x d.base d.stop d.num else [])

/-! ## Accesses and tokens (R155, R156) -/

/-- Two byte ranges share a 1 KiB region. -/
def sameRegion (p q : Nat × Nat) : Bool := p.1 / 1024 ≤ q.2 / 1024 && q.1 / 1024 ≤ p.2 / 1024

def anyRegion (ps qs : List (Nat × Nat)) : Bool := ps.any (fun p => qs.any (sameRegion p))

/-- A later access that must wait for an earlier one. -/
def Uses.conflict (earlier later : Uses) : Bool :=
  anyRegion earlier.writes later.reads || anyRegion earlier.writes later.writes || anyRegion earlier.reads later.writes ||
    (earlier.vreg.isSome && earlier.vreg = later.vreg)

/-- The range of a tier-0 descriptor. -/
def Desc.range (d : Desc) : List (Nat × Nat) := if d.tier = 0 && d.base < d.stop then [(d.base, d.stop - 1)] else []

/-! ## Element writes -/

/-- One written element: place, bits, scale byte (E2M1) and class (R64). -/
structure ElemW where
  row : Nat
  col : Nat
  bits : Nat
  scale : Byte
  cls : Nat
  deriving DecidableEq, Repr

/-- Writes one element into a byte store: a nibble and its scale byte in E2M1. -/
def Desc.put (d : Desc) (m : Sparse Byte) (e : ElemW) : Sparse Byte :=
  if d.fmt = 5 then
    let a := d.addr e.row e.col
    let old := (getByte m a).toNat
    let new := if e.col % 2 = 0 then old / 16 * 16 + e.bits % 16 else old % 16 + e.bits % 16 * 16
    putByte (putByte m a (BitVec.ofNat 8 new)) (d.scaleAddr e.row e.col) e.scale
  else putBytes m (d.addr e.row e.col) (leBytes (fmtWidth d.fmt / 8) e.bits)

def Desc.putAll (d : Desc) (m : Sparse Byte) (es : List ElemW) : Sparse Byte := es.foldl d.put m

/-- Pairs of nibbles as bytes. -/
def Desc.nibbles (d : Desc) : List ElemW → List (Nat × Byte)
  | a :: b :: t => (d.addr a.row a.col, BitVec.ofNat 8 (a.bits % 16 + 16 * (b.bits % 16))) :: d.nibbles t
  | _ => []

/-- The bytes that written elements become, with their addresses. E2M1 elements come as whole blocks in order, with the
scale byte of each after the elements (R228). -/
def Desc.byteWrites (d : Desc) (es : List ElemW) : List (Nat × Byte) :=
  if d.fmt = 5 then
    d.nibbles es ++ (es.filter (fun e => e.col % 32 = 0)).map (fun e => (d.scaleAddr e.row e.col, e.scale))
  else
    es.flatMap (fun e => ((leBytes (fmtWidth d.fmt / 8) e.bits).zipIdx).map (fun p => (d.addr e.row e.col + p.2, p.1)))

/-- Runs of consecutive addresses, in the order of the list. -/
def runs : List (Nat × Byte) → List (Nat × List Byte)
  | [] => []
  | (a, b) :: t =>
    match runs t with
    | (a', bs) :: r => if a' = a + 1 then (a, b :: bs) :: r else (a, [b]) :: (a', bs) :: r
    | [] => [(a, [b])]

/-- Consecutive groups of n. -/
def chunks {α : Type} (n : Nat) : Nat → List α → List (List α)
  | 0, _ => []
  | f + 1, l => if l.isEmpty then [] else l.take n :: chunks n f (l.drop n)

/-- Converts elements, given with their places in the destination's row-major order: one block of 32 after another in
E2M1 (R71), else each alone. `u` gives the generator's word for a logical index (R75). -/
def Desc.convAll (d : Desc) (mode : Nat) (sat : Bool) (u : Nat → Word) (xs : List (Nat × Nat × Exact)) : List ElemW :=
  if d.fmt = 5 then
    (chunks 32 xs.length xs).flatMap (fun g =>
      let b := convBlock mode sat (g.map (fun p => u (d.index p.1 p.2.1))) (g.map (fun p => p.2.2))
      (g.zip b.2).map (fun q => { row := q.1.1, col := q.1.2.1, bits := q.2.bits, scale := b.1, cls := q.2.cls }))
  else
    xs.map (fun p =>
      let c := convert d.fmt mode sat (u (d.index p.1 p.2.1)) p.2.2
      { row := p.1, col := p.2.1, bits := c.bits, scale := 127, cls := c.cls })

end Sys2Proof.Machine
end

