-- ==== Sys2Proof/Machine/Flags.lean ====
section
/-! DEFINITION. What the result classes of R64 feed: counter sets (R138, R143) and digest taps (R471). -/

namespace Sys2Proof.Machine

/-- One output of class `cls` counted (R138, R143), saturating (R14). -/
def countAdd (n : Counts) (cls : Nat) : Counts :=
  let up := fun (v : Nat) (b : Bool) => if b then satAdd (2 ^ 64 - 1) v 1 else v
  { outputs := up n.outputs true, zeros := up n.zeros (cls = 1), saturated := up n.saturated (cls = 2),
    nonFinite := up n.nonFinite (cls = 3) }

/-- Adds two sets of counts. -/
def countPlus (a b : Counts) : Counts :=
  { outputs := satAdd (2 ^ 64 - 1) a.outputs b.outputs, zeros := satAdd (2 ^ 64 - 1) a.zeros b.zeros,
    saturated := satAdd (2 ^ 64 - 1) a.saturated b.saturated, nonFinite := satAdd (2 ^ 64 - 1) a.nonFinite b.nonFinite }

/-- Counts the written elements in the set that a counter-set field names: bit 4 enables, bits 3 to 0 name it. -/
def LCore.countAll (x : LCore) (fieldV : Nat) (es : List ElemW) : LCore :=
  if fieldV / 16 % 2 = 0 then x
  else
    let n := fieldV % 16
    x.setCounts n (es.foldl (fun c e => countAdd c e.cls) (x.counts n))

/-- The bits that a tap hashes: the encoding, with the scale byte above an E2M1 code (R471). -/
def ElemW.tapBits (e : ElemW) (fmt : Nat) : DWord :=
  if fmt = 5 then BitVec.ofNat 64 (e.bits % 16 + 256 * e.scale.toNat) else BitVec.ofNat 64 e.bits

/-- Whether step u is tapped by an entry (R470). -/
def tapped (tap : Nat × Nat × DWord) (u : DWord) : Bool :=
  tap.2.2.toNat ≤ u.toNat && (u.toNat - tap.2.2.toNat) % tap.2.1 = 0

/-- Adds hashes to the sums of every tap of a tensor (R471). `ws` are (logical index, bits) pairs. -/
def LCore.tapAll (x : LCore) (taps : List (Nat × Nat × DWord)) (step : DWord) (tensor : Nat) (ws : List (Nat × DWord)) :
    LCore :=
  (taps.zipIdx).foldl (fun (y : LCore) p =>
    if p.1.1 = tensor && tapped p.1 step then
      let old := sget (fun _ => ((0 : DWord), (0 : DWord))) y.taps p.2
      let sum := ws.foldl (fun (h : DWord) w => h + tapHash tensor (BitVec.ofNat 64 w.1) w.2) old.1
      { y with taps := sput (fun _ => (0, 0)) y.taps p.2 (sum, old.2 + BitVec.ofNat 64 ws.length) }
    else y) x


end Sys2Proof.Machine
end

