-- ==== Sys2Proof/Machine/Route.lean ====
section
/-! DEFINITION. The torus map, routes, and sending a packet (R339 to R344, R362 to R373). -/

namespace Sys2Proof.Machine

/-- Coordinate digit of dimension i: 0 W, 1 X, 2 Y, 3 Z (R269). -/
def digit (c i : Nat) : Nat := c / 16 ^ (3 - i) % 16

/-- A coordinate with digit i replaced. -/
def setDigit (c i v : Nat) : Nat := c - digit c i * 16 ^ (3 - i) + v % 16 * 16 ^ (3 - i)

/-- The port of dimension i: + when `minus` is false (R17). -/
def portOf (i : Nat) (minus : Bool) : Nat := 2 * i + if minus then 1 else 0

/-- The opposite port (R17, R361). -/
def opposite (p : Nat) : Nat := if p % 2 = 0 then p + 1 else p - 1

def Fabric.record (f : Fabric) (c : Nat) : Option LinkRec := sget (fun _ => none) f.records c

/-- The end of port p in the record of a coordinate. -/
def Fabric.end_ (f : Fabric) (c p : Nat) : Option LinkEnd :=
  match f.record c with
  | none => none
  | some r => r.ends[p]?

/-- A link state that carries packets (R385). -/
def inService (n : Nat) : Bool := n = 2 || n = 3

/-- The link on port p of coordinate c is present: both records show it in service (R365). Its other end. -/
def Fabric.link (f : Fabric) (c p : Nat) : Option Nat :=
  match f.end_ c p with
  | none => none
  | some e =>
    match f.end_ e.neighbour.toNat (opposite p) with
    | none => none
    | some g => if inService e.state && inService g.state && g.neighbour.toNat = c then some e.neighbour.toNat else none

/-- A device is present: it is this one, or a link to it is (R365). -/
def Fabric.present (f : Fabric) (c : Nat) : Bool :=
  f.coord = some (BitVec.ofNat 16 c) || (upto 8).any (fun p => (f.link c p).isSome)

/-- Extent of dimension i. -/
def Fabric.extent (f : Fabric) (i : Nat) : Nat :=
  match f.extents with
  | none => 1
  | some e => digit e.toNat i + 1

/-- Travel in dimension i is the minus way (R367), reversed when bit 3 − i of j is set (R368). -/
def Fabric.minus (f : Fabric) (a b i j : Nat) : Bool :=
  let e := f.extent i
  let d := (digit b i + e - digit a i % e) % e
  xor (e < 2 * d) (j.testBit (3 - i))

/-- The hops of dimension i from c until its digit is that of b: coordinate and port. -/
def Fabric.dimHops (f : Fabric) (b i : Nat) (minus : Bool) : Nat → Nat → List (Nat × Nat) × Nat
  | 0, c => ([], c)
  | n + 1, c =>
    if digit c i = digit b i then ([], c)
    else
      let e := f.extent i
      let v := if minus then (digit c i + e - 1) % e else (digit c i + 1) % e
      let t := f.dimHops b i minus n (setDigit c i v)
      ((c, portOf i minus) :: t.1, t.2)

/-- The hops of path(a, b, j) (R368). -/
def Fabric.path (f : Fabric) (a b j : Nat) : List (Nat × Nat) :=
  ((upto 4).foldl (fun (p : List (Nat × Nat) × Nat) i =>
    let t := f.dimHops b i (f.minus p.2 b i j) 16 p.2
    (p.1 ++ t.1, t.2)) ([], a)).1

/-- first(a, b) of R368. -/
def Fabric.first (f : Fabric) (a b : Nat) : Option Nat :=
  (upto 16).find? (fun j =>
    (upto 4).all (fun i => !(j.testBit (3 - i)) || digit a i ≠ digit b i) &&
      (f.path a b j).all (fun h => (f.link h.1 h.2).isSome))

/-- The direction field of choice j from a to b (R339): bit 3 W to bit 0 Z, 1 for −. -/
def Fabric.dirs (f : Fabric) (a b j : Nat) : BitVec 4 :=
  BitVec.ofNat 4 ((upto 4).foldl (fun n i => 2 * n + if digit a i ≠ digit b i && f.minus a b i j then 1 else 0) 0)

/-- Torus distance, failures ignored (R368). -/
def Fabric.distance (f : Fabric) (a b : Nat) : Nat :=
  (upto 4).foldl (fun n i =>
    let e := f.extent i
    let d := (digit b i + e - digit a i % e) % e
    n + min d (e - d)) 0

/-- A route: the intermediate device of a detour, and the two direction fields. -/
abbrev Route := Option Nat × BitVec 4 × BitVec 4

/-- route(s, d) of R368. -/
def Fabric.route (f : Fabric) (a d : Nat) : Option Route :=
  match f.first a d with
  | some j => some (none, f.dirs a d j, 0)
  | none =>
    let cand := (f.records.map (fun p => p.1)).filter (fun i => i ≠ a && f.present i && (f.first a i).isSome && (f.first i d).isSome)
    match (upto 33).findSome? (fun n => if n = 0 then none else cand.find? (fun i => f.distance a i = n)) with
    | none => none
    | some i =>
      match f.first a i, f.first i d with
      | some j, some k => some (some i, f.dirs a i j, f.dirs i d k)
      | _, _ => none

/-- The message class of a packet type (R340). -/
def classOf (t : Nat) : Nat :=
  if t < 0x10 then 0 else if t < 0x20 then 1 else if t = 0x7F then 3 else 2

/-- The device's own coordinate, 0 when it holds none. -/
def State.coord (s : State) : Half := s.fabric.coord.getD 0

/-- A packet of this device (R339) on its route (R368), channel 0 at first (R369). -/
def State.packet (s : State) (t : Nat) (dest : Half) (k : Nat) (tag : Half) (addr : Nat) (arg : DWord) (data : List Byte) :
    Packet :=
  let r := (s.fabric.route s.coord.toNat dest.toNat).getD (none, 0, 0)
  { ptype := t, cls := classOf t, channel := 0, dest := dest, src := s.coord, detour := r.1.isSome,
    inter := BitVec.ofNat 16 (r.1.getD 0), dir0 := r.2.1, dir1 := r.2.2, context := k, tag := tag,
    addr := BitVec.ofNat 48 addr, arg := arg, data := data, good := true }

/-- Sends a packet: it waits for injection, and a request or reduction packet counts as unanswered (R371). -/
def State.send (s : State) (p : Packet) (job : Bool) : State :=
  let u : List Unanswered :=
    if p.cls = 0 ∨ p.cls = 2 then [{ dest := p.dest, tag := p.tag, ptype := p.ptype, tick := s.clock.tick, context := p.context, job := job }]
    else []
  { s with fabric := { s.fabric with tx := s.fabric.tx ++ [p], unanswered := s.fabric.unanswered ++ u } }

/-- Sends a request or reduction packet under a new tag, and notes what the answer is for. `r` is the rank whose addresses
it names (R446, log 40). -/
def State.askAt (s : State) (r t : Nat) (dest : Half) (k addr : Nat) (arg : DWord) (data : List Byte) (job : Bool) (why : Purpose) :
    State × Half :=
  let tag := s.fabric.nextTag
  let s1 := { s with fabric := { s.fabric with nextTag := tag + 1, purposes := s.fabric.purposes ++ [(dest, tag, why)] } }
  (s1.send { s1.packet t dest k tag addr arg data with rank := r } job, tag)

/-- Sends a request or reduction packet that names no rank's addresses. -/
def State.ask (s : State) (t : Nat) (dest : Half) (k addr : Nat) (arg : DWord) (data : List Byte) (job : Bool) (why : Purpose) :
    State × Half := s.askAt 0 t dest k addr arg data job why

/-- Answers a packet with a response-class packet of the same tag. -/
def State.answer (s : State) (p : Packet) (t : Nat) (arg : DWord) (data : List Byte) : State :=
  s.send (s.packet t p.src p.context p.tag 0 arg data) false

/-- A completion of one packet (R340, type 0x11). -/
def State.complete (s : State) (p : Packet) : State := s.answer p 0x11 1 []

/-- Pieces of a body with their offsets, each at most n bytes long; an empty body is one empty piece. -/
def pieces (n : Nat) : Nat → Nat → List Byte → List (Nat × List Byte)
  | 0, _, _ => []
  | f + 1, o, bs => if bs.length ≤ n then [(o, bs)] else (o, bs.take n) :: pieces n f (o + n) (bs.drop n)

/-- A job control message (R344): subtype in address bits [47:40], the piece's offset in bits [31:0]. -/
def State.control (s : State) (k : Nat) (tag : DWord) (dest : Half) (subtype : Nat) (body : List Byte) : State :=
  (pieces 2016 (body.length + 1) 0 body).foldl (fun (t : State) p =>
    (t.ask 0x30 dest k (subtype * 2 ^ 40 + p.1) tag p.2 true .other).1) s

/-- The devices of a job other than this one. -/
def State.others (s : State) (j : Job) : List Half := (j.rankMap.eraseDups).filter (fun c => c ≠ s.coord)

/-- The standbys of a shielded job that the shield object names (R503, R504). -/
def State.standbys (s : State) (k : Nat) : List Half :=
  (upto 8).filterMap (fun n =>
    let w := s.reg (ctxObj k 0x26) (2 + n)
    if bit w 16 then some (BitVec.ofNat 16 (bits w 15 0)) else none)

/-- Every other device of a job: in a shielded job those of every replica, and the standbys. -/
def State.everyone (s : State) (k : Nat) (j : Job) : List Half :=
  ((if j.replicaMap = [] then j.rankMap else j.rankMap ++ j.replicaMap ++ s.standbys k).eraseDups).filter (fun c => c ≠ s.coord)

/-- A job control message to every device of a job, its replicas and standbys included. -/
def State.controlEveryone (s : State) (k : Nat) (j : Job) (subtype : Nat) (body : List Byte) : State :=
  (s.everyone k j).foldl (fun t c => t.control k j.tag c subtype body) s

/-- A job control message to every other device of a job. -/
def State.controlAll (s : State) (k : Nat) (j : Job) (subtype : Nat) (body : List Byte) : State :=
  (s.others j).foldl (fun t c => t.control k j.tag c subtype body) s

/-- A job control message to the lead, when the lead is another device. -/
def State.controlLead (s : State) (k : Nat) (j : Job) (subtype : Nat) (body : List Byte) : State :=
  if j.lead then s else s.control k j.tag j.leadCoord subtype body

end Sys2Proof.Machine
end

