-- ==== Sys2Proof/Machine/Memory.lean ====
section
/-! DEFINITION. Device-local memory: address map, partitions, rank views, writes that advance prefetch generations, and the
requests of controllers and CXL ports (R253, R266 to R303, R445 to R447). -/

namespace Sys2Proof.Machine

/-! ## Addresses -/

/-- Bytes of a page of a rank view and the grain of partitions (R267, R446): 64 MiB. -/
def page64 : Nat := 2 ^ 26

/-- End of the GDDR7 range of context partitions (R266). -/
def gddrStop : Nat := 0x2E00000000
/-- Bases of the CXL windows (R266). -/
def cxlBase (n : Nat) : Nat := if n = 0 then 0x100000000000 else 0x140000000000
/-- Bytes of a CXL window. -/
def cxlWindow : Nat := 2 ^ 42

/-- The unit that holds a device-local address: 0 GDDR7, 1 and 2 CXL ports 0 and 1, none elsewhere (R266). -/
def unitOf (a : Nat) : Option Nat :=
  if a < gddrStop then some 0
  else if cxlBase 0 ≤ a ∧ a < cxlBase 0 + cxlWindow then some 1
  else if cxlBase 1 ≤ a ∧ a < cxlBase 1 + cxlWindow then some 2
  else none

/-- Base and length of partition `u` of context k: 0 GDDR7, 1 and 2 CXL (R510). -/
def State.partition (s : State) (k u : Nat) : Nat × Nat :=
  (s.reg64 (ctxObj k 0) (2 + 4 * u), s.reg64 (ctxObj k 0) (4 + 4 * u))

/-- The bytes from a to stop − 1 lie in one partition of context k, and below the programmed size of a CXL port
(R267, R297). -/
def State.inPartition (s : State) (k a stop : Nat) : Bool :=
  match unitOf a with
  | none => false
  | some u =>
    let p := s.partition k u
    decide (p.1 ≤ a) && decide (stop ≤ p.1 + p.2) &&
      (u = 0 || (stop ≤ cxlBase (u - 1) + (s.cxlPort (u - 1)).size))

/-- The page of a rank view: rank page, and partition page code with the unit in bits [31:30] (R446, R458). -/
def Job.page (j : Job) (r n : Nat) : Option Nat :=
  match j.pages.find? (fun p => p.1 = r && p.2.1 = n) with
  | some p => some p.2.2
  | none => none

/-- The device-local address behind an address of held rank r of context k (R446); the address itself when the device
holds one rank. -/
def State.view (s : State) (k r a : Nat) : Option Nat :=
  match s.job k with
  | none => some a
  | some j =>
    if j.held.length ≤ 1 then some a
    else
      match j.page r (a / page64) with
      | none => none
      | some c => some ((s.partition k (c / 2 ^ 30)).1 + c % 2 ^ 30 * page64 + a % page64)

/-- The 64 MiB pages that the bytes from a to stop − 1 touch. -/
def pagesOf (a stop : Nat) : List Nat := (upto ((stop - 1) / page64 + 1 - a / page64)).map (fun i => a / page64 + i)

/-- A range of tier 1 or 2 that held rank r of context k may use: in the tier's range, mapped and in a partition
(R266, R267, R446, R447). -/
def State.rangeOk (s : State) (k r tier a stop : Nat) : Bool :=
  let inTier := fun (u : Option Nat) => if tier = 1 then u = some 0 else u = some 1 || u = some 2
  decide (a < stop) && decide (stop ≤ 2 ^ 48) && inTier (unitOf a) && (unitOf a = unitOf (stop - 1)) &&
    match s.job k with
    | none => s.inPartition k a stop
    | some j =>
      if j.held.length ≤ 1 then s.inPartition k a stop
      else (pagesOf a stop).all (fun n =>
        match s.view k r (n * page64) with
        | none => false
        | some p => s.inPartition k p (p + page64))

/-- Device-local memory as a source of held rank r. -/
def State.rdDev (s : State) (k r : Nat) : Nat → Byte := fun a =>
  match s.view k r a with
  | some p => getByte s.mem p
  | none => 0

/-! ## Writes -/

/-- The granules of a byte range. -/
def granules (a n : Nat) : List Nat := if n = 0 then [] else (upto ((a + n - 1) / 64 + 1 - a / 64)).map (fun i => a / 64 + i)

/-- A prefetch entry after a write on granules of its source (R252, R253). -/
def Prefetch.bump (p : Prefetch) (gs : List Nat) : Prefetch :=
  if (p.tier = 1 || p.tier = 2) && p.granules.any (fun g => gs.contains g) then
    { p with generation := min (2 ^ 32 - 1) (p.generation + 1) }
  else p

/-- Advances the generations of the entries of every core whose source a write touches, and sends the notices of the
watches (R253). -/
def State.advance (s : State) (gs : List Nat) : State :=
  let t := s.lcores.foldl (fun (u : State) p =>
    match p.2 with
    | some x =>
      if x.prefetches.isEmpty then u else u.setLcore p.1 (some { x with prefetches := x.prefetches.map (fun e => e.bump gs) })
    | none => u) s
  (t.fabric.watches.filter (fun w => w.granules.any (fun g => gs.contains g))).foldl (fun (u : State) w =>
    u.send (u.packet 0x14 w.src w.context w.tag 0 0 []) false) t

/-- Repair entries that a write covers whole hold data from then on (R284). -/
def State.fillRepairs (s : State) (a n : Nat) : State :=
  s.ctls.foldl (fun (t : State) p =>
    if p.2.repairs.any (fun r => !r.written && a ≤ 64 * r.granule && 64 * r.granule + 64 ≤ a + n) then
      t.setCtl p.1 { p.2 with repairs := p.2.repairs.map (fun r =>
        if a ≤ 64 * r.granule && 64 * r.granule + 64 ≤ a + n then { r with written := true } else r) }
    else t) s

/-- Writes bytes at a device-local address: one write that lands on its granules. -/
def State.devWrite (s : State) (a : Nat) (bs : List Byte) : State :=
  ({ s with mem := putBytes s.mem a bs }.fillRepairs a bs.length).advance (granules a bs.length)

/-- Writes the bytes that bits of a mask select. -/
def maskBytes (old new : List Byte) (mask : Nat) : List Byte :=
  ((old.zip new).zipIdx).map (fun p => if mask.testBit p.2 then p.1.2 else p.1.1)

/-! ## GDDR7 decode (R271, R272) -/

/-- Channel, bank, row and data granule of a device-local GDDR7 address. -/
def gddrDecode (a : Nat) : Nat × Nat × Nat × Nat :=
  let blk := a / 64 / 31
  let q := blk / 192
  (blk % 192, (q % 16) ^^^ (q / 16 % 16), q / 16 % 32768, a / 64 % 31)

/-! ## Check bits (R276, R277) -/

/-- Multiplication in GF(2^8) with polynomial 0x11D: 8 steps over the bits of b. -/
def gfMul (a b : Nat) : Nat :=
  ((upto 8).foldl (fun (p : Nat × Nat) i =>
    ((if b.testBit i then p.1 ^^^ p.2 else p.1), (if p.2 < 128 then 2 * p.2 else (2 * p.2) ^^^ 0x11D))) (0, a)).1

/-- The powers of α = 0x02: α^0 to α^(n − 1). -/
def gfPowers : Nat → Nat → List Nat
  | 0, _ => []
  | n + 1, a => a :: gfPowers n (gfMul a 2)

/-- α^n. -/
def gfPow (n : Nat) : Nat := (upto (n % 255)).foldl (fun a _ => gfMul a 2) 1

/-- The syndromes at α and α² of the 72 symbols, first symbol first: 64 data, 6 address, 2 check symbols. -/
def syndromes (sym : List Nat) : Nat × Nat :=
  sym.foldl (fun (p : Nat × Nat) b => (gfMul p.1 2 ^^^ b, gfMul p.2 4 ^^^ b)) (0, 0)

/-- The two check symbols of 70 symbols (R276): the remainder by (x − α)(x − α²) = x² + 0x06 x + 0x08. -/
def checkSymbols (sym : List Nat) : Nat × Nat :=
  sym.foldl (fun (p : Nat × Nat) b => (p.2 ^^^ gfMul 6 (p.1 ^^^ b), gfMul 8 (p.1 ^^^ b))) (0, 0)

/-- The 70 symbols of a granule: its data bytes and the bytes of its address (R276). -/
def eccSymbols (data : List Byte) (addr : Nat) : List Nat := data.map (fun b => b.toNat) ++ (leBytes 6 addr).map (fun b => b.toNat)

/-- The check granule of a row with 31 data granules at these addresses (R275): 2 bytes each, and 2 reserved bytes. -/
def checkGranule (row : List (Nat × List Byte)) : List Byte :=
  row.flatMap (fun g => (fun (c : Nat × Nat) => [BitVec.ofNat 8 c.1, BitVec.ofNat 8 c.2]) (checkSymbols (eccSymbols g.2 g.1))) ++ [0, 0]

/-- What a decoder finds (R277). -/
inductive EccResult where
  | clean
  | corrected (position : Nat)
  | uncorrectable
  deriving DecidableEq, Repr

/-- The decoder on the error pattern of a read: positions 0 to 63 data, 64 and 65 the check symbols, with the bytes by
which they differ. A right codeword contributes nothing, so that the pattern alone gives the syndromes. -/
def eccDecode (errors : List (Nat × Byte)) : EccResult :=
  let place := fun (n : Nat) => if n < 64 then n else n + 6
  let sym := (upto 72).map (fun i =>
    (errors.filter (fun e => place e.1 = i)).foldl (fun n e => n ^^^ e.2.toNat) 0)
  let sy := syndromes sym
  if sy = (0, 0) then .clean
  else if sy.1 = 0 ∨ sy.2 = 0 then .uncorrectable
  else
    -- one error e at symbol i of 72 has S1 = e·α^(71−i) and S2 = e·α^(2(71−i))
    match ((upto 72).zip (gfPowers 72 1)).find? (fun p => gfMul sy.1 p.2 = sy.2) with
    | none => .uncorrectable
    | some p =>
      let i := 71 - p.1
      if i < 64 ∨ 70 ≤ i then .corrected i else .uncorrectable

/-- The data after the decoder: the errors stand, and the symbol that it corrects is changed by its value (R277). -/
def eccData (data : List Byte) (errors : List (Nat × Byte)) : List Byte :=
  let wrong := (data.zipIdx).map (fun p =>
    (errors.filter (fun e => e.1 = p.2)).foldl (fun (b : Byte) e => b ^^^ e.2) p.1)
  match eccDecode errors with
  | .corrected i =>
    let place := fun (n : Nat) => if n < 64 then n else n + 6
    let sym := (upto 72).map (fun i =>
      (errors.filter (fun e => place e.1 = i)).foldl (fun n e => n ^^^ e.2.toNat) 0)
    let sy := syndromes sym
    -- the value of the error: S1² / S2
    let value := match (upto 256).find? (fun v => gfMul v sy.2 = gfMul sy.1 sy.1) with
      | some v => v
      | none => 0
    (wrong.zipIdx).map (fun p => if p.2 = i then p.1 ^^^ BitVec.ofNat 8 value else p.1)
  | _ => wrong

end Sys2Proof.Machine
end

