-- ==== Sys2Proof/Machine/Inbound.lean ====
section
/-! DEFINITION. What every packet meets at its destination: the CRC check, the answer, and the end of a wait (R340, R341,
R371, R373). -/

namespace Sys2Proof.Machine

/-- The port on which a packet enters this device, given its route (R339, R370): none when it comes from this device. -/
def arrivalPort (p : Packet) : Option Nat :=
  let from_ := if p.detour then p.inter.toNat else p.src.toNat
  let dirs := if p.detour then p.dir1 else p.dir0
  match ((upto 4).filter (fun i => digit from_ i ≠ digit p.dest.toNat i)).getLast? with
  | none => none
  | some i => some (portOf i (!(bit dirs (3 - i))))

/-- A packet is discarded and counted at a port (R385). -/
def State.discarded (s : State) (p : Packet) : State :=
  match arrivalPort p with
  | some n => s.bump64 (portObj n 1) 0x0B 1
  | none => s

/-- A packet of type `t` at its destination: one of another type, or for another device, changes nothing here, and one
whose check fails is discarded, counted and recorded (R341). -/
def State.inbound (s : State) (t : Nat) (p : Packet) (f : State → State) : State :=
  if p.ptype ≠ t ∨ p.dest ≠ s.coord then s
  else if !p.good then
    (s.discarded p).addError 0x0020 0 (unitField 4 0 ((arrivalPort p).getD 0)) noJob p.ptype noStep (BitVec.ofNat 64 p.src.toNat) 0
  else f s

/-- An answer: the packet it answers no longer waits. An answer that nothing waits for is discarded and counted (R371,
R373). `f` gets what the packet was for. -/
def State.answered (s : State) (p : Packet) (last : Bool) (f : State → Purpose → State) : State :=
  match s.fabric.purposes.find? (fun q => q.1 = p.src && q.2.1 = p.tag) with
  | none => s.discarded p
  | some q =>
    let t := if last then
        { s with fabric := { s.fabric with
            purposes := s.fabric.purposes.filter (fun r => !(r.1 = p.src && r.2.1 = p.tag))
            unanswered := s.fabric.unanswered.filter (fun r => !(r.dest = p.src && r.tag = p.tag)) } }
      else s
    f t q.2.2

/-- A packet of the request or reduction class is served, and completed when it has been (R340). -/
def State.served (s : State) (t : Nat) (p : Packet) (f : State → State) : State := s.inbound t p (fun u => (f u).complete p)

end Sys2Proof.Machine
end

