-- ==== Sys2Proof/Machine/Image.lean ====
section
/-! DEFINITION. The program image: header, directory, sections, and the checks of acceptance (R387, R427, R432, R470, R495,
R512 to R514). -/

namespace Sys2Proof.Machine

/-! ## Fields -/

/-- A little-endian field of n bytes at offset o of the image at `base`. -/
def State.img (s : State) (base o n : Nat) : Nat := leNat (getBytes s.mem (base + o) n)

/-- A directory entry: kind, reserved, entry count, offset (R512). -/
structure Section where
  kind : Nat
  resv : Nat
  count : Nat
  offset : Nat
  deriving DecidableEq, Repr

/-- The directory (R512), at most 64 entries of it. -/
def State.sections (s : State) (base : Nat) : List Section :=
  (upto (min 64 (s.img base 0x10 4))).map (fun i =>
    let o := 0x40 + 16 * i
    { kind := s.img base o 2, resv := s.img base (o + 2) 2, count := s.img base (o + 4) 4, offset := s.img base (o + 8) 8 })

/-- The section of a kind: its offset and entry count; empty when the image has none. -/
def State.sect (s : State) (base kind : Nat) : Nat × Nat :=
  match (s.sections base).find? (fun d => d.kind = kind) with
  | some d => (d.offset, d.count)
  | none => (0, 0)

def State.hasSect (s : State) (base kind : Nat) : Bool := (s.sections base).any (fun d => d.kind = kind)

/-- Offsets of a section's entries of `size` bytes. -/
def State.entries (s : State) (base kind size : Nat) : List Nat :=
  (upto (s.sect base kind).2).map (fun i => (s.sect base kind).1 + size * i)

/-! ## Blocks -/

/-- A block of a program: program, block, instructions, offset (R513). -/
structure BlockEntry where
  program : Nat
  block : Nat
  count : Nat
  offset : Nat
  deriving DecidableEq, Repr

def State.blocks (s : State) (base : Nat) : List BlockEntry :=
  (s.entries base 1 16).map (fun o =>
    { program := s.img base o 2, block := s.img base (o + 2) 2, count := s.img base (o + 4) 4, offset := s.img base (o + 8) 8 })

/-- The number of blocks B of a program. -/
def State.blockCount (s : State) (base program : Nat) : Nat :=
  ((s.blocks base).filter (fun b => b.program = program)).length

/-- Address and length of a block's instructions. -/
def State.blockAt (s : State) (base program b : Nat) : Option (Nat × Nat) :=
  match (s.blocks base).find? (fun e => e.program = program && e.block = b) with
  | some e => some (base + e.offset, e.count)
  | none => none

/-- Instruction words from a device-local address. -/
def State.wordsAt (s : State) (a n : Nat) : List IWord :=
  (upto n).map (fun i => BitVec.ofNat 128 (leNat (getBytes s.mem (a + 16 * i) 16)))

/-- The image address of context k's job. -/
def State.imageOf (s : State) (k : Nat) : Nat :=
  match s.job k with
  | none => 0
  | some j => (s.slot k j.j).image.toNat

/-! ## Cores, descriptor sets, tensors -/

/-- A core entry (R513). -/
structure CoreEntry where
  r0 : Nat
  r1 : Nat
  c0 : Nat
  c1 : Nat
  program : Nat
  set : Nat
  footprint : Nat
  rows0 : Nat
  rows1 : Nat
  resv : Nat
  deriving DecidableEq, Repr

def State.coreEntries (s : State) (base : Nat) : List CoreEntry :=
  (s.entries base 2 32).map (fun o =>
    { r0 := s.img base o 4, r1 := s.img base (o + 4) 4, c0 := s.img base (o + 8) 2, c1 := s.img base (o + 10) 2,
      program := s.img base (o + 12) 2, set := s.img base (o + 14) 2, footprint := s.img base (o + 16) 2,
      rows0 := s.img base (o + 18) 1, rows1 := s.img base (o + 19) 1, resv := s.img base (o + 20) 12 })

/-- The entry of a rank and a logical core. -/
def State.coreEntry (s : State) (base r l : Nat) : Option CoreEntry :=
  (s.coreEntries base).find? (fun e => e.r0 ≤ r && r ≤ e.r1 && e.c0 ≤ l && l ≤ e.c1)

/-- T0 to T31 of a descriptor set as the image holds them. -/
def State.descSet (s : State) (base n : Nat) : List DescWord :=
  (upto 32).map (fun i => BitVec.ofNat 256 (s.img base ((s.sect base 3).1 + 1024 * n + 32 * i) 32))

/-- A declared tensor (R513). -/
structure TensorEntry where
  tensor : Nat
  holder : Nat
  size : Nat
  tiers : Nat
  flags : Nat
  keep : Nat
  data : Nat
  deriving DecidableEq, Repr

def State.tensors (s : State) (base : Nat) : List TensorEntry :=
  (s.entries base 4 32).map (fun o =>
    { tensor := s.img base o 4, holder := s.img base (o + 4) 4, size := s.img base (o + 8) 8,
      tiers := s.img base (o + 16) 2, flags := s.img base (o + 18) 2, keep := s.img base (o + 20) 4,
      data := s.img base (o + 24) 8 })

/-- The tier preference: up to four codes, ended by 0xF (R513). -/
def tierList (n : Nat) : List Nat := ((upto 4).map (fun i => n / 16 ^ i % 16)).takeWhile (fun t => t ≠ 15)

def TensorEntry.optional (t : TensorEntry) : Bool := t.flags.testBit 3
def TensorEntry.persistent (t : TensorEntry) : Bool := t.flags.testBit 2
/-- A tensor whose only tier is 0 (R514). -/
def TensorEntry.coreLocal (t : TensorEntry) : Bool := tierList t.tiers = [0]
/-- All ones: no initial data. -/
def noData : Nat := 2 ^ 64 - 1

/-! ## Reduction tables (R387) -/

/-- Reduction groups with their offsets: 32 bytes and 8 for each backup, one after another. -/
def State.groupOffsets (s : State) (base : Nat) : List Nat :=
  ((upto (s.sect base 5).2).foldl (fun (p : Nat × List Nat) _ =>
    (p.1 + 32 + 8 * s.img base (p.1 + 0x15) 1, p.2 ++ [p.1])) ((s.sect base 5).1, [])).2

def State.groupsOf (s : State) (base : Nat) : List Group :=
  (s.groupOffsets base).map (fun o =>
    { group := s.img base o 4, unit := BitVec.ofNat 32 (s.img base (o + 4) 4), span := BitVec.ofNat 32 (s.img base (o + 8) 4),
      readySem := s.img base (o + 0x0C) 2, readyCount := s.img base (o + 0x0E) 2, deadline := s.img base (o + 0x10) 4,
      late := s.img base (o + 0x14) 1,
      backups := (upto (s.img base (o + 0x15) 1)).map (fun i =>
        (s.img base (o + 0x20 + 8 * i + 4) 4, s.img base (o + 0x20 + 8 * i) 4)),
      takes := [], ready := [], decisions := [], held := [] })

def State.shardsOf (s : State) (base : Nat) (start : DWord) : List Shard :=
  (s.entries base 6 96).map (fun o =>
    { shard := s.img base o 4, layer := s.img base (o + 4) 4, owner := s.img base (o + 8) 4,
      elements := s.img base (o + 0x0C) 4, group := s.img base (o + 0x10) 4, consumers := s.img base (o + 0x14) 4,
      cfmt := s.img base (o + 0x18) 1, optimizer := s.img base (o + 0x19) 1, copyFmt := s.img base (o + 0x1A) 1,
      flags := s.img base (o + 0x1B) 1, hyper := s.img base (o + 0x1C) 2, pushSem := s.img base (o + 0x1E) 2,
      pushUnit := BitVec.ofNat 32 (s.img base (o + 0x20) 4), pushSpan := BitVec.ofNat 32 (s.img base (o + 0x24) 4),
      master := s.img base (o + 0x28) 8, state := s.img base (o + 0x30) 8, copies := s.img base (o + 0x38) 8,
      contribution := s.img base (o + 0x40) 8, pushAddr := s.img base (o + 0x48) 8,
      consumerUnit := BitVec.ofNat 32 (s.img base (o + 0x50) 4), consumerSpan := BitVec.ofNat 32 (s.img base (o + 0x54) 4),
      lag := s.img base (o + 0x58) 1,
      versions := [{ v := start, committed := true, released := [], retiredAt := none }],
      newest := start, buffer := 0, early := [], sigma := 0x7F, nextSigma := 0x7F, digest := 0, mismatched := false })

/-- The 48-byte hyperparameter sets. -/
def State.hypersOf (s : State) (base : Nat) : List (List Byte) :=
  (s.entries base 7 48).map (fun o => getBytes s.mem (base + o) 48)

/-! ## Small tables -/

/-- Queue table: free semaphore, full semaphore, slots (R427). -/
def State.queuesOf (s : State) (base : Nat) : List (Nat × Nat × Nat) :=
  (s.entries base 8 8).map (fun o => (s.img base o 2, s.img base (o + 2) 2, s.img base (o + 4) 2))

/-- Tap table: tensor, period, first step (R470). -/
def State.tapsOf (s : State) (base : Nat) : List (Nat × Nat × DWord) :=
  (s.entries base 10 16).map (fun o => (s.img base o 4, s.img base (o + 4) 4, BitVec.ofNat 64 (s.img base (o + 8) 8)))

/-- Synchronisation homes: kind, identifier, home core (R513). -/
def State.homesOf (s : State) (base : Nat) : List (Nat × Nat × Nat) :=
  (s.entries base 12 8).map (fun o => (s.img base o 1, s.img base (o + 2) 2, s.img base (o + 4) 2))

/-- An INT8 byte. -/
def int8 (n : Nat) : Int := signed 8 n

/-! ## Checks -/

/-- Product of the extents of a shape (R28). -/
def shapeRanks (shape : Nat) : Nat := (digit shape 0 + 1) * (digit shape 1 + 1) * (digit shape 2 + 1) * (digit shape 3 + 1)

/-- Bytes of one section, from its directory entry. -/
def State.sectBytes (s : State) (base : Nat) (d : Section) : Nat :=
  if d.kind = 1 then 16 * d.count else if d.kind = 2 then 32 * d.count else if d.kind = 3 then 1024 * d.count
  else if d.kind = 4 then 32 * d.count
  else if d.kind = 5 then
    (s.groupOffsets base).foldl (fun n o => n + 32 + 8 * s.img base (o + 0x15) 1) 0
  else if d.kind = 6 then 96 * d.count else if d.kind = 7 then 48 * d.count else if d.kind = 8 then 8 * d.count
  else if d.kind = 9 then 0x430 + 4 * s.img base d.offset 4
  else if d.kind = 10 then 16 * d.count
  else if d.kind = 11 then 8 else 8 * d.count

def allDistinct : List Nat → Bool
  | [] => true
  | a :: t => !(t.contains a) && allDistinct t

/-- Header and directory (R512, R513). -/
def State.headerOk (s : State) (base : Nat) : Bool :=
  let len := s.img base 0x18 8
  let bytes := getBytes s.mem base len
  let zeroed := bytes.take 0x30 ++ List.replicate 8 0 ++ bytes.drop 0x38
  let ds := s.sections base
  s.img base 0 4 = 0x49504845 && s.img base 4 2 = 1 && s.img base 6 2 = 1 &&
  s.img base 8 4 = shapeRanks (s.img base 0x0C 2) && 1 ≤ s.img base 0x0E 2 && s.img base 0x0E 2 ≤ 1024 &&
  s.img base 0x14 4 = 0 && s.img base 0x2C 4 = 0 && s.img base 0x38 8 = 0 &&
  s.img base 0x10 4 ≤ 12 && 0x40 + 16 * s.img base 0x10 4 ≤ len &&
  s.img base 0x30 8 = (crc64 zeroed).toNat &&
  ds.all (fun d => 1 ≤ d.kind && d.kind ≤ 12 && d.resv = 0 && d.offset + s.sectBytes base d ≤ len) &&
  allDistinct (ds.map (fun d => d.kind)) && [1, 2, 3, 4].all (fun n => s.hasSect base n)

/-- Blocks of each program numbered without gaps, inside the image (R513, R514). -/
def State.blocksOk (s : State) (base : Nat) : Bool :=
  (s.blocks base).all (fun b => 1 ≤ b.count && b.count ≤ 1024 && b.offset + 16 * b.count ≤ s.img base 0x18 8 &&
    b.block < s.blockCount base b.program &&
    ((s.blocks base).filter (fun d => d.program = b.program && d.block = b.block)).length = 1)

/-- Two core entries share a pair of a rank and a core. -/
def CoreEntry.meets (a b : CoreEntry) : Bool := a.r0 ≤ b.r1 && b.r0 ≤ a.r1 && a.c0 ≤ b.c1 && b.c0 ≤ a.c1

/-- Each pair of a rank and a core falls in exactly one entry (R514): the entries do not meet and cover them all. -/
def State.coresOk (s : State) (base : Nat) : Bool :=
  let es := s.coreEntries base
  es.all (fun e => e.r0 ≤ e.r1 && e.c0 ≤ e.c1 && e.r1 < s.img base 8 4 && e.c1 < s.img base 0x0E 2 &&
    1 ≤ s.blockCount base e.program && e.set < (s.sect base 3).2 && 1 ≤ e.footprint && e.footprint ≤ 448 &&
    e.rows0 ≤ 32 && e.rows1 ≤ 32 && e.resv = 0) &&
  (es.zipIdx).all (fun p => (es.zipIdx).all (fun q => p.2 = q.2 || !(p.1.meets q.1))) &&
  es.foldl (fun n e => n + (e.r1 - e.r0 + 1) * (e.c1 - e.c0 + 1)) 0 = s.img base 8 4 * s.img base 0x0E 2

/-- Descriptors and tensors (R514); an optional tensor names a keep switch in tier 0 (R430). -/
def State.tensorsOk (s : State) (base : Nat) : Bool :=
  let ts := s.tensors base
  ts.all (fun t => t.tensor ≠ 0xFFFFFFFF && (t.holder < s.img base 8 4 || t.holder = 0xFFFFFFFF) &&
    t.flags < 16 && !(tierList t.tiers).isEmpty && (tierList t.tiers).all (fun c => c ≤ 4) &&
    (t.data = noData || t.data + t.size ≤ s.img base 0x18 8) &&
    (!t.optional || ts.any (fun u => u.tensor = t.keep && u.coreLocal))) &&
  (upto (s.sect base 3).2).all (fun n => (s.descSet base n).all (fun d => bits d 3 1 = 0 || bits d 3 1 = 3))

/-- Initial data of core-local tensors fit the footprint of every core whose set names them (R514). -/
def State.localBase (s : State) (base set tensor : Nat) : Option Nat :=
  let bs := ((s.descSet base set).filter (fun d => d ≠ 0 && bits d 191 160 = tensor && bits d 3 1 = 0)).map (fun d => bits d 255 192)
  match bs with
  | [] => none
  | b :: t => some (t.foldl min b)

def State.localsOk (s : State) (base : Nat) : Bool :=
  ((s.tensors base).filter (fun t => t.coreLocal && t.data ≠ noData)).all (fun t =>
    (s.coreEntries base).all (fun e =>
      match s.localBase base e.set t.tensor with
      | none => true
      | some b => b + t.size ≤ 1024 * e.footprint))

/-- Tables of R387. Group numbers are distinct, since a shard names its group by number (log 49). -/
def State.reductionOk (s : State) (base : Nat) : Bool :=
  allDistinct ((s.groupsOf base).map (fun g => g.group)) &&
  (s.groupsOf base).all (fun g => g.backups.all (fun b => decide (b.1 < s.img base 8 4) && decide (b.2 < s.img base 8 4))) &&
  (s.groupOffsets base).all (fun o => s.img base o 4 < 4096 && s.img base (o + 0x0C) 2 < 1024 &&
    1 ≤ s.img base (o + 0x0E) 2 && s.img base (o + 0x14) 1 ≤ 2 && s.img base (o + 0x16) 10 = 0) &&
  (s.entries base 6 96).all (fun o => s.img base o 4 < 2 ^ 24 && s.img base (o + 8) 4 < s.img base 8 4 &&
    1 ≤ s.img base (o + 0x0C) 4 && s.img base (o + 0x0C) 4 ≤ 16777216 &&
    (s.groupsOf base).any (fun g => g.group = s.img base (o + 0x10) 4) &&
    1 ≤ s.img base (o + 0x14) 4 && s.img base (o + 0x14) 4 ≤ 65536 &&
    (s.img base (o + 0x18) 1 = 0 || s.img base (o + 0x18) 1 = 2) && s.img base (o + 0x19) 1 ≤ 2 &&
    2 ≤ s.img base (o + 0x1A) 1 && s.img base (o + 0x1A) 1 ≤ 4 && s.img base (o + 0x1B) 1 < 8 &&
    s.img base (o + 0x1C) 2 < (s.sect base 7).2 && s.img base (o + 0x1E) 2 < 1024 &&
    s.img base (o + 0x58) 1 ≤ 15 && s.img base (o + 0x59) 7 = 0) &&
  (s.entries base 7 48).all (fun o => s.img base (o + 0x1C) 4 = 0 && 1 ≤ s.img base (o + 0x2C) 4)

/-- The watch table (R432). -/
def State.watchesOk (s : State) (base : Nat) : Bool :=
  if !s.hasSect base 9 then true
  else
    let o := (s.sect base 9).1
    let w := s.img base o 4
    let lo := int8 (s.img base (o + 0x1E) 1)
    let hi := int8 (s.img base (o + 0x1F) 1)
    1 ≤ w && w ≤ 240 && s.img base (o + 4) 4 ≤ 2 ^ 24 && s.img base (o + 8) 8 % 64 = 0 &&
    s.img base (o + 0x18) 4 ≤ 65535 && 1 ≤ s.img base (o + 0x1C) 2 && lo ≤ hi &&
    s.img base (o + 0x24) 12 = 0 && s.img base (o + 0x20) 4 < 0x7F800001 && 0 < s.img base (o + 0x20) 4 &&
    (upto 1024).all (fun i => s.img base (o + 0x30 + i) 1 < w || s.img base (o + 0x30 + i) 1 = 0xFF) &&
    (upto w).all (fun i =>
      let e := signed 32 (s.img base (o + 0x430 + 4 * i) 4)
      lo ≤ e && e ≤ hi) &&
    (s.entries base 6 96).all (fun p => s.img base (p + 4) 4 < s.img base (o + 4) 4)

/-- Queues, taps, shield and homes (R427, R470, R495, R513). -/
def State.smallOk (s : State) (base : Nat) : Bool :=
  (s.sect base 8).2 ≤ 64 &&
  (s.entries base 8 8).all (fun o => s.img base o 2 < 1024 && s.img base (o + 2) 2 < 1024 && 1 ≤ s.img base (o + 4) 2 && s.img base (o + 6) 2 = 0) &&
  (s.sect base 10).2 ≤ 64 && (s.entries base 10 16).all (fun o => 1 ≤ s.img base (o + 4) 4) &&
  (!s.hasSect base 11 ||
    (2 ≤ s.img base (s.sect base 11).1 1 && s.img base (s.sect base 11).1 1 ≤ 4 && s.img base ((s.sect base 11).1 + 1) 1 ≤ 64 &&
      s.img base ((s.sect base 11).1 + 2) 6 = 0)) &&
  (s.entries base 12 8).all (fun o => s.img base o 1 ≤ 1 && s.img base (o + 1) 1 = 0 &&
    s.img base (o + 2) 2 < (if s.img base o 1 = 0 then 256 else 1024) && s.img base (o + 4) 2 < s.img base 0x0E 2 &&
    s.img base (o + 6) 2 = 0) &&
  allDistinct ((s.homesOf base).map (fun h => h.1 * 1024 + h.2.1))

/-- The image and its tables pass the checks of acceptance step 1 (R522). -/
def State.imageOk (s : State) (base : Nat) : Bool :=
  s.headerOk base && s.blocksOk base && s.coresOk base && s.tensorsOk base && s.localsOk base && s.reductionOk base &&
    s.watchesOk base && s.smallOk base

end Sys2Proof.Machine
end

