-- ==== Sys2Proof/Machine/Units.lean ====
section
/-! DEFINITION. Unit addresses, spans and groups over logical numbers (R27 to R29, R45 to R48, R424). -/

namespace Sys2Proof.Machine

/-- Logical coordinate digit i of a unit address (R45). -/
def unitDigit (u : Word) (i : Nat) : Nat := digit (u.toNat / 65536) i
def unitDepth (u : Word) : Nat := bits u 15 14
/-- The unit number at the address's depth (R45, R48). -/
def unitNumber (u : Word) : Nat :=
  if unitDepth u = 1 then bits u 9 4 else if unitDepth u = 2 then bits u 9 0 else if unitDepth u = 3 then bits u 13 12 else 0

/-- log2 of the block extent in dimension i (R46). -/
def spanDigit (p : Word) (i : Nat) : Nat := digit (p.toNat / 65536) i
def spanCount (p : Word) : Nat := bits p 3 0

/-- Largest count at a depth (R46). -/
def countLimit (depth : Nat) : Nat := if depth = 0 then 0 else if depth = 1 then 6 else if depth = 2 then 10 else 2

/-- The reserved fields of an address are 0 (R45). -/
def unitClean (u : Word) : Bool :=
  bits u 11 10 = 0 && (unitDepth u = 3 || bits u 13 12 = 0) && (unitDepth u ≠ 1 || bits u 3 0 = 0) &&
    (unitDepth u ≠ 0 || bits u 9 0 = 0)

/-- The last logical core that a group names at a device (R48). -/
def lastCore (u p : Word) : Nat :=
  if unitDepth u = 0 then 0
  else if unitDepth u = 1 then (unitNumber u + 2 ^ spanCount p - 1) * 16
  else if unitDepth u = 2 then unitNumber u + 2 ^ spanCount p - 1
  else bits u 9 0

/-- A valid group reference (R48) in a job of a shape and n logical cores. -/
def groupOk (shape : Half) (n : Nat) (u p : Word) : Bool :=
  unitClean u && bits p 15 4 = 0 && spanCount p ≤ countLimit (unitDepth u) && unitNumber u % 2 ^ spanCount p = 0 &&
    (unitDepth u ≠ 3 || unitNumber u + 2 ^ spanCount p ≤ 4) &&
    (unitDepth u = 0 || lastCore u p < n) &&
    (upto 4).all (fun i => spanDigit p i ≤ 4 && unitDigit u i % 2 ^ spanDigit p i = 0 &&
      unitDigit u i + 2 ^ spanDigit p i ≤ digit shape.toNat i + 1)

/-- Logical rank of a logical coordinate (R28). -/
def rankOf (shape : Half) (c : Nat) : Nat :=
  ((digit c 0 * (digit shape.toNat 1 + 1) + digit c 1) * (digit shape.toNat 2 + 1) + digit c 2) * (digit shape.toNat 3 + 1) + digit c 3

/-- Logical coordinate of a rank. -/
def coordOf (shape : Half) (r : Nat) : Nat :=
  let z := digit shape.toNat 3 + 1
  let y := digit shape.toNat 2 + 1
  let x := digit shape.toNat 1 + 1
  r / (x * y * z) * 4096 + r / (y * z) % x * 256 + r / z % y * 16 + r % z

/-- A logical coordinate lies inside the shape (R29). -/
def inShape (shape : Half) (c : Nat) : Bool := (upto 4).all (fun i => digit c i ≤ digit shape.toNat i)

/-- The rank lies in the block of a group (R47). -/
def inBlock (shape : Half) (u p : Word) (r : Nat) : Bool :=
  (upto 4).all (fun i => unitDigit u i ≤ digit (coordOf shape r) i && digit (coordOf shape r) i < unitDigit u i + 2 ^ spanDigit p i)

/-- The ranks of a group's devices, ascending (R47, R388). -/
def groupRanks (shape : Half) (ranks : Nat) (u p : Word) : List Nat := (upto ranks).filter (inBlock shape u p)

/-- Devices in the block of a span (R47). -/
def spanDevices (p : Word) : Nat := 2 ^ ((upto 4).foldl (fun n i => n + spanDigit p i) 0)

/-- Logical cores that a group holds at each device (R47). -/
def groupCores (n : Nat) (u p : Word) : List Nat :=
  if unitDepth u = 0 then upto n
  else if unitDepth u = 1 then (upto n).filter (fun l => unitNumber u ≤ l / 16 && l / 16 < unitNumber u + 2 ^ spanCount p)
  else if unitDepth u = 2 then (upto n).filter (fun l => unitNumber u ≤ l && l < unitNumber u + 2 ^ spanCount p)
  else [bits u 9 0]

/-- Smallest e with 2^e at least n. -/
def ceilLog2 (n : Nat) : Nat := if n ≤ 1 then 0 else (n - 1).log2 + 1

/-- The scope of the step barrier (R424). -/
def stepSpan (shape : Half) : Word :=
  BitVec.ofNat 32 ((upto 4).foldl (fun v i => v * 16 + ceilLog2 (digit shape.toNat i + 1)) 0 * 65536)

/-- Physical coordinate of a logical rank (R29). -/
def Job.physical (j : Job) (r : Nat) : Half := j.rankMap.getD r 0

/-- The rank that a core's instruction names by logical coordinate, when it lies inside the shape. -/
def Job.rankAt (j : Job) (c : Nat) : Option Nat := if inShape j.shape c then some (rankOf j.shape c) else none

/-- A group reference at depth 0 (R387). -/
def deviceGroupOk (shape : Half) (n : Nat) (u p : Word) : Bool := unitDepth u = 0 && groupOk shape n u p

/-- The table checks of R387 that need a span: groups and consumer groups lie inside the job's shape, and the consumers of
every shard equal the members of its consumer group. -/
def State.consumersOk (s : State) (base : Nat) : Bool :=
  let shape : Half := BitVec.ofNat 16 (s.img base 0x0C 2)
  let n := s.img base 0x0E 2
  (s.groupsOf base).all (fun g => deviceGroupOk shape n g.unit g.span) &&
  (s.shardsOf base 0).all (fun d => deviceGroupOk shape n d.consumerUnit d.consumerSpan && d.consumers = spanDevices d.consumerSpan)

end Sys2Proof.Machine
end

