-- ==== Sys2Proof/Machine/Load.lean ====
section
/-! DEFINITION. Instruction banks, what the job manager loads into a logical core, and logical cores that take and leave a
physical core (R34, R35, R43, R162, R163, R169, R170, R426, R430, R431, R514). -/

namespace Sys2Proof.Machine

/-! ## Descriptors, keep switches and initial data -/

/-- The tensor is held by rank r (R513). -/
def TensorEntry.heldBy (t : TensorEntry) (r : Nat) : Bool := t.holder = r || t.holder = 0xFFFFFFFF

/-- Where a tensor lies for rank r: as the rank holds it, or in tier 3 at the rank that does. -/
def Job.placedFor (j : Job) (r n : Nat) : Option Placed :=
  match j.tensors.find? (fun p => p.tensor = n && (p.rank.isNone || p.rank = some r)) with
  | some p => some p
  | none => j.tensors.find? (fun p => p.tensor = n && p.tier = 3)

/-- Base that a descriptor gets (R230): in tier 3 the logical coordinate of the holding rank above the address there. -/
def Job.loadBase (j : Job) (p : Placed) : Nat :=
  if p.tier = 3 then coordOf j.shape (p.rank.getD 0) * 2 ^ 48 + p.base % 2 ^ 48 else p.base

/-- The table entry of a tensor for rank r: one that r holds before one of another rank (R513). -/
def entryFor (ts : List TensorEntry) (r n : Nat) : Option TensorEntry :=
  match ts.find? (fun t => t.tensor = n && t.heldBy r) with
  | some t => some t
  | none => ts.find? (fun t => t.tensor = n)

/-- A descriptor as it is loaded for rank r (R514): a core-local or undeclared tensor and a shard keep theirs; an optional
tensor without room gets a base outside data SRAM (R430). -/
def Job.loadDesc (j : Job) (ts : List TensorEntry) (r : Nat) (d : DescWord) : DescWord :=
  if d = 0 || bits d 3 1 = 3 then d
  else
    match entryFor ts r (bits d 191 160) with
    | none => d
    | some t =>
      if t.coreLocal then d
      else
        let word := fun (base tier : Nat) => BitVec.ofNat 256 (bits d 191 0 - bits d 3 1 * 2 + tier * 2 + base % 2 ^ 64 * 2 ^ 192)
        match j.placedFor r t.tensor with
        | some p => word (j.loadBase p + bits d 255 192) p.tier
        | none => if t.optional && t.heldBy r then word 0x98000 0 else d

/-- Writes bytes into the core-local tensor that a descriptor set names (R514). -/
def State.putLocal (s : State) (base set tensor : Nat) (bs : List Byte) (m : Sparse Byte) : Sparse Byte :=
  match s.localBase base set tensor with
  | some a => putBytes m a bs
  | none => m

/-- No keep switch (R513). -/
def noSwitch : Nat := 2 ^ 32 - 1

/-- The keep switches of rank r as they are loaded: 1 for a placed tensor, else 0 (R430). -/
def State.putSwitches (s : State) (base set r : Nat) (j : Job) (m : Sparse Byte) : Sparse Byte :=
  ((s.tensors base).filter (fun t => t.optional && t.keep ≠ noSwitch)).foldl (fun n t =>
    s.putLocal base set t.keep (leBytes 4 (if (j.placedFor r t.tensor).isSome then 1 else 0)) n) m

/-- Initial data of the core-local tensors that rank r holds (R514). -/
def State.putInitial (s : State) (base set r : Nat) (m : Sparse Byte) : Sparse Byte :=
  ((s.tensors base).filter (fun t => t.coreLocal && t.data ≠ noData && t.heldBy r)).foldl (fun n t =>
    s.putLocal base set t.tensor (getBytes s.mem (base + t.data) t.size) n) m

/-- Loads descriptors and keep switches into a logical core (R430, R514). -/
def State.loadCore (s : State) (j : Job) (x : LCore) : LCore :=
  let base := (s.slot x.k x.j).image.toNat
  match s.coreEntry base x.r x.l with
  | none => x
  | some e =>
    { x with
      t := ((s.descSet base e.set).zipIdx).foldl (fun m p => sput (fun _ => 0) m p.2 (j.loadDesc (s.tensors base) x.r p.1)) []
      sram := s.putSwitches base e.set x.r j x.sram }

/-! ## The step-boundary capture -/

/-- Capture of the counter sets into the harvest buffer, the step number, and the test area of R474 (R425, R426). -/
def LCore.capture (x : LCore) : LCore :=
  let y := { x with harvest := x.sets, sets := [], harvestTaps := x.taps, taps := [], step := x.step + 1, boundary := false }
  let z := { y with sram := y.sram.filter (fun p => !(0x6E000 ≤ p.1 && p.1 ≤ 0x6FFFF && p.1 < y.footprint)), tiles := [] }
  let clr := fun (v : LCore) (a rows : Nat) =>
    if 31 < rows then (v.clearRow a 31 64).setRecord (a * 32 + 31) { topk := 0xFF } else v
  clr (clr z 0 z.rows0) 1 z.rows1

/-- Marks every live prefetch entry with a forced mismatch (R257). -/
def LCore.forceAll (x : LCore) : LCore := { x with prefetches := x.prefetches.map (fun p => { p with forced := true }) }

/-! ## Banks -/

def State.ready (s : State) (i : Nat) : Bool :=
  match s.lcore i with
  | some x => x.status = .ready
  | none => false

/-- A bank that holds block b of a program. -/
def State.bankWith (s : State) (k program : Nat) (b : Word) : Bank :=
  match s.blockAt (s.imageOf k) program b.toNat with
  | some (a, n) => { block := b, words := s.wordsAt a n }
  | none => {}

/-- A loader load of block b begins (R163, R166): the bank holds no block until it completes. -/
def State.startLoad (s : State) (c bank k program : Nat) (b : Word) : State :=
  match s.blockAt (s.imageOf k) program b.toNat with
  | none => s
  | some (a, n) => s.setCore c ((s.core c).setBank bank { loading := some (b, a, n) })

/-- Logical core `i` of a fold takes the core: its state is restored, its block is loaded into bank 0, and a step-boundary
capture that waited follows (R35, R169, R426). -/
def State.foldIn (s : State) (c i : Nat) : State :=
  match s.lcore i with
  | none => s
  | some x =>
    let y := if x.boundary then x.capture else x
    let t := s.setLcore i (some { y with bank := 0 })
    t.setCore c { t.core c with res0 := some i, issuing := 0, bank0 := s.bankWith x.k x.program x.block }

/-! ## Leaving and joining a core -/

/-- Context of a logical core's key. -/
def ctxOfLkey (i : Nat) : Nat := i / (65536 * 1024)

/-- The logical cores of a job that share physical core c, ascending (R31, R32). -/
def Job.foldOn (j : Job) (k c : Nat) : List Nat :=
  sortNat ((j.coreMap.filter (fun e => e.phys = c)).map (fun e => lkey k e.rank e.lcore))

/-- Logical core i joins physical core c (R32, R36, R162, R169, R170): into its fold, alone in slot 0 from bank 0, or beside
a resident context in the slot that the resident's bank leaves free. It waits while others of its job have yet to leave the
core, and, unless this is a block boundary of the resident context, for that boundary. -/
def State.join (s : State) (c i : Nat) (boundary : Bool) : State :=
  match s.lcore i with
  | none => s
  | some x =>
    let p := s.core c
    let mates := match s.job x.k with
      | some j => j.foldOn x.k c
      | none => []
    let here := [p.res0, p.res1].filterMap id
    let wait := s.setCore c { p with entering := p.entering.filter (fun n => n ≠ i) ++ [i] }
    if (here ++ p.fold).any (fun n => !(mates.contains n) && ctxOfLkey n = x.k) then wait
    else if 1 < mates.length then
      let f := match p.res0 with
        | some r => insertNat i (insertNat r p.fold)
        | none => insertNat i p.fold
      let t := s.setCore c { p with fold := f }
      if p.res0.isNone then t.foldIn c i else t
    else
      match here with
      | [] =>
        let t := s.setLcore i (some { x with bank := 0 })
        let t := t.setCore c { p with res0 := some i, issuing := 0, fold := [], bank0 := s.bankWith x.k x.program x.block, bank1 := {} }
        if (x.block.toNat + 1) < s.blockCount (s.imageOf x.k) x.program then t.startLoad c 1 x.k x.program (x.block + 1) else t
      | [j] =>
        match s.lcore j with
        | none => s
        | some y =>
          if !boundary then wait
          else
            let mine := 1 - y.bank
            let t := s.setLcore i (some { x with bank := mine })
            let q := ((({ p with res0 := none, res1 := none } : Core).setRes y.bank (some j)).setRes mine (some i))
            t.setCore c ({ q with issuing := y.bank }.setBank mine (s.bankWith x.k x.program x.block))
      | _ => wait

/-- The logical cores that wait to enter core c take it as far as they can (R170). -/
def State.enter (s : State) (c : Nat) : State :=
  (s.core c).entering.foldl (fun (t : State) i => t.join c i true) (s.setCore c { s.core c with entering := [] })

/-- Logical core i leaves physical core c: another member of its fold takes the core, or the other resident keeps its slot
while its inactive bank is empty until the loader has loaded the next block (R34, R170, R528). -/
def State.leave (s : State) (c i : Nat) : State :=
  let p := s.core c
  let q := { (if p.res0 = some i then { p with res0 := none } else if p.res1 = some i then { p with res1 := none } else p) with
    fold := p.fold.filter (fun j => j ≠ i) }
  let t := s.setCore c q
  match [q.res0, q.res1].filterMap id with
  | [j] =>
    match s.lcore j with
    | none => t
    | some y =>
      let t := t.setCore c ((t.core c).setBank (1 - y.bank) {})
      if q.fold = [] && (y.block.toNat + 1) < s.blockCount (s.imageOf y.k) y.program then
        t.startLoad c (1 - y.bank) y.k y.program (y.block + 1)
      else t
  | [] =>
    (match (q.fold.filter (fun j => i < j) ++ q.fold.filter (fun j => j < i)).find? (fun j => s.ready j) with
    | some n => (t.foldIn c n).enter c
    | none => t.enter c)
  | _ => t

end Sys2Proof.Machine
end

