-- ==== Sys2Proof/Machine/Halt.lean ====
section
/-! DEFINITION. Slot changes, the teardown of a job at this device, and halts (R112, R178 to R186, R310, R494, R526). -/

namespace Sys2Proof.Machine

/-- Changes slot j of context k; a change of its state signals vector 0 of the context's function (R630). -/
def State.changeSlot (s : State) (k j : Nat) (f : Slot → Slot) : State :=
  let t := s.setSlot k j (f (s.slot k j))
  if (f (s.slot k j)).state = (s.slot k j).state then t else t.msix k 0

/-- Context of a barrier's and a semaphore's key. -/
def ctxOfBkey (i : Nat) : Nat := i / (65536 * 256)
def ctxOfSkey (i : Nat) : Nat := i / (65536 * 1024)

/-- The context that a synchronisation message belongs to. -/
def Flight.ctx : Flight → Nat
  | .arm k _ _ _ _ _ => k
  | .arrive k _ _ _ _ _ => k
  | .release k _ _ _ _ => k
  | .grant k _ _ _ => k
  | .granted k _ _ => k

/-- A core no longer holds logical cores of context k. -/
def Core.without (x : Core) (k : Nat) : Core :=
  let gone : Option Nat → Bool := fun o =>
    match o with
    | some i => decide (ctxOfLkey i = k)
    | none => false
  let y := if gone x.res0 then { x with res0 := none } else x
  let z := if gone y.res1 then { y with res1 := none } else y
  { z with fold := z.fold.filter (fun i => ctxOfLkey i ≠ k), entering := z.entering.filter (fun i => ctxOfLkey i ≠ k) }

/-- Notes the pods whose cores hold neither context nor tile, and those that do again (R570). -/
def State.notePods (s : State) : State :=
  s.pods.foldl (fun (t : State) p =>
    let busy := s.cores.any (fun q => q.1 / 18 = p.1 && (q.2.res0.isSome || q.2.res1.isSome || q.2.tile))
    let v := if busy then { p.2 with idleSince := none }
      else match p.2.idleSince with
        | some _ => p.2
        | none => if p.2.clocked then { p.2 with idleSince := some s.clock.tick } else p.2
    t.setPod p.1 v) s

/-- What the ranks of context k's job hold at this device goes: its cores, drained entries, barriers, semaphores and messages
(R112, R310). -/
def State.clearWork (s : State) (k : Nat) : State :=
  let t := s.cores.foldl (fun (u : State) p => u.setCore p.1 (p.2.without k)) s
  let t := { t with
    lcores := t.lcores.filter (fun p => ctxOfLkey p.1 ≠ k)
    barriers := t.barriers.filter (fun p => ctxOfBkey p.1 ≠ k)
    sems := t.sems.filter (fun p => ctxOfSkey p.1 ≠ k)
    flights := t.flights.filter (fun f => f.ctx ≠ k)
    fabric := { t.fabric with watches := t.fabric.watches.filter (fun w => w.context ≠ k) }
    power := { t.power with memoryUsed := t.clock.tick } }
  (t.cores.foldl (fun (u : State) p => u.enter p.1) t).notePods

/-- Everything that the job of context k holds at this device goes. -/
def State.dropJob (s : State) (k : Nat) : State :=
  let t := s.clearWork k
  ((t.setJob k none).setReg (ctxObj k 1) 1 0xFF).setReg (ctxObj k 0x20) 4 0

/-- Body of a teardown message (R344, subtype 0x0A). -/
def teardownBody (cause : Nat) (coord : Half) : List Byte := leBytes 4 cause ++ leBytes 2 coord.toNat ++ leBytes 2 0

/-- The slot of a job goes to faulted with the first cause that this device met, and the job's work ends here (R526). -/
def State.endFaulted (s : State) (k j cause : Nat) (rec : Word) : State :=
  let t := s.changeSlot k j (fun v => { v with state := 6, cause := cause, causeRecord := rec, preempted := false })
  (t.bump (ctxObj k 1) 0x09 1).dropJob k

/-- A fault of context k's job at this device: torn down here, and the lead, or every other device, is told (R526).
Causes 0x05, 0x06 and 0x08 are faults by hardware and enter record 0x0035 (R490). -/
def State.faultJob (s : State) (k cause kind : Nat) (rec : Word) : State :=
  match s.job k with
  | none => s
  | some j =>
    let body := teardownBody cause s.coord
    let t := if j.jobLead = s.coord then s.controlEveryone k j 0x0A body else s.control k j.tag j.jobLead 0x0A body
    let t := t.endFaulted k j.j cause rec
    if cause = 0x05 ∨ cause = 0x06 ∨ cause = 0x08 then
      (t.addError 0x0035 2 (unitField 0 0 s.coord.toNat) (BitVec.ofNat 32 (k * 2 ^ 16 + 2 ^ 15)) kind noStep
        (BitVec.ofNat 64 rec.toNat) (s.slot k j.j).sequence).alarm 0x1000 0x04 1
    else t

/-! ## Halts -/

/-- The halt word (R186). -/
def HaltRec.word (r : HaltRec) : Word :=
  BitVec.ofNat 32 (r.reason * 2 ^ 24 + (if r.valid then 2 ^ 11 else 0) + r.bank * 2 ^ 10 + r.index)

/-- The context slot of a core that holds a logical core. -/
def Core.slotOf (x : Core) (i : Nat) : Nat := if x.res1 = some i then 1 else 0

/-- The address of the program counter. -/
def LCore.here (x : LCore) : Address := ⟨x.bank, x.index, x.block⟩

/-- Records a halt of logical core `i` on physical core `c`, unless the record is valid already (R181, R186), and enters
the error record of R182 for every reason but 0x00. -/
def State.recordHalt (s : State) (c i : Nat) (x : LCore) (at_ : Address) (opc reason detail effect : Nat) : State :=
  let p := s.core c
  let r : HaltRec :=
    { valid := true, reason := reason, bank := at_.bank, index := at_.index, tick := s.clock.tick, block := at_.block,
      context := x.k, lcore := x.l, detail := BitVec.ofNat 32 detail }
  let t := if (p.halt (p.slotOf i)).valid then s else s.setCore c (p.setHalt (p.slotOf i) r)
  if reason = 0 then t
  else
    t.addError 0x0001 effect (unitField 1 0 c) (jobField x.k x.l) opc x.step
      (BitVec.ofNat 64 (r.word.toNat * 2 ^ 32 + detail % 2 ^ 32)) (BitVec.ofNat 64 at_.block.toNat)

/-- The cores that run a logical core of context k which has not halted, in ascending order, with that logical core. -/
def State.running (s : State) (k : Nat) : List (Nat × Nat × LCore) :=
  s.cores.flatMap (fun p =>
    ([p.2.res0, p.2.res1].filterMap (fun o =>
      match o with
      | none => none
      | some i =>
        match s.lcore i with
        | none => none
        | some x => if x.k = k && x.status ≠ .halted then some (p.1, i, x) else none)))

/-- The opcode of the instruction that logical core x of core c would issue next, 0 past the end of its block. -/
def State.opcodeHere (s : State) (c : Nat) (x : LCore) : Nat := opcode (((s.core c).bank x.bank).words.getD x.index 0)

/-- A detected mistake of the instruction at `at_` with opcode `opc` (R179): the halt is recorded, every other core of the
job records 0xFE, and the job is torn down with cause 0x04. -/
def State.mistake (s : State) (c i : Nat) (at_ : Address) (opc reason detail : Nat) : State :=
  match s.lcore i with
  | none => s
  | some x =>
    let seq := BitVec.ofNat 32 s.errors.next
    let t := s.recordHalt c i x at_ opc reason detail 2
    let t := (s.running x.k).foldl (fun (u : State) p =>
      if p.2.1 = i then u else u.recordHalt p.1 p.2.1 p.2.2 p.2.2.here (u.opcodeHere p.1 p.2.2) 0xFE x.l 0) t
    t.faultJob x.k 0x04 0x0001 seq

/-- The physical core that holds logical core i, now or as a member of its fold. -/
def State.physOf (s : State) (i : Nat) : Option Nat :=
  match s.cores.find? (fun p => p.2.res0 = some i || p.2.res1 = some i || p.2.fold.contains i) with
  | some p => some p.1
  | none => none

/-- A mistake found in work of logical core i wherever it runs. -/
def State.mistakeOf (s : State) (i : Nat) (at_ : Address) (opc reason detail : Nat) : State :=
  match s.physOf i with
  | none => s
  | some c => s.mistake c i at_ opc reason detail

end Sys2Proof.Machine
end

