-- ==== Sys2Proof/Machine/Versions.lean ====
section
/-! DEFINITION. The release of shard versions by their consumers (R405, R408). -/

namespace Sys2Proof.Machine

/-! ## At the owner -/

/-- A version retires when every consumer rank has released it and a newer version is committed (R408). -/
def Shard.retireAll (d : Shard) (tick : DWord) : Shard :=
  { d with versions := d.versions.map (fun v =>
      if v.retiredAt.isNone && d.consumers ≤ v.released.length && d.versions.any (fun n => n.committed && v.v.toNat < n.v.toNat) then
        { v with retiredAt := some tick }
      else v) }

/-- Versions that retire with a change. -/
def Shard.retirements (old new : Shard) : Nat :=
  (new.versions.filter (fun v => v.retiredAt.isSome && old.versions.any (fun w => w.v = v.v && w.retiredAt.isNone))).length

/-- Rank r releases version v of a shard; a version that does not exist yet is noted (R408). -/
def Shard.release (d : Shard) (r : Nat) (v : DWord) : Shard :=
  if d.versions.any (fun w => w.v = v) then
    { d with versions := d.versions.map (fun w => if w.v = v && !(w.released.contains r) then { w with released := w.released ++ [r] } else w) }
  else if d.newest.toNat < v.toNat && !(d.early.contains (v, r)) then { d with early := d.early ++ [(v, r)] }
  else d

/-- A held rank owns the shard here. -/
def Job.owns (j : Job) (d : Shard) : Bool := j.held.contains d.owner

/-- The release of rank r for the step e that it has ended: version e − δ of every shard owned here whose consumer group
holds r (R408). -/
def State.releaseAt (s : State) (k r : Nat) (e : DWord) : State :=
  match s.job k with
  | none => s
  | some j =>
    let new := j.shards.map (fun d =>
      if j.owns d && inBlock j.shape d.consumerUnit d.consumerSpan r && d.lag ≤ e.toNat then
        (d.release r (e - BitVec.ofNat 64 d.lag)).retireAll s.clock.tick
      else d)
    let n := (j.shards.zip new).foldl (fun n p => n + p.1.retirements p.2) 0
    (s.setJob k (some { j with shards := new })).bump64 (ctxObj k 0x22) 0x11 n

/-! ## At the consumers -/

/-- The owners of the shards that rank r consumes, each once, in the order of the table. -/
def Job.ownersFor (j : Job) (r : Nat) : List Nat :=
  ((j.shards.filter (fun d => inBlock j.shape d.consumerUnit d.consumerSpan r)).map (fun d => d.owner)).eraseDups

/-- This device releases for held rank r and step e: one release for each owner (R408). -/
def State.releaseFor (s : State) (k : Nat) (j : Job) (r : Nat) (e : DWord) : State :=
  let here := (j.ownersFor r).filter (fun o => j.held.contains o)
  let away := (j.ownersFor r).filter (fun o => !(j.held.contains o))
  let t := if here = [] then s else s.releaseAt k r e
  away.foldl (fun (u : State) o => (u.ask 0x24 (j.physical o) k 0 e (leBytes 4 r) true .other).1) t

/-- The releases of a step's end. -/
def State.releaseStep (s : State) (k : Nat) (j : Job) (e : DWord) : State :=
  j.held.foldl (fun (t : State) r => t.releaseFor k j r e) s

/-- The releases of a job's end, as if every later step of each held rank had ended: the steps from `from_` on in which a
version up to that of the final commit is released (R408). -/
def State.releaseRest (s : State) (k : Nat) (j : Job) (from_ : DWord) : State :=
  let n := (j.shards.map (fun d => d.lag)).foldl max 0
  (upto (n + 1)).foldl (fun (t : State) i => t.releaseStep k j (from_ + BitVec.ofNat 64 i)) s

end Sys2Proof.Machine
end

