-- ==== Sys2Proof/Machine/Flow.lean ====
section
/-! DEFINITION. Issue, instruction banks, contexts, folds, block boundaries and the flow instructions (R34, R35, R148 to
R177, R221 to R225, R426), and the job's end (R523 to R525). -/

namespace Sys2Proof.Machine

/-! ## Diagnostic counters -/

/-- Adds to a counter of R188 while the core runs a context in diagnostic mode. -/
def State.diag (s : State) (c sub n : Nat) (on : Bool) : State := if on then s.bump64 (coreObj c 0x5) sub n else s

/-! ## Which logical core issues -/

/-- The logical core that holds the issuing context slot. -/
def State.current (s : State) (c : Nat) : Option (Nat × LCore) :=
  match (s.core c).res (s.core c).issuing with
  | none => none
  | some i =>
    match s.lcore i with
    | none => none
    | some x => some (i, x)

/-- Every instruction that the logical core has sent is complete (R35). -/
def LCore.drained (x : LCore) : Bool := x.mq.isEmpty && x.held.isEmpty && x.fetches.isEmpty

/-- The next logical core of the fold after `i`, in ascending order and round, that can run (R34). -/
def State.foldNext (s : State) (c i : Nat) : Option Nat :=
  let f := (s.core c).fold
  ((f.filter (fun j => i < j)) ++ (f.filter (fun j => j < i))).find? (fun j => s.ready j)

/-- The outgoing logical core's state stays with it; its prefetch entries refetch (R35, R257). -/
def State.foldOut (s : State) (i : Nat) : State :=
  match s.lcore i with
  | none => s
  | some x =>
    s.setLcore i (some { x.forceAll with status := if x.status = .yielding then .ready else x.status })

/-- Logical core i goes into its save area: its prefetch entries refetch, and it runs again only after JOB_RESUME (R257,
R528). One that waits, or has halted, stays so. -/
def State.park (s : State) (i : Nat) : State :=
  match s.lcore i with
  | none => s
  | some x =>
    let goes := x.status = .ready || x.status = .yielding || x.status = .leaving
    s.setLcore i (some { x.forceAll with status := if goes then .saved else x.status })

/-- Logical core i, whose engines are empty, leaves core c: saved, with the fold that it belongs to, when its job is
pre-empted (R528), else for its new physical core (R43). -/
def State.vacate (s : State) (c i : Nat) : State :=
  match s.lcore i with
  | none => s
  | some x =>
    if (s.slot x.k x.j).preempted then
      let t := ((s.core c).fold).foldl (fun (u : State) n => u.park n) (s.park i)
      ((t.setCore c { t.core c with fold := [] }).leave c i).notePods
    else
      match s.job x.k with
      | none => s
      | some j =>
        match j.moves.find? (fun m => m.1 = i) with
        | none => s
        | some m =>
          let t := s.setJob x.k (some { j with moves := j.moves.filter (fun n => n.1 ≠ i) })
          let st : Status := if x.status = .idle then .idle else .ready
          (((t.setLcore i (some { x.forceAll with status := st })).leave c i).join m.2 i false).notePods

/-- The residents of core c that are to leave do so once their engines are empty. -/
def State.departures (s : State) (c : Nat) : State :=
  ([(s.core c).res0, (s.core c).res1].filterMap id).foldl (fun (t : State) i =>
    match t.lcore i with
    | some x => if x.status = .leaving && x.drained then t.vacate c i else t
    | none => t) s

/-- Gives the issue slot on, when the logical core that holds it does not issue and another can (R34, R35, R173, R174). -/
def State.reschedule (s0 : State) (c : Nat) : State :=
  let s := s0.departures c
  let p := s.core c
  match s.current c with
  | some (i, x) =>
    if x.status = .ready then s
    else if 1 < p.fold.length then
      if !x.drained then s
      else
        match s.foldNext c i with
        | none => if x.status = .yielding then s.setLcore i (some { x with status := .ready }) else s
        | some j =>
          let on := x.diagnostic
          ((s.foldOut i).foldIn c j).diag c 0x29 1 on
    else
      match p.res (1 - p.issuing) with
      | some j =>
        if s.ready j then
          let t := if x.status = .yielding then s.setLcore i (some { x with status := .ready }) else s
          t.setCore c { p with issuing := 1 - p.issuing }
        else if x.status = .yielding then s.setLcore i (some { x with status := .ready }) else s
      | none => if x.status = .yielding then s.setLcore i (some { x with status := .ready }) else s
  | none =>
    match p.res (1 - p.issuing) with
    | some _ => s.setCore c { p with issuing := 1 - p.issuing }
    | none =>
      match p.fold.find? (fun j => s.ready j) with
      | some j => s.foldIn c j
      | none => s

/-- A logical core of core c has just become runnable. When the other resident became so in this same cycle while neither
issued, the pointer of R174 decides which of them runs. -/
def State.wakeTie (s : State) (c : Nat) (before : Bool) : State :=
  let p := s.core c
  let both := [p.res0, p.res1].all (fun o =>
    match o with
    | some i => s.ready i
    | none => false)
  if !before then s.setCore c { p with woke := some s.now }
  else if both && p.woke = some s.now then s.setCore c { p with issuing := s.pointer 0 2 }
  else s

/-- Changes the status of a logical core and lets the core go on (R173). -/
def State.setStatus (s : State) (c i : Nat) (f : LCore → LCore) : State :=
  match s.lcore i with
  | none => s
  | some x => (s.setLcore i (some (f x))).reschedule c

/-- The tile pair that runs on core c, as test core or as partner, is abandoned and counted (R450, R475, R487). -/
def State.abandonTile (s : State) (c : Nat) : State :=
  match s.radish.running with
  | none => s
  | some q =>
    if q.1 ≠ c ∧ q.2.1 ≠ c then s
    else
      let t := s.setCore q.1 { s.core q.1 with tile := false }
      let t := t.setCore q.2.1 { t.core q.2.1 with tile := false }
      ({ t with radish := { t.radish with running := none } }.bump64 0x3100 0x09 1).notePods

/-- A logical core becomes runnable, on whatever core holds it (R174, R315, R324). When the core's issue slot belongs to
a logical core that does not run, the slot is given on. -/
def State.wake (s : State) (i : Nat) (f : LCore → LCore) : State :=
  match s.lcore i with
  | none => s
  | some x =>
    let t := s.setLcore i (some { f x with status := .ready })
    match t.physOf i with
    | none => t
    | some c =>
      let before := [(s.core c).res0, (s.core c).res1].any (fun o =>
        match o with
        | some n => s.ready n
        | none => false)
      ((t.reschedule c).wakeTie c before).abandonTile c

/-! ## Block boundaries -/

/-- An instruction-block boundary of logical core i on core c (R168): descriptors are loaded anew where a re-placement asks
for it (R43, R431), a logical core that is to leave does so when its engines are empty (R35, R43, R528), and one that waits
for the core enters it (R170). -/
def State.boundary (s : State) (c i : Nat) : State :=
  match s.lcore i with
  | none => s
  | some x =>
    match s.job x.k with
    | none => s
    | some j =>
      let t := if j.reload.contains i then
          (s.setLcore i (some (s.loadCore j x))).setJob x.k (some { j with reload := j.reload.filter (fun n => n ≠ i) })
        else s
      if (s.slot x.k x.j).preempted || j.moves.any (fun m => m.1 = i) then
        (if x.drained then t.vacate c i
         else match t.lcore i with
          | some y => t.setLcore i (some { y with status := .leaving })
          | none => t)
      else t.enter c

/-! ## Issue -/

/-- The answer of a core instruction's command: a next state, or a fault for a core that does not exist. A word that is
not the command's own, or a core where no logical core issues, leaves the state as it is. `mist` lists the word's
mistakes, and `run` carries it out. -/
def issue (s : State) (c : Nat) (w : IWord) (own : Bool) (mist : LCore → List Mistake)
    (run : Nat → LCore → State) : Host.Outcome State Fault Refusal :=
  onUnit (decide (c < 1152))
    (match s.current c with
    | none => s
    | some (i, x) =>
      if !own || x.status ≠ .ready then s
      else
        let n := ((s.core c).bank x.bank).words.length
        if n ≤ x.index then
          s.mistake c i { bank := x.bank, index := n - 1, block := x.block }
            (opcode (((s.core c).bank x.bank).words.getD (n - 1) 0)) 0x06 n
        else
          match lowest (mist x) with
          | some m => s.mistake c i x.here (opcode w) m.1 m.2
          | none => run i x)

/-- The logical core after it has issued an instruction that does not branch. -/
def LCore.next (x : LCore) : LCore := { x with index := x.index + 1 }

/-- An S register that a sent instruction has yet to write (R154). -/
def LCore.pendingS (x : LCore) (n : Nat) : Bool := x.held.any (fun h => h.uses.sreg = some n)

/-! ## Flow instructions -/

/-- Length of the executing block. -/
def State.blockLen (s : State) (c : Nat) (x : LCore) : Nat := ((s.core c).bank x.bank).words.length

/-- Signed 24-bit step of LOOP (R221). -/
def step24 (w : IWord) (hi lo : Nat) : DWord := BitVec.ofInt 64 (signed 24 (bits w hi lo))

/-- Bits that LOOP uses (R189, R221): source 1 leaves the low part of the count field reserved. -/
def loopUsed (w : IWord) : List (Nat × Nat) :=
  [(119, 107), (if bit w 107 then (106, 103) else (106, 87)), (86, 57), (85, 58), (56, 29)]

/-- Mistakes of LOOP (R167, R221, R225). -/
def loopMistakes (s : State) (c : Nat) (w : IWord) (x : LCore) : List Mistake :=
  reservedBits w (loopUsed w) ++
  mistakeIf (s.blockLen c x ≤ bits w 117 108) 0x05 (bits w 117 108) ++
  mistakeIf (match x.loop (bits w 119 118) with
    | some h => h.1 ≠ x.index
    | none => false) 0x08 (bits w 119 118)

/-- The count that LOOP latches (R221). -/
def loopCount (w : IWord) (x : LCore) : Nat :=
  let n : Int := if bit w 107 then int32 (x.getS (bits w 106 103)) else (bits w 106 87 : Nat)
  if n < 1 then 1 else n.toNat

/-- Adds `f step` to the stepped A registers, p first (R221, R225). -/
def loopStep (w : IWord) (f : DWord → DWord) (x : LCore) : LCore :=
  let y := if bit w 86 then x.setA (bits w 85 82) (x.getA (bits w 85 82) + f (step24 w 81 58)) else x
  if bit w 57 then y.setA (bits w 56 53) (y.getA (bits w 56 53) + f (step24 w 52 29)) else y

/-- The effect of LOOP (R221). -/
def loopRun (w : IWord) (x : LCore) : LCore :=
  let cn := bits w 119 118
  let n := match x.loop cn with
    | some h => h.2
    | none => loopCount w x
  let l := x.getL cn
  if l.toNat + 1 < n then
    let y := (x.setL cn (l + 1)).setLoop cn (some (x.index, n))
    { loopStep w (fun d => d) y with index := bits w 117 108 }
  else
    (loopStep w (fun d => 0 - d * l.setWidth 64) ((x.setL cn 0).setLoop cn none)).next

/-- Meaning of LOOP. It waits while its S register is pending (R154, R225). -/
def execLoop (c : Nat) (w : IWord) (s : State) : Host.Outcome State Fault Refusal :=
  issue s c w (opcode w = 0x01) (loopMistakes s c w) (fun i x =>
    if bit w 107 && x.pendingS (bits w 106 103) then s
    else
      let t := s.setLcore i (some (loopRun w x))
      t.diag c 1 1 x.diagnostic)

/-- The condition of JUMP (R223). -/
def jumpTaken (w : IWord) (x : LCore) : Bool :=
  let v := int32 (x.getS (bits w 106 103))
  match bits w 109 107 with
  | 0 => true
  | 1 => v = 0
  | 2 => v ≠ 0
  | 3 => v < 0
  | 4 => 0 < v
  | _ => false

/-- Mistakes of JUMP (R223, R225): a reserved condition, a target beyond the block, taken or not. -/
def jumpMistakes (s : State) (c : Nat) (w : IWord) (x : LCore) : List Mistake :=
  reservedBits w [(119, 107), (if bits w 109 107 = 0 then (109, 107) else (106, 103))] ++
  mistakeIf (4 < bits w 109 107) 0x04 2 ++
  mistakeIf (s.blockLen c x ≤ bits w 119 110) 0x05 (bits w 119 110)

/-- The logical core after a JUMP. -/
def jumpRun (w : IWord) (x : LCore) : LCore := if jumpTaken w x then { x with index := bits w 119 110 } else x.next

/-- Meaning of JUMP. -/
def execJump (c : Nat) (w : IWord) (s : State) : Host.Outcome State Fault Refusal :=
  issue s c w (opcode w = 0x02) (jumpMistakes s c w) (fun i x =>
    if bits w 109 107 ≠ 0 && x.pendingS (bits w 106 103) then s
    else (s.setLcore i (some (jumpRun w x))).diag c 1 1 x.diagnostic)

/-- Two contexts share the core, or it carries a fold: there is no inactive bank (R169). -/
def Core.shared (p : Core) : Bool := (p.res0.isSome && p.res1.isSome) || 1 < p.fold.length

/-- Every loop counter free and 0 (R222). -/
def LCore.releaseLoops (x : LCore) : LCore := { x with loops := [], lc := [] }

/-- Mistakes of BANKSWAP (R224). -/
def bankswapMistakes (s : State) (c : Nat) (w : IWord) (x : LCore) : List Mistake :=
  let b := bits w 119 88
  let p := s.core c
  let marked := !p.shared && (p.bank (1 - x.bank)).block = 0xFFFFFFFF && !(p.bank (1 - x.bank)).words.isEmpty
  reservedBits w [(119, 88)] ++
  mistakeIf (if b = 0xFFFFFFFF then !marked else s.blockCount (s.imageOf x.k) x.program ≤ b) 0x07 b

/-- The swap to the inactive bank takes effect (R163): issue goes on at its instruction 0, the loader starts on block
b + 1, and a block boundary is passed (R168). -/
def State.swapBank (s : State) (c i : Nat) (b : Word) : State :=
  match s.lcore i with
  | none => s
  | some x =>
    let t := s.setLcore i (some { x.releaseLoops with bank := 1 - x.bank, index := 0, block := b, status := .ready })
    let t := if b.toNat + 1 < s.blockCount (s.imageOf x.k) x.program then t.startLoad c x.bank x.k x.program (b + 1) else t
    t.boundary c i

/-- BANKSWAP's effect (R163, R169, R224). -/
def bankswapRun (s : State) (c : Nat) (w : IWord) (i : Nat) (x : LCore) : State :=
  let b : Word := BitVec.ofNat 32 (bits w 119 88)
  let p := s.core c
  if p.shared then
    let own := if 1 < p.fold.length then 0 else x.bank
    let y := { x.releaseLoops with block := b, index := 0, status := .atBank b }
    let t := (s.setLcore i (some y)).startLoad c own x.k x.program b
    -- a fold member that gives way is loaded anew when it next runs
    if 1 < p.fold.length && (s.foldNext c i).isSome && x.drained then
      (t.setLcore i (some { y with status := .yielding })).reschedule c
    else t.reschedule c
  else
    let q := p.bank (1 - x.bank)
    if q.block = b && !q.words.isEmpty && q.loading.isNone then s.swapBank c i b
    else
      let t := s.setLcore i (some { x with status := .atBank b, index := x.index + 1 })
      match q.loading with
      | some l => if l.1 = b then t else t.startLoad c (1 - x.bank) x.k x.program b
      | none => t.startLoad c (1 - x.bank) x.k x.program b

/-- Meaning of BANKSWAP. -/
def execBankswap (c : Nat) (w : IWord) (s : State) : Host.Outcome State Fault Refusal :=
  issue s c w (opcode w = 0x03) (bankswapMistakes s c w) (fun i x => (bankswapRun s c w i x).diag c 1 1 x.diagnostic)

/-- Meaning of YIELD (R168, R173, R224): a block boundary; it gives way only when another can run. -/
def execYield (c : Nat) (w : IWord) (s : State) : Host.Outcome State Fault Refusal :=
  issue s c w (opcode w = 0x04) (fun _ => reservedBits w []) (fun i x =>
    let t := s.setLcore i (some x.next)
    let t := (t.diag c 1 1 x.diagnostic).boundary c i
    if (t.core c).res (t.core c).issuing = some i && t.ready i then t.setStatus c i (fun y => { y with status := .yielding })
    else t.reschedule c)

/-- Every logical core of every held rank of context k has executed HALT and its engines are empty (R523). -/
def State.allHalted (s : State) (k : Nat) : Bool :=
  s.lcores.all (fun p =>
    match p.2 with
    | some x => x.k ≠ k || (x.status = .halted && x.drained)
    | none => true)

/-- This device's ranks have ended (R523, R524): the lead is told, or notes it when it is this device. -/
def State.ranksEnd (s : State) (k : Nat) (last : Option DWord) : State :=
  match s.job k with
  | none => s
  | some j =>
    if j.ending then s
    else
      let heard := if j.lead then (if j.ended.contains s.coord then j.ended else j.ended ++ [s.coord]) else j.ended
      let next := match last with
        | some v => v + 1
        | none => j.start
      let t := s.setJob k (some { j with ending := true, lastStep := last, ended := heard })
      (t.releaseRest k j next).controlLead k j 0x08 (leBytes 8 (last.getD noStep).toNat)

/-- The last step whose boundary has passed when the cores halt: the step before the present one, none before the first
(R523). -/
def lastPassed (start step : DWord) : Option DWord := if start.toNat < step.toNat then some (step - 1) else none

/-! ## The job's end (R523 to R525) -/

/-- The devices of a job's replica, each once. -/
def Job.devices (j : Job) : List Half := j.rankMap.eraseDups

/-- Body of a replay digests message (R344, subtype 0x10). -/
def digestsBody (step : DWord) (ranks : List (Nat × DWord × DWord)) : List Byte :=
  leBytes 8 step.toNat ++ ranks.flatMap (fun r => leBytes 4 r.1 ++ leBytes 4 0 ++ leBytes 8 r.2.1.toNat ++ leBytes 8 r.2.2.toNat)

/-- The digests of the held ranks in a step, under their replica ranks (R495, R497). -/
def Job.digestsIn (j : Job) (step : DWord) : List (Nat × DWord × DWord) :=
  (j.rankDigests.filter (fun d => d.1 = step)).map (fun d => (j.replica * j.ranks + d.2.1, d.2.2.1, d.2.2.2))

/-- The slot goes to done with the lead's values, together with its results (R524, R525). -/
def State.finishJob (s : State) (k j : Nat) (tick last digest : DWord) : State :=
  let t := s.changeSlot k j (fun v => { v with state := 5, endTick := tick, lastStep := last, digest := digest, preempted := false })
  (t.bump (ctxObj k 1) 0x08 1).dropJob k

/-- A standby that has replayed its steps reports the digests of the last one and is idle again (R498, R504). -/
def State.replayDone (s : State) (k : Nat) (j : Job) (w : DWord) : State :=
  let t := s.control k j.tag j.jobLead 0x10 (digestsBody w (j.digestsIn w))
  (t.clearWork k).setJob k (some { j with
    lead := false, held := [], coreMap := [], tensors := [], pages := [], saves := [], homes := [], order := none, ending := false
    ended := [], input := [], replay := false, rankDigests := [], digests := [], ledger := [] })

/-- The lead ends the job when every end notice is in and the final commit has passed (R524). -/
def State.tryDone (s : State) (k : Nat) : State :=
  match s.job k with
  | none => s
  | some j =>
    let heard := j.devices.all (fun d => j.ended.contains d)
    let passed := match j.lastStep with
      | some v => j.committed = some v
      | none => true
    if j.lead && j.ending && heard && passed && j.order.isSome then s.replayDone k j j.stop
    else if j.lead && j.ending && heard && passed then
      let tick := if j.lastStep.isSome then j.committedAt else s.clock.tick
      let last := j.lastStep.getD noStep
      let digest := if j.lastStep.isSome then j.stepDigest else 0
      let body := leBytes 8 tick.toNat ++ leBytes 8 last.toNat ++ leBytes 8 digest.toNat
      let t := s.controlAll k j 0x09 body
      let t := if j.jobLead ≠ s.coord then t
        else (s.standbys k).foldl (fun (u : State) c => if c = s.coord || (s.others j).contains c then u else u.control k j.tag c 0x09 body) t
      t.finishJob k j.j tick last digest
    else s

/-- When every logical core has halted, the job's ranks end here, and the job where nothing else is awaited. -/
def State.haltEnd (s : State) (k : Nat) (step : DWord) : State :=
  match s.job k with
  | none => s
  | some j => if s.allHalted k then (s.ranksEnd k (lastPassed j.start step)).tryDone k else s

/-- Meaning of HALT (R178): reason 0x00 is recorded, and the context gives way. -/
def execHalt (c : Nat) (w : IWord) (s : State) : Host.Outcome State Fault Refusal :=
  issue s c w (opcode w = 0x05) (fun _ => reservedBits w []) (fun i x =>
    let t := s.recordHalt c i x x.here 0x05 0x00 0 0
    let t := (t.diag c 1 1 x.diagnostic).setStatus c i (fun y => { y with status := .halted })
    t.haltEnd x.k x.step)

/-- Meaning of UNDEFINED_OPCODE (R190): the core halts with reason 0x02, the opcode field as its detail. -/
def execUndefinedOpcode (c : Nat) (w : IWord) (s : State) : Host.Outcome State Fault Refusal :=
  issue s c w (!definedOpcode (opcode w)) (fun _ => [(0x02, opcode w)]) (fun _ _ => s)

/-- Meaning of BANK_LOAD_DONE (R163, R169): the bank holds the block, and a swap or a context that waits for it goes on. -/
def execBankLoadDone (c bank : Nat) (s : State) : Host.Outcome State Fault Refusal :=
  onUnit (decide (c < 1152) && decide (bank < 2))
    (match ((s.core c).bank bank).loading with
    | none => s
    | some (b, a, n) =>
      let t := s.setCore c ((s.core c).setBank bank { block := b, words := s.wordsAt a n })
      let t := t.setReg (coreObj c 4) 7 (if (s.reg (coreObj c 4) 7) = 1 then 2 else s.reg (coreObj c 4) 7)
      ([(s.core c).res0, (s.core c).res1].filterMap id).foldl (fun (u : State) i =>
        match u.lcore i with
        | none => u
        | some x =>
          if x.status ≠ .atBank b then u
          else if (u.core c).shared then
            if x.bank = bank ∨ 1 < (u.core c).fold.length then
              (u.wake i (fun y => { y with index := 0, block := b })).boundary c i
            else u
          else if x.bank = 1 - bank then u.swapBank c i b
          else u) t)

end Sys2Proof.Machine
end

