-- ==== Sys2Proof/Machine/Repairs.lean ====
section
/-! DEFINITION. Granules whose data are lost: repair entries, what a read of them leaves, and the granules that a range of a
held rank touches (R278, R279, R283, R284, R299). -/

namespace Sys2Proof.Machine

/-- Detail word of reason 0x43 (R279). -/
def readDetail (source number : Nat) : Nat := source * 2 ^ 20 + number % 2 ^ 16

/-- Repair entries that are free in all controllers (R505). -/
def State.repairsFree (s : State) : Nat := 1536 - s.ctls.foldl (fun n p => n + p.2.repairs.length) 0

/-- A granule asks for a repair entry (R283, R284). -/
def State.repair (s : State) (n h g : Nat) (written : Bool) : State :=
  let x := s.ctl n
  if x.repairs.any (fun r => r.granule = g) then s
  else if x.repairs.length < 64 then
    let t := s.setCtl n { x with repairs := x.repairs ++ [{ granule := g, written := written }] }
    if t.repairsFree < 64 then t.alarm 0x0200 0x09 4 else t
  else (s.bump64 (ctlObj n 1) 0x09 1).addError 0x0011 0 (unitField 3 h n) noJob 0 noStep (BitVec.ofNat 64 (64 * g)) 0

/-- An uncorrectable read at a controller: counted, kept as the last one, and a repair entry is asked for (R278, R283). -/
def State.lost (s : State) (n h g : Nat) : State :=
  let o := ctlObj n 1
  (((s.bump64 o 0x03 1).setReg64 o 0x0B (64 * g)).setReg64 o 0x0D s.clock.tick.toNat).repair n h g false

/-- An unwritten repair entry that bytes of GDDR7 touch (R284). -/
def State.unreadable (s : State) (a n : Nat) : Option Nat :=
  (granules a n).find? (fun g => (s.ctl ((gddrDecode (64 * g)).1 / 8)).repairs.any (fun r => r.granule = g && !r.written))

/-- A granule that cannot be read: one without data in its repair entry (R284), or one behind a CXL port that is not in
service (R299, log 43). -/
def State.lostAt (s : State) (b : Nat) : Bool :=
  match unitOf b with
  | some 0 => (s.unreadable b 64).isSome
  | some u => (s.cxlPort (u - 1)).state ≠ 1
  | none => false

/-- The granules of a range of held rank r, as addresses of this device. -/
def State.viewGranules (s : State) (k r a n : Nat) : List Nat := (granules a n).filterMap (fun g => s.view k r (64 * g))

/-- The first granule of a range that cannot be read. -/
def State.lostGranule (s : State) (k r a n : Nat) : Option Nat := (s.viewGranules k r a n).find? s.lostAt

end Sys2Proof.Machine
end

