-- ==== Sys2Proof/Machine/Engine.lean ====
section
/-! DEFINITION. What the engines of a core share: sending, tokens, prefetch checks, reads from other devices and from the
host, and element writes to any tier (R152 to R160, R230 to R233, R245, R246, R252 to R259, R301, R471). -/

namespace Sys2Proof.Machine

/-- The engine of an opcode (R190): 1 matrix, 2 vector, 3 move, 4 synchronisation. -/
def engineOf (w : IWord) : Nat := opcode w / 16

/-- The logical core with the registers as a sent instruction read them. -/
def LCore.asSent (x : LCore) (h : Held) : LCore := { x with a := h.a, sr := h.sr }

/-- Where a sent instruction stands (R180). -/
def Held.at_ (h : Held) : Address := ⟨h.bank, h.index, h.block⟩

/-- A mistake found in an engine (R180). -/
def State.mistakeAt (s : State) (c i : Nat) (h : Held) (m : Mistake) : State := s.mistake c i h.at_ (opcode h.w) m.1 m.2

/-! ## Prefetch checks (R254 to R256, R259) -/

/-- What a check answers: the read goes on, it waits, or the core halts with the entry's generation as detail. -/
inductive Gate where
  | go
  | wait
  | halt (generation : Nat)
  deriving DecidableEq, Repr

/-- The check of one entry at a use: what stays of it, the answer, and the counter of R188 it counts under (0 none). -/
def Prefetch.check (p : Prefetch) : Option Prefetch × Gate × Nat :=
  if p.refetching then (some p, .wait, 0)
  else if p.checked then (if p.arrived then (none, .go, 0) else (some p, .wait, 0))
  else if p.forced then (some { p with refetching := true }, .wait, 0x23)
  else if p.generation ≠ 0 then
    if p.strict then (some p, .halt p.generation, 0x23) else (some { p with refetching := true }, .wait, 0x23)
  else if !p.arrived then (some { p with checked := true }, .wait, 0x21)
  else (none, .go, 0x1F)

/-- The first halt, else a wait, else go. -/
def Gate.both : Gate → Gate → Gate
  | .halt n, _ => .halt n
  | _, .halt n => .halt n
  | .go, g => g
  | .wait, _ => .wait

/-- The checks of the entries that `hit` picks: the entries that stay, the answer, the counters. -/
def gates (hit : Prefetch → Bool) : List Prefetch → List Prefetch × Gate × List Nat
  | [] => ([], .go, [])
  | p :: t =>
    let r := gates hit t
    if hit p then
      let q := p.check
      ((match q.1 with
        | some e => e :: r.1
        | none => r.1), q.2.1.both r.2.1, (if q.2.2 = 0 then r.2.2 else q.2.2 :: r.2.2))
    else (p :: r.1, r.2.1, r.2.2)

/-- An entry's destination meets a byte range. -/
def Prefetch.meets (p : Prefetch) (r : Nat × Nat) : Bool := p.first ≤ r.2 && r.1 ≤ p.last

/-- Entries retire unchecked when their context writes into their destination (R256). -/
def LCore.retire (x : LCore) (writes : List (Nat × Nat)) : LCore :=
  if x.prefetches.isEmpty then x
  else { x with prefetches := x.prefetches.filter (fun p => !(writes.any p.meets)) }

/-- The entry that a DPREF checks because 32 are live: the oldest that its destination does not meet (R256). -/
def LCore.oldest (x : LCore) (writes : List (Nat × Nat)) : Option Prefetch :=
  let live := x.prefetches.filter (fun p => !(writes.any p.meets))
  if live.length < 32 then none else live.head?

/-- The checks that a sent instruction makes before it runs. Matrix instructions check as they read (R195). -/
def LCore.gateFor (x : LCore) (h : Held) : List Prefetch × Gate × List Nat :=
  if engineOf h.w = 1 then (x.prefetches, .go, [])
  else if opcode h.w = 0x33 then
    match x.oldest h.uses.writes with
    | none => (x.prefetches, .go, [])
    | some o => gates (fun p => decide (p = o)) x.prefetches
  else gates (fun p => h.uses.reads.any p.meets) x.prefetches

/-! ## Reads from other devices and from the host -/

/-- Key of a byte of tier 3 or 4. -/
def tierKey (tier a : Nat) : Nat := tier * 2 ^ 64 + a

/-- Runs of consecutive numbers, each at most n long. -/
def numRuns (n : Nat) : List Nat → List (Nat × Nat)
  | [] => []
  | a :: t =>
    match numRuns n t with
    | (b, m) :: r => if b = a + 1 && m < n then (a, m + 1) :: r else (a, 1) :: (b, m) :: r
    | [] => [(a, 1)]

/-- The granules of tier 4 that stay within one 4 KiB page are asked for together (R301). -/
def hostRuns (gs : List Nat) : List (Nat × Nat) :=
  (numRuns 64 gs).flatMap (fun p =>
    if p.1 / 64 = (p.1 + p.2 - 1) / 64 then [p] else [(p.1, 64 - p.1 % 64), (p.1 / 64 * 64 + 64, p.2 - (64 - p.1 % 64))])

/-- The smallest host tag not in use. -/
def freeTag (used : List Nat) : Nat := ((upto (used.length + 1)).find? (fun t => !(used.contains t))).getD 0

/-- Host asks carry tags above those of the fabric. -/
def hostTag (t : Nat) : Nat := 65536 + t

/-- Asks for n granules of tier 3 from granule g on (R230, R245): one read packet to the holding device. -/
def State.askTier3 (s : State) (i : Nat) (x : LCore) (g n : Nat) : State × List Ask :=
  let a := g * 64
  match s.job x.k with
  | none => (s, [])
  | some j =>
    let q := s.askAt (rankOf j.shape (a / 2 ^ 48)) 0x01 (j.physical (rankOf j.shape (a / 2 ^ 48))) x.k (a % 2 ^ 48) (BitVec.ofNat 64 n) [] true (.fetch i)
    (q.1, [{ tag := q.2.toNat, addr := tierKey 3 a, length := 64 * n }])

/-- Asks for n granules of host memory from granule g on (R301). -/
def State.askHost (s : State) (i : Nat) (x : LCore) (g n : Nat) : State × List Ask :=
  let t := freeTag (s.host.asks.map (fun q => q.tag))
  (s.hostAsk x.k { tag := t, core := i, addr := 64 * g, length := 64 * n },
    [{ tag := hostTag t, addr := tierKey 4 (64 * g), length := 64 * n }])

/-- Asks for granules, given as tierKey / 64 in rising order. -/
def State.askAll (s : State) (i : Nat) (x : LCore) (gs : List Nat) : State × List Ask :=
  let t3 := (gs.filter (fun g => g < 2 ^ 60)).map (fun g => g - 3 * 2 ^ 58)
  let t4 := (gs.filter (fun g => 2 ^ 60 ≤ g)).map (fun g => g - 2 ^ 60)
  let p := (numRuns 31 t3).foldl (fun (q : State × List Ask) r =>
    let v := q.1.askTier3 i x r.1 r.2
    (v.1, q.2 ++ v.2)) (s, [])
  (hostRuns t4).foldl (fun (q : State × List Ask) r =>
    let v := q.1.askHost i x r.1 r.2
    (v.1, q.2 ++ v.2)) p

/-- The granules that the elements of some rows of a descriptor of tier 3 or 4 touch, as tierKey / 64. -/
def Desc.granulesOf (d : Desc) (rows : List Nat) : List Nat :=
  if d.tier = 3 ∨ d.tier = 4 then
    sortNat (rows.flatMap (fun r =>
      (granules (tierKey d.tier (d.addr r 0)) d.rowBytes) ++
      (if d.fmt = 5 then granules (tierKey d.tier (d.scaleAddr r 0)) (d.cols / 32) else [])))
  else []

/-- The rank that a 64-bit tier-3 address names, when this device holds it (R245, R445). -/
def State.ownRank (s : State) (k a : Nat) : Option Nat :=
  match s.job k with
  | none => none
  | some j =>
    if inShape j.shape (a / 2 ^ 48) && j.physical (rankOf j.shape (a / 2 ^ 48)) = s.coord then some (rankOf j.shape (a / 2 ^ 48))
    else none

/-- Granules, as tierKey / 64, that lie outside this device. -/
def State.outside (s : State) (k : Nat) (gs : List Nat) : List Nat :=
  gs.filter (fun g => 2 ^ 60 ≤ g || (s.ownRank k ((g - 3 * 2 ^ 58) * 64)).isNone)

/-- A descriptor's data as a source: data SRAM, device-local memory through the rank view, or fetched bytes. -/
def State.source (s : State) (x : LCore) (bytes : Sparse Byte) (d : Desc) : Nat → Byte :=
  if d.tier = 0 then x.rd
  else if d.tier = 1 ∨ d.tier = 2 then s.rdDev x.k x.r
  else fun a =>
    match (if d.tier = 3 then s.ownRank x.k a else none) with
    | some r => s.rdDev x.k r (a % 2 ^ 48)
    | none => getByte bytes (tierKey d.tier a)

/-- Opens a fetch of instruction h for granules. -/
def State.openFetch (s : State) (i : Nat) (h : Held) (gs : List Nat) : State :=
  match s.lcore i with
  | none => s
  | some x =>
    let q := s.askAll i x gs
    match q.1.lcore i with
    | none => q.1
    | some y => q.1.setLcore i (some { y with fetches := y.fetches ++ [{ held := h, asks := q.2, got := [], bytes := [] }] })

/-- The descriptor that a DPREF reads. -/
def Held.source (h : Held) (x : LCore) : Desc := (x.asSent h).desc h.w 100
def Held.dest (h : Held) (x : LCore) : Desc := (x.asSent h).desc h.w 110

/-- Entries whose refetch begins, of tiers 3 and 4: their data are asked for again (R254). -/
def State.refetch (s : State) (i : Nat) (before after : List Prefetch) : State :=
  (after.filter (fun p => p.refetching && (p.tier = 3 || p.tier = 4) && !(before.contains p))).foldl (fun (t : State) p =>
    match t.lcore i with
    | none => t
    | some x => t.openFetch i p.held (t.outside x.k ((p.held.source x).granulesOf (upto (p.held.source x).rows)))) s

/-! ## Sending -/

/-- An instruction that has not begun on memory a later one must wait for (R155 to R157). A DPREF whose data are on the way
holds back writes; reads of its destination meet its entry instead (R254). -/
def LCore.blocked (x : LCore) (before : List Held) (u : Uses) : Bool :=
  before.any (fun h => h.uses.conflict u) ||
  x.mq.any (fun m =>
    match m with
    | .pass h _ _ _ _ => h.uses.conflict u
    | .out h _ _ => h.uses.conflict u
    | .load h => h.uses.conflict u
    | .swap _ => false) ||
  x.fetches.any (fun f => if opcode f.held.w = 0x33 then anyRegion f.held.uses.writes u.writes else f.held.uses.conflict u)

/-- Tries to run a sent instruction: the state, and whether the instruction has left the queue. -/
def State.attempt (s : State) (c i : Nat) (before : List Held) (h : Held) (run : State → Nat → Nat → Held → State) :
    State × Bool :=
  match s.lcore i with
  | none => (s, true)
  | some x =>
    if before.any (fun g => engineOf g.w = engineOf h.w) || x.blocked before h.uses then (s, false)
    else
      let g := x.gateFor h
      let t := s.setLcore i (some { x with prefetches := g.1 })
      let t := g.2.2.foldl (fun (u : State) n => u.diag c n 1 x.diagnostic) t
      let t := t.refetch i x.prefetches g.1
      match g.2.1 with
      | .go => (run t c i h, true)
      | .wait => (t, false)
      | .halt n => (t.mistakeAt c i h (0x42, n), true)

/-- An item of the matrix engine's order whose instruction has not started (R152): its first pass, its first row, its load
or its swap is still to come. -/
def MItem.unstarted : MItem → Bool
  | .pass h row _ _ first => first && row = bits h.w 98 93
  | .out h row _ => row = bits h.w 118 113
  | .load _ => true
  | .swap _ => true

/-- The next pass of a list begins an MSTR, or there is none. -/
def newStream : List MItem → Bool
  | [] => true
  | .pass h row _ _ first :: _ => first && row = bits h.w 98 93
  | _ :: t => newStream t

/-- The instructions with accesses to data SRAM that the matrix engine has not finished. -/
def openItems : List MItem → List Held
  | [] => []
  | .pass h _ _ _ _ :: t => if newStream t then h :: openItems t else openItems t
  | .out h row _ :: t => if row + 1 = bits h.w 118 113 + bits h.w 112 107 then h :: openItems t else openItems t
  | .load h :: t => h :: openItems t
  | .swap _ :: t => openItems t

/-- An engine's queue holds 8 instructions that have not started (R152). -/
def State.queueFull (s : State) (c : Nat) (w : IWord) : Bool :=
  8 ≤ ([(s.core c).res 0, (s.core c).res 1].filterMap (fun o =>
    match o with
    | none => none
    | some i => s.lcore i)).foldl (fun n x => n + (x.held.filter (fun h => engineOf h.w = engineOf w)).length +
    (if engineOf w = 1 then (x.mq.filter MItem.unstarted).length else 0)) 0

/-- Some region has 16 tokens already (R156). -/
def LCore.tokensFull (x : LCore) (u : Uses) : Bool :=
  (u.reads ++ u.writes).any (fun r =>
    (upto (r.2 / 1024 + 1 - r.1 / 1024)).any (fun n =>
      let reg := ((r.1 / 1024 + n) * 1024, (r.1 / 1024 + n) * 1024)
      16 ≤ ((x.held ++ openItems x.mq ++ x.fetches.map (fun f => f.held)).filter (fun h => anyRegion h.uses.reads [reg] || anyRegion h.uses.writes [reg])).length))

/-- Sends an instruction: it waits while its engine's queue is full, a register it uses is pending or a region has no token
left (R152, R154, R156). Else it leaves the issue stage, and runs unless tokens hold it (R155). -/
def State.sendTo (s : State) (c i : Nat) (x : LCore) (w : IWord) (sregs : List Nat) (u : Uses)
    (run : State → Nat → Nat → Held → State) : State :=
  if s.queueFull c w || sregs.any x.pendingS || x.tokensFull u then s
  else
    let h : Held := { w := w, bank := x.bank, index := x.index, block := x.block, step := x.step, a := x.a, sr := x.sr, uses := u }
    let t := (s.setLcore i (some x.next)).diag c 1 1 x.diagnostic
    let q := t.attempt c i x.held h run
    if q.2 then q.1
    else
      match q.1.lcore i with
      | none => q.1
      | some y => q.1.setLcore i (some { y with held := y.held ++ [h] })

/-! ## Element writes -/

/-- The 64 MiB page of a device-local byte list is mapped byte by byte (R446). -/
def State.viewAll (s : State) (k r : Nat) (bs : List (Nat × Byte)) : List (Nat × Byte) :=
  bs.filterMap (fun p =>
    match s.view k r p.1 with
    | some a => some (a, p.2)
    | none => none)

/-- The write packets of one run of bytes at a device: whole granules together, parts of a granule one by one (R340). -/
def writeParts (a : Nat) (bs : List Byte) : List (Nat × Nat × List Byte) :=
  let head := if a % 64 = 0 then 0 else min bs.length (64 - a % 64)
  let rest := bs.length - head
  let whole := rest / 64 * 64
  let part := fun (at_ : Nat) (data : List Byte) =>
    (at_ / 64 * 64, (2 ^ data.length - 1) <<< (at_ % 64), List.replicate (at_ % 64) (0 : Byte) ++ data ++ List.replicate (64 - at_ % 64 - data.length) 0)
  (if head = 0 then [] else [part a (bs.take head)]) ++
  ((chunks 1984 whole ((bs.drop head).take whole)).zipIdx).map (fun p => (a + head + 1984 * p.2, 0, p.1)) ++
  (if rest = whole then [] else [part (a + head + whole) (bs.drop (head + whole))])

/-- Sends one run of bytes to another device as remote writes (R245, R246). -/
def State.remoteRun (s : State) (why : Purpose) (i : Nat) (x : LCore) (a : Nat) (bs : List Byte) : State :=
  match s.job x.k with
  | none => s
  | some j =>
    (writeParts (a % 2 ^ 48) bs).foldl (fun (t : State) p =>
      let q := if p.2.1 = 0 then t.askAt (rankOf j.shape (a / 2 ^ 48)) 0x02 (j.physical (rankOf j.shape (a / 2 ^ 48))) x.k p.1 0 p.2.2 true why
        else t.askAt (rankOf j.shape (a / 2 ^ 48)) 0x03 (j.physical (rankOf j.shape (a / 2 ^ 48))) x.k p.1 (BitVec.ofNat 64 p.2.1) p.2.2 true why
      match q.1.lcore i with
      | none => q.1
      | some y => q.1.setLcore i (some { y with unacked := y.unacked + 1 })) s

/-- What the remote writes of an instruction are for. -/
def Held.writing (h : Held) (i dst : Nat) : Purpose := .write i h.at_ (opcode h.w) dst

/-- Writes bytes, given with their addresses in a tier; `why` goes with the packets of remote writes. -/
def State.putTier (s : State) (why : Purpose) (i tier : Nat) (bs : List (Nat × Byte)) : State :=
  match s.lcore i with
  | none => s
  | some x =>
    if tier = 0 then
      s.setLcore i (some { (x.retire (bs.map (fun p => (p.1, p.1)))) with sram := bs.foldl (fun m p => putByte m p.1 p.2) x.sram })
    else if tier = 1 ∨ tier = 2 then
      (runs (s.viewAll x.k x.r bs)).foldl (fun (t : State) p => t.devWrite p.1 p.2) s
    else if tier = 3 then
      (runs bs).foldl (fun (t : State) p =>
        match t.ownRank x.k p.1 with
        | some r => (runs (t.viewAll x.k r ((p.2.zipIdx).map (fun q => (p.1 % 2 ^ 48 + q.2, q.1))))).foldl (fun (u : State) q => u.devWrite q.1 q.2) t
        | none => t.remoteRun why i x p.1 p.2) s
    else s.hostWrites x.k (runs bs)

/-- The tap table of a context's job. -/
def State.tapTable (s : State) (k : Nat) : List (Nat × Nat × DWord) :=
  match s.job k with
  | none => []
  | some j => j.taps

/-- The elements that an instruction writes: counted in its counter set, hashed for the taps, and stored. -/
def State.put (s : State) (i : Nat) (h : Held) (cset : Nat) (d : Desc) (es : List ElemW) : State :=
  match s.lcore i with
  | none => s
  | some x =>
    let y := (x.countAll cset es).tapAll (s.tapTable x.k) h.step d.tensor
      (es.map (fun e => (d.index e.row e.col, e.tapBits d.fmt)))
    (s.setLcore i (some y)).putTier (h.writing i d.num) i d.tier (d.byteWrites es)

/-- The seed of a context's job (R75). -/
def State.seedOf (s : State) (k : Nat) : DWord :=
  match s.job k with
  | none => 0
  | some j => (s.slot k j.j).seed

/-- The generator's words for stochastic rounding into a tensor (R75). -/
def State.words (s : State) (k : Nat) (h : Held) (tensor draw purpose : Nat) : Nat → Word := fun index =>
  rand32 (s.seedOf k) h.step tensor draw purpose (BitVec.ofNat 64 index)

end Sys2Proof.Machine
end

