-- ==== Sys2Proof/Machine/Matrix.lean ====
section
/-! DEFINITION. The matrix engine: weight tiles, streams, the activity ramp, the swap of tiles and the conversion unit with
its statistics (R62, R63, R116 to R147, R194 to R204, R653). -/

namespace Sys2Proof.Machine

/-! ## Shapes and formats -/

/-- k and n of a shape code (R121, R194). -/
def shapeDims (code : Nat) : Nat × Nat :=
  if code = 0 then (16, 64) else if code = 1 then (16, 32) else if code = 2 then (8, 64) else if code = 3 then (16, 16) else (16, 1)

/-- Cycles of a weight load (R121). -/
def loadTime (code : Nat) : Nat :=
  if code = 0 then 16 else if code = 1 then 8 else if code = 2 then 8 else if code = 3 then 4 else 1

/-- Slices of a format's significand (R62). -/
def slicesOf (f : Nat) : Nat := if f = 0 then 3 else if f = 1 then 2 else 1

/-- A matrix product's formats (R63). -/
def pairOk (f g : Nat) : Bool := (f < 5 && g < 5) || (f = 5 && g = 5) || (f = 6 && g = 6)

/-- The slice passes of a pairing, least significant slices first (R62, R120). -/
def slicePasses (f g : Nat) : List (Nat × Nat) :=
  (upto 5).flatMap (fun n => (upto (slicesOf f)).filterMap (fun a =>
    if a ≤ n && n - a < slicesOf g then some (a, n - a) else none))

/-- The slice product of two elements (R87, R89). -/
def sliceTerm (x w : Val) (sa sb : Nat) : Val :=
  match x, w with
  | .nan _, _ => .nan false
  | _, .nan _ => .nan false
  | .fin s m e, .fin t n f => .fin (xor s t) ((m / 256 ^ sa % 256) * (n / 256 ^ sb % 256)) (e + f + 8 * sa + 8 * sb)
  | a, b => mulVal a b

/-! ## Tiles as issue finds them -/

/-- Shape and format of an active and a shadow tile after one instruction. -/
def tileStep (a : Nat) (fmt : Nat) (w : IWord) (p : Option (Nat × Nat) × Option (Nat × Nat)) :
    Option (Nat × Nat) × Option (Nat × Nat) :=
  if opcode w = 0x10 && bits w 119 119 = a then (p.1, some (bits w 118 116, fmt))
  else if opcode w = 0x13 && namesArray w a then (p.2, p.1)
  else p

def LCore.weightsFmt (x : LCore) (h : Held) : Nat := ((x.asSent h).desc h.w 106).fmt

/-- Active and shadow tile of array a after what the matrix engine has taken in. -/
def LCore.tilesSoon (x : LCore) (a : Nat) : Option (Nat × Nat) × Option (Nat × Nat) :=
  let of := fun (t : Option Tile) => t.map (fun t => (t.shape, t.fmt))
  x.mq.foldl (fun p m =>
    match m with
    | .load h => tileStep a (x.weightsFmt h) h.w p
    | .swap arr => if arr.testBit a then (p.2, p.1) else p
    | _ => p) (of (x.tile a false), of (x.tile a true))

/-- The active tile of array a that the next instruction issued meets: what its queue holds comes first (R653). -/
def LCore.activeAt (x : LCore) (a : Nat) : Option (Nat × Nat) :=
  ((x.held.filter (fun h => engineOf h.w = 1)).foldl (fun p h => tileStep a (x.weightsFmt h) h.w p) (x.tilesSoon a)).1

/-- The arrays that an MSTR or MSWAP names. -/
def arraysOf (w : IWord) : List Nat := (upto 2).filter (namesArray w)

/-! ## MWT -/

/-- Mistakes of MWT (R195, R203). -/
def mwtMistakes (w : IWord) (x : LCore) : List Mistake :=
  let d := x.desc w 106
  let sh := bits w 118 116
  let dims := shapeDims sh
  reservedBits w ([(119, 116)] ++ tensorUsed w 106) ++ mistakeIf (4 < sh) 0x04 2 ++ d.computeMistakes x 3 ++
  mistakeIf (sh ≤ 4 && (if d.fmt = 5 then d.rows ≠ 64 || d.cols ≠ 32 else d.rows ≠ dims.1 || d.cols ≠ dims.2)) 0x16 3 ++
  mistakeIf (d.fmt = 7) 0x20 0x7F ++
  mistakeIf (d.fmt = 5 && 0 < sh) 0x22 (bits w 119 119)

/-- The tile that an MWT loads (R118, R195). -/
def LCore.readTile (x : LCore) (h : Held) : Tile :=
  let d := (x.asSent h).desc h.w 106
  let sh := bits h.w 118 116
  if d.fmt = 5 then
    { shape := sh, fmt := 5
      cells := (upto 2048).map (fun n => BitVec.ofNat 32 (d.bitsAt x.rd (n % 64) (n / 64)))
      scales := (upto 64).map (fun c => d.scaleAt x.rd c 0) }
  else
    { shape := sh, fmt := d.fmt
      cells := (upto ((shapeDims sh).1 * 64)).map (fun n =>
        if n % 64 < (shapeDims sh).2 then BitVec.ofNat 32 (d.bitsAt x.rd (n / 64) (n % 64)) else 0)
      scales := [] }

/-- End of the loads of an array, and the cycles from which its active and its shadow tile may be written over (R127,
R128). -/
def LCore.loadsOf (x : LCore) (a : Nat) : Nat × Nat × Nat := sget (fun _ => (0, 0, 0)) x.loads a
def LCore.setLoads (x : LCore) (a : Nat) (v : Nat × Nat × Nat) : LCore :=
  { x with loads := sput (fun _ => (0, 0, 0)) x.loads a v }

/-- The first weight load that no earlier swap or load of its array holds back, with its place. -/
def nextLoad : List MItem → List Nat → Nat → Option (Nat × Held)
  | [], _, _ => none
  | .load h :: t, no, n =>
    if no.contains (bits h.w 119 119) then nextLoad t no (n + 1) else some (n, h)
  | .swap arr :: t, no, n => nextLoad t (no ++ (upto 2).filter (fun a => arr.testBit a)) (n + 1)
  | _ :: t, no, n => nextLoad t no (n + 1)

/-- Carries out the weight loads that may run (R117, R129, R195): a load whose prefetch check waits holds its array's later
loads. -/
def State.runLoads (c i : Nat) : Nat → List Nat → State → State
  | 0, _, s => s
  | n + 1, no, s =>
    match s.lcore i with
    | none => s
    | some x =>
      match nextLoad x.mq no 0 with
      | none => s
      | some (at_, h) =>
        let a := bits h.w 119 119
        let g := gates (fun p => h.uses.reads.any p.meets) x.prefetches
        let t := s.setLcore i (some { x with prefetches := g.1 })
        let t := g.2.2.foldl (fun (u : State) k => u.diag c k 1 x.diagnostic) t
        let t := t.refetch i x.prefetches g.1
        match g.2.1 with
        | .wait => State.runLoads c i n (no ++ [a]) t
        | .halt k => t.mistakeAt c i h (0x42, k)
        | .go =>
          match t.lcore i with
          | none => t
          | some y =>
            let l := y.loadsOf a
            let start := max s.now (max l.1 l.2.2)
            let y := (y.setTile a true (some (y.readTile h))).setLoads a (start + loadTime (bits h.w 118 116), l.2.1, l.2.2)
            State.runLoads c i n no (t.setLcore i (some { y with mq := y.mq.eraseIdx at_ }))

def State.loadNow (s : State) (c i : Nat) : State :=
  match s.lcore i with
  | none => s
  | some x => State.runLoads c i (x.mq.length) [] s

/-- Runs an MWT: it joins the engine's order, and loads unless something holds it back. -/
def mwtRun (s : State) (c i : Nat) (h : Held) : State :=
  match s.lcore i with
  | none => s
  | some x => (s.setLcore i (some { x with mq := x.mq ++ [.load h] })).loadNow c i

/-- The accesses of MWT. -/
def mwtUses (w : IWord) (x : LCore) : Uses := { reads := (x.desc w 106).range }

/-- Meaning of MWT. -/
def execMwt (c : Nat) (w : IWord) (s : State) : Host.Outcome State Fault Refusal :=
  issue s c w (opcode w = 0x10) (mwtMistakes w) (fun i x => s.sendTo c i x w [] (mwtUses w x) mwtRun)

/-! ## MSTR -/

/-- Rows that the context declared for an array. -/
def LCore.rows (x : LCore) (a : Nat) : Nat := if a = 0 then x.rows0 else x.rows1

/-- Mistakes of MSTR that its active tiles show (R122, R196, R203). -/
def mstrTileMistakes (w : IWord) (x : LCore) (fmt : Nat) : List Mistake :=
  let sh := bits w 117 115
  let tiles := (arraysOf w).map (fun a => (a, x.activeAt a))
  tiles.flatMap (fun p => mistakeIf (match p.2 with
    | none => true
    | some t => t.1 ≠ sh) 0x22 p.1) ++
  mistakeIf (fmt = 5 && 0 < sh) 0x22 ((arraysOf w).headD 0) ++
  (match tiles.filterMap (fun p => p.2) with
    | [t, u] => mistakeIf (t.2 ≠ u.2) 0x20 (t.2 * 16 + u.2)
    | _ => []) ++
  (tiles.filterMap (fun p => p.2)).flatMap (fun t => mistakeIf (!pairOk fmt t.2) 0x20 (fmt * 16 + t.2)) ++
  mistakeIf (fmt = 7) 0x20 0x7F

/-- Mistakes of MSTR (R119, R122, R196, R203). Marrow rows beyond 31 are the case of reason 0x21. -/
def mstrMistakes (w : IWord) (x : LCore) : List Mistake :=
  let d := x.desc w 105
  let sh := bits w 117 115
  let m := bits w 104 99
  let b := bits w 98 93
  reservedBits w ([(119, 115), (104, 92)] ++ tensorUsed w 105) ++ mistakeIf (arraysOf w = []) 0x04 1 ++
  mistakeIf (4 < sh) 0x04 2 ++ d.computeMistakes x 3 ++
  (arraysOf w).flatMap (fun a => mistakeIf (0 < m && x.rows a < min (b + m) 32) 0x13 (max b (x.rows a))) ++
  mistakeIf (sh ≤ 4 && (d.rows ≠ m || d.cols ≠ (if d.fmt = 5 then 32 else (shapeDims sh).1))) 0x16 3 ++
  mistakeIf (m = 0 || 32 < m || 32 < b + m) 0x21 (m * 256 + b) ++ mstrTileMistakes w x d.fmt

/-- Runs an MSTR: its passes join the stream in order (R119, R120). -/
def mstrRun (s : State) (_c i : Nat) (h : Held) : State :=
  match s.lcore i with
  | none => s
  | some x =>
    let d := (x.asSent h).desc h.w 105
    let fmt := match (arraysOf h.w).filterMap (fun a => (x.tilesSoon a).1) with
      | t :: _ => t.2
      | [] => 0
    let passes := (upto (bits h.w 104 99)).flatMap (fun j =>
      ((slicePasses d.fmt fmt).zipIdx).map (fun p => MItem.pass h (bits h.w 98 93 + j) p.1.1 p.1.2 (p.2 = 0)))
    s.setLcore i (some { x with mq := x.mq ++ passes })

def mstrUses (w : IWord) (x : LCore) : Uses := { reads := (x.desc w 105).range }

/-- Meaning of MSTR. -/
def execMstr (c : Nat) (w : IWord) (s : State) : Host.Outcome State Fault Refusal :=
  issue s c w (opcode w = 0x11) (mstrMistakes w) (fun i x => s.sendTo c i x w [] (mstrUses w x) mstrRun)

/-! ## MSWAP -/

/-- Mistakes of MSWAP (R202). -/
def mswapMistakes (w : IWord) : List Mistake := reservedBits w [(119, 118)] ++ mistakeIf (arraysOf w = []) 0x04 1

/-- Runs an MSWAP: the swap is ordered (R127, R653). -/
def mswapRun (s : State) (_c i : Nat) (h : Held) : State :=
  match s.lcore i with
  | none => s
  | some x => s.setLcore i (some { x with mq := x.mq ++ [.swap (bits h.w 119 118)] })

/-- Meaning of MSWAP. -/
def execMswap (c : Nat) (w : IWord) (s : State) : Host.Outcome State Fault Refusal :=
  issue s c w (opcode w = 0x13) (fun _ => mswapMistakes w) (fun i x => s.sendTo c i x w [] {} mswapRun)

/-- Work of a logical core has completed in an engine: its core may switch (R34, R177), and a job may end (R523). -/
def State.settled (s : State) (c i : Nat) : State :=
  match s.lcore i with
  | none => s
  | some x => (s.reschedule c).haltEnd x.k x.step

/-- The first swap whose arrays no earlier pass, load or swap names, with its place (R127). -/
def nextSwap : List MItem → List Nat → Nat → Option (Nat × Nat)
  | [], _, _ => none
  | .swap arr :: t, no, n =>
    if (upto 2).any (fun a => arr.testBit a && no.contains a) then
      nextSwap t (no ++ (upto 2).filter (fun a => arr.testBit a)) (n + 1)
    else some (n, arr)
  | .pass h _ _ _ _ :: t, no, n => nextSwap t (no ++ arraysOf h.w) (n + 1)
  | .load h :: t, no, n => nextSwap t (no ++ [bits h.w 119 119]) (n + 1)
  | .out _ _ _ :: t, no, n => nextSwap t no (n + 1)

/-- Exchanges the tiles of one array (R202). -/
def LCore.swapTiles (x : LCore) (a : Nat) : LCore :=
  let l := x.loadsOf a
  ((x.setTile a false (x.tile a true)).setTile a true (x.tile a false)).setLoads a (l.1, l.2.2, l.2.1)

/-- The swap at place n of the matrix order takes effect, and loads that waited for it run. -/
def State.doSwap (s : State) (c i : Nat) (x : LCore) (n arr : Nat) : State :=
  let y := ((upto 2).filter (fun a => arr.testBit a)).foldl LCore.swapTiles { x with mq := x.mq.eraseIdx n }
  ((s.setLcore i (some y)).loadNow c i).settled c i

/-- Meaning of TILE_SWAP_EFFECT (R127): the clock goes on to the first cycle in which the earlier loads are complete. -/
def execTileSwapEffect (c : Nat) (s : State) : Host.Outcome State Fault Refusal :=
  onUnit (decide (c < 1152))
    (match matrixOwner s (s.core c) with
    | none => s
    | some i =>
      match s.lcore i with
      | none => s
      | some x =>
        match nextSwap x.mq [] 0 with
        | none => s
        | some (n, arr) =>
          let ready := ((upto 2).filter (fun a => arr.testBit a)).foldl (fun m a => max m (x.loadsOf a).1) 0
          (s.passCycles (ready - s.now)).doSwap c i x n arr)

/-! ## Activity ramp -/

/-- Meaning of ACTIVITY_RISE (R132): λ rises by one in the first cycle that allows it. -/
def execActivityRise (c a : Nat) (s : State) : Host.Outcome State Fault Refusal :=
  onUnit (decide (c < 1152) && decide (a < 2))
    (let r := (s.core c).ramp a
     if passWaits s (s.core c) a && r.lam < 8 then
       let t := s.passCycles (4 - r.still)
       let q := (t.core c).ramp a
       t.setCore c ((t.core c).setRamp a { q with lam := q.lam + 1, credit := q.credit + 1, still := 0 })
     else s)

/-- Meaning of ACTIVITY_FALL (R132): λ falls by one in the first cycle that completes the idle run and allows it. -/
def execActivityFall (c a : Nat) (s : State) : Host.Outcome State Fault Refusal :=
  onUnit (decide (c < 1152) && decide (a < 2))
    (let r := (s.core c).ramp a
     if !passWaits s (s.core c) a && 0 < r.lam then
       let t := s.passCycles (max (32 - r.idle) (4 - r.still))
       let q := (t.core c).ramp a
       t.setCore c ((t.core c).setRamp a { q with lam := q.lam - 1, credit := q.credit - 1, still := 0 })
     else s)

/-! ## Passes -/

/-- The elements of streamed row j, with the scale byte last in E2M1 (R120). -/
def LCore.readRow (x : LCore) (d : Desc) (j : Nat) : List Word :=
  (upto d.cols).map (fun c => BitVec.ofNat 32 (d.bitsAt x.rd j c)) ++ (if d.fmt = 5 then [(d.scaleAt x.rd j 0).setWidth 32] else [])

/-- The terms of a pass for column c of a tile (R87, R118). -/
def passTerms (fmt : Nat) (row : List Word) (t : Tile) (sa sb c : Nat) : List Val :=
  let n := if fmt = 5 then 32 else (shapeDims t.shape).1
  let scale := (row.getD 32 127).setWidth 8
  (upto n).map (fun i =>
    sliceTerm (decodeElem fmt (row.getD i 0).toNat scale)
      (decodeElem t.fmt (t.cells.getD (i * 64 + c) 0).toNat (t.scales.getD c 127)) sa sb)

/-- What a pass does to one array: the entries after it, whether it took the wide path, the slots its row held before and
after, and the entries it drained (R96 to R105). -/
structure PassResult where
  core : LCore
  wide : Bool
  slots : Nat
  drained : List Drained

def LCore.passArray (x : LCore) (other : List (Nat × Nat)) (a row fmt sa sb : Nat) : PassResult :=
  match x.tile a false with
  | none => ⟨x, false, 0, []⟩
  | some t =>
    let n := (shapeDims t.shape).2
    let terms := (upto n).map (fun c => (c, passTerms fmt x.streamed t sa sb c))
    let fast := terms.all (fun p => (x.entry (ekey a row p.1)).fast p.2)
    let add := fun (x : LCore) => terms.foldl (fun (y : LCore) p => y.setEntry (ekey a row p.1) ((y.entry (ekey a row p.1)).addAll p.2)) x
    if fast then ⟨add x, false, 0, []⟩
    else
      let y := x.bringBack other a row 99 n
      let z := (add y.1).settleRow other a row n
      ⟨z.1, true, x.inSlots a row n + z.1.inSlots a row n, y.2 ++ z.2⟩

/-- The save area of a logical core (R106). -/
def State.saveArea (s : State) (x : LCore) : Option Nat :=
  match s.job x.k with
  | none => none
  | some j =>
    match j.saves.find? (fun p => p.1 = x.r && p.2.1 = x.l) with
    | some p => some p.2.2
    | none => none

/-- Drained values go to the drain area (R104, R106). -/
def State.drainOut (s : State) (x : LCore) (ds : List Drained) : State :=
  match s.saveArea x with
  | none => s
  | some a => { s with mem := ds.foldl (fun m d => putBytes m (a + d.1) (leBytes 80 d.2.toNat)) s.mem }

/-- The spill slots of the other resident logical core (R171). -/
def State.otherSlots (s : State) (c i : Nat) : List (Nat × Nat) :=
  ([(s.core c).res 0, (s.core c).res 1].filterMap id).flatMap (fun j =>
    if j = i then []
    else
      match s.lcore j with
      | some y => y.slotsUsed
      | none => [])

/-- The pass that comes first leaves the order. -/
def dropPass : List MItem → List MItem
  | [] => []
  | .pass _ _ _ _ _ :: t => t
  | m :: t => m :: dropPass t

/-- Admits a pass in the present cycle: credits fall (R130, R133), terms are added (R98, R102), and the stall begins
(R100, R101). -/
def State.admitRow (s : State) (c i : Nat) (x : LCore) (h : Held) (row sa sb : Nat) (first : Bool) : State :=
  let d := (x.asSent h).desc h.w 105
  let x := if first then { x with streamed := x.readRow d (row - bits h.w 98 93) } else x
  let arrs := if s.pointer 0 2 = 0 then arraysOf h.w else (arraysOf h.w).reverse
  let x := if first && bit h.w 92 then
      arrs.foldl (fun (y : LCore) a => y.clearRow a row (shapeDims (bits h.w 117 115)).2) x
    else x
  let r := arrs.foldl (fun (p : LCore × Nat × Bool × List Drained) a =>
    let q := p.1.passArray (s.otherSlots c i) a row d.fmt sa sb
    (q.core, (if q.wide then max p.2.1 q.slots else p.2.1), p.2.2.1 || q.wide, p.2.2.2 ++ q.drained)) (x, 0, false, [])
  let stall := if r.2.2.1 then 16 + r.2.1 else 0
  let y := arrs.foldl (fun (y : LCore) a =>
    let l := y.loadsOf a
    { (y.setLoads a (l.1, s.now + 3, l.2.2)) with rowAt := sput (fun _ => 0) y.rowAt (a * 32 + row) (s.now + 11 + stall) }) r.1
  let t := s.setLcore i (some { y with mq := dropPass y.mq })
  let p := arrs.foldl (fun (p : Core) a => p.setRamp a { p.ramp a with credit := (p.ramp a).credit - 8 }) (t.core c)
  let t := (t.setCore c { p with stall := 1 + stall }).drainOut x r.2.2.2
  let t := if r.2.2.1 then ((t.diag c 0x0F 1 x.diagnostic).diag c 0x11 16 x.diagnostic).diag c 0x13 r.2.1 x.diagnostic else t
  t.settled c i

/-- Meaning of PASS_ADMITTED (R130, R133): the clock goes on to the first cycle in which the credit of each named array
reaches 8 and no stall holds the pass. With λ 0 no credit comes. -/
def execPassAdmitted (c : Nat) (s : State) : Host.Outcome State Fault Refusal :=
  onUnit (decide (c < 1152))
    (match matrixOwner s (s.core c) with
    | none => s
    | some i =>
      match s.lcore i with
      | none => s
      | some x =>
        match nextPass x.mq [] [] with
        | some (.pass h row sa sb first) =>
          let p := s.core c
          if (arraysOf h.w).any (fun a => (p.ramp a).lam = 0 && (p.ramp a).credit < 8) then s
          else
            let d := (x.asSent h).desc h.w 105
            let one := { d with base := d.addr (row - bits h.w 98 93) 0, rows := 1, stride := d.rowBytes, fmt := 6, cols := d.rowBytes }
            let scale := d.scaleAddr (row - bits h.w 98 93) 0
            let reads := one.range ++ (if d.fmt = 5 then [(scale, scale)] else [])
            let g := if first then gates (fun q => reads.any q.meets) x.prefetches else (x.prefetches, .go, [])
            let t := s.setLcore i (some { x with prefetches := g.1 })
            let t := g.2.2.foldl (fun (u : State) k => u.diag c k 1 x.diagnostic) t
            let t := t.refetch i x.prefetches g.1
            match g.2.1 with
            | .wait => t
            | .halt k => t.mistakeAt c i h (0x42, k)
            | .go =>
              let n := (arraysOf h.w).foldl (fun m a => max m (p.ramp a).until) p.stall
              match t.lcore i with
              | none => t
              | some y => (t.passCycles n).admitRow c i y h row sa sb first
        | _ => s)

/-! ## MOUT -/

/-- Two contexts share the core: counter sets, top-k records and vector marrow registers are split (R204, R216). -/
def State.sharing (s : State) (c : Nat) : Bool := (s.core c).res0.isSome && (s.core c).res1.isSome

/-- A counter-set field that names a set beyond the context's share (R204). -/
def setMistakes (sharing : Bool) (v : Nat) : List Mistake := mistakeIf (sharing && v / 16 % 2 = 1 && 8 ≤ v % 16) 0x13 (v % 16)

/-- Columns that an MOUT reads: those of the active tile it meets (R198). -/
def LCore.outCols (x : LCore) (a : Nat) : Nat :=
  match x.activeAt a with
  | some t => (shapeDims t.1).2
  | none => 64

/-- Mistakes of MOUT that its word, registers and operands show (R145, R198, R201, R204). -/
def moutMistakes (sharing : Bool) (w : IWord) (x : LCore) : List Mistake :=
  let a := bits w 119 119
  let b := bits w 118 113
  let m := bits w 112 107
  let d := x.desc w 97
  let record := bits w 76 75
  let k := bits w 73 69
  let t := bits w 68 65
  let n := x.outCols a
  let p := (x.getS (bits w 55 52)).toNat
  reservedBits w ([(119, 107), (96, 75), (73, 52)] ++ tensorUsed w 97 ++ (if record = 0 then [] else [(74, 74)])) ++
  mistakeIf (record = 3) 0x04 9 ++
  mistakeIf ((0 < k && t = 15) || (k = 0 && t ≠ 15) || (t ≠ 15 && 12 < t + m)) 0x04 12 ++
  d.computeMistakes x 4 ++
  mistakeIf (m = 0) 0x13 0xFFFFFFFF ++ mistakeIf (0 < m && 32 < b + m) 0x13 (max b 32) ++
  mistakeIf (0 < m && x.rows a < min (b + m) 32) 0x13 (max b (x.rows a)) ++
  setMistakes sharing (bits w 64 60) ++
  mistakeIf (sharing && t ≠ 15 && 6 < t + m) 0x13 (max t 6) ++
  mistakeIf (d.rows ≠ m || d.cols ≠ n) 0x16 4 ++
  mistakeIf (0 < record && record < 3 && d.fmt = 5) 0x23 b ++
  mistakeIf (16 < k) 0x25 k ++
  mistakeIf (0 < record && 2 ^ 31 - 1 < p + 63) 0x27 p ++
  mistakeIf (d.fmt = 5 && n < 32) 0x28 n

/-- The k of the record of row j of an MOUT: its own when it starts the record (R139). -/
def LCore.recordK (x : LCore) (h : Held) (j : Nat) : Nat :=
  if bits h.w 76 75 = 1 then bits h.w 73 69 else (x.record (bits h.w 119 119 * 32 + bits h.w 118 113 + j)).k

/-- Bytes from one finished output to the next (R199). -/
def statStep (w : IWord) : Nat := (16 + 8 * bits w 73 69 + 15) / 16 * 16

/-- The address of the finished output of row j (R199). -/
def statAddr (h : Held) (j : Nat) : Nat := (sget (fun _ => (0 : DWord)) h.a (bits h.w 59 56)).toNat + j * statStep h.w

/-- Mistakes of MOUT that its row records show when its first row is read (R145, R192). -/
def moutLate (x : LCore) (h : Held) : List Mistake :=
  let a := bits h.w 119 119
  let record := bits h.w 76 75
  let rows := upto (bits h.w 112 107)
  let d := (x.asSent h).desc h.w 97
  let t := bits h.w 68 65
  rows.flatMap (fun j =>
    let key := a * 32 + bits h.w 118 113 + j
    mistakeIf (bit h.w 74 && record ≠ 0 && x.footprint < statAddr h j + 16 + 8 * x.recordK h j) 0x13
      (max (statAddr h j) x.footprint) ++
    mistakeIf (record = 2 && (x.record key).fmt ≠ d.fmt) 0x24 (x.record key).fmt ++
    mistakeIf (record = 1 && t ≠ 15 && x.records.any (fun p => p.1 ≠ key && p.2.opened && p.2.topk = t + j)) 0x26 (t + j))

/-- Runs an MOUT: its rows join the conversion unit's order (R125). -/
def moutRun (s : State) (_c i : Nat) (h : Held) : State :=
  match s.lcore i with
  | none => s
  | some x =>
    let a := bits h.w 119 119
    let n := match (x.tilesSoon a).1 with
      | some t => (shapeDims t.1).2
      | none => 64
    s.setLcore i (some { x with mq := x.mq ++ (upto (bits h.w 112 107)).map (fun j => MItem.out h (bits h.w 118 113 + j) n) })

/-- Accesses of MOUT: the destination and, when it finishes records, their outputs. -/
def moutUses (w : IWord) (x : LCore) : Uses :=
  let m := bits w 112 107
  let first := (x.getA (bits w 59 56)).toNat
  { writes := (x.desc w 97).range ++
      (if bit w 74 && bits w 76 75 ≠ 0 then [(first, first + (m - 1) * statStep w + 15 + 8 * 31)] else []) }

/-- Meaning of MOUT. The position register is read only when the record field is not 0 (R145). -/
def execMout (c : Nat) (w : IWord) (s : State) : Host.Outcome State Fault Refusal :=
  issue s c w (opcode w = 0x12) (moutMistakes (s.sharing c) w) (fun i x =>
    s.sendTo c i x w (if bits w 76 75 = 0 then [] else [bits w 55 52]) (moutUses w x) moutRun)

/-- The value of an element of a record's format. -/
def RowRecord.val (r : RowRecord) (w : Word) : Val := decodeElem r.fmt w.toNat

/-- Puts an output into a list in rank order: greatest value first, lower position first among equals (R141). -/
def rankInsert (val : Word → Val) (e : Word × Word) : List (Word × Word) → List (Word × Word)
  | [] => [e]
  | f :: t =>
    if ranksAbove (val e.1) (val f.1) || (!ranksAbove (val f.1) (val e.1) && e.2.toNat < f.2.toNat) then e :: f :: t
    else f :: rankInsert val e t

/-- Folds one output at a position into a record and its top-k list (R140, R141). -/
def foldOutput (r : RowRecord) (top : List (Word × Word)) (bitsW : Word) (pos : Nat) : RowRecord × List (Word × Word) :=
  let v := r.val bitsW
  let r1 := { r with sum := r.sum.add v }
  if v.isNan then (r1, top)
  else
    ({ r1 with max := if r.count = 0 || ranksAbove v (r.val r.max) then bitsW else r.max, count := satAdd (2 ^ 32 - 1) r.count 1 },
      if r.topk = 0xFF then top else (rankInsert r.val (bitsW, BitVec.ofNat 32 pos) top).take r.k)

/-- The 16 + 8k bytes that a finishing MOUT writes (R142). -/
def finishBytes (r : RowRecord) (top : List (Word × Word)) : List Byte :=
  let sum := if fmtInt r.fmt then (convInt 7 0 true 0 r.sum.value.exact).bits else (convFloat 0 0 false 0 r.sum.value.exact).bits
  leBytes 4 r.max.toNat ++ leBytes 4 sum ++ leBytes 4 r.count ++ leBytes 4 (if 0 < r.count then 1 else 0) ++
    (upto r.k).flatMap (fun n =>
      let e := top.getD n (0, 0xFFFFFFFF)
      leBytes 4 e.1.toNat ++ leBytes 4 e.2.toNat)

/-- Cycles that a top-k list adds to a row (R146). -/
def topkCost (k : Nat) : Nat := if k = 0 then 0 else if k ≤ 8 then 2 else 4

/-- The elements that one row of an MOUT delivers, as row j of the destination (R109). -/
def LCore.outRow (x : LCore) (s : State) (h : Held) (a row n : Nat) : List ElemW :=
  let d := (x.asSent h).desc h.w 97
  let j := row - bits h.w 118 113
  d.convAll (bits h.w 96 95) (bit h.w 94) (s.words x.k h d.tensor (bits h.w 93 78) 0)
    ((upto n).map (fun c => (j, c, (x.entry (ekey a row c)).value.exact)))

/-- Folds a row of outputs into its record (R139, R140), a drained sum being brought back first (R105): the core, the slot
reads and writes of the sum, the other cycles that it adds (R100, R146), and what was drained. -/
def LCore.foldRow (x : LCore) (other : List (Nat × Nat)) (h : Held) (a row : Nat) (es : List ElemW) :
    LCore × Nat × Nat × List Drained :=
  let d := (x.asSent h).desc h.w 97
  let key := a * 32 + row
  let j := row - bits h.w 118 113
  let p := (sget (fun _ => (0 : Word)) h.sr (bits h.w 55 52)).toNat
  let t := bits h.w 68 65
  let y := if bits h.w 76 75 = 1 then
      let r : RowRecord := { fmt := d.fmt, k := bits h.w 73 69, topk := if t = 15 then 0xFF else t + j, opened := true }
      let y := x.setRecord key r
      if t = 15 then y else y.setTop (t + j) []
    else x
  let sum0 := (y.record key).sum
  let back := y.bringSum other a row key
  let y := back.1
  let r0 := y.record key
  let fast := sum0.fast (es.map (fun e => r0.val (BitVec.ofNat 32 e.bits)))
  let q := es.foldl (fun (q : RowRecord × List (Word × Word)) e => foldOutput q.1 q.2 (BitVec.ofNat 32 e.bits) (p + e.col)) (r0, y.topList r0.topk)
  let z := y.setRecord key q.1
  let z := if r0.topk = 0xFF then z else z.setTop r0.topk q.2
  let u := z.settleSum other a row key
  let one := fun (e : Entry) => if e.inSlot then 1 else 0
  let fin := if bit h.w 74 then one (u.1.record key).sum else 0
  (u.1, (if fast then 0 else one sum0 + one (u.1.record key).sum) + fin, (if fast then 0 else 16), back.2 ++ u.2)

/-- The first row of array a in the conversion unit's order, with its place, when no earlier pass goes to it (R111). -/
def nextOut (a : Nat) : List MItem → List Nat → Nat → Option (Nat × Held × Nat × Nat)
  | [], _, _ => none
  | .out h row n :: t, rows, at_ =>
    if bits h.w 119 119 ≠ a then nextOut a t rows (at_ + 1)
    else if rows.contains row then none else some (at_, h, row, n)
  | .pass h row _ _ _ :: t, rows, at_ => nextOut a t (if namesArray h.w a then rows ++ [row] else rows) (at_ + 1)
  | _ :: t, rows, at_ => nextOut a t rows (at_ + 1)

/-- Cycles for which the conversion unit of array a reads no row. -/
def Core.conv (p : Core) (a : Nat) : Nat := if a = 0 then p.conv0 else p.conv1
def Core.setConv (p : Core) (a v : Nat) : Core := if a = 0 then { p with conv0 := v } else { p with conv1 := v }

/-- One row of an MOUT: converted, counted, hashed and written, folded into its record, and cleared (R109, R125, R143,
R198 to R200). The write lands with the read. -/
def State.outRow (s : State) (c i : Nat) (x : LCore) (at_ : Nat) (h : Held) (a row n : Nat) : State :=
  let d := (x.asSent h).desc h.w 97
  let es := x.outRow s h a row n
  let record := bits h.w 76 75
  let back := x.bringBack (s.otherSlots c i) a row (if record = 0 then 99 else row) n
  let q := if record = 0 then (back.1, 0, 0, []) else back.1.foldRow (s.otherSlots c i) h a row es
  let slots := x.inSlots a row n + q.2.1
  let key := a * 32 + row
  let j := row - bits h.w 118 113
  let k := if record = 0 then 0 else (q.1.record key).k
  let y := if bit h.w 77 then q.1.clearRow a row n else q.1
  let y := { y with mq := y.mq.eraseIdx at_ }
  let fin := record ≠ 0 && bit h.w 74
  let z := if fin then y.setRecord key { y.record key with opened := false } else y
  let t := ((s.setLcore i (some z)).drainOut x (back.2 ++ q.2.2.2)).put i h (bits h.w 64 60) d es
  let t := if fin then
      let bs := finishBytes (q.1.record key) (q.1.topList (q.1.record key).topk)
      t.putTier .other i 0 ((bs.zipIdx).map (fun p => (statAddr h j + p.2, p.1)))
    else t
  let cost := slots + q.2.2.1 + topkCost k
  let t := t.setCore c ((t.core c).setConv a (1 + cost))
  (t.diag c 0x13 slots x.diagnostic).settled c i

/-- Meaning of MOUT_ROW_READ (R125): the clock goes on to the first cycle in which the row is readable and the unit of the
array is free. -/
def execMoutRowRead (c a : Nat) (s : State) : Host.Outcome State Fault Refusal :=
  onUnit (decide (c < 1152) && decide (a < 2))
    (match matrixOwner s (s.core c) with
    | none => s
    | some i =>
      match s.lcore i with
      | none => s
      | some x =>
        match nextOut a x.mq [] 0 with
        | none => s
        | some (at_, h, row, n) =>
          let late := if row = bits h.w 118 113 then lowest (moutLate x h) else none
          match late with
          | some m => s.mistakeAt c i h m
          | none =>
            let wait := max ((s.core c).conv a) (sget (fun _ => 0) x.rowAt (a * 32 + row) - s.now)
            (s.passCycles wait).outRow c i x at_ h a row n)

end Sys2Proof.Machine
end

