-- ==== Sys2Proof/Machine/Vector.lean ====
section
/-! DEFINITION. The vector engine (R80 to R83, R113, R114, R205 to R219). -/

namespace Sys2Proof.Machine

/-! ## Operands (R193, R205) -/

/-- Whether the vector operand at `lo` is a tensor. -/
def isTensor (w : IWord) (lo : Nat) : Bool := !bit w (lo + 10)

/-- Field number of the operand at `lo` (R652): dst 109, a 98, b 87, c 76. -/
def vecField (lo : Nat) : Nat := (109 - lo) / 11 + 1

/-- The bits that a vector operand uses. -/
def operandUsed (w : IWord) (lo : Nat) : List (Nat × Nat) :=
  if isTensor w lo then [(lo + 10, lo + 10)] ++ tensorUsed w lo else [(lo + 10, lo + 10), (lo + 5, lo + 5), (lo + 3, lo)]

/-- Format of a scalar operand: its type bit (R193). -/
def scalarFmt (w : IWord) (lo : Nat) : Nat := if bit w (lo + 5) then 0 else 7

/-- Format of an operand. -/
def LCore.fmtOf (x : LCore) (w : IWord) (lo : Nat) : Nat := if isTensor w lo then (x.desc w lo).fmt else scalarFmt w lo

/-- Elements of an operand. -/
def LCore.countOf (x : LCore) (w : IWord) (lo : Nat) : Nat := if isTensor w lo then (x.desc w lo).count else 1

/-- Bits of element n of an operand; a scalar serves every element (R206). -/
def LCore.bitsOf (x : LCore) (w : IWord) (lo n : Nat) : Nat :=
  if isTensor w lo then
    let d := x.desc w lo
    d.bitsAt x.rd (d.place n).1 (d.place n).2
  else (x.getS (bits w (lo + 3) lo)).toNat

/-- Scale byte of element n of an operand, 127 outside E2M1. -/
def LCore.scaleOf (x : LCore) (w : IWord) (lo n : Nat) : Byte :=
  if isTensor w lo then
    let d := x.desc w lo
    d.scaleAt x.rd (d.place n).1 (d.place n).2
  else 127

/-- Exact value of element n of an operand. -/
def LCore.valOf (x : LCore) (w : IWord) (lo n : Nat) : Val := decodeElem (x.fmtOf w lo) (x.bitsOf w lo n) (x.scaleOf w lo n)

/-! ## Common mistakes and accesses -/

/-- Mistakes of the fields that every vector word has: `ops` are its source operands, `dst` tells whether dst is used,
`extra` its used extra bits, `top` the highest op value. -/
def vecMistakes (sharing : Bool) (w : IWord) (x : LCore) (dst : Bool) (ops : List Nat) (extra : List (Nat × Nat)) (top : Nat) :
    List Mistake :=
  let tensors := (if dst then 109 :: ops else ops).filter (isTensor w)
  reservedBits w ([(75, 48)] ++ extra ++ (if dst then operandUsed w 109 else []) ++ ops.flatMap (operandUsed w)) ++
  mistakeIf (top < bits w 51 48) 0x04 9 ++ setMistakes sharing (bits w 56 52) ++
  tensors.flatMap (fun lo => (x.desc w lo).computeMistakes x (vecField lo))

/-- An element-by-element instruction's operands do not pair (R206). -/
def pairMistakes (w : IWord) (x : LCore) (ops : List Nat) : List Mistake :=
  ops.flatMap (fun lo => mistakeIf (isTensor w lo && x.countOf w lo ≠ x.countOf w 109) 0x16 (vecField lo))

/-- Mistakes of an element-by-element instruction. -/
def elemMistakes (sharing : Bool) (w : IWord) (x : LCore) (ops : List Nat) (extra : List (Nat × Nat)) (top : Nat) : List Mistake :=
  vecMistakes sharing w x true ops extra top ++ pairMistakes w x ops

/-- Byte ranges of a vector operand. -/
def LCore.rangeOf (x : LCore) (w : IWord) (lo : Nat) : List (Nat × Nat) := if isTensor w lo then (x.desc w lo).range else []

/-- The S registers that a vector word names. -/
def vecRegs (w : IWord) (los : List Nat) : List Nat := (los.filter (fun lo => !isTensor w lo)).map (fun lo => bits w (lo + 3) lo)

/-- The accesses of an element-by-element instruction. -/
def elemUses (w : IWord) (x : LCore) (ops : List Nat) : Uses :=
  { reads := ops.flatMap (x.rangeOf w), writes := x.rangeOf w 109
    sreg := if isTensor w 109 then none else some (bits w 112 109) }

/-! ## Element groups (R207) -/

/-- Writes a scalar destination: the S register, and its count (R206). -/
def State.putScalar (s : State) (i : Nat) (h : Held) (e : ElemW) : State :=
  match s.lcore i with
  | none => s
  | some x => s.setLcore i (some ((x.countAll (bits h.w 56 52) [e]).setS (bits h.w 112 109) (BitVec.ofNat 32 e.bits)))

/-- Elements of the destination converted from exact values (R206): tensor elements under their logical index, a scalar
under tensor 0xFFFF_FFFF and index 0 (R75). -/
def State.convDst (s : State) (x : LCore) (h : Held) (es : List (Nat × Exact)) : List ElemW :=
  let mode := bits h.w 75 74
  let sat := bit h.w 73
  let draw := bits h.w 72 57
  if isTensor h.w 109 then
    let d := x.desc h.w 109
    d.convAll mode sat (s.words x.k h d.tensor draw 0) (es.map (fun e => ((d.place e.1).1, (d.place e.1).2, e.2)))
  else
    es.map (fun e =>
      let v := convert (scalarFmt h.w 109) mode sat (s.words x.k h 0xFFFFFFFF draw 0 0) e.2
      { row := 0, col := 0, bits := v.bits, scale := 127, cls := v.cls })

/-- Runs an instruction over the groups of 64 destination elements in ascending order: each group is read before it is
written (R207). `make` gives the written elements of a group. -/
def vecGroups (make : State → LCore → List Nat → List ElemW) (s : State) (c i : Nat) (h : Held) : State :=
  let one := fun (t : State) (g : List Nat) =>
    match t.lcore i with
    | none => t
    | some x =>
      let y := x.asSent h
      let es := make t y g
      if isTensor h.w 109 then t.put i h (bits h.w 56 52) (y.desc h.w 109) es
      else
        match es with
        | e :: _ => t.putScalar i h e
        | [] => t
  match s.lcore i with
  | none => s
  | some x =>
    let n := (x.asSent h).countOf h.w 109
    ((chunks 64 n (upto n)).foldl one s).settled c i

/-- An instruction that delivers one exact value for each element through one conversion (R77). -/
def vecRun (f : State → LCore → Held → Nat → Exact) (s : State) (c i : Nat) (h : Held) : State :=
  vecGroups (fun t y g => t.convDst y h (g.map (fun n => (n, f t y h n)))) s c i h

/-- Sends an element-by-element instruction. -/
def State.sendElem (s : State) (c i : Nat) (x : LCore) (w : IWord) (ops : List Nat)
    (run : State → Nat → Nat → Held → State) : State :=
  s.sendTo c i x w (vecRegs w (109 :: ops)) (elemUses w x ops) run

/-! ## VADD, VFMA, VDIV, VSQRT (R209) -/

def addRun := vecRun (fun _ y h n => addOp (y.valOf h.w 98 n) (y.valOf h.w 87 n))
def subRun := vecRun (fun _ y h n => subOp (y.valOf h.w 98 n) (y.valOf h.w 87 n))
def fmaRun := vecRun (fun _ y h n => fmaOp (y.valOf h.w 98 n) (y.valOf h.w 87 n) (y.valOf h.w 76 n))
def mulRun := vecRun (fun _ y h n => mulOp (y.valOf h.w 98 n) (y.valOf h.w 87 n))
def fmsRun := vecRun (fun _ y h n => fmaOp (y.valOf h.w 98 n) (y.valOf h.w 87 n) (y.valOf h.w 76 n).negate)
def divRun := vecRun (fun _ y h n => divOp (y.valOf h.w 98 n) (y.valOf h.w 87 n))
def sqrtRun := vecRun (fun _ y h n => sqrtOp (y.valOf h.w 98 n))

/-- Meaning of VADD, op 0 or a reserved op: a + b. -/
def execVadd (c : Nat) (w : IWord) (s : State) : Host.Outcome State Fault Refusal :=
  issue s c w (opcode w = 0x20 && vecOp w ≠ 1) (fun x => elemMistakes (s.sharing c) w x [98, 87] [] 1)
    (fun i x => s.sendElem c i x w [98, 87] addRun)

/-- Meaning of VADD op 1: a − b. -/
def execVaddSubtract (c : Nat) (w : IWord) (s : State) : Host.Outcome State Fault Refusal :=
  issue s c w (opcode w = 0x20 && vecOp w = 1) (fun x => elemMistakes (s.sharing c) w x [98, 87] [] 1)
    (fun i x => s.sendElem c i x w [98, 87] subRun)

/-- Meaning of VFMA, op 0 or a reserved op: a × b + c. -/
def execVfma (c : Nat) (w : IWord) (s : State) : Host.Outcome State Fault Refusal :=
  issue s c w (opcode w = 0x21 && vecOp w ≠ 1 && vecOp w ≠ 2) (fun x => elemMistakes (s.sharing c) w x [98, 87, 76] [] 2)
    (fun i x => s.sendElem c i x w [98, 87, 76] fmaRun)

/-- Meaning of VFMA op 1: a × b, with no addend. -/
def execVfmaMultiply (c : Nat) (w : IWord) (s : State) : Host.Outcome State Fault Refusal :=
  issue s c w (opcode w = 0x21 && vecOp w = 1) (fun x => elemMistakes (s.sharing c) w x [98, 87] [] 2)
    (fun i x => s.sendElem c i x w [98, 87] mulRun)

/-- Meaning of VFMA op 2: a × b − c. -/
def execVfmaSubtract (c : Nat) (w : IWord) (s : State) : Host.Outcome State Fault Refusal :=
  issue s c w (opcode w = 0x21 && vecOp w = 2) (fun x => elemMistakes (s.sharing c) w x [98, 87, 76] [] 2)
    (fun i x => s.sendElem c i x w [98, 87, 76] fmsRun)

/-- Meaning of VDIV: a / b. -/
def execVdiv (c : Nat) (w : IWord) (s : State) : Host.Outcome State Fault Refusal :=
  issue s c w (opcode w = 0x22) (fun x => elemMistakes (s.sharing c) w x [98, 87] [] 0)
    (fun i x => s.sendElem c i x w [98, 87] divRun)

/-- Meaning of VSQRT: √a. -/
def execVsqrt (c : Nat) (w : IWord) (s : State) : Host.Outcome State Fault Refusal :=
  issue s c w (opcode w = 0x23) (fun x => elemMistakes (s.sharing c) w x [98] [] 0)
    (fun i x => s.sendElem c i x w [98] sqrtRun)

/-! ## VCVT (R211) -/

/-- VCVT copies the bits when source and destination have one format (R70). -/
def cvtRun (s : State) (c i : Nat) (h : Held) : State :=
  vecGroups (fun t y g =>
    if y.fmtOf h.w 98 = y.fmtOf h.w 109 then
      let d := y.desc h.w 109
      g.map (fun n =>
        { row := if isTensor h.w 109 then (d.place n).1 else 0, col := if isTensor h.w 109 then (d.place n).2 else 0
          bits := y.bitsOf h.w 98 n, scale := y.scaleOf h.w 98 n, cls := copyClass (y.valOf h.w 98 n) })
    else t.convDst y h (g.map (fun n => (n, (y.valOf h.w 98 n).exact)))) s c i h

/-- Meaning of VCVT. -/
def execVcvt (c : Nat) (w : IWord) (s : State) : Host.Outcome State Fault Refusal :=
  issue s c w (opcode w = 0x24) (fun x => elemMistakes (s.sharing c) w x [98] [] 0)
    (fun i x => s.sendElem c i x w [98] cvtRun)

/-! ## VTAB and VTABD (R80 to R83, R212) -/

/-- A table as its bytes by offset. -/
abbrev TableBytes := Nat → Byte

def TableBytes.num (t : TableBytes) (o n : Nat) : Nat := readNat t o n
def TableBytes.f32 (t : TableBytes) (o : Nat) : Word := BitVec.ofNat 32 (readNat t o 4)
/-- log2 of the segments, at most 10. -/
def TableBytes.segs (t : TableBytes) : Nat := min 10 (t 0).toNat
/-- The degree, at most 5. -/
def TableBytes.degree (t : TableBytes) : Nat := min 5 (t 1).toNat
/-- ω, kept within ±400: beyond that every domain acts as at the bound, since binary32 values lie between 2^−149 and
2^128. -/
def TableBytes.width (t : TableBytes) : Int := max (-400) (min 400 (signed 32 (t.num 0x0C 4)))
/-- Bytes of a table (R80). -/
def TableBytes.size (t : TableBytes) : Nat := 0x20 + 4 * (t.degree + 1) * 2 ^ t.segs

/-- v is a finite multiple of 2^u. -/
def multipleOf (v : Val) (u : Int) : Bool :=
  match v with
  | .fin _ m e => if m = 0 then true else if u ≤ e then true else m % 2 ^ (u - e).toNat = 0
  | _ => false

/-- A user table's fields are valid (R82). -/
def TableBytes.valid (t : TableBytes) : Bool :=
  (t 0).toNat ≤ 10 && (t 1).toNat ≤ 5 && (t 2).toNat ≤ 4 && (t 3) = 0 && t.num 0x18 8 = 0 && multipleOf (b32 (t.f32 8)) t.width

/-- ⌊v / 2^u⌋ of a finite value. -/
def floorDiv (v : Val) (u : Int) : Int :=
  match v with
  | .fin s m e =>
    let z : Int := if s then -(m : Int) else m
    if u ≤ e then z * 2 ^ (e - u).toNat else z / 2 ^ (u - e).toNat
  | _ => 0

/-- v < w for values that are not NaN. -/
def below (v w : Val) : Bool :=
  match v, w with
  | .inf s, .inf t => s && !t
  | .inf s, _ => s
  | _, .inf t => !t
  | v, w =>
    match addVal v w.negate with
    | .fin s m _ => s && m ≠ 0
    | _ => false

/-- The argument that a table's polynomial sees, and the rule of its result (R80). -/
inductive Reduced where
  | done (v : Val)                       -- the result itself
  | arg (r : Val) (flip : Bool) (k : Int) (add : Bool)

/-- Reduces x′ (R80). -/
def reduceArg (code : Nat) (x : Val) : Reduced :=
  let abs : Val := match x with
    | .fin _ m e => .fin false m e
    | .inf _ => .inf false
    | v => v
  let negative := x.neg && !x.isZero
  if code = 1 then .arg abs negative 0 false
  else if code = 2 then .arg abs false 0 false
  else if code = 3 then
    match x with
    | .fin _ _ _ =>
      let k := floorDiv x 0
      .arg (addVal x (Val.ofInt (-k) 0)) false k false
    | v => .arg v false 0 false
  else if code = 4 then
    match x with
    | .fin _ m e =>
      if m = 0 then .done (.inf true)
      else if negative then .done (.nan false)
      else
        let t := (m.log2 : Int)
        .arg (.fin false m (-t)) false (e + t) true
    | .inf s => if s then .done (.nan false) else .arg (.inf false) false 0 true
    | v => .done v
  else .arg x false 0 false

/-- Horner's rule in binary32 fused steps (R81). -/
def hornerGo (t : TableBytes) (base : Nat) (v : Val) : Nat → Word → Word
  | 0, p => p
  | j + 1, p => hornerGo t base v j (toB32 (fmaOp (b32 p) v (b32 (t.f32 (base + 4 * j)))))

/-- y of R81 for a reduced argument. -/
def tableAt (t : TableBytes) (r : Val) : Word :=
  let xlo := b32 (t.f32 8)
  let u := t.width
  let n := 2 ^ t.segs
  if below r xlo then t.f32 0x10
  else if !below r (addVal xlo (.fin false n u)) then t.f32 0x14
  else
    let i := (floorDiv (addVal r xlo.negate) u).toNat
    let v := addVal r (addVal xlo (.fin false i u)).negate
    let base := 0x20 + 4 * (t.degree + 1) * i
    hornerGo t base v t.degree (t.f32 (base + 4 * t.degree))

/-- f(x) before its conversion (R81). -/
def tableVal (t : TableBytes) (x : Word) : Val :=
  match firstNan [b32 (t.f32 4), b32 x] with
  | some s => .nan s
  | none =>
    match b32 (mul32 (t.f32 4) x) with
    | .nan s => .nan s
    | v =>
      match reduceArg (t 2).toNat v with
      | .done y => y
      | .arg r flip k add =>
        match b32 (tableAt t r) with
        | .nan s => .nan s
        | y =>
          if add then addVal (Val.ofInt k 0) y
          else
            match (if flip then y.negate else y) with
            | .fin s m e => .fin s m (e + k)
            | z => z

/-- The table that a word names: ROM bytes, or SRAM at an A register (R82). -/
def LCore.table (x : LCore) (w : IWord) : TableBytes :=
  let n := bits w 47 40
  if n < 0x40 then fun o => Config.romByte (opcode w = 0x26) n o
  else fun o => x.rd ((x.getA (bits w 39 36)).toNat + o)

/-- Mistakes of VTAB and VTABD that the word shows (R82, R83): the address field of a ROM table is reserved. -/
def tabMistakes (sharing : Bool) (w : IWord) (x : LCore) (ops : List Nat) (top : Nat) : List Mistake :=
  let n := bits w 47 40
  elemMistakes sharing w x ops ([(47, 40)] ++ (if n < 0x40 then [] else [(39, 36)])) top ++
  mistakeIf ((0x0D ≤ n && n < 0x40) || 0x80 ≤ n) 0x04 10

/-- Mistakes of a user table as the engine finds it (R82). -/
def tabLate (x : LCore) (w : IWord) : List Mistake :=
  let n := bits w 47 40
  if n < 0x40 then []
  else
    let a := (x.getA (bits w 39 36)).toNat
    let t := x.table w
    let stop := a + (if sramSize < a + 0x20 then 0x20 else t.size)
    mistakeIf (stop ≤ sramSize && x.footprint < stop) 0x13 (max a x.footprint) ++
    mistakeIf (sramSize < stop || !t.valid) 0x30 n

/-- Runs an instruction on a table, or halts at an invalid user table. -/
def tabRun (f : LCore → Held → TableBytes → Nat → Exact) (s : State) (c i : Nat) (h : Held) : State :=
  match s.lcore i with
  | none => s
  | some x =>
    match lowest (tabLate (x.asSent h) h.w) with
    | some m => s.mistakeAt c i h m
    | none => vecRun (fun _ y h n => f y h ((x.asSent h).table h.w) n) s c i h

/-- x of R212: operand a as binary32. -/
def LCore.tabArg (y : LCore) (h : Held) (n : Nat) : Word := toB32 (y.valOf h.w 98 n).exact

def tabPlain := tabRun (fun y h t n => (tableVal t (y.tabArg h n)).exact)

/-- f′(x) × g (R212). -/
def tabProduct := tabRun (fun y h t n =>
  let g := y.valOf h.w 87 n
  match firstNan [b32 (y.tabArg h n), g] with
  | some s => .nan s
  | none => mulOp (tableVal t (y.tabArg h n)) g)

/-- Accesses of VTAB and VTABD: a user table is read whole. -/
def tabUses (w : IWord) (x : LCore) (ops : List Nat) : Uses :=
  let u := elemUses w x ops
  if bits w 47 40 < 0x40 then u
  else
    let a := (x.getA (bits w 39 36)).toNat
    { u with reads := u.reads ++ [(a, a + (x.table w).size - 1)] }

/-- Meaning of VTAB: f(x). -/
def execVtab (c : Nat) (w : IWord) (s : State) : Host.Outcome State Fault Refusal :=
  issue s c w (opcode w = 0x25) (fun x => tabMistakes (s.sharing c) w x [98] 0)
    (fun i x => s.sendTo c i x w (vecRegs w [109, 98]) (tabUses w x [98]) tabPlain)

/-- Meaning of VTABD, op 0 or a reserved op: f′(x). -/
def execVtabd (c : Nat) (w : IWord) (s : State) : Host.Outcome State Fault Refusal :=
  issue s c w (opcode w = 0x26 && vecOp w ≠ 1) (fun x => tabMistakes (s.sharing c) w x [98] 1)
    (fun i x => s.sendTo c i x w (vecRegs w [109, 98]) (tabUses w x [98]) tabPlain)

/-- Meaning of VTABD op 1: f′(x) × g. -/
def execVtabdProduct (c : Nat) (w : IWord) (s : State) : Host.Outcome State Fault Refusal :=
  issue s c w (opcode w = 0x26 && vecOp w = 1) (fun x => tabMistakes (s.sharing c) w x [98, 87] 1)
    (fun i x => s.sendTo c i x w (vecRegs w [109, 98, 87]) (tabUses w x [98, 87]) tabProduct)

/-! ## VRED (R213 to R216) -/

/-- The term that a kind adds for an element (R113). -/
def redTerm (kind : Nat) (v : Val) : Val :=
  if kind = 1 then
    match v with
    | .fin _ m e => .fin false m e
    | .inf _ => .inf false
    | n => n
  else if kind = 2 ∨ kind = 4 then
    match v with
    | .nan s => .nan s
    | _ => mulVal v v
  else v

/-- An extreme value as a value; none is +0 (R214). -/
def Extreme.val : Extreme → Val
  | .none => .fin false 0 0
  | .nan => .nan false
  | .inf s => .inf s
  | .fin s m e => .fin s m e

/-- The extreme value after one more element (R214). -/
def Extreme.see (x : Extreme) (least : Bool) (v : Val) : Extreme :=
  let of : Val → Extreme := fun v =>
    match v with
    | .nan _ => .nan
    | .inf s => .inf s
    | .fin s m e => .fin s m e
  match x, v with
  | .nan, _ => .nan
  | _, .nan _ => .nan
  | .none, v => of v
  | x, v => if (if least then ranksAbove x.val v else ranksAbove v x.val) then of v else x

/-- A register after a group of elements. -/
def VReg.addGroup (r : VReg) (kind : Nat) (vs : List Val) : VReg :=
  if kind = 5 ∨ kind = 6 then
    { r with extreme := vs.foldl (fun e v => e.see (kind = 6) v) r.extreme, count := r.count + BitVec.ofNat 64 vs.length }
  else { r with sum := r.sum.addAll (vs.map (redTerm kind)), count := r.count + BitVec.ofNat 64 vs.length }

/-- Extra cycles of a group whose terms do not lie within 120 bits with the running value (R114, R188). -/
def VReg.extra (r : VReg) (kind : Nat) (vs : List Val) : Nat :=
  if kind = 5 ∨ kind = 6 then 0
  else if spanOk (r.sum.m.toInt :: finiteTerms (vs.map (redTerm kind))) then 0 else 9

/-- The exact value that a finished register delivers (R113, R214). -/
def VReg.result (r : VReg) (kind : Nat) : Exact :=
  if kind = 3 then divOp r.sum.value (.fin false r.count.toNat 0)
  else if kind = 4 then sqrtOp r.sum.value
  else if kind = 5 ∨ kind = 6 then r.extreme.val.exact
  else r.sum.value.exact

/-- Adds elements to a register in groups of 64: the register and the extra cycles. -/
def VReg.addAll (r : VReg) (kind : Nat) (vs : List Val) : VReg × Nat :=
  (chunks 64 vs.length vs).foldl (fun p g => (p.1.addGroup kind g, p.2 + p.1.extra kind g)) (r, 0)

/-- Extra bits of VRED: register, start, finish, rows. -/
def redExtra : List (Nat × Nat) := [(47, 43)]

/-- Mistakes of VRED in whole mode (R213, R216): dst is unused unless finish is 1. -/
def redMistakes (sharing : Bool) (w : IWord) (x : LCore) : List Mistake :=
  vecMistakes sharing w x (bit w 44) [98] redExtra 6 ++
  mistakeIf (sharing && 2 ≤ bits w 47 46) 0x13 (bits w 47 46) ++
  mistakeIf (bit w 44 && x.countOf w 109 ≠ 1) 0x16 1

/-- Runs VRED in whole mode (R213). -/
def redRun (s : State) (c i : Nat) (h : Held) : State :=
  match s.lcore i with
  | none => s
  | some x =>
    let y := x.asSent h
    let kind := bits h.w 51 48
    let n := bits h.w 47 46
    let r0 := if bit h.w 45 then {} else x.vreg n
    let q := r0.addAll kind ((upto (y.countOf h.w 98)).map (y.valOf h.w 98))
    let t := (s.setLcore i (some (x.setVreg n q.1))).diag c 0x19 q.2 x.diagnostic
    (if bit h.w 44 then
      let es := t.convDst y h [(0, q.1.result kind)]
      if isTensor h.w 109 then t.put i h (bits h.w 56 52) (y.desc h.w 109) es
      else
        match es with
        | e :: _ => t.putScalar i h e
        | [] => t
    else t).settled c i

/-- Accesses of VRED. -/
def redUses (w : IWord) (x : LCore) : Uses :=
  { reads := x.rangeOf w 98, writes := if bit w 44 || bit w 43 then x.rangeOf w 109 else [], vreg := some (bits w 47 46)
    sreg := if (bit w 44 || bit w 43) && !isTensor w 109 then some (bits w 112 109) else none }

/-- Meaning of VRED in whole mode. -/
def execVred (c : Nat) (w : IWord) (s : State) : Host.Outcome State Fault Refusal :=
  issue s c w (opcode w = 0x27 && !redRows w) (redMistakes (s.sharing c) w)
    (fun i x => s.sendTo c i x w (vecRegs w (if bit w 44 then [109, 98] else [98])) (redUses w x) redRun)

/-- Mistakes of VRED in row mode (R215, R216). -/
def redRowMistakes (sharing : Bool) (w : IWord) (x : LCore) : List Mistake :=
  vecMistakes sharing w x true [98] redExtra 6 ++
  mistakeIf (bit w 45) 0x04 11 ++ mistakeIf (bit w 44) 0x04 12 ++
  mistakeIf (sharing && 2 ≤ bits w 47 46) 0x13 (bits w 47 46) ++
  mistakeIf (!isTensor w 98) 0x16 2 ++
  mistakeIf (isTensor w 98 && x.countOf w 109 ≠ (x.desc w 98).rows) 0x16 1

/-- Runs VRED in row mode (R215): the rows in turn, an E2M1 destination in blocks of 32 results. -/
def redRowRun (s : State) (c i : Nat) (h : Held) : State :=
  match s.lcore i with
  | none => s
  | some x =>
    let y := x.asSent h
    let a := y.desc h.w 98
    let kind := bits h.w 51 48
    let n := bits h.w 47 46
    let size := if y.fmtOf h.w 109 = 5 then 32 else 1
    ((chunks size a.rows (upto a.rows)).foldl (fun (t : State) g =>
      match t.lcore i with
      | none => t
      | some z =>
        let v := z.asSent h
        let rs := g.map (fun r => (r, ({} : VReg).addAll kind ((upto a.cols).map (fun k => a.valAt v.rd r k))))
        let last := match rs.getLast? with
          | some p => p.2.1
          | none => {}
        let extra := rs.foldl (fun m p => m + p.2.2) 0
        let t := (t.setLcore i (some (z.setVreg n last))).diag c 0x19 extra x.diagnostic
        let es := t.convDst v h (rs.map (fun p => (p.1, p.2.1.result kind)))
        if isTensor h.w 109 then t.put i h (bits h.w 56 52) (v.desc h.w 109) es
        else
          match es with
          | e :: _ => t.putScalar i h e
          | [] => t) s).settled c i

/-- Meaning of VRED in row mode. -/
def execVredRows (c : Nat) (w : IWord) (s : State) : Host.Outcome State Fault Refusal :=
  issue s c w (opcode w = 0x27 && redRows w) (redRowMistakes (s.sharing c) w)
    (fun i x => s.sendTo c i x w (vecRegs w [109, 98]) (redUses w x) redRowRun)

/-! ## VTOPK (R217) -/

/-- Mistakes of VTOPK: rounding, saturation, draw and counter set must be 0. -/
def topkMistakes (w : IWord) (x : LCore) : List Mistake :=
  let a := x.desc w 98
  let d := x.desc w 109
  let tensors := [109, 98].filter (isTensor w)
  reservedBits w ([(51, 48), (47, 44)] ++ operandUsed w 109 ++ operandUsed w 98) ++
  mistakeIf (bits w 51 48 ≠ 0) 0x04 9 ++
  tensors.flatMap (fun lo => (x.desc w lo).computeMistakes x (vecField lo)) ++
  mistakeIf (!isTensor w 109 || d.fmt ≠ 7 || (isTensor w 98 && d.rows ≠ a.rows) || d.cols ≠ 2 * (bits w 47 44 + 1)) 0x16 1 ++
  mistakeIf (!isTensor w 98) 0x16 2

/-- The k greatest elements of a row in rank order, with their columns; NaN elements are not offered. -/
def LCore.topRow (x : LCore) (a : Desc) (r k : Nat) : List (Word × Word) :=
  let val := fun (w : Word × Word) => a.valAt x.rd r w.2.toNat
  (upto a.cols).foldl (fun top c =>
    let e : Word × Word := (BitVec.ofNat 32 (a.bitsAt x.rd r c), BitVec.ofNat 32 c)
    if (val e).isNan then top
    else
      let up := top.takeWhile (fun f => !ranksAbove (val e) (val f))
      (up ++ e :: top.drop up.length).take k) []

/-- Runs VTOPK: each row is read before its results are written. -/
def topkRun (s : State) (c i : Nat) (h : Held) : State :=
  match s.lcore i with
  | none => s
  | some x =>
    let a := (x.asSent h).desc h.w 98
    let k := bits h.w 47 44 + 1
    ((upto a.rows).foldl (fun (t : State) r =>
      match t.lcore i with
      | none => t
      | some z =>
        let v := z.asSent h
        let top := v.topRow a r k
        let es := (upto k).flatMap (fun n =>
          let e := top.getD n (0, 0xFFFFFFFF)
          [({ row := r, col := 2 * n, bits := e.1.toNat, scale := 127, cls := 0 } : ElemW),
            { row := r, col := 2 * n + 1, bits := e.2.toNat, scale := 127, cls := 0 }])
        t.put i h 0 (v.desc h.w 109) es) s).settled c i

/-- Meaning of VTOPK. -/
def execVtopk (c : Nat) (w : IWord) (s : State) : Host.Outcome State Fault Refusal :=
  issue s c w (opcode w = 0x28) (topkMistakes w)
    (fun i x => s.sendTo c i x w [] (elemUses w x [98]) topkRun)

/-! ## VRNG (R218) and VSCALE (R219) -/

/-- The generator's word for element n of the destination (R75). -/
def State.drawWord (s : State) (y : LCore) (h : Held) (n : Nat) : Word :=
  if isTensor h.w 109 then
    let d := y.desc h.w 109
    s.words y.k h d.tensor (bits h.w 72 57) 1 (d.index (d.place n).1 (d.place n).2)
  else s.words y.k h 0xFFFFFFFF (bits h.w 72 57) 1 0

def rngIntRun := vecRun (fun t y h n => (Val.ofInt (int32 (t.drawWord y h n)) 0).exact)
def rngUniformRun := vecRun (fun t y h n => .fin false (t.drawWord y h n).toNat 1 (-32))
def rngThresholdRun := vecRun (fun t y h n => .fin false (if (t.drawWord y h n).toNat < y.bitsOf h.w 98 n then 1 else 0) 1 0)

/-- Meaning of VRNG, op 0 or a reserved op: u as INT32. -/
def execVrngInt (c : Nat) (w : IWord) (s : State) : Host.Outcome State Fault Refusal :=
  issue s c w (opcode w = 0x29 && vecOp w ≠ 1 && vecOp w ≠ 2) (fun x => elemMistakes (s.sharing c) w x [] [] 2)
    (fun i x => s.sendElem c i x w [] rngIntRun)

/-- Meaning of VRNG op 1: u × 2^−32. -/
def execVrngUniform (c : Nat) (w : IWord) (s : State) : Host.Outcome State Fault Refusal :=
  issue s c w (opcode w = 0x29 && vecOp w = 1) (fun x => elemMistakes (s.sharing c) w x [] [] 2)
    (fun i x => s.sendElem c i x w [] rngUniformRun)

/-- Meaning of VRNG op 2: 1 when u is below the threshold, else 0. -/
def execVrngThreshold (c : Nat) (w : IWord) (s : State) : Host.Outcome State Fault Refusal :=
  issue s c w (opcode w = 0x29 && vecOp w = 2) (fun x => elemMistakes (s.sharing c) w x [98] [] 2)
    (fun i x => s.sendElem c i x w [98] rngThresholdRun)

/-- a × 2^e, e the value of b in INT32 under RTZ with saturation (R219). -/
def scaleRun := vecRun (fun _ y h n =>
  scaleOp (y.valOf h.w 98 n) (signed 32 (convInt 7 1 true 0 (y.valOf h.w 87 n).exact).bits))

/-- Meaning of VSCALE. -/
def execVscale (c : Nat) (w : IWord) (s : State) : Host.Outcome State Fault Refusal :=
  issue s c w (opcode w = 0x2A) (fun x => elemMistakes (s.sharing c) w x [98, 87] [] 0)
    (fun i x => s.sendElem c i x w [98, 87] scaleRun)

end Sys2Proof.Machine
end

