-- ==== Sys2Proof/Machine/Move.lean ====
section
/-! DEFINITION. The move engine (R165, R226 to R260, R654): copies, transposition, gathers and scatters through index
tensors, remote operations, and prefetch. -/

namespace Sys2Proof.Machine

/-! ## Checks of descriptors (R229, R245, R262, R267) -/

/-- A tier-0 range in the instruction banks (R165, R262). -/
def Desc.inBanks (d : Desc) : Bool := d.tier = 0 && 0x70000 ≤ d.base && d.stop ≤ 0x78000

/-- The range of a descriptor that names this device's or another's local addresses, seen from held rank r. -/
def State.localOk (s : State) (k r a stop : Nat) : Bool := s.rangeOk k r 1 a stop || s.rangeOk k r 2 a stop

/-- A range of local addresses at a device lies in one unit (R266). -/
def unitOk (a stop : Nat) : Bool := a < stop && (unitOf a).isSome && unitOf a = unitOf (stop - 1)

/-- The checks of one descriptor before the first access. `bank` allows the instruction banks. -/
def State.descMistakes (s : State) (x : LCore) (d : Desc) (fno : Nat) (bank : Bool) : List Mistake :=
  d.formMistakes fno ++
  (if d.rows = 0 || d.cols = 0 then []
  else if d.tier = 0 then (if bank && d.inBanks then [] else sramMistakes x d.base d.stop d.num)
  else if d.tier = 1 ∨ d.tier = 2 then mistakeIf (!s.rangeOk x.k x.r d.tier d.base d.stop) 0x10 d.num
  else if d.tier = 3 then
    match s.job x.k with
    | none => []
    | some j =>
      let c := d.base / 2 ^ 48
      if !inShape j.shape c then [(0x15, c)]
      else
        let a := d.base % 2 ^ 48
        let stop := a + (d.stop - d.base)
        match s.ownRank x.k d.base with
        | some r => mistakeIf (!s.localOk x.k r a stop) 0x10 d.num
        | none => mistakeIf (!unitOk a stop) 0x10 d.num
  else mistakeIf (d.tier = 4 && 2 ^ 64 < d.stop) 0x10 d.num)

/-- Destination rows that overlap one another (R236). -/
def Desc.overlapMistakes (d : Desc) : List Mistake :=
  mistakeIf ((0 < d.stride && d.stride < d.rowBytes) || (d.stride = 0 && 1 < d.rows)) 0x16 1

/-- The bits that a move word uses: the operands, index and weights when enabled, and the fields from rounding to op. -/
def moveUsed (w : IWord) (indexed weighted : Bool) : List (Nat × Nat) :=
  [(77, 50)] ++ tensorUsed w 110 ++ tensorUsed w 100 ++ (if indexed then [(79, 79)] else []) ++ (if weighted then [(78, 78)] else []) ++
  (if indexed && bit w 79 then tensorUsed w 90 else []) ++ (if weighted && bit w 78 then tensorUsed w 80 else [])

/-! ## Indices and rows (R237, R248) -/

/-- A table whose rows an index tensor names: its rows, and the descriptor and row behind each. -/
structure Table where
  size : Nat
  row : Nat → Desc × Nat

def Desc.table (d : Desc) : Table := { size := d.rows, row := fun n => (d, n) }

/-- DREM's group: its unit address and span (R247). -/
def Held.unit (h : Held) : Word := sget (fun _ => (0 : Word)) h.sr (bits h.w 49 46)
def Held.spanW (h : Held) : Word := sget (fun _ => (0 : Word)) h.sr (bits h.w 45 42)

/-- The ranks of a DREM's member devices (R248). -/
def State.members (s : State) (x : LCore) (h : Held) : List Nat :=
  match s.job x.k with
  | none => []
  | some j => groupRanks j.shape j.ranks h.unit h.spanW

/-- A descriptor at the device of a rank: the same local base under its logical coordinate. -/
def State.atRank (s : State) (k : Nat) (d : Desc) (r : Nat) : Desc :=
  match s.job k with
  | none => d
  | some j => { d with tier := 3, base := coordOf j.shape r * 2 ^ 48 + d.base % 2 ^ 48 }

/-- The table of a sharded operation (R248). -/
def State.shardTable (s : State) (x : LCore) (h : Held) (d : Desc) : Table :=
  let ms := s.members x h
  { size := ms.length * d.rows, row := fun n => (s.atRank x.k d (ms.getD (n / max 1 d.rows) 0), n % max 1 d.rows) }

/-- The operation that a move word names. -/
inductive MoveKind where
  | copy | transpose | gather (mode : Nat) | scatter (add : Bool) | prefetch
  | broadcast | readOne | shardGather (pool : Nat) | fabricGather (pool : Nat) | shardScatter | version | reserved
  deriving DecidableEq, Repr

def Held.kind (h : Held) : MoveKind :=
  let op := moveOp h.w
  if opcode h.w = 0x30 then .copy
  else if opcode h.w = 0x35 then .transpose
  else if opcode h.w = 0x31 then .gather op
  else if opcode h.w = 0x32 then .scatter (op = 1)
  else if opcode h.w = 0x33 then .prefetch
  else if op = 0 then .broadcast
  else if op = 1 then .readOne
  else if op = 2 then .shardGather (bits h.w 41 40)
  else if op = 3 then .fabricGather (bits h.w 41 40)
  else if op = 4 then .shardScatter
  else if op = 5 then .version
  else .reserved

/-- What gathers and scatters share: their table, whether they gather, and the bag size. -/
structure Indexed where
  table : Table
  gather : Bool
  pool : Nat
  add : Bool
  bag : Nat

def State.indexed (s : State) (y : LCore) (h : Held) : Option Indexed :=
  let src := y.desc h.w 100
  let dst := y.desc h.w 110
  let bag := (int32 (y.getS (bits h.w 39 36))).toNat
  match h.kind with
  | .gather m => some ⟨src.table, true, m, false, bits h.w 49 38 + 1⟩
  | .scatter add => some ⟨dst.table, false, 0, add, 1⟩
  | .shardGather p => some ⟨s.shardTable y h src, true, p, false, if p = 0 then 1 else bag⟩
  | .fabricGather p => some ⟨s.shardTable y h src, true, p, false, bag⟩
  | .shardScatter => some ⟨s.shardTable y h dst, false, 0, true, 1⟩
  | _ => none

/-- The index values in logical row-major order (R237). -/
def State.indices (s : State) (y : LCore) (h : Held) (bytes : Sparse Byte) : List Int :=
  let d := y.desc h.w 90
  (upto d.count).map (fun n => signed 32 (d.bitsAt (s.source y bytes d) (d.place n).1 (d.place n).2))

/-- The first index that is neither −1 nor a row of the table. -/
def badIndex (size : Nat) (ix : List Int) : Option Nat := (upto ix.length).find? (fun j => ix.getD j 0 < -1 || (size : Int) ≤ ix.getD j 0)

/-- The indices before the first bad one, and that one's place. -/
def goodIndices (size : Nat) (ix : List Int) : List Int × Option Nat :=
  match badIndex size ix with
  | none => (ix, none)
  | some j => (ix.take j, some j)

/-! ## What must be fetched first -/

/-- Granules of a descriptor's rows that must come from another device or the host and have not come. -/
def State.missing (s : State) (k : Nat) (got : List Nat) (d : Desc) (rows : List Nat) : List Nat :=
  (s.outside k (d.granulesOf rows)).filter (fun g => !(got.contains g))

/-- Granules that a move still needs before it can take effect: index and weights first, then the rows they name. -/
def State.needs (s : State) (y : LCore) (h : Held) (got : List Nat) (bytes : Sparse Byte) : List Nat :=
  let src := y.desc h.w 100
  match s.indexed y h with
  | some q =>
    let idx := y.desc h.w 90
    let wts := y.desc h.w 80
    let first := sortNat (s.missing y.k got idx (upto idx.rows) ++ (if bit h.w 78 then s.missing y.k got wts (upto wts.rows) else []))
    if first ≠ [] then first
    else
      let ix := (goodIndices q.table.size (s.indices y h bytes)).1
      let named := (ix.filter (fun v => 0 ≤ v)).map (fun v => q.table.row v.toNat)
      if q.gather then sortNat (named.flatMap (fun p => s.missing y.k got p.1 [p.2]))
      else sortNat (s.missing y.k got src (upto src.rows) ++
        (if q.add then (named.filter (fun p => p.1.tier = 4)).flatMap (fun p => s.missing y.k got p.1 [p.2]) else []))
  | none =>
    match h.kind with
    | .readOne =>
      match s.members y h with
      | r :: _ => s.missing y.k got (s.atRank y.k src r) (upto src.rows)
      | [] => []
    | .version => []
    | _ => s.missing y.k got src (upto src.rows)

/-! ## Element values -/

/-- The generator's words of a move's destination (R232). -/
def State.moveWords (s : State) (y : LCore) (h : Held) (d : Desc) : Nat → Word := s.words y.k h d.tensor (bits h.w 74 59) 0

/-- Exact values converted into row q of dst. -/
def State.convRow (s : State) (y : LCore) (h : Held) (d : Desc) (q : Nat) (vs : List Exact) : List ElemW :=
  d.convAll (bits h.w 77 76) (bit h.w 75) (s.moveWords y h d) ((vs.zipIdx).map (fun p => (q, p.2, p.1)))

/-- Row r of a source moved to row q of dst: bits when the formats are equal, else one conversion each (R232). -/
def State.moveRow (s : State) (y : LCore) (h : Held) (bytes : Sparse Byte) (d : Desc) (q : Nat) (sd : Desc) (r : Nat) : List ElemW :=
  let rd := s.source y bytes sd
  if sd.fmt = d.fmt then
    (upto d.cols).map (fun c =>
      { row := q, col := c, bits := sd.bitsAt rd r c, scale := sd.scaleAt rd r c, cls := copyClass (sd.valAt rd r c) })
  else s.convRow y h d q ((upto d.cols).map (fun c => (sd.valAt rd r c).exact))

/-- The exact terms of table row p for one entry: the elements, or their products with the entry's weight (R238). -/
def State.rowTerms (s : State) (y : LCore) (h : Held) (bytes : Sparse Byte) (p : Desc × Nat) (cols j : Nat) : List Val :=
  let rd := s.source y bytes p.1
  let wts := y.desc h.w 80
  (upto cols).map (fun c =>
    let x := p.1.valAt rd p.2 c
    if bit h.w 78 then
      let w := wts.valAt (s.source y bytes wts) (wts.place j).1 (wts.place j).2
      match firstNan [w, x] with
      | some t => .nan t
      | none => mulVal w x
    else x)

/-! ## Copies -/

/-- A DCOPY into the inactive bank (R165): it cancels a load there, and the bank is marked as holding block
0xFFFF_FFFF. -/
def State.putBank (s : State) (c : Nat) (bs : List (Nat × Byte)) (stop : Nat) : State :=
  let n := if stop ≤ 0x74000 then 0 else 1
  let base := 0x70000 + 0x4000 * n
  let b := (s.core c).bank n
  let old : Sparse Byte := ((b.words.flatMap (fun w => leBytes 16 w.toNat)).zipIdx).foldl (fun m p => putByte m p.2 p.1) []
  let new := bs.foldl (fun m p => putByte m (p.1 - base) p.2) old
  let len := (stop - base) / 16
  s.setCore c ((s.core c).setBank n
    { block := 0xFFFFFFFF, words := (upto len).map (fun i => BitVec.ofNat 128 (leNat (getBytes new (16 * i) 16))), loading := none })

/-- The key under which the bytes of a parameter version arrive, from 0 on. -/
def versionTier : Nat := 5

/-- Copies src to dst element by element (R234). -/
def State.copyAll (s : State) (c i : Nat) (y : LCore) (h : Held) (cset : Nat) (bytes : Sparse Byte) (sd d : Desc) : State :=
  let es := (upto d.rows).flatMap (fun r => s.moveRow y h bytes d r sd r)
  if d.inBanks then s.putBank c (d.byteWrites es) d.stop else s.put i h cset d es

/-- The transpose of src (R235): new blocks between E2M1 tensors. -/
def State.transposed (s : State) (y : LCore) (h : Held) (bytes : Sparse Byte) (sd d : Desc) : List ElemW :=
  let rd := s.source y bytes sd
  (upto d.rows).flatMap (fun q =>
    if sd.fmt = d.fmt && d.fmt ≠ 5 then
      (upto d.cols).map (fun k =>
        { row := q, col := k, bits := sd.bitsAt rd k q, scale := 127, cls := copyClass (sd.valAt rd k q) })
    else s.convRow y h d q ((upto d.cols).map (fun k => (sd.valAt rd k q).exact)))

/-! ## Gathers (R239, R240, R249) -/

/-- The exact sum of a bag's terms by column, and the number of its entries that are not padding. -/
def State.bagSum (s : State) (y : LCore) (h : Held) (bytes : Sparse Byte) (t : Table) (cols : Nat) (es : List (Int × Nat)) :
    List Entry × Nat :=
  let real := es.filter (fun p => p.1 ≠ -1)
  let z : List Entry := List.replicate cols {}
  (real.foldl (fun acc p => (acc.zip (s.rowTerms y h bytes (t.row p.1.toNat) cols p.2)).map (fun q => q.1.add q.2)) z, real.length)

/-- Adds binary32 values along the fixed tree over their positions (R392). -/
def treeAdd : Nat → List Word → Word
  | 0, l => l.headD 0
  | n + 1, l =>
    match l with
    | [] => 0
    | [a] => a
    | l => treeAdd n ((chunks 2 l.length l).map (fun p =>
      match p with
      | [a, b] => add32 a b
      | [a] => a
      | _ => 0))

/-- A pooled value delivered: the sum, or its quotient by the count; +0 for an empty bag (R240). -/
def pooled (mean : Bool) (v : Val) (n : Nat) : Exact :=
  if n = 0 then .fin false 0 1 0 else if mean then divOp v (.fin false n 0) else v.exact

/-- One bag pooled in the fabric (R249): the partial of each member in binary32, added along the tree. -/
def State.fabricBag (s : State) (y : LCore) (h : Held) (bytes : Sparse Byte) (src : Desc) (q : Indexed) (es : List (Int × Nat)) :
    List Exact :=
  let m := (s.members y h).length
  let parts := (upto m).map (fun k =>
    let sum := s.bagSum y h bytes q.table src.cols (es.filter (fun p => p.1 ≠ -1 && p.1.toNat / max 1 src.rows = k))
    sum.1.map (fun e => toB32 e.value.exact))
  let n := (es.filter (fun p => p.1 ≠ -1)).length
  (upto src.cols).map (fun c => pooled (q.pool = 2) (b32 (treeAdd m (parts.map (fun l => l.getD c 0)))) n)

/-- The rows that a gather writes, up to the first bad index (R229). -/
def State.gathered (s : State) (y : LCore) (h : Held) (bytes : Sparse Byte) (q : Indexed) (d : Desc) : List ElemW × Option Nat :=
  let src := y.desc h.w 100
  let g := goodIndices q.table.size (s.indices y h bytes)
  let es := g.1.zipIdx
  if q.pool = 0 then
    (es.flatMap (fun p =>
      if p.1 = -1 then s.convRow y h d p.2 (List.replicate d.cols (.fin false 0 1 0))
      else s.moveRow y h bytes d p.2 (q.table.row p.1.toNat).1 (q.table.row p.1.toNat).2), g.2)
  else
    ((((chunks q.bag es.length es).filter (fun b => b.length = q.bag)).zipIdx).flatMap (fun b =>
      let vs := match h.kind with
        | .fabricGather _ => s.fabricBag y h bytes src q b.1
        | _ =>
          let sum := s.bagSum y h bytes q.table src.cols b.1
          sum.1.map (fun e => pooled (q.pool = 2) e.value sum.2)
      s.convRow y h d b.2 vs), g.2)

/-! ## Scatters (R241, R242, R250) -/

/-- The rows that a plain scatter writes: the highest entry of each row, rows in ascending order. -/
def lastOf (ix : List Int) : List (Nat × Nat) :=
  (sortNat ((ix.filter (fun v => 0 ≤ v)).map Int.toNat)).map (fun r =>
    (r, (((ix.zipIdx).filter (fun p => p.1 = (r : Int))).getLast?.getD (0, 0)).2))

/-- The written elements of row r of a table descriptor after a scatter-add (R115, R241). -/
def State.addedRow (s : State) (y : LCore) (h : Held) (bytes : Sparse Byte) (src : Desc) (ix : List Int) (n : Nat) (p : Desc × Nat) :
    List ElemW :=
  let rd := s.source y bytes p.1
  let prior : List Entry := (upto p.1.cols).map (fun c => ({} : Entry).add (p.1.valAt rd p.2 c))
  let js := ((ix.zipIdx).filter (fun e => e.1 = (n : Int))).map (fun e => e.2)
  let sums := js.foldl (fun acc j => (acc.zip (s.rowTerms y h bytes (src, j) p.1.cols j)).map (fun q => q.1.add q.2)) prior
  s.convRow y h p.1 p.2 (sums.map (fun e => e.value.exact))

/-- The hashes of a scatter-add: each contribution under its destination index (R471). -/
def State.addTaps (s : State) (i : Nat) (y : LCore) (h : Held) (bytes : Sparse Byte) (src d : Desc) (ix : List Int) : State :=
  match s.lcore i with
  | none => s
  | some x =>
    let rd := s.source y bytes src
    let ws := ((ix.zipIdx).filter (fun e => 0 ≤ e.1)).flatMap (fun e => (upto d.cols).map (fun c =>
      (d.index e.1.toNat c, (({ row := 0, col := c, bits := src.bitsAt rd e.2 c, scale := src.scaleAt rd e.2 c, cls := 0 } : ElemW).tapBits src.fmt))))
    s.setLcore i (some (x.tapAll (s.tapTable x.k) h.step d.tensor ws))

/-- The terms that a scatter-add sends to an element's device (R250). -/
def State.scatterTerms (s : State) (y : LCore) (h : Held) (bytes : Sparse Byte) (src : Desc) (ix : List Int) (n : Nat) (p : Desc × Nat) :
    List ScatterTerm :=
  let rd := s.source y bytes src
  let wts := y.desc h.w 80
  let wrd := s.source y bytes wts
  let js := ((ix.zipIdx).filter (fun e => e.1 = (n : Int))).map (fun e => e.2)
  (upto p.1.cols).flatMap (fun c => js.map (fun j =>
    { addr := p.1.addr p.2 c % 2 ^ 48, high := p.1.fmt = 5 && c % 2 = 1, scaleAddr := if p.1.fmt = 5 then p.1.scaleAddr p.2 c % 2 ^ 48 else 0
      fmt := src.fmt, bits := BitVec.ofNat 32 (src.bitsAt rd j c), scale := src.scaleAt rd j c
      weight := if bit h.w 78 then
          some (wts.fmt, BitVec.ofNat 32 (wts.bitsAt wrd (wts.place j).1 (wts.place j).2), wts.scaleAt wrd (wts.place j).1 (wts.place j).2)
        else none
      u := s.moveWords y h p.1 (p.1.index n c) }))

/-- A scatter term as bytes of a packet: the body of type 0x04 is not in the spec (log 27). -/
def ScatterTerm.bytes (t : ScatterTerm) : List Byte :=
  leBytes 6 t.addr ++ leBytes 6 t.scaleAddr ++ leBytes 4 t.bits.toNat ++ leBytes 4 t.u.toNat ++
  leBytes 4 (match t.weight with
    | some w => w.2.1.toNat
    | none => 0) ++ [t.scale] ++
  leBytes 3 ((if t.high then 1 else 0) + 2 * t.fmt + (match t.weight with
    | some w => 32 + 64 * w.1 + 1024 * w.2.2.toNat
    | none => 0))

/-- The argument of a scatter-add packet: destination format, rounding and saturation (log 27). -/
def scatterArg (h : Held) (fmt : Nat) : DWord := BitVec.ofNat 64 (fmt + 16 * bits h.w 77 76 + 64 * bits h.w 75 75)

/-- A row of a remote scatter-add goes to its device as one packet of whole elements (R245, R250). -/
def State.sendScatter (s : State) (i : Nat) (x : LCore) (h : Held) (p : Desc × Nat) (ts : List ScatterTerm) : State :=
  match s.job x.k with
  | none => s
  | some j =>
    let q := s.askAt (rankOf j.shape (p.1.base / 2 ^ 48)) 0x04 (j.physical (rankOf j.shape (p.1.base / 2 ^ 48))) x.k (p.1.addr p.2 0 % 2 ^ 48) (scatterArg h p.1.fmt)
      (ts.flatMap ScatterTerm.bytes) true (h.writing i p.1.num)
    match q.1.lcore i with
    | none => q.1
    | some y => q.1.setLcore i (some { y with unacked := y.unacked + 1 })

/-- Runs a scatter-add: rows at this device take their sums, rows elsewhere their packets. -/
def State.scatterAdd (s : State) (i : Nat) (y : LCore) (h : Held) (bytes : Sparse Byte) (q : Indexed) (d : Desc) (ix : List Int) : State :=
  let src := y.desc h.w 100
  let t := s.addTaps i y h bytes src d ix
  (lastOf ix).foldl (fun (t : State) p =>
    let at_ := q.table.row p.1
    if at_.1.tier = 3 && (t.ownRank y.k at_.1.base).isNone then
      t.sendScatter i y h at_ (t.scatterTerms y h bytes src ix p.1 at_)
    else
      match t.lcore i with
      | none => t
      | some z =>
        let es := t.addedRow (z.asSent h) h bytes src ix p.1 at_
        let u := t.setLcore i (some (z.countAll (bits h.w 58 54) es))
        u.putTier (h.writing i at_.1.num) i at_.1.tier (at_.1.byteWrites es)) t

/-! ## Prefetch (R252 to R258) -/

/-- The physical granules of this device that a prefetch source touches (R252). -/
def State.watched (s : State) (x : LCore) (d : Desc) : List Nat :=
  let local_ := fun (r : Nat) =>
    (sortNat ((upto d.rows).flatMap (fun n => granules (d.addr n 0 % 2 ^ 48) d.rowBytes ++
      (if d.fmt = 5 then granules (d.scaleAddr n 0 % 2 ^ 48) (d.cols / 32) else [])))).filterMap (fun g =>
        (s.view x.k r (g * 64)).map (fun a => a / 64))
  if d.tier = 1 ∨ d.tier = 2 then local_ x.r
  else if d.tier = 3 then
    match s.ownRank x.k d.base with
    | some r => local_ r
    | none => []
  else []

/-- Watch requests to the holding device of a tier-3 source (R253): one for each run of granules. -/
def State.askWatches (s : State) (i : Nat) (x : LCore) (d : Desc) : State × List (Half × Half) :=
  match s.job x.k with
  | none => (s, [])
  | some j =>
    let gs := (s.outside x.k (d.granulesOf (upto d.rows))).map (fun g => (g - 3 * 2 ^ 58) * 64 % 2 ^ 48 / 64)
    if d.tier ≠ 3 then (s, [])
    else
      let dest := j.physical (rankOf j.shape (d.base / 2 ^ 48))
      (numRuns (2 ^ 32) gs).foldl (fun (q : State × List (Half × Half)) r =>
        let v := q.1.askAt (rankOf j.shape (d.base / 2 ^ 48)) 0x07 dest x.k (64 * r.1) (BitVec.ofNat 64 r.2) [] true (.watch i)
        (v.1, q.2 ++ [(dest, v.2)])) (s, [])

/-- Opens the entry of a DPREF and retires those whose destination it meets (R256). -/
def State.openEntry (s : State) (i : Nat) (h : Held) (arrived : Bool) : State :=
  match s.lcore i with
  | none => s
  | some x =>
    let y := x.asSent h
    let sd := y.desc h.w 100
    let d := y.desc h.w 110
    let q := s.askWatches i x sd
    let gs := q.1.watched x sd
    let e : Prefetch :=
      { held := h, first := d.base, last := d.stop - 1, granules := gs
        tier := if sd.tier = 3 && gs ≠ [] then 1 else sd.tier
        generation := 0, strict := sd.strict, forced := false, arrived := arrived, refetching := false, checked := false, watches := q.2 }
    match q.1.lcore i with
    | none => q.1
    | some z => q.1.setLcore i (some { (z.retire h.uses.writes) with prefetches := (z.retire h.uses.writes).prefetches ++ [e] })

/-- The data of a DPREF land: its elements are counted and hashed once, and its entry has arrived (R252). An entry that is
to be refetched keeps waiting for the new copy. -/
def State.landPrefetch (s : State) (i : Nat) (h : Held) (bytes : Sparse Byte) : State :=
  match s.lcore i with
  | none => s
  | some x =>
    let y := x.asSent h
    let d := y.desc h.w 110
    let sd := y.desc h.w 100
    let mine := x.prefetches
    let es := (upto d.rows).flatMap (fun r => s.moveRow y h bytes d r sd r)
    let t := s.put i h (bits h.w 58 54) d es
    match t.lcore i with
    | none => t
    | some z =>
      t.setLcore i (some { z with prefetches :=
        (mine.map (fun p => if p.held = h then { p with arrived := true } else p)).filter (fun p => !(p.held = h && p.checked)) })

/-! ## Broadcasts (R50, R247) -/

/-- Local address of a member core's data SRAM in its core window (R266, R268). -/
def coreWindow (l a : Nat) : Nat := 0x800000000000 + l * 0x100000 + a

/-- Delivers bytes, given by address, to one member: at this device they are written; elsewhere they travel in packets of
type 0x05. -/
def State.deliver (s : State) (why : Purpose) (i : Nat) (x : LCore) (r : Nat) (l : Option Nat) (bs : List (Nat × Byte)) : State :=
  match s.job x.k with
  | none => s
  | some j =>
    if j.physical r = s.coord then
      match l with
      | none => (runs (s.viewAll x.k r bs)).foldl (fun (t : State) p => t.devWrite p.1 p.2) s
      | some n =>
        match s.lcore (lkey x.k r n) with
        | none => s
        | some z => s.setLcore (lkey x.k r n) (some { z with sram := bs.foldl (fun m p => putByte m p.1 p.2) z.sram })
    else
      (runs bs).foldl (fun (t : State) p =>
        ((chunks 2016 p.2.length p.2).zipIdx).foldl (fun (t : State) q =>
          let a := p.1 + 2016 * q.2
          let v := t.askAt r 0x05 (j.physical r) x.k (match l with
            | none => a
            | some n => coreWindow n a) 0 q.1 true why
          match v.1.lcore i with
          | none => v.1
          | some z => v.1.setLcore i (some { z with unacked := z.unacked + 1 })) t) s

/-- The members of a broadcast: ranks, and the cores at each when the depth is 1 or 2. -/
def State.targets (s : State) (x : LCore) (h : Held) : List (Nat × Option Nat) :=
  match s.job x.k with
  | none => []
  | some j =>
    (s.members x h).flatMap (fun r =>
      if unitDepth h.unit = 0 then [(r, none)] else (groupCores j.cores h.unit h.spanW).map (fun l => (r, some l)))

/-- Runs a broadcast: each member's copy is counted and hashed once (R471). -/
def State.broadcast (s : State) (i : Nat) (y : LCore) (h : Held) (bytes : Sparse Byte) : State :=
  let d := y.desc h.w 110
  let sd := y.desc h.w 100
  let es := (upto d.rows).flatMap (fun r => s.moveRow y h bytes d r sd r)
  (s.targets y h).foldl (fun (t : State) p =>
    match t.lcore i with
    | none => t
    | some z =>
      let z := (z.countAll (bits h.w 58 54) es).tapAll (t.tapTable z.k) h.step d.tensor (es.map (fun e => (d.index e.row e.col, e.tapBits d.fmt)))
      (t.setLcore i (some z)).deliver (h.writing i d.num) i y p.1 p.2 (d.byteWrites es)) s

/-! ## Lost granules (R278, R284) -/

/-- The granules of rows of a descriptor that lie at this device, as its addresses. -/
def State.heldGranules (s : State) (y : LCore) (d : Desc) (rows : List Nat) : List Nat :=
  match (if d.tier = 1 ∨ d.tier = 2 then some y.r else if d.tier = 3 then s.ownRank y.k d.base else none) with
  | none => []
  | some r => rows.flatMap (fun n => s.viewGranules y.k r (d.addr n 0 % 2 ^ 48) d.rowBytes ++
      (if d.fmt = 5 then s.viewGranules y.k r (d.scaleAddr n 0 % 2 ^ 48) (d.cols / 32) else []))

/-- The first and last granule of a range, where the range covers only a part of them. -/
def edges (a n : Nat) : List Nat :=
  (if a % 64 ≠ 0 ∧ n ≠ 0 then [a] else []) ++ (if (a + n) % 64 ≠ 0 ∧ n ≠ 0 then [a + n - 1] else [])

/-- The granules of GDDR7 at this device that a write of rows of a descriptor covers in part: they are read, merged and
written (R278, R288). Rows without gaps are one range. -/
def State.partGranules (s : State) (y : LCore) (d : Desc) (rows : List Nat) : List Nat :=
  match (if d.tier = 1 then some y.r else if d.tier = 3 then s.ownRank y.k d.base else none) with
  | none => []
  | some r =>
    let whole := d.stride = d.rowBytes ∧ rows.length = d.rows
    let ranges := if whole then [(d.base, d.stop - d.base)]
      else rows.flatMap (fun n => [(d.addr n 0, d.rowBytes)] ++ (if d.fmt = 5 then [(d.scaleAddr n 0, d.cols / 32)] else []))
    ((ranges.flatMap (fun p => edges (p.1 % 2 ^ 48) p.2)).filterMap (fun a => s.view y.k r (a / 64 * 64))).filter (fun a => unitOf a = some 0)

/-- The granules at this device that a move reads. -/
def State.moveGranules (s : State) (y : LCore) (h : Held) (bytes : Sparse Byte) : List Nat :=
  let src := y.desc h.w 100
  let d := y.desc h.w 110
  match s.indexed y h with
  | some q =>
    let idx := y.desc h.w 90
    let wts := y.desc h.w 80
    let named := ((goodIndices q.table.size (s.indices y h bytes)).1.filter (fun v => 0 ≤ v)).map (fun v => q.table.row v.toNat)
    s.heldGranules y idx (upto idx.rows) ++ (if bit h.w 78 then s.heldGranules y wts (upto wts.rows) else []) ++
    (if q.gather then named.flatMap (fun p => s.heldGranules y p.1 [p.2]) ++ s.partGranules y d (upto d.rows)
    else s.heldGranules y src (upto src.rows) ++
      named.flatMap (fun p => if q.add then s.heldGranules y p.1 [p.2] else s.partGranules y p.1 [p.2]))
  | none =>
    match h.kind with
    | .readOne =>
      match s.members y h with
      | r :: _ => s.heldGranules y (s.atRank y.k src r) (upto src.rows) ++ s.partGranules y d (upto d.rows)
      | [] => []
    | .version => s.partGranules y d (upto d.rows)
    | .broadcast => s.heldGranules y src (upto src.rows)
    | _ => s.heldGranules y src (upto src.rows) ++ s.partGranules y d (upto d.rows)

/-- The first granule that a move reads here and that is lost. -/
def State.moveLost (s : State) (y : LCore) (h : Held) (bytes : Sparse Byte) : Option Nat := (s.moveGranules y h bytes).find? s.lostAt

/-- An uncorrectable read of an instruction: recorded, and the core halts with reason 0x43 (R278, R279). -/
def State.lostRead (s : State) (c i : Nat) (x : LCore) (h : Held) (a : Nat) : State :=
  let job := jobField x.k x.l
  let who := (unitField 1 0 c).toNat
  match unitOf a with
  | some 0 =>
    let ch := (gddrDecode a).1
    let detail := readDetail 0 (ch / 8)
    ((s.lost (ch / 8) ch (a / 64)).addError 0x0010 2 (unitField 3 ch (ch / 8)) job who noStep (BitVec.ofNat 64 a)
      (BitVec.ofNat 64 detail)).mistakeAt c i h (0x43, detail)
  | u =>
    let n := u.getD 1 - 1
    (s.addError 0x0010 2 (unitField 5 0 n) job who noStep (BitVec.ofNat 64 a) (BitVec.ofNat 64 (readDetail 1 n))).mistakeAt c i h
      (0x43, readDetail 1 n)

/-! ## Running a move -/

/-- The effect of a move whose data are at hand. -/
def State.moveEffect (s : State) (c i : Nat) (h : Held) (bytes : Sparse Byte) : State :=
  match s.lcore i with
  | none => s
  | some x =>
    let y := x.asSent h
    let src := y.desc h.w 100
    let d := y.desc h.w 110
    let cset := bits h.w 58 54
    let halted := fun (t : State) (bad : Option Nat) =>
      match bad with
      | some j => t.mistakeAt c i h (0x11, j)
      | none => t
    match s.indexed y h with
    | some q =>
      if q.gather then
        let g := s.gathered y h bytes q d
        halted (s.put i h cset d g.1) g.2
      else
        let g := goodIndices q.table.size (s.indices y h bytes)
        if q.add then
          match g.2 with
          | some j => s.mistakeAt c i h (0x11, j)
          | none => s.scatterAdd i y h bytes q d g.1
        else
          halted (s.put i h cset d ((lastOf g.1).flatMap (fun p => s.moveRow y h bytes d p.1 src p.2))) g.2
    | none =>
      match h.kind with
      | .copy => s.copyAll c i y h cset bytes src d
      | .transpose => s.put i h cset d (s.transposed y h bytes src d)
      | .prefetch => s.landPrefetch i h bytes
      | .broadcast => s.broadcast i y h bytes
      | .readOne =>
        match s.members y h with
        | r :: _ => s.copyAll c i y h cset bytes (s.atRank y.k src r) d
        | [] => s
      | .version => s.copyAll c i y h cset bytes { src with tier := versionTier, base := 0 } d
      | _ => s

/-- A move whose data are at hand takes effect, unless a granule that it reads is lost: then it writes nothing (R278). -/
def State.moveNow (s : State) (c i : Nat) (h : Held) (bytes : Sparse Byte) : State :=
  match s.lcore i with
  | none => s
  | some x =>
    match s.moveLost (x.asSent h) h bytes with
    | some a => s.lostRead c i x h a
    | none => s.moveEffect c i h bytes

/-- Asks an owner for a shard version (R251, R410): version v = step − δ in the argument, the copies address, and, as the
packet's body, the bytes that the descriptor covers (log 28). -/
def State.askVersion (s : State) (i : Nat) (x y : LCore) (h : Held) : State :=
  match s.job x.k with
  | none => s
  | some j =>
    let src := y.desc h.w 100
    let r := (s.members y h).headD 0
    let v := h.step - BitVec.ofNat 64 (bits h.w 35 32)
    let q := s.askAt r 0x06 (j.physical r) x.k (src.base % 2 ^ 48) v (leBytes 4 src.tensor ++ leBytes 8 (src.stop - src.base)) true (.fetch i)
    match q.1.lcore i with
    | none => q.1
    | some z =>
      q.1.setLcore i (some { z with fetches := z.fetches ++ [{ held := h, got := [], bytes := [], asks :=
         [{ tag := q.2.toNat, addr := tierKey versionTier 0, length := src.stop - src.base }] }] })

/-- Runs a move: what lies elsewhere is asked for first. -/
def moveRun (s : State) (c i : Nat) (h : Held) : State :=
  match s.lcore i with
  | none => s
  | some x =>
    let y := x.asSent h
    if h.kind = .version then s.askVersion i x y h
    else
      let gs := s.needs y h [] []
      let t := if h.kind = .prefetch then s.openEntry i h false else s
      if gs = [] then (t.moveNow c i h []).settled c i else t.openFetch i h gs

/-- A fetch whose asks are all answered: it asks for what it now finds it needs, or takes effect. A refetch waits for
PREFETCH_REFETCH_DONE. -/
def State.fetchDone (s : State) (c i : Nat) (f : Fetch) : State :=
  match s.lcore i with
  | none => s
  | some x =>
    let y := x.asSent f.held
    if f.held.kind = .prefetch && x.prefetches.any (fun p => p.held = f.held && p.refetching) then s
    else
      let gs := s.needs y f.held f.got f.bytes
      let rest := x.fetches.filter (fun g => g ≠ f)
      if gs = [] then
        (((s.setLcore i (some { x with fetches := rest })).moveNow c i f.held f.bytes).loadNow c i).settled c i
      else
        let q := s.askAll i x gs
        match q.1.lcore i with
        | none => q.1
        | some z => q.1.setLcore i (some { z with fetches := rest ++ [{ f with asks := q.2 }] })

/-- Data arrive for the ask with a tag, at an offset into it: the ask is done when all of it has come. -/
def Fetch.take (f : Fetch) (tag offset : Nat) (data : List Byte) : Fetch :=
  match f.asks.find? (fun a => a.tag = tag) with
  | none => f
  | some a =>
    let at_ := a.addr + offset
    let left := a.length - data.length
    { f with
      bytes := putBytes f.bytes at_ data
      got := f.got ++ granules at_ data.length
      asks := if left = 0 then f.asks.filter (fun b => b.tag ≠ tag) else f.asks.map (fun b => if b.tag = tag then { b with length := left } else b) }

/-- Data arrive for logical core i (R340, type 0x10; R302). -/
def State.dataArrive (s : State) (i tag offset : Nat) (data : List Byte) : State :=
  match s.lcore i with
  | none => s
  | some x =>
    match x.fetches.find? (fun f => f.asks.any (fun a => a.tag = tag)) with
    | none => s
    | some f =>
      let g := f.take tag offset data
      let t := s.setLcore i (some { x with fetches := x.fetches.map (fun e => if e = f then g else e) })
      if g.asks = [] then
        match t.physOf i with
        | some c => t.fetchDone c i g
        | none => t
      else t

/-! ## Mistakes of the move words (R229 to R260) -/

/-- Mistakes of the fields that every move word has. -/
def State.moveMistakes (s : State) (c : Nat) (w : IWord) (x : LCore) (used : List (Nat × Nat)) (top : Nat) (bank : Bool) : List Mistake :=
  let d := x.desc w 110
  reservedBits w used ++ mistakeIf (top < moveOp w) 0x04 11 ++ setMistakes (s.sharing c) (bits w 58 54) ++
  s.descMistakes x d 1 bank ++ s.descMistakes x (x.desc w 100) 2 false ++ d.overlapMistakes

/-- Mistakes of index and weights (R237, R238): the index tensor's format, the weight count. -/
def State.indexMistakes (s : State) (w : IWord) (x : LCore) : List Mistake :=
  let idx := x.desc w 90
  let wts := x.desc w 80
  mistakeIf (!bit w 79) 0x04 5 ++
  (if bit w 79 then s.descMistakes x idx 3 false ++ mistakeIf (idx.fmt ≠ 7) 0x17 idx.num else []) ++
  (if bit w 78 then s.descMistakes x wts 4 false ++ mistakeIf (wts.count ≠ idx.count) 0x16 4 else [])

/-- Byte ranges that a move reads and writes in data SRAM. -/
def moveUses (w : IWord) (x : LCore) : Uses :=
  { reads := (x.desc w 100).range ++ (if bit w 79 then (x.desc w 90).range else []) ++ (if bit w 78 then (x.desc w 80).range else [])
    writes := if (x.desc w 110).inBanks then [] else (x.desc w 110).range }

/-- DCOPY's destination touches an executing bank (R165, R169). -/
def State.bankMistakes (s : State) (c : Nat) (x : LCore) (d : Desc) : List Mistake :=
  let p := s.core c
  let running := fun (n : Nat) => (p.res0.isSome && p.res1.isSome) || x.bank = n
  mistakeIf (d.inBanks && ((running 0 && d.base < 0x74000) || (running 1 && 0x74000 < d.stop))) 0x40 d.base

/-- Mistakes of DCOPY. -/
def State.dcopyMistakes (s : State) (c : Nat) (w : IWord) (x : LCore) : List Mistake :=
  let d := x.desc w 110
  let src := x.desc w 100
  s.moveMistakes c w x (moveUsed w false false) 0 true ++ mistakeIf (d.rows ≠ src.rows || d.cols ≠ src.cols) 0x16 1 ++ s.bankMistakes c x d

/-- Meaning of DCOPY (R234). -/
def execDcopy (c : Nat) (w : IWord) (s : State) : Host.Outcome State Fault Refusal :=
  issue s c w (opcode w = 0x30) (s.dcopyMistakes c w) (fun i x => s.sendTo c i x w [] (moveUses w x) moveRun)

/-- Mistakes of DXPOSE. -/
def State.dxposeMistakes (s : State) (c : Nat) (w : IWord) (x : LCore) : List Mistake :=
  let d := x.desc w 110
  let src := x.desc w 100
  s.moveMistakes c w x (moveUsed w false false) 0 false ++ mistakeIf (d.tier ≠ 0) 0x04 1 ++
  mistakeIf (d.rows ≠ src.cols || d.cols ≠ src.rows) 0x16 1 ++ mistakeIf (256 < src.rows || 256 < src.cols) 0x16 2

/-- Meaning of DXPOSE (R235). -/
def execDxpose (c : Nat) (w : IWord) (s : State) : Host.Outcome State Fault Refusal :=
  issue s c w (opcode w = 0x35) (s.dxposeMistakes c w) (fun i x => s.sendTo c i x w [] (moveUses w x) moveRun)

/-- Mistakes of DGATH (R239, R260). -/
def State.dgathMistakes (s : State) (c : Nat) (w : IWord) (x : LCore) : List Mistake :=
  let d := x.desc w 110
  let src := x.desc w 100
  let n := (x.desc w 90).count
  let bag := bits w 49 38 + 1
  s.moveMistakes c w x (moveUsed w true true ++ [(49, 38)]) 2 false ++ s.indexMistakes w x ++
  mistakeIf (moveOp w = 0 && bit w 78) 0x04 6 ++ mistakeIf (moveOp w = 0 && 1 < bag) 0x04 12 ++
  mistakeIf (n % bag ≠ 0 || d.cols ≠ src.cols || d.rows ≠ n / bag) 0x16 1

/-- Meaning of DGATH, op 0 or a reserved op: a plain gather. -/
def execDgath (c : Nat) (w : IWord) (s : State) : Host.Outcome State Fault Refusal :=
  issue s c w (opcode w = 0x31 && moveOp w ≠ 1 && moveOp w ≠ 2) (s.dgathMistakes c w)
    (fun i x => s.sendTo c i x w [] (moveUses w x) moveRun)

/-- Meaning of DGATH op 1: pooled sums. -/
def execDgathPooledSum (c : Nat) (w : IWord) (s : State) : Host.Outcome State Fault Refusal :=
  issue s c w (opcode w = 0x31 && moveOp w = 1) (s.dgathMistakes c w) (fun i x => s.sendTo c i x w [] (moveUses w x) moveRun)

/-- Meaning of DGATH op 2: pooled means. -/
def execDgathPooledMean (c : Nat) (w : IWord) (s : State) : Host.Outcome State Fault Refusal :=
  issue s c w (opcode w = 0x31 && moveOp w = 2) (s.dgathMistakes c w) (fun i x => s.sendTo c i x w [] (moveUses w x) moveRun)

/-- Mistakes of DSCAT (R241, R260). -/
def State.dscatMistakes (s : State) (c : Nat) (w : IWord) (x : LCore) : List Mistake :=
  let d := x.desc w 110
  let src := x.desc w 100
  let n := (x.desc w 90).count
  s.moveMistakes c w x (moveUsed w true true) 1 false ++ s.indexMistakes w x ++
  mistakeIf (moveOp w = 0 && bit w 78) 0x04 6 ++ mistakeIf (src.rows ≠ n || src.cols ≠ d.cols) 0x16 2

/-- Meaning of DSCAT, op 0 or a reserved op: a plain scatter. -/
def execDscat (c : Nat) (w : IWord) (s : State) : Host.Outcome State Fault Refusal :=
  issue s c w (opcode w = 0x32 && moveOp w ≠ 1) (s.dscatMistakes c w) (fun i x => s.sendTo c i x w [] (moveUses w x) moveRun)

/-- Meaning of DSCAT op 1: an exact scatter-add. -/
def execDscatAdd (c : Nat) (w : IWord) (s : State) : Host.Outcome State Fault Refusal :=
  issue s c w (opcode w = 0x32 && moveOp w = 1) (s.dscatMistakes c w) (fun i x => s.sendTo c i x w [] (moveUses w x) moveRun)

/-- Mistakes of DPREF (R252, R260). -/
def State.dprefMistakes (s : State) (c : Nat) (w : IWord) (x : LCore) : List Mistake :=
  let d := x.desc w 110
  let src := x.desc w 100
  s.moveMistakes c w x (moveUsed w false false) 0 false ++ mistakeIf (d.tier ≠ 0) 0x04 1 ++ mistakeIf (src.tier = 0) 0x04 2 ++
  mistakeIf (d.rows ≠ src.rows || d.cols ≠ src.cols) 0x16 1

/-- Meaning of DPREF. -/
def execDpref (c : Nat) (w : IWord) (s : State) : Host.Outcome State Fault Refusal :=
  issue s c w (opcode w = 0x33) (s.dprefMistakes c w) (fun i x => s.sendTo c i x w [] (moveUses w x) moveRun)

/-! ## DREM (R247 to R251) -/

/-- The group of a DREM word (R48, R247): op 0 takes depths 0 to 2, the others depth 0, ops 1 and 5 one device. -/
def State.groupMistakes (s : State) (w : IWord) (x : LCore) : List Mistake :=
  let u := x.getS (bits w 49 46)
  let p := x.getS (bits w 45 42)
  let op := moveOp w
  match s.job x.k with
  | none => []
  | some j =>
    if !groupOk j.shape j.cores u 0 then [(0x14, 12)]
    else if (op = 0 && unitDepth u = 3) || (op ≠ 0 && unitDepth u ≠ 0) then [(0x14, 12)]
    else if !groupOk j.shape j.cores u p || ((op = 1 || op = 5) && p ≠ 0) then [(0x14, 13)]
    else []

/-- The extra bits that a DREM word uses. -/
def dremExtra (w : IWord) : List (Nat × Nat) :=
  let op := moveOp w
  [(49, 42)] ++ (if op = 2 ∨ op = 3 then [(41, 40)] else []) ++
  (if (op = 2 ∨ op = 3) ∧ bits w 41 40 ≠ 0 then [(39, 36)] else []) ++ (if op = 5 then [(35, 32)] else [])

/-- "Local" names tier 0, 1, 2 or 4 (R247). -/
def localMistake (d : Desc) (fno : Nat) : List Mistake := mistakeIf (d.tier = 3) 0x04 fno

/-- A shard lies in tier 1 or 2 at its member (R248). -/
def shardMistake (d : Desc) (fno : Nat) : List Mistake := mistakeIf (d.tier ≠ 1 && d.tier ≠ 2) 0x04 fno

/-- A descriptor of local addresses at another device: its codes, extents and unit. -/
def Desc.awayMistakes (d : Desc) (fno : Nat) : List Mistake :=
  d.formMistakes fno ++ mistakeIf (d.rows ≠ 0 && d.cols ≠ 0 && !unitOk d.base d.stop) 0x10 d.num

/-- What every DREM word is checked for. -/
def State.dremCommon (s : State) (c : Nat) (w : IWord) (x : LCore) (indexed : Bool) : List Mistake :=
  reservedBits w (moveUsed w indexed indexed ++ dremExtra w) ++ mistakeIf (5 < moveOp w) 0x04 11 ++
  setMistakes (s.sharing c) (bits w 58 54) ++ s.groupMistakes w x ++ (x.desc w 110).overlapMistakes

/-- Mistakes of DREM op 0 (R247). -/
def State.broadcastMistakes (s : State) (c : Nat) (w : IWord) (x : LCore) : List Mistake :=
  let d := x.desc w 110
  let src := x.desc w 100
  let depth := unitDepth (x.getS (bits w 49 46))
  s.dremCommon c w x false ++ s.descMistakes x src 2 false ++ localMistake src 2 ++
  mistakeIf (d.tier ≠ (if depth = 0 then 1 else 0)) 0x04 1 ++
  (if depth = 0 then d.awayMistakes 1 else s.descMistakes x d 1 false) ++
  mistakeIf (d.rows ≠ src.rows || d.cols ≠ src.cols) 0x16 1

/-- The S registers that a DREM word reads. -/
def dremRegs (w : IWord) : List Nat :=
  [bits w 49 46, bits w 45 42] ++ (if bits w 41 40 ≠ 0 then [bits w 39 36] else [])

/-- Meaning of DREM op 0, or of a reserved op: a broadcast. -/
def execDremBroadcast (c : Nat) (w : IWord) (s : State) : Host.Outcome State Fault Refusal :=
  issue s c w (opcode w = 0x34 && (moveOp w = 0 || 5 < moveOp w)) (s.broadcastMistakes c w)
    (fun i x => s.sendTo c i x w (dremRegs w) { reads := (x.desc w 100).range } moveRun)

/-- Mistakes of DREM op 1. -/
def State.readOneMistakes (s : State) (c : Nat) (w : IWord) (x : LCore) : List Mistake :=
  let d := x.desc w 110
  let src := x.desc w 100
  s.dremCommon c w x false ++ src.awayMistakes 2 ++ s.descMistakes x d 1 false ++ localMistake d 1 ++
  mistakeIf (d.rows ≠ src.rows || d.cols ≠ src.cols) 0x16 1

/-- Meaning of DREM op 1: a read from one device. -/
def execDremRead (c : Nat) (w : IWord) (s : State) : Host.Outcome State Fault Refusal :=
  issue s c w (opcode w = 0x34 && moveOp w = 1) (s.readOneMistakes c w)
    (fun i x => s.sendTo c i x w (dremRegs w) { writes := (x.desc w 110).range } moveRun)

/-- Mistakes of DREM ops 2 and 3 (R248, R249). -/
def State.shardGatherMistakes (s : State) (c : Nat) (w : IWord) (x : LCore) : List Mistake :=
  let d := x.desc w 110
  let src := x.desc w 100
  let pool := bits w 41 40
  let n := (x.desc w 90).count
  let bag := if pool = 0 then 1 else (int32 (x.getS (bits w 39 36))).toNat
  s.dremCommon c w x true ++ mistakeIf (pool = 3 || (moveOp w = 3 && pool = 0)) 0x04 14 ++ s.indexMistakes w x ++
  mistakeIf (pool = 0 && bit w 78) 0x04 6 ++ src.awayMistakes 2 ++ shardMistake src 2 ++ s.descMistakes x d 1 false ++
  mistakeIf (bag = 0 || n % bag ≠ 0 || d.cols ≠ src.cols || d.rows ≠ n / bag) 0x16 1

def shardGatherUses (w : IWord) (x : LCore) : Uses :=
  { reads := (x.desc w 90).range ++ (if bit w 78 then (x.desc w 80).range else []), writes := (x.desc w 110).range }

/-- Meaning of DREM op 2: a sharded gather, pooled at the requester. -/
def execDremShardedGather (c : Nat) (w : IWord) (s : State) : Host.Outcome State Fault Refusal :=
  issue s c w (opcode w = 0x34 && moveOp w = 2) (s.shardGatherMistakes c w)
    (fun i x => s.sendTo c i x w (dremRegs w) (shardGatherUses w x) moveRun)

/-- Meaning of DREM op 3: a sharded gather pooled in the fabric. The partials are formed where the rows arrive; their
bits are those of R249 (log 29). -/
def execDremFabricPooledGather (c : Nat) (w : IWord) (s : State) : Host.Outcome State Fault Refusal :=
  issue s c w (opcode w = 0x34 && moveOp w = 3) (s.shardGatherMistakes c w)
    (fun i x => s.sendTo c i x w (dremRegs w) (shardGatherUses w x) moveRun)

/-- Mistakes of DREM op 4 (R248). -/
def State.shardScatterMistakes (s : State) (c : Nat) (w : IWord) (x : LCore) : List Mistake :=
  let d := x.desc w 110
  let src := x.desc w 100
  let n := (x.desc w 90).count
  s.dremCommon c w x true ++ s.indexMistakes w x ++ d.awayMistakes 1 ++ shardMistake d 1 ++ s.descMistakes x src 2 false ++ localMistake src 2 ++
  mistakeIf (src.rows ≠ n || src.cols ≠ d.cols) 0x16 2

/-- Meaning of DREM op 4: a sharded scatter-add. -/
def execDremShardedScatterAdd (c : Nat) (w : IWord) (s : State) : Host.Outcome State Fault Refusal :=
  issue s c w (opcode w = 0x34 && moveOp w = 4) (s.shardScatterMistakes c w)
    (fun i x => s.sendTo c i x w (dremRegs w)
      { reads := (x.desc w 100).range ++ (x.desc w 90).range ++ (if bit w 78 then (x.desc w 80).range else []) } moveRun)

/-- Mistakes of DREM op 5 (R251): the src descriptor names a shard, so only its codes and extents are checked here. -/
def State.versionMistakes (s : State) (c : Nat) (w : IWord) (x : LCore) : List Mistake :=
  let d := x.desc w 110
  let src := x.desc w 100
  s.dremCommon c w x false ++ src.formMistakes 2 ++ s.descMistakes x d 1 false ++ localMistake d 1 ++
  mistakeIf (d.rows ≠ src.rows || d.cols ≠ src.cols) 0x16 2

/-- Meaning of DREM op 5: a parameter gather by version. -/
def execDremParameterGather (c : Nat) (w : IWord) (s : State) : Host.Outcome State Fault Refusal :=
  issue s c w (opcode w = 0x34 && moveOp w = 5) (s.versionMistakes c w)
    (fun i x => s.sendTo c i x w (dremRegs w) { writes := (x.desc w 110).range } moveRun)

end Sys2Proof.Machine
end

