-- ==== Sys2Proof/Machine/Tokens.lean ====
section
/-! DEFINITION. The ends of waits in the engines: tokens and prefetch refetches (R155, R160, R254). -/

namespace Sys2Proof.Machine

/-- Runs a sent instruction of any engine. -/
def runHeld (s : State) (c i : Nat) (h : Held) : State :=
  let o := opcode h.w
  let op := vecOp h.w
  if o = 0x10 then mwtRun s c i h
  else if o = 0x11 then mstrRun s c i h
  else if o = 0x12 then moutRun s c i h
  else if o = 0x13 then mswapRun s c i h
  else if o = 0x20 then (if op = 1 then subRun s c i h else addRun s c i h)
  else if o = 0x21 then (if op = 1 then mulRun s c i h else if op = 2 then fmsRun s c i h else fmaRun s c i h)
  else if o = 0x22 then divRun s c i h
  else if o = 0x23 then sqrtRun s c i h
  else if o = 0x24 then cvtRun s c i h
  else if o = 0x25 then tabPlain s c i h
  else if o = 0x26 then (if op = 1 then tabProduct s c i h else tabPlain s c i h)
  else if o = 0x27 then (if redRows h.w then redRowRun s c i h else redRun s c i h)
  else if o = 0x28 then topkRun s c i h
  else if o = 0x29 then (if op = 1 then rngUniformRun s c i h else if op = 2 then rngThresholdRun s c i h else rngIntRun s c i h)
  else if o = 0x2A then scaleRun s c i h
  else moveRun s c i h

/-- Tries the held instructions `later` of logical core i after those in `before`, and runs the first that may. -/
def State.resumeGo (c i : Nat) : List Held → List Held → State → State × Bool
  | _, [], s => (s, false)
  | before, h :: later, s =>
    let q := s.attempt c i before h runHeld
    if q.2 then
      (match q.1.lcore i with
        | some y => (q.1.setLcore i (some { y with held := y.held.erase h })).settled c i
        | none => q.1, true)
    else State.resumeGo c i (before ++ [h]) later q.1

/-- Runs the first held instruction of logical core i that its tokens and checks allow. -/
def State.resume (s : State) (c i : Nat) : State × Bool :=
  match s.lcore i with
  | none => (s, false)
  | some x => State.resumeGo c i [] x.held s

/-- The logical cores resident on a core, that which gave way first (R175). -/
def State.residents (s : State) (c : Nat) : List Nat :=
  [(s.core c).res (1 - (s.core c).issuing), (s.core c).res (s.core c).issuing].filterMap id

/-- Meaning of TOKEN_WAIT_END (R160): the first access that its tokens allow proceeds. -/
def execTokenWaitEnd (c : Nat) (s : State) : Host.Outcome State Fault Refusal :=
  onUnit (decide (c < 1152))
    (((s.residents c).foldl (fun (p : State × Bool) i => if p.2 then p else p.1.resume c i) (s, false)).1)

/-- The first entry of logical core i whose new copy is at hand, with the bytes fetched for it. -/
def LCore.refetched (x : LCore) : Option (Prefetch × Sparse Byte) :=
  x.prefetches.findSome? (fun p =>
    if !p.refetching then none
    else if p.tier = 1 ∨ p.tier = 2 then some (p, [])
    else
      match x.fetches.find? (fun f => f.held = p.held && f.asks = []) with
      | some f => some (p, f.bytes)
      | none => none)

/-- A refetched copy lands: nothing is counted or hashed, and the entry retires (R254). -/
def State.landRefetch (s : State) (i : Nat) (x : LCore) (p : Prefetch) (bytes : Sparse Byte) : State :=
  let y := x.asSent p.held
  let d := y.desc p.held.w 110
  let sd := y.desc p.held.w 100
  let es := (upto d.rows).flatMap (fun r => s.moveRow y p.held bytes d r sd r)
  let t := s.putTier .other i 0 (d.byteWrites es)
  match t.lcore i with
  | none => t
  | some z =>
    t.setLcore i (some { z with prefetches := x.prefetches.erase p, fetches := z.fetches.filter (fun f => f.held ≠ p.held) })

/-- The first granule that a refetch reads here and that is lost (R278). -/
def State.refetchLost (s : State) (x : LCore) (p : Prefetch) : Option Nat :=
  let sd := p.held.source x
  (s.heldGranules (x.asSent p.held) sd (upto sd.rows)).find? s.lostAt

/-- Meaning of PREFETCH_REFETCH_DONE (R254): the copy lands and the read that waits for it proceeds. -/
def execPrefetchRefetchDone (c : Nat) (s : State) : Host.Outcome State Fault Refusal :=
  onUnit (decide (c < 1152))
    (((s.residents c).foldl (fun (p : State × Bool) i =>
      if p.2 then p
      else
        match p.1.lcore i with
        | none => p
        | some x =>
          match x.refetched with
          | none => p
          | some (e, bytes) =>
            match p.1.refetchLost x e with
            | some a => (p.1.lostRead c i x e.held a, true)
            | none => ((((p.1.landRefetch i x e bytes).loadNow c i).resume c i).1, true)) (s, false)).1)

end Sys2Proof.Machine
end

