-- ==== Sys2Proof/Machine/Store.lean ====
section
/-! DEFINITION. The synchronisation store: homes and entries, semaphore requests at their home, and the messages that wait
for a core's writes (R23, R246, R309 to R311, R321 to R327, R651). -/

namespace Sys2Proof.Machine

/-! ## The mesh and the entries -/

/-- Hops between two pods' routers. -/
def hops (a b : Nat) : Nat := (a / 8 - b / 8) + (b / 8 - a / 8) + ((a % 8 - b % 8) + (b % 8 - a % 8))

/-- The router input on which a message from pod a reaches pod b: a column first, then a row (R23, R651). -/
def meshInput (a b : Nat) : Nat :=
  if a % 8 < b % 8 then 21 else if b % 8 < a % 8 then 19 else if a < b then 18 else 20

/-- The input on which a message of physical core c reaches the router of pod b. -/
def coreInput (c b : Nat) : Nat := if c / 18 = b then c % 18 else meshInput (c / 18) b

/-- The pods in the order in which the placer tries them for a home (R309). -/
def nearPods (home : Nat) : List Nat := (upto 15).flatMap (fun d => (upto 64).filter (fun p => hops home p = d))

/-- The lowest number below `cap` that is not taken. -/
def freeNumber (cap : Nat) (taken : List Nat) : Option Nat := (upto cap).find? (fun n => !(taken.contains n))

/-- The entry for an identifier whose home is in pod `home`, given the entries already taken (R309, R311). -/
def placeEntry (cap home : Nat) (taken : List (Nat × Nat)) : Option (Nat × Nat) :=
  (nearPods home).findSome? (fun p =>
    match freeNumber cap ((taken.filter (fun t => t.1 = p)).map (fun t => t.2)) with
    | some n => some (p, n)
    | none => none)

/-- Translates identifiers, given with their rank and home pod, one after another. -/
def translate (sem : Bool) : List (Nat × Nat × Nat) → List (Nat × Nat) → List HomeEntry
  | [], _ => []
  | (r, id, home) :: t, taken =>
    match placeEntry (if sem then 256 else 64) home taken with
    | some e => { sem := sem, r := r, id := id, pod := e.1, entry := some e.2, away := decide (e.1 ≠ home) } :: translate sem t (e :: taken)
    | none => { sem := sem, r := r, id := id, pod := home, entry := none } :: translate sem t taken

/-- Entries that the jobs of other contexts hold. -/
def State.takenEntries (s : State) (k : Nat) (sem : Bool) : List (Nat × Nat) :=
  s.jobs.flatMap (fun p =>
    match p.2 with
    | some j => if p.1 = k then [] else j.homes.filterMap (fun h =>
        match h.entry with
        | some n => if h.sem = sem then some (h.pod, n) else none
        | none => none)
    | none => [])

/-- The entries of a job of context k: ranks ascending, then identifiers ascending. `homes` is the image's section (R513)
and `podOf r p` the physical pod of logical pod p of held rank r. -/
def State.homeEntries (s : State) (k : Nat) (held : List Nat) (homes : List (Nat × Nat × Nat)) (podOf : Nat → Nat → Nat) :
    List HomeEntry :=
  let core := fun (kind id : Nat) =>
    match homes.find? (fun h => h.1 = kind && h.2.1 = id) with
    | some h => h.2.2
    | none => 0
  let ids := fun (kind n : Nat) => held.flatMap (fun r => (upto n).map (fun id => (r, id, podOf r (core kind id / 16))))
  translate false (ids 0 256) (s.takenEntries k false) ++ translate true (ids 1 1024) (s.takenEntries k true)

def Job.home (j : Job) (sem : Bool) (r id : Nat) : Option HomeEntry :=
  j.homes.find? (fun h => h.sem = sem && h.r = r && h.id = id)

/-- Pod of the home of a semaphore, and the number of its entry; a backing entry counts as number 0 (log 34). -/
def State.semHome (s : State) (k r q : Nat) : Nat × Nat :=
  match s.job k with
  | none => (0, 0)
  | some j =>
    match j.home true r q with
    | some h => (h.pod, h.entry.getD 0)
    | none => (0, 0)

/-! ## Semaphores at their home -/

/-- A request arrives at the home of semaphore q (R327). -/
def State.semArrive (s : State) (k r q : Nat) (ask : SemAsk) (n input : Nat) : State :=
  let e := s.sem (skey k r q)
  s.setSem (skey k r q) { e with requests := e.requests ++ [{ ask := ask, k := n, cycle := s.now, input := input }] }

/-- The input on which a logical core's request reaches the home of semaphore q. -/
def State.semInput (s : State) (i k r q : Nat) : Nat :=
  match s.physOf i with
  | some c => coreInput c (s.semHome k r q).1
  | none => 23

/-- Serves the waiters in order while the first of them can be served (R324): those served, the rest, the value left. -/
def serveGo : List (Taker × Nat) → Nat → List Taker × List (Taker × Nat) × Nat
  | [], v => ([], [], v)
  | (t, n) :: rest, v =>
    if n ≤ v then
      let g := serveGo rest (v - n)
      (t :: g.1, g.2.1, g.2.2)
    else ([], (t, n) :: rest, v)

/-- The grant that goes to a taker. -/
def Taker.grant (k r q : Nat) : Taker → Flight
  | .core l => .grant k r l q
  | .reduction g => .granted k r g

/-- Serves the waiters of semaphore q. -/
def State.serveSem (s : State) (k r q : Nat) : State :=
  let e := s.sem (skey k r q)
  let g := serveGo e.waiters e.value
  { s.setSem (skey k r q) { e with waiters := g.2.1, value := g.2.2 } with flights := s.flights ++ g.1.map (Taker.grant k r q) }

/-- The home applies one request (R323 to R325). A core whose SWAIT cannot be served gives way (R173). -/
def State.applySem (s : State) (k r q : Nat) (a : SemReq) : State :=
  let e := s.sem (skey k r q)
  match a.ask with
  | .signal =>
    let t := if 2 ^ 32 ≤ e.value + a.k then s.bump (ctxObj k 0x21) 0x04 1 else s
    (t.setSem (skey k r q) { e with value := min (2 ^ 32 - 1) (e.value + a.k) }).serveSem k r q
  | .take w =>
    let t := (s.setSem (skey k r q) { e with waiters := e.waiters ++ [(w, a.k)] }).serveSem k r q
    match w with
    | .core l =>
      if (t.sem (skey k r q)).waiters.any (fun x => x.1 = .core l) then
        (match t.physOf (lkey k r l) with
        | some c => t.reschedule c
        | none => t)
      else t
    | .reduction _ => t
  | .dec l at_ =>
    if a.k ≤ e.value then s.setSem (skey k r q) { e with value := e.value - a.k }
    else s.mistakeOf (lkey k r l) at_ 0x44 0x50 q

/-- Order of router inputs from the pointer on (R327). -/
def inputRank (e : Nat) (a : SemReq) : Nat := (a.input + 24 - (a.cycle + e) % 24) % 24

/-- Of two requests, the one that is applied first: the earlier cycle, then the input order. -/
def SemReq.earlier (e : Nat) (a b : SemReq) : SemReq :=
  if b.cycle < a.cycle ∨ (b.cycle = a.cycle ∧ inputRank e b < inputRank e a) then b else a

/-- The request that the home applies next. -/
def nextRequest (e : Nat) : List SemReq → Option SemReq
  | [] => none
  | a :: t => some (t.foldl (SemReq.earlier e) a)

/-- The home applies its next request, in the first cycle in which it may (R327). -/
def State.semStep (s : State) (k r q : Nat) : State :=
  match nextRequest (s.semHome k r q).2 (s.sem (skey k r q)).requests with
  | none => s
  | some a =>
    let t := s.untilCycle (s.sem (skey k r q)).free
    let e := t.sem (skey k r q)
    (t.setSem (skey k r q) { e with requests := e.requests.erase a, free := t.now + 1 }).applySem k r q a

/-! ## Messages that wait for writes (R246, R321) -/

/-- Instructions that a core has sent and that may still write: all but prefetches, which write its own SRAM. -/
def LCore.openWrites (x : LCore) : List Held :=
  (x.held ++ x.fetches.map (fun f => f.held) ++ x.mq.filterMap (fun m =>
    match m with
    | .out h _ _ => some h
    | .pass _ _ _ _ _ => none
    | .swap _ => none
    | .load _ => none)).filter (fun h => opcode h.w ≠ 0x33)

/-- Signals rank r's semaphore: at its home here, or by a packet of type 0x2A to its device (R323). -/
def State.signalRank (s : State) (k : Nat) (j : Job) (i r q n : Nat) : State :=
  if j.held.contains r then s.semArrive k r q .signal n (s.semInput i k r q)
  else (s.ask 0x2A (j.physical r) k q (BitVec.ofNat 64 n) (leBytes 4 r) true .other).1

/-- Sends one waiting message of logical core i. -/
def State.sendSync (s : State) (i : Nat) (x : LCore) (m : SyncOut) : State :=
  match m with
  | .arrive b sense at_ _ => { s with flights := s.flights ++ [.arrive x.k x.r x.l b sense at_] }
  | .signal q n targets _ =>
    match s.job x.k with
    | none => s
    | some j => targets.foldl (fun (t : State) r => t.signalRank x.k j i r q n) s

/-- The instructions that a message waits for. -/
def SyncOut.after : SyncOut → List Held
  | .arrive _ _ _ a => a
  | .signal _ _ _ a => a

/-- Sends, in order, the messages of logical core i whose earlier writes are complete. -/
def State.flushGo (i : Nat) : List SyncOut → State → State
  | [], s => s
  | m :: t, s =>
    match s.lcore i with
    | none => s
    | some x =>
      if 0 < x.unacked || (m.after.any (fun h => x.openWrites.contains h)) then s
      else State.flushGo i t ((s.setLcore i (some { x with syncOut := t })).sendSync i x m)

def State.flushSync (s : State) (i : Nat) : State :=
  match s.lcore i with
  | none => s
  | some x => State.flushGo i x.syncOut s

/-- Notes a message behind those that wait, and sends what may go. -/
def State.postSync (s : State) (i : Nat) (m : SyncOut) : State :=
  match s.lcore i with
  | none => s
  | some x => (s.setLcore i (some { x with syncOut := x.syncOut ++ [m] })).flushSync i

/-- Sends the waiting messages of every logical core of context k's job that may go. -/
def State.flushAll (s : State) (k : Nat) : State :=
  s.lcores.foldl (fun (t : State) p =>
    match p.2 with
    | some x => if x.k = k && !x.syncOut.isEmpty then t.flushSync p.1 else t
    | none => t) s

end Sys2Proof.Machine
end

