-- ==== Sys2Proof/Machine/Tree.lean ====
section
/-! DEFINITION. The fixed trees of a shard: positions, nodes, sites, operands on their way to the root (R388 to R396, R412,
R416 to R418, R421). -/

namespace Sys2Proof.Machine

/-! ## Positions -/

/-- A position of the tree in one step (R392): the rank that holds its value, whether it is present, and the step of origin
of an appended contribution. -/
structure Pos where
  rank : Nat
  present : Bool
  origin : Option DWord
  deriving DecidableEq, Repr

def Job.group (j : Job) (g : Nat) : Option Group := j.groups.find? (fun x => x.group = g)

/-- The ranks of a group's members, by position (R388). -/
def Job.membersOf (j : Job) (g : Group) : List Nat := groupRanks j.shape j.ranks g.unit g.span

/-- The positions of a step, given the entries of its decision (R415, R417, R459). -/
def Job.positions (j : Job) (g : Group) (es : List DecisionEntry) : List Pos :=
  ((j.membersOf g).zipIdx).map (fun m =>
    match es.find? (fun e => e.position = m.2 && (e.kind = 1 || e.kind = 2 || e.kind = 3)) with
    | none => { rank := m.1, present := true, origin := none }
    | some e => if e.kind = 1 then { rank := e.backup, present := true, origin := none } else { rank := m.1, present := false, origin := none }) ++
  (es.filter (fun e => e.kind = 4)).map (fun e => { rank := e.rank, present := true, origin := some e.step })

/-- Node (k, i) covers a present position. -/
def nodePresent (ps : List Pos) (k i : Nat) : Bool := ((ps.drop (i * 2 ^ k)).take (2 ^ k)).any (fun p => p.present)

/-- The lowest present position that node (k, i) covers. -/
def nodeLowest (ps : List Pos) (k i : Nat) : Nat :=
  match ((ps.drop (i * 2 ^ k)).take (2 ^ k)).findIdx? (fun p => p.present) with
  | some n => i * 2 ^ k + n
  | none => i * 2 ^ k

/-- Node (k, i) covers one present position alone: its value has passed no addition (R395). -/
def nodeSingle (ps : List Pos) (k i : Nat) : Bool := (((ps.drop (i * 2 ^ k)).take (2 ^ k)).filter (fun p => p.present)).length = 1

/-- The position whose device is the site of node (k, i): of its left child in the first tree, of its right child in the
second; a pass-through node stands where its child does (R394, R412). -/
def nodeSite (ps : List Pos) (second : Bool) : Nat → Nat → Nat
  | 0, i => i
  | k + 1, i =>
    if nodePresent ps k (2 * i) && nodePresent ps k (2 * i + 1) then
      nodeLowest ps k (2 * i + if second then 1 else 0)
    else if nodePresent ps k (2 * i) then nodeSite ps second k (2 * i)
    else nodeSite ps second k (2 * i + 1)

/-- Height of the root (R392). -/
def treeHeight (ps : List Pos) : Nat := ceilLog2 ps.length

/-! ## Contributions -/

/-- Bytes of an element in the contribution format. -/
def Shard.esize (d : Shard) : Nat := if d.cfmt = 2 then 2 else 4

/-- The encoding of each element of the contribution of rank r, in the contribution format (R388). -/
def State.contribution (s : State) (k r : Nat) (d : Shard) : List Word :=
  (upto d.elements).map (fun i => BitVec.ofNat 32 (readNat (s.rdDev k r) (d.contribution + d.esize * i) d.esize))

/-- Widens an element of the contribution format to binary32 (R390). -/
def Shard.widen (d : Shard) (w : Word) : Word := if d.cfmt = 2 then w <<< 16 else w

/-- The elements that position p brings, in the contribution format. -/
def State.posValues (s : State) (k : Nat) (j : Job) (d : Shard) (p : Pos) : List Word :=
  match p.origin with
  | none => s.contribution k p.rank d
  | some u =>
    match j.holdData.find? (fun h => h.1 = d.shard && h.2.1 = u && h.2.2.1 = p.rank) with
    | some h => h.2.2.2
    | none => s.contribution k p.rank d

/-- A shard is sampled in a step (R412). -/
def sampled (seed step : DWord) (shard : Nat) : Bool :=
  (shard + (41 * step.toNat + (mix seed).toNat % 64) % 64) % 64 = 0

/-! ## Operands -/

/-- Runs of values with consecutive indices, each at most n long. -/
def valRuns (n : Nat) : List (Nat × Word) → List (Nat × List Word)
  | [] => []
  | (i, w) :: t =>
    match valRuns n t with
    | (b, ws) :: r => if b = i + 1 && ws.length < n then (i, w :: ws) :: r else (i, [w]) :: (b, ws) :: r
    | [] => [(i, [w])]

/-- The argument of an operand packet (R421). -/
def operandArg (step : DWord) (level shard : Nat) : DWord :=
  BitVec.ofNat 64 (step.toNat % 2 ^ 24 * 2 ^ 40 + level % 256 * 2 ^ 32 + shard % 2 ^ 32)

/-- Sends operands of a node to a device: binary32, or bfloat16 while no addition has been made (R395). -/
def State.sendOperand (s : State) (k t : Nat) (dest : Half) (d : Shard) (step : DWord) (level : Nat) (narrow : Bool)
    (vals : List (Nat × Word)) : State :=
  (valRuns (if narrow then 1008 else 504) vals).foldl (fun (u : State) r =>
    (u.ask t dest k (r.1 * if narrow then 2 else 4) (operandArg step level d.shard)
      (r.2.flatMap (fun (w : Word) => if narrow then leBytes 2 (w.toNat / 65536) else leBytes 4 w.toNat)) true .other).1) s

/-- The element values of an operand packet, widened. -/
def operandValues (p : Packet) (narrow : Bool) : List (Nat × Word) :=
  let n := if narrow then 2 else 4
  (upto (p.data.length / n)).map (fun i =>
    (p.addr.toNat / n + i, (BitVec.ofNat 32 (field p.data (n * i) n) : Word) <<< (if narrow then 16 else 0)))

/-- Adds values to those that wait for the same node. -/
def Job.stash (j : Job) (v : NodeVal) : Job :=
  let same := fun (n : NodeVal) => n.second = v.second && n.shard = v.shard && n.step = v.step && n.level = v.level && n.node = v.node
  if j.nodes.any same then
    { j with nodes := j.nodes.map (fun n => if same n then { n with values := n.values ++ v.values } else n) }
  else { j with nodes := j.nodes ++ [v] }

/-- The values that wait for node (level, node), and the job without those of the indices that `mine` holds. -/
def Job.partner (j : Job) (second : Bool) (shard : Nat) (step : DWord) (level node : Nat) (mine : List (Nat × Word)) :
    List (Nat × Word) × Job :=
  let same := fun (n : NodeVal) => n.second = second && n.shard = shard && n.step = step && n.level = level && n.node = node
  match j.nodes.find? same with
  | none => ([], j)
  | some n =>
    let hit := n.values.filter (fun v => mine.any (fun m => m.1 = v.1))
    let rest := n.values.filter (fun v => !(mine.any (fun m => m.1 = v.1)))
    (hit, { j with nodes := if rest = [] then j.nodes.filter (fun m => !(same m)) else j.nodes.map (fun m => if same m then { m with values := rest } else m) })

/-- The value for an index. -/
def valAt (vs : List (Nat × Word)) (i : Nat) : Word :=
  match vs.find? (fun v => v.1 = i) with
  | some v => v.2
  | none => 0

/-- A root operand reaches the owner: it is kept when the owner is here, and sent otherwise (R394). -/
def State.rootSend (s : State) (k : Nat) (j : Job) (d : Shard) (second : Bool) (step : DWord) (right narrow : Bool)
    (vals : List (Nat × Word)) : State :=
  if j.held.contains d.owner then
    s.setJob k (some (j.stash { second := second, shard := d.shard, step := step, level := 0xFF, node := if right then 1 else 0, values := vals }))
  else s.sendOperand k 0x21 (j.physical d.owner) d step (if right then 0xFE else 0xFF) narrow vals

/-- The value of node (level, i) goes on toward the root from this device (R393, R394). `n` bounds the levels. -/
def State.rise (k : Nat) (d : Shard) (second : Bool) (step : DWord) (ps : List Pos) : Nat → Nat → Nat → List (Nat × Word) → State → State
  | 0, _, _, _, s => s
  | n + 1, level, i, vals, s =>
    match s.job k with
    | none => s
    | some j =>
      let narrow := d.cfmt = 2 && nodeSingle ps level i
      if treeHeight ps ≤ level + 1 then
        s.rootSend k j d second step (i = 1 && level + 1 = treeHeight ps) narrow vals
      else if !(nodePresent ps level (if i % 2 = 0 then i + 1 else i - 1)) then
        State.rise k d second step ps n (level + 1) (i / 2) vals s
      else
        let site := (ps.getD (nodeSite ps second (level + 1) (i / 2)) { rank := 0, present := false, origin := none }).rank
        if j.held.contains site then
          let sib := if i % 2 = 0 then i + 1 else i - 1
          let q := j.partner second d.shard step level sib vals
          let done := (vals.filter (fun v => q.1.any (fun w => w.1 = v.1))).map (fun v =>
            (v.1, if i % 2 = 0 then add32 v.2 (valAt q.1 v.1) else add32 (valAt q.1 v.1) v.2))
          let rest := vals.filter (fun v => !(q.1.any (fun w => w.1 = v.1)))
          let j1 := if rest = [] then q.2 else q.2.stash { second := second, shard := d.shard, step := step, level := level, node := i, values := rest }
          let t := s.setJob k (some j1)
          if done = [] then t else State.rise k d second step ps n (level + 1) (i / 2) done t
        else s.sendOperand k (if second then 0x27 else 0x20) (j.physical site) d step level narrow vals

/-- A bound on the levels of a tree. -/
def riseFuel : Nat := 32

/-- The step that an operand packet names by its low 24 bits, at or after step `from_` (R421). -/
def fullStep (from_ : DWord) (low : Nat) : DWord := from_ + BitVec.ofNat 64 ((low + 2 ^ 24 - from_.toNat % 2 ^ 24) % 2 ^ 24)

/-- A step that no operand still on its way comes before. -/
def Job.earliest (j : Job) : DWord := j.bound - BitVec.ofNat 64 (min j.bound.toNat 64)

/-- The entries of the decision for a step, when this device has it. -/
def Group.decision (g : Group) (step : DWord) : Option (List DecisionEntry) :=
  match g.decisions.find? (fun d => d.1 = step) with
  | some d => some d.2
  | none => none

/-- An operand packet at a site whose decision is known: `node` names the operand's node (R394). A root operand is kept at
the owner. -/
def State.operand (s : State) (k : Nat) (p : Packet) (node : Nat) (second : Bool) : State :=
  match s.job k with
  | none => s
  | some j =>
    match j.shards.find? (fun d => d.shard = bits p.arg 31 0) with
    | none => s
    | some d =>
      match j.group d.group with
      | none => s
      | some g =>
        let step := fullStep j.earliest (bits p.arg 63 40)
        let level := bits p.arg 39 32
        match g.decision step with
        | none => s.setJob k (some { j with undecided := j.undecided ++ [(p, node, second)] })
        | some es =>
          let ps := j.positions g es
          let h := treeHeight ps
          if p.ptype = 0x21 then
            let right := level = 0xFE
            let narrow := d.cfmt = 2 && (if h = 0 then nodeSingle ps 0 0 else nodeSingle ps (h - 1) (if right then 1 else 0))
            s.rootSend k j d second step right narrow (operandValues p narrow)
          else
            State.rise k d second step ps riseFuel level node (operandValues p (d.cfmt = 2 && nodeSingle ps level node)) s

/-- Adds to the contribution and owner digests of a rank in a step (R497). -/
def Job.addDigest (j : Job) (step : DWord) (r : Nat) (c o : DWord) : Job :=
  if j.rankDigests.any (fun x => x.1 = step && x.2.1 = r) then
    { j with rankDigests := j.rankDigests.map (fun x =>
        if x.1 = step && x.2.1 = r then (step, r, x.2.2.1 + c, x.2.2.2 + o) else x) }
  else { j with rankDigests := j.rankDigests ++ [(step, r, c, o)] }

/-- The values of the positions at this device start on their way (R394, R416, R497). -/
def State.startLeaf (s : State) (k : Nat) (d : Shard) (step : DWord) (ps : List Pos) (n : Nat) (p : Pos) (second : Bool) : State :=
  match s.job k with
  | none => s
  | some j =>
    if !p.present || !(j.held.contains p.rank) then s
    else
      let raw := s.posValues k j d p
      let sum := (raw.zipIdx).foldl (fun (h : DWord) v => h + tapHash d.shard (BitVec.ofNat 64 v.2) (v.1.setWidth 64)) 0
      let t := if second || j.replicas = 0 then s else s.setJob k (some (j.addDigest step p.rank sum 0))
      State.rise k d second step ps riseFuel 0 n ((raw.zipIdx).map (fun v => (v.2, d.widen v.1))) t

/-- Copies the contributions of rank r in step v into the hold area (R417). -/
def State.holdContributions (s : State) (k g r : Nat) (v : DWord) : State :=
  match s.job k with
  | none => s
  | some j =>
    let new := (j.shards.filter (fun d => d.group = g && !(j.holdData.any (fun h => h.1 = d.shard && h.2.1 = v && h.2.2.1 = r)))).map
      (fun d => (d.shard, v, r, s.contribution k r d))
    s.setJob k (some { j with holdData := j.holdData ++ new })

/-- This device has the decision of group g for a step: contributions under delay are copied, the values of its positions
start, and the operands that waited go on (R416, R417). -/
def State.decided (s : State) (k gn : Nat) (step : DWord) (es : List DecisionEntry) : State :=
  match s.job k with
  | none => s
  | some j =>
    match j.group gn with
    | none => s
    | some g =>
      if (g.decision step).isSome then s
      else
        let groups := j.groups.map (fun x => if x.group = gn then { x with decisions := x.decisions ++ [(step, es)] } else x)
        let mine := j.undecided.filter (fun u => fullStep j.earliest (bits u.1.arg 63 40) = step && j.shards.any (fun d => d.shard = bits u.1.arg 31 0 && d.group = gn))
        let t := s.setJob k (some { j with groups := groups, undecided := j.undecided.filter (fun u => !(mine.contains u)) })
        let late := (es.filter (fun e => e.kind = 2 && g.takes.any (fun x => x.1 = e.rank && step.toNat < x.2.toNat))).map (fun e => e.rank)
        let t := late.foldl (fun (u : State) r => u.holdContributions k gn r step) t
        let ps := j.positions g es
        let t := (j.shards.filter (fun d => d.group = gn)).foldl (fun (u : State) d =>
          ((ps.zipIdx).foldl (fun (v : State) p =>
            let w := v.startLeaf k d step ps p.2 p.1 false
            if sampled (s.seedOf k) step d.shard then w.startLeaf k d step ps p.2 p.1 true else w) u)) t
        mine.foldl (fun (u : State) m => u.operand k m.1 m.2.1 m.2.2) t

end Sys2Proof.Machine
end

