-- ==== Sys2Proof/Machine/Lead.lean ====
section
/-! DEFINITION. The lead device of a job: the ledger, the sums of watches and taps, scale updates, commit ticks and the
job's end (R406, R432 to R440, R456 to R463, R470 to R472, R523, R524). -/

namespace Sys2Proof.Machine

/-! ## The ledger (R456 to R463) -/

/-- Zero bytes up to the next multiple of n. -/
def padTo (n : Nat) (bs : List Byte) : List Byte := bs ++ List.replicate ((n - bs.length % n) % n) 0

/-- A record with its header (R457): bit 0 of the flags marks the kinds that a replay applies. -/
def recordBytes (kind : Nat) (step : DWord) (seq : Nat) (body : List Byte) : List Byte :=
  let b := padTo 8 body
  let head := fun (digest : DWord) =>
    leBytes 2 kind ++ leBytes 2 (if 0x10 ≤ kind then 1 else 0) ++ leBytes 4 (32 + b.length) ++ leBytes 8 step.toNat ++
      leBytes 8 seq ++ leBytes 8 digest.toNat
  head (crc64 (head 0 ++ b)) ++ b

/-- Reads records one after another: type, step and body. -/
def parseRecords : Nat → List Byte → List (Nat × DWord × List Byte)
  | 0, _ => []
  | n + 1, bs =>
    let len := field bs 4 4
    if bs.length < 32 ∨ len < 32 then []
    else (field bs 0 2, BitVec.ofNat 64 (field bs 8 8), (bs.drop 32).take (len - 32)) :: parseRecords n (bs.drop len)

/-- The replayed records that this device has (R463). -/
def Job.replayed (j : Job) : List (Nat × DWord × List Byte) := parseRecords (j.input.length / 32 + 1) j.input

/-- Leads of the replicas 1 to D − 1 that are in the job (R495, R496, R499). -/
def Job.otherLeads (j : Job) : List Half :=
  ((upto j.replicas).filter (fun d => d ≠ 0 && !(j.left.contains d))).map (fun d => j.replicaMap.getD (d * j.ranks) 0)

/-- Enters a record: the lead keeps it for the commit of its step, and another device sends it to the lead (R456). The job
lead of a shielded job sends what the replicas apply to their leads (R495); a decision without entries is sent only. -/
def State.record (s : State) (k kind : Nat) (step : DWord) (body : List Byte) : State :=
  match s.job k with
  | none => s
  | some j =>
    if j.lead then
      let t := if j.replica = 0 && 0x10 ≤ kind && kind ≤ 0x12 then
          j.otherLeads.foldl (fun (u : State) c => u.control k j.tag c 0x05 (recordBytes kind step 0 body)) s
        else s
      if kind = 0x10 && field body 4 4 = 0 then t
      else t.setJob k (some { j with ledger := j.ledger ++ [(kind, field body 0 4, step, body)] })
    else s.control k j.tag j.leadCoord 0x05 (recordBytes kind step 0 body)

/-- Ascending order of type and then of the first key field (R456); equal records stay in order. -/
def insertRecord (r : Nat × Nat × DWord × List Byte) : List (Nat × Nat × DWord × List Byte) → List (Nat × Nat × DWord × List Byte)
  | [] => [r]
  | q :: t => if r.1 < q.1 ∨ (r.1 = q.1 ∧ r.2.1 < q.2.1) then r :: q :: t else q :: insertRecord r t

def sortRecords (l : List (Nat × Nat × DWord × List Byte)) : List (Nat × Nat × DWord × List Byte) :=
  l.foldl (fun acc r => insertRecord r acc) []

/-- Bytes that records take in the sink. -/
def recordsSize (l : List (Nat × Nat × DWord × List Byte)) : Nat :=
  l.foldl (fun n r => n + 32 + (padTo 8 r.2.2.2).length) 0

/-- Body of the commit record (R458), without the digest's value. -/
def commitBody (tick digest : DWord) (shards : Nat) : List Byte :=
  leBytes 8 tick.toNat ++ leBytes 8 digest.toNat ++ leBytes 4 shards ++ leBytes 4 0

/-- The expulsion records of step v that a replay's input holds: a replay copies them into its own ledger (R463, R502). -/
def Job.copiedExpulsions (j : Job) (v : DWord) : List (Nat × Nat × DWord × List Byte) :=
  if j.replay then
    (j.replayed.filter (fun r => r.1 = 0x13 && r.2.1 = v)).map (fun r => (0x13, field r.2.2 0 4, v, r.2.2))
  else []

/-- The records that the commit of step v writes: those of earlier times and of step v. -/
def Job.recordsOf (j : Job) (v : DWord) : List (Nat × Nat × DWord × List Byte) :=
  j.ledger.filter (fun r => r.2.2.1.toNat ≤ v.toNat || r.1 ≤ 3) ++ j.copiedExpulsions v

/-- The sink has room for the records of step v, its commit record included (R461). -/
def State.sinkRoom (s : State) (k : Nat) (j : Job) (v : DWord) : Bool :=
  j.sink.2 = 0 ||
    s.reg64 (ctxObj k 0x24) 0x04 + (s.host.tail.filter (fun w => w.1 = k)).foldl (fun n w => n + w.2.length) 0 +
      recordsSize (j.recordsOf v) + 56 ≤ s.reg64 (ctxObj k 0x24) 0x06 + j.sink.2

/-- Posts bytes at total `t` of a ring of host memory (R462). -/
def ringWrites (base len t : Nat) (bs : List Byte) : List (Nat × List Byte) :=
  let first := min bs.length (len - t % len)
  [(base + t % len, bs.take first)] ++ (if first = bs.length then [] else [(base, bs.drop first)])

/-- Posts one record to a sink of context k; its written total advances, which signals vector 2 (R462, R630). -/
def State.post (s : State) (k base len : Nat) (bs : List Byte) : State :=
  let o := ctxObj k 0x24
  let ws := ringWrites base len (s.reg64 o 0x04) bs
  (((s.hostWrites k ws).bump64 o 0x04 bs.length).bump o 0x0B 1).msix k 2

/-- The sink that context k's records go to: that of its job, or the ledger object's when it has none (R462). -/
def State.sinkOf (s : State) (k : Nat) : Nat × Nat :=
  match s.job k with
  | some j => j.sink
  | none => (s.reg64 (ctxObj k 0x24) 0x01, (s.reg (ctxObj k 0x24) 0x03).toNat)

/-- The ledger tail goes to its sinks: each record once the link is up, its function is not in D3hot and its context has
a sink (R576, R580, R632). -/
def State.flushTail (s : State) : State :=
  let ready := fun (w : Nat × List Byte) => s.host.state = 2 && !(s.host.d3.contains w.1) && (s.sinkOf w.1).2 ≠ 0
  (s.host.tail.filter ready).foldl (fun (t : State) w => t.post w.1 (s.sinkOf w.1).1 (s.sinkOf w.1).2 w.2)
    { s with host := { s.host with tail := s.host.tail.filter (fun w => !(ready w)) } }

/-- Writes one record to the sink, or counts it as discarded (R462). It waits in the ledger tail while the host's link is
down or the context's function is in D3hot (R576, R632). -/
def State.writeRecord (s : State) (k : Nat) (j : Job) (seq : Nat) (r : Nat × Nat × DWord × List Byte) : State :=
  let bs := recordBytes r.1 r.2.2.1 seq r.2.2.2
  let o := ctxObj k 0x24
  if j.sink.2 = 0 then s.bump o 0x0C 1
  else
    if s.host.state = 2 && !(s.host.d3.contains k) then s.post k j.sink.1 j.sink.2 bs else { s with host := { s.host with tail := s.host.tail ++ [(k, bs)] } }

/-- Writes records in their order. -/
def State.writeRecords (s : State) (k : Nat) (j : Job) (rs : List (Nat × Nat × DWord × List Byte)) : State :=
  ((sortRecords rs).zipIdx).foldl (fun (t : State) r => t.writeRecord k j (j.ledgerSeq + r.2) r.1) s

/-! ## The scale table (R434, R435) -/

/-- Writes bytes at a local address of rank r: at this device through the rank view, elsewhere by remote writes whose
answers serve the purpose `why`. -/
def State.writeAtRank (s : State) (k : Nat) (j : Job) (r a : Nat) (bs : List Byte) (why : Purpose) : State :=
  if j.held.contains r then
    (runs (s.viewAll k r ((bs.zipIdx).map (fun p => (a + p.2, p.1))))).foldl (fun (t : State) p => t.devWrite p.1 p.2) s
  else
    (writeParts a bs).foldl (fun (t : State) p =>
      (if p.2.1 = 0 then t.askAt r 0x02 (j.physical r) k p.1 0 p.2.2 true why
        else t.askAt r 0x03 (j.physical r) k p.1 (BitVec.ofNat 64 p.2.1) p.2.2 true why).1) s

/-- One bank of the scale table: e and 4 bytes of 0 for each watch (R434). -/
def scaleBank (es : List Int) : List Byte := es.flatMap (fun e => leBytes 4 (BitVec.ofInt 32 e).toNat ++ leBytes 4 0)

/-- Writes a bank at every rank of the job (R435). -/
def State.writeScale (s : State) (k : Nat) (j : Job) (bank : Nat) (es : List Int) : State :=
  (upto j.ranks).foldl (fun (t : State) r => t.writeAtRank k j r (j.scaleTable + 2048 * bank) (scaleBank es) (.scale k)) s

/-- Remote writes of the scale table that have no answer yet. -/
def State.scaleWrites (s : State) (k : Nat) : Bool := s.fabric.purposes.any (fun p => p.2.2 = .scale k)

/-- e for step v + 2 from the counts of step v, the run count after it, and whether the clamp held e (R435). -/
def scaleStep (j : Job) (w : WatchVar) (c : Counts) : Int × Nat × Bool :=
  if c.outputs = 0 then (w.e, w.run, false)
  else if 0 < c.nonFinite ∨ j.satLimit * c.outputs < c.saturated * 65536 then
    (max (w.e - 1) j.eMin, 0, decide (w.e - 1 < j.eMin))
  else if c.saturated = 0 then
    (if j.growth ≤ w.run + 1 then (min (w.e + 1) j.eMax, 0, decide (j.eMax < w.e + 1)) else (w.e, w.run + 1, false))
  else (w.e, 0, false)

/-- The value of e that the replay's ledger gives for a watch and counted step (R436). -/
def Job.ledgerScale (j : Job) (step : DWord) (w : Nat) : Option Int :=
  match j.replayed.find? (fun r => r.1 = 0x11 && r.2.1 = step && field r.2.2 0 4 = w) with
  | some r => some (signed 32 (field r.2.2 8 4))
  | none => none

/-- This device applies the decisions of a ledger instead of making its own (R463, R495). -/
def Job.follows (j : Job) : Bool := j.replay || j.replica ≠ 0

/-- One watch at the boundary after step v (R435, R436). -/
def State.scaleWatch (s : State) (k : Nat) (step : DWord) (n : Nat) (c : Counts) : State :=
  match s.job k with
  | none => s
  | some j =>
    match j.watches[n]? with
    | none => s
    | some w =>
      let q := scaleStep j w c
      let used := if j.follows then (j.ledgerScale step n).getD (if j.replay then w.next else q.1) else q.1
      let t := if q.2.2 then s.alarm (numObj k 0) 0x04 2 else s
      let t := if j.follows && used ≠ q.1 then
          (t.alarm (numObj k 0) 0x04 3).addError 0x0033 0 (unitField 0 0 s.coord.toNat) (BitVec.ofNat 32 (k * 2 ^ 16 + 2 ^ 15)) n step
            (BitVec.ofInt 64 used) (BitVec.ofInt 64 q.1)
        else t
      let t := if used = w.next then t
        else t.record k 0x11 step (leBytes 4 n ++ leBytes 4 (BitVec.ofInt 32 w.next).toNat ++ leBytes 4 (BitVec.ofInt 32 used).toNat ++ leBytes 4 0)
      match t.job k with
      | none => t
      | some j1 => t.setJob k (some { j1 with watches := j1.watches.set n { e := w.next, next := used, run := q.2.1 } })

/-- The scale update after step v: every watch, then the bank v mod 2 of every device (R435). -/
def State.scaleUpdate (s : State) (k : Nat) (step : DWord) (cs : List Counts) : State :=
  let t := (cs.zipIdx).foldl (fun (u : State) c => u.scaleWatch k step c.2 c.1) s
  match t.job k with
  | none => t
  | some j =>
    let t := t.writeScale k j (step.toNat % 2) (j.watches.map (fun w => w.next))
    match t.job k with
    | none => t
    | some j1 => t.setJob k (some { j1 with scaled := some step, scalePending := t.scaleWrites k })

/-! ## Commit (R406, R461) -/

/-- The devices that own shards. -/
def Job.owners (j : Job) : List Half := (j.shards.map (fun d => j.physical d.owner)).eraseDups

/-- The step that commits next. -/
def Job.nextCommit (j : Job) : DWord :=
  match j.committed with
  | some v => v + 1
  | none => j.start

/-- Step v is a comparison step (R496, R500). -/
def Job.comparison (j : Job) (v : DWord) : Bool :=
  j.replicas ≠ 0 && ((v.toNat + 1 - j.start.toNat) % j.interval = 0 || j.forced.contains v)

/-- The pairs of every owner for step v, in ascending shard order. -/
def Job.pairs (j : Job) (v : DWord) : List (Nat × DWord) :=
  let all := (j.reports.filter (fun r => r.1 = v)).flatMap (fun r => r.2.2)
  (sortNat (all.map (fun p => p.1))).filterMap (fun n => all.find? (fun p => p.1 = n))

/-- The step digest of version v + 1 (R458). -/
def Job.digestOf (j : Job) (v : DWord) : DWord := crc64 ((j.pairs v).flatMap (fun p => leBytes 8 p.2.toNat))

/-- Everything that the commit of step v waits for at the lead (R406, R456, R461, R496, R576). -/
def State.commitReady (s : State) (k : Nat) (j : Job) (v : DWord) : Bool :=
  j.lead && j.commit.isNone && decide (v.toNat < j.bound.toNat) &&
    (match j.lastStep with
    | some u => decide (v.toNat ≤ u.toNat)
    | none => !j.ending) &&
    j.owners.all (fun o => j.reports.any (fun r => r.1 = v && r.2.1 = o)) &&
    (j.watches.isEmpty || (match j.scaled with
      | some u => decide (v.toNat ≤ u.toNat)
      | none => false)) &&
    (j.taps.isEmpty || (match j.tapped with
      | some u => decide (v.toNat ≤ u.toNat)
      | none => false)) &&
    (!(j.comparison v) || j.cleared = some v) && s.sinkRoom k j v &&
    decide (s.host.tail.foldl (fun n w => n + w.2.length) 0 ≤ 32768)

/-- The replicas that are in the job (R499). -/
def Job.inJob (j : Job) : List Nat := (upto j.replicas).filter (fun d => !(j.left.contains d))

/-- The digest that replica d reported for step v. -/
def Job.digestBy (j : Job) (d : Nat) (v : DWord) : Option DWord :=
  match j.shieldDigests.find? (fun x => x.1 = d && x.2.1 = v) with
  | some x => some x.2.2
  | none => none

/-- The replicas' digests of step v differ; none while one has not reported. -/
def Job.differs (j : Job) (v : DWord) : Option Bool :=
  let ds := j.inJob.map (fun d => j.digestBy d v)
  if ds.any (fun d => d.isNone) then none else some (ds.any (fun d => d ≠ ds.headD none))

/-- The first step after the last agreed one (R498). -/
def Job.sinceAgreed (j : Job) : DWord :=
  match j.agreed with
  | some u => u + 1
  | none => j.start

/-- Body of an agreement message (R344, subtype 0x0C). -/
def agreementBody (v : DWord) (disagree : Nat) : List Byte := leBytes 8 v.toNat ++ leBytes 4 disagree ++ leBytes 4 0

/-- The job lead reports agreement on step v (R496). -/
def State.agree (s : State) (k : Nat) (v : DWord) : State :=
  match s.job k with
  | none => s
  | some j =>
    j.otherLeads.foldl (fun (t : State) c => t.control k j.tag c 0x0C (agreementBody v 0))
      (s.setJob k (some { j with cleared := some v, disputed := none }))

/-- The lowest-numbered standby that is free (R498): its number and coordinate. -/
def State.freeStandby (s : State) (k : Nat) (j : Job) : Option (Nat × Half) :=
  (upto 8).findSome? (fun n =>
    let w := s.reg (ctxObj k 0x26) (2 + n)
    if bit w 16 && !(j.expelled.any (fun e => e.2 = j.replicas * j.ranks + n)) then some (n, BitVec.ofNat 16 (bits w 15 0)) else none)

/-- Body of a replay order (R344, subtype 0x0F). -/
def orderBody (u w : DWord) (replica : Nat) : List Byte := leBytes 8 u.toNat ++ leBytes 8 w.toNat ++ leBytes 4 replica ++ leBytes 4 0

/-- Notes the digests that a device has reported for a step (R498). -/
def Job.addJudged (j : Job) (src : Half) (step : DWord) (ranks : List (Nat × DWord × DWord)) : Job :=
  { j with judged := j.judged ++
      (ranks.filter (fun r => !(j.judged.any (fun q => q.1 = src && q.2.1 = step && q.2.2.1 = r.1)))).map (fun r => (src, step, r.1, r.2.1, r.2.2)) }

/-- A standby is ordered to replay up to step w, and gets the replayed records of its steps (R498, orders 1 and 2). Without a
free standby nothing can be judged, and the job faults (log 19). -/
def State.orderReplay (s : State) (k : Nat) (v w : DWord) : State :=
  match s.job k with
  | none => s
  | some j =>
    match s.freeStandby k j with
    | none => s.faultJob k 0x09 0x0031 (BitVec.ofNat 32 (s.errors.next - 1))
    | some (n, c) =>
      let j1 : Job := { j with disputed := some (v, some (w, n, c)) }
      let t := s.setJob k (some (j1.addJudged s.coord w (j.digestsIn w)))
      let t := t.controlAll k j 0x0C (agreementBody v 1)
      let t := j.otherLeads.foldl (fun (u : State) d => u.control k j.tag d 0x0C (agreementBody v 1)) t
      let t := t.control k j.tag c 0x0F (orderBody (j.sinceAgreed - 1) w (j.inJob.headD 0))
      ((j.history ++ j.ledger).filter (fun r => 0x10 ≤ r.1 && decide (j.sinceAgreed.toNat ≤ r.2.2.1.toNat) && decide (r.2.2.1.toNat ≤ w.toNat))).foldl
        (fun (u : State) r => u.control k j.tag c 0x05 (recordBytes r.1 r.2.2.1 0 r.2.2.2)) t

/-- The job lead looks for the first step that differs, once every replica has reported every step since the last agreed one
(R498, order 1). -/
def State.findStep (s : State) (k : Nat) : State :=
  match s.job k with
  | none => s
  | some j =>
    match j.disputed with
    | some (v, none) =>
      let steps := (upto (v.toNat + 1 - j.sinceAgreed.toNat)).map (fun i => j.sinceAgreed + BitVec.ofNat 64 i)
      if steps.any (fun n => j.differs n = none) then s
      else
        match steps.find? (fun n => j.differs n = some true) with
        | none => s.agree k v
        | some w => s.orderReplay k v w
    | _ => s

/-- Step v is in dispute: every replica lead reports its digests since the last agreed step (R496, R498). -/
def State.dispute (s : State) (k : Nat) (v : DWord) : State :=
  match s.job k with
  | none => s
  | some j =>
    if j.disputed.isSome then s
    else
      let own := j.digests.filter (fun d => (j.digestBy 0 d.1).isNone)
      let t := s.setJob k (some { j with disputed := some (v, none), forced := j.forced ++ [v], shieldDigests := j.shieldDigests ++ own.map (fun d => (0, d.1, d.2)) })
      (j.otherLeads.foldl (fun (u : State) c => u.control k j.tag c 0x0C (agreementBody v 1)) t).findStep k

/-- The job lead compares the digests of step v when every replica has reported it (R496, R498). -/
def State.compareDigests (s : State) (k : Nat) (v : DWord) : State :=
  match s.job k with
  | none => s
  | some j =>
    if j.disputed.isSome then s.findStep k
    else
      match j.differs v with
      | none => s
      | some false => s.agree k v
      | some true =>
        let zero := (j.digestBy (j.inJob.headD 0) v).getD 0
        let other := (j.inJob.findSome? (fun d => if j.digestBy d v = some zero then none else j.digestBy d v)).getD 0
        ((s.bump (ctxObj k 0x26) 0x11 1).addError 0x0031 0 (unitField 0 0 s.coord.toNat) (BitVec.ofNat 32 (k * 2 ^ 16 + 2 ^ 15))
          (v.toNat % 2 ^ 32) v zero other).dispute k v

/-- The lead of a replica reports its step digest at a comparison step, and those of the steps before one that is in dispute
(R496, R498). -/
def State.reportDigest (s : State) (k : Nat) (j : Job) (v : DWord) : State :=
  if (j.comparison v || j.forced.any (fun u => decide (v.toNat < u.toNat))) && j.cleared ≠ some v && !(j.digests.any (fun d => d.1 = v)) then
    let j1 := { j with digests := j.digests ++ [(v, j.digestOf v)] }
    if j.jobLead = s.coord then
      (s.setJob k (some { j1 with shieldDigests := j.shieldDigests ++ [(j.replica, v, j.digestOf v)] })).compareDigests k v
    else (s.setJob k (some j1)).control k j.tag j.jobLead 0x0B (leBytes 8 v.toNat ++ leBytes 8 (j.digestOf v).toNat)
  else s

/-- The lead chooses the commit tick, the earliest that R406 allows, and sends the notice. -/
def State.tryCommit (s : State) (k : Nat) : State :=
  match s.job k with
  | none => s
  | some j =>
    let v := j.nextCommit
    let s := if j.lead && j.owners.all (fun o => j.reports.any (fun r => r.1 = v && r.2.1 = o)) && decide (v.toNat < j.bound.toNat) then
        s.reportDigest k j v else s
    match s.job k with
    | none => s
    | some j =>
      if s.commitReady k j v then
        let tick := s.clock.tick + 2500
        let t := s.setJob k (some { j with commit := some (tick, v) })
        (s.others j).foldl (fun (u : State) c => (u.ask 0x26 c k 0 v (leBytes 8 tick.toNat) true .other).1) t
      else s

/-- A completion report reaches the lead (R406). -/
def State.reportArrive (s : State) (k : Nat) (step : DWord) (from_ : Half) (pairs : List (Nat × DWord)) : State :=
  match s.job k with
  | none => s
  | some j =>
    if j.reports.any (fun r => r.1 = step && r.2.1 = from_) then s
    else (s.setJob k (some { j with reports := j.reports ++ [(step, from_, pairs)] })).tryCommit k

/-! ## Watches and taps at the lead (R433, R435, R472) -/

def addCounts (a b : List Counts) : List Counts := (a.zip b).map (fun p => countPlus p.1 p.2)

/-- Watch partials of a device for a step; with the last of them the scale update follows (R433, R435). -/
def State.watchArrive (s : State) (k : Nat) (src : Half) (step : DWord) (cs : List Counts) : State :=
  match s.job k with
  | none => s
  | some j =>
    let old := (j.watchGot.find? (fun g => g.1 = step)).getD (step, [], List.replicate j.watches.length Counts.zero)
    if !j.lead || old.2.1.contains src || j.watches.isEmpty then s
    else
      let new := (step, old.2.1 ++ [src], addCounts old.2.2 cs)
      if j.devices.all (fun d => new.2.1.contains d) then
        ((s.setJob k (some { j with watchGot := j.watchGot.filter (fun g => g.1 ≠ step) })).scaleUpdate k step new.2.2).tryCommit k
      else s.setJob k (some { j with watchGot := j.watchGot.filter (fun g => g.1 ≠ step) ++ [new] })

def addSums (a b : List (DWord × DWord)) : List (DWord × DWord) := (a.zip b).map (fun p => (p.1.1 + p.2.1, p.1.2 + p.2.2))

/-- Tap sums of a device for a step; with the last of them one tap record for each tap of the step (R472). -/
def State.tapArrive (s : State) (k : Nat) (src : Half) (step : DWord) (sums : List (DWord × DWord)) : State :=
  match s.job k with
  | none => s
  | some j =>
    let old := (j.tapGot.find? (fun g => g.1 = step)).getD (step, [], List.replicate j.taps.length (0, 0))
    if !j.lead || old.2.1.contains src || j.taps.isEmpty then s
    else
      let new := (step, old.2.1 ++ [src], addSums old.2.2 sums)
      let t := s.setJob k (some { j with tapGot := j.tapGot.filter (fun g => g.1 ≠ step) ++ [new] })
      if j.devices.all (fun d => new.2.1.contains d) then
        let t := ((j.taps.zip new.2.2).zipIdx).foldl (fun (u : State) p =>
          if tapped p.1.1 step then
            u.record k 0x05 step (leBytes 4 p.2 ++ leBytes 4 p.1.1.1 ++ leBytes 8 p.1.2.1.toNat ++ leBytes 8 p.1.2.2.toNat)
          else u) t
        match t.job k with
        | none => t
        | some j1 => (t.setJob k (some { j1 with tapped := some step, tapGot := j1.tapGot.filter (fun g => g.1 ≠ step) })).tryCommit k
      else t

end Sys2Proof.Machine
end

