-- ==== Sys2Proof/Machine/Update.lean ====
section
/-! DEFINITION. The update unit: the optimizer, working copies, digests, ratios and the sample check (R389, R397 to R404,
R409, R413, R437 to R439). -/

namespace Sys2Proof.Machine

/-! ## Arithmetic of one element (R397, R398) -/

/-- The exact product, a NaN operand first (R57). -/
def vmul (a b : Val) : Val :=
  match firstNan [a, b] with
  | some s => .nan s
  | none => mulVal a b

/-- The exact sum, a NaN operand first (R57). -/
def vadd (a b : Val) : Val :=
  match firstNan [a, b] with
  | some s => .nan s
  | none => addVal a b

/-- One conversion to binary32 (R398: rne32). -/
def rne32 (v : Val) : Word := toB32 v.exact

def Val.isFinite : Val → Bool
  | .fin _ _ _ => true
  | _ => false

/-- log2 of u(w) for a finite word w (R397). -/
def ulpLog (w : Word) : Int := if bits w 30 23 = 0 then -149 else (bits w 30 23 : Int) - 150

/-- The exact master value W = w + t × u(w) × 2^−16 (R397). -/
def masterVal (w : Word) (t : Int) : Val :=
  if (b32 w).isFinite && t ≠ 0 then vadd (b32 w) (Val.ofInt t (ulpLog w - 16)) else b32 w

/-- A hyperparameter set (R387). -/
structure Hyper where
  mu : Word
  a1 : Word
  b2 : Word
  a2 : Word
  eps : Word
  lam : Word
  scale : Word
  table : Nat
  first : Nat
  length : Nat
  deriving DecidableEq, Repr

def Hyper.ofBytes (bs : List Byte) : Hyper :=
  let w := fun (o : Nat) => (BitVec.ofNat 32 (field bs o 4) : Word)
  { mu := w 0, a1 := w 4, b2 := w 8, a2 := w 0x0C, eps := w 0x10, lam := w 0x14, scale := w 0x18, table := field bs 0x20 8,
    first := field bs 0x28 4, length := field bs 0x2C 4 }

/-- One element of a shard before and after an update: master word, tail, moments. -/
structure Elem where
  w : Word
  t : Int
  m : Word
  v : Word
  deriving DecidableEq, Repr

/-- The values of a step: η, c1, c2 and d := rne32(η × λ). -/
structure StepVals where
  eta : Word
  c1 : Word
  c2 : Word
  d : Word
  deriving DecidableEq, Repr

/-- The moments and q of R398. -/
def optimize (opt : Nat) (h : Hyper) (x : StepVals) (e : Elem) (g : Word) : Word × Word × Word :=
  if opt = 0 then (e.m, e.v, g)
  else if opt = 1 then
    let m := rne32 (vadd (vmul (b32 h.mu) (b32 e.m)) (b32 g))
    (m, e.v, m)
  else
    let m := rne32 (vadd (vmul (b32 h.mu) (b32 e.m)) (vmul (b32 h.a1) (b32 g)))
    let v := rne32 (vadd (vmul (b32 h.b2) (b32 e.v)) (vmul (vmul (b32 h.a2) (b32 g)) (b32 g)))
    let den := add32 (sqrt32 (mul32 v x.c2)) h.eps
    (m, v, div32 (mul32 m x.c1) den)

/-- t′ of R398: RNE of 2^16 × (W′ − w′) / u(w′), at most 32,767. -/
def tailOf (wp : Val) (w' : Word) : Int :=
  if !(b32 w').isFinite then 0
  else
    let r := vadd wp (b32 w').negate
    let q : Int := (r.exact.digits (ulpLog w' - 16) 0 0 : Nat)
    min (if r.neg then -q else q) 32767

/-- One element's update: the element after it, W′ and W (R398). -/
def updateElem (opt : Nat) (tail : Bool) (h : Hyper) (x : StepVals) (e : Elem) (G : Word) : Elem × Val × Val :=
  let g := mul32 h.scale G
  let o := optimize opt h x e g
  let W := masterVal e.w e.t
  let wp := vadd (vadd W (vmul (b32 x.eta) (b32 o.2.2)).negate) (vmul (b32 x.d) (b32 e.w)).negate
  let w' := rne32 wp
  ({ w := w', t := if tail then tailOf wp w' else 0, m := o.1, v := o.2.1 }, wp, W)

/-! ## The shard's memory (R389) -/

/-- Bytes of one master buffer and of one state buffer. -/
def Shard.masterSize (d : Shard) : Nat := 6 * d.elements
def Shard.stateSize (d : Shard) : Nat := if d.optimizer = 0 then 0 else 4 * d.optimizer * d.elements
/-- Bytes of an element of the working copy. -/
def Shard.copyElem (d : Shard) : Nat := if d.copyFmt = 2 then 2 else 1
/-- Z, the size of a copy slot. -/
def Shard.slotSize (d : Shard) : Nat := (32 + d.elements * d.copyElem + 63) / 64 * 64
def Shard.slotAddr (d : Shard) (v : DWord) : Nat := d.copies + v.toNat % 4 * d.slotSize

/-- The bytes from a local address of a held rank. -/
def State.rankBytes (s : State) (k r a n : Nat) : List Byte := (upto n).map (fun i => s.rdDev k r (a + i))

/-- The elements of the version in a buffer. -/
def State.elems (s : State) (k : Nat) (d : Shard) : List Elem :=
  let rd := s.rdDev k d.owner
  let ma := d.master + d.buffer * d.masterSize
  let sa := d.state + d.buffer * d.stateSize
  (upto d.elements).map (fun i =>
    { w := BitVec.ofNat 32 (readNat rd (ma + 4 * i) 4)
      t := if d.flags % 2 = 1 then signed 16 (readNat rd (ma + 4 * d.elements + 2 * i) 2) else 0
      m := if d.optimizer = 0 then 0 else BitVec.ofNat 32 (readNat rd (sa + 4 * i) 4)
      v := if d.optimizer = 2 then BitVec.ofNat 32 (readNat rd (sa + 4 * d.elements + 4 * i) 4) else 0 })

def masterBytes (es : List Elem) : List Byte := es.flatMap (fun e => leBytes 4 e.w.toNat)
def tailBytes (es : List Elem) : List Byte := es.flatMap (fun e => leBytes 2 (BitVec.ofInt 16 e.t).toNat)
def stateBytes (opt : Nat) (es : List Elem) : List Byte :=
  if opt = 0 then []
  else es.flatMap (fun e => leBytes 4 e.m.toNat) ++ (if opt = 2 then es.flatMap (fun e => leBytes 4 e.v.toNat) else [])

/-- The master digest (R402). -/
def masterDigest (es : List Elem) : DWord :=
  crc64 (es.flatMap (fun e => leBytes 4 e.w.toNat ++ leBytes 2 (BitVec.ofInt 16 e.t).toNat))

/-- The working copy's bytes at scale byte σ (R401). -/
def copyBytes (d : Shard) (sigma : Nat) (wps : List Val) : List Byte :=
  wps.flatMap (fun w => leBytes d.copyElem (convFloat d.copyFmt 0 true 0 (w.exact.scale ((sigma : Int) - 127))).bits)

/-- σ of version v + 2 from the words of version v + 1, whose own σ is `sigma` (R437). -/
def nextScale (d : Shard) (sigma : Nat) (es : List Elem) : Nat :=
  let k : Int := if d.copyFmt = 3 then 7 else 14
  let tops := (es.filter (fun e => (b32 e.w).isFinite && !(b32 e.w).isZero)).map (fun e => (b32 e.w).exact.top)
  if d.copyFmt = 2 then 0x7F
  else
    match tops with
    | [] => sigma
    | t :: ts => (max 0 (min 254 (ts.foldl max t - k + 127))).toNat

/-! ## Ratios (R403, R439) -/

/-- The exact sum of squares, and its conversion: a NaN or an infinity wins (R91). -/
def squareSum (vs : List Val) : Word :=
  if vs.any (fun v => v.isNan) then rne32 (.nan false)
  else if vs.any (fun v => !v.isFinite) then rne32 (.inf false)
  else rne32 (vs.foldl (fun a v => vadd a (vmul v v)) (.fin false 0 0))

/-- The exact sum of words, converted once. -/
def wordSum (ws : List Word) : Word :=
  if ws.any (fun w => (b32 w).isNan) then rne32 (.nan false)
  else if ws.any (fun w => !(b32 w).isFinite) then rne32 (.inf false)
  else rne32 (ws.foldl (fun a w => vadd a (b32 w)) (.fin false 0 0))

/-- A partial of a layer reaches the device that forms its ratio; with the last of them the ratio is formed and written to
the lead's ratio table (R403, R439). -/
def State.ratioArrive (s : State) (k layer : Nat) (a b : Word) : State :=
  match s.job k with
  | none => s
  | some j =>
    let mine := j.partials.filter (fun p => p.1 = layer) ++ [(layer, a, b)]
    let shards : List Shard := j.shards.filter (fun d => d.layer = layer)
    if mine.length < shards.length then s.setJob k (some { j with partials := j.partials ++ [(layer, a, b)] })
    else
      let ratio := sqrt32 (div32 (wordSum (mine.map (fun p => p.2.1))) (wordSum (mine.map (fun p => p.2.2))))
      let step := match (sortNat (shards.map (fun d => d.shard))).head? with
        | none => j.bound
        | some n => match shards.find? (fun (d : Shard) => d.shard = n) with
          | some d => d.newest - 1
          | none => j.bound
      let s := s.setJob k (some { j with partials := j.partials.filter (fun p => p.1 ≠ layer) })
      if j.watches.isEmpty then s
      else
        let body := leBytes 8 step.toNat ++ leBytes 4 ratio.toNat ++ leBytes 4 0
        let lead := (j.rankMap.findIdx? (fun c => c = j.leadCoord)).getD 0
        let t := if j.lead then s.writeAtRank k j (j.held.headD 0) (j.ratioTable + 16 * layer) body .other
          else s.writeAtRank k j lead (j.ratioTable + 16 * layer) body .other
        let above := (b32 ratio).isNan || ranksAbove (b32 ratio) (b32 j.ratioLimit)
        if above then
          (((t.bump (numObj k 0) 0x05 1).setReg (numObj k 0) 0x06 (BitVec.ofNat 32 layer)).setReg (numObj k 0) 0x07 ratio).alarm (numObj k 0) 0x04 1
        else t

/-- Sends the partials of a shard to the owner of the lowest-numbered shard of its layer. -/
def State.sendRatio (s : State) (k : Nat) (j : Job) (d : Shard) (a b : Word) : State :=
  let same : List Shard := j.shards.filter (fun e => e.layer = d.layer)
  match (sortNat (same.map (fun e => e.shard))).head? with
  | none => s
  | some n =>
    match same.find? (fun e => e.shard = n) with
    | none => s
    | some e =>
      if j.held.contains e.owner then s.ratioArrive k d.layer a b
      else (s.ask 0x2B (j.physical e.owner) k 0 (BitVec.ofNat 64 d.layer) (leBytes 4 a.toNat ++ leBytes 4 b.toNat) true .other).1

/-! ## The update of a shard -/

/-- The root operands that a tree brings: left and right, each none when that side is empty (R392 to R394). -/
def rootSides (ps : List Pos) : Bool × Bool :=
  let h := treeHeight ps
  if h = 0 then (nodePresent ps 0 0, false) else (nodePresent ps (h - 1) 0, nodePresent ps (h - 1) 1)

/-- The operands of one side that have come. -/
def Job.rootVals (j : Job) (second : Bool) (shard : Nat) (step : DWord) (right : Bool) : List (Nat × Word) :=
  match j.nodes.find? (fun n => n.second = second && n.shard = shard && n.step = step && n.level = 0xFF && n.node = if right then 1 else 0) with
  | some n => n.values
  | none => []

/-- Every root operand of a tree has come. -/
def Job.rootReady (j : Job) (d : Shard) (second : Bool) (step : DWord) (ps : List Pos) : Bool :=
  let q := rootSides ps
  (!q.1 || (j.rootVals second d.shard step false).length = d.elements) && (!q.2 || (j.rootVals second d.shard step true).length = d.elements)

/-- The root sums of a tree (R393, R394). -/
def Job.rootSums (j : Job) (d : Shard) (second : Bool) (step : DWord) (ps : List Pos) : List Word :=
  let q := rootSides ps
  let l := j.rootVals second d.shard step false
  let r := j.rootVals second d.shard step true
  (upto d.elements).map (fun i =>
    if q.1 && q.2 then add32 (valAt l i) (valAt r i) else if q.1 then valAt l i else if q.2 then valAt r i else 0)

/-- The tree makes an addition (R413). -/
def treeAdds (ps : List Pos) : Bool := 1 < (ps.filter (fun p => p.present)).length

/-- The copy slot of version v holds no version that is not retired (R409). -/
def Shard.slotFree (d : Shard) (v : DWord) : Bool := !(d.versions.any (fun w => w.v.toNat % 4 = v.toNat % 4 && w.retiredAt.isNone))

/-- The positions of the step that a shard updates next, when this device has its decision. -/
def Job.stepPositions (j : Job) (d : Shard) : Option (List Pos) :=
  match j.group d.group with
  | none => none
  | some g => match g.decision d.newest with
    | some es => some (j.positions g es)
    | none => none

/-- Everything that the update of a shard waits for, its copy slot apart (R406, R412, R416, R464). -/
def State.updateReady (s : State) (k : Nat) (j : Job) (d : Shard) : Bool :=
  j.owns d && j.parts.isEmpty && d.versions.any (fun w => w.v = d.newest && w.committed) &&
    (match j.lastStep with
    | some u => decide (d.newest.toNat ≤ u.toNat)
    | none => !j.ending) &&
    match j.stepPositions d with
    | none => false
    | some ps => j.rootReady d false d.newest ps && (!(sampled (s.seedOf k) d.newest d.shard) || j.rootReady d true d.newest ps)

/-- The check of a sampled shard (R413). A mismatch in a job that is not shielded faults it (R500). -/
def State.sampleCheck (s : State) (k : Nat) (j : Job) (d : Shard) (ps : List Pos) : State × Bool :=
  if !(sampled (s.seedOf k) d.newest d.shard) then (s, false)
  else
    let t := s.bump64 (ctxObj k 0x22) 0x05 1
    if !(treeAdds ps) then (t, false)
    else
      match ((j.rootSums d false d.newest ps).zip (j.rootSums d true d.newest ps)).findIdx? (fun p => p.1 ≠ p.2) with
      | none => (t, false)
      | some n =>
        let a := (j.rootSums d false d.newest ps).getD n 0
        let b := (j.rootSums d true d.newest ps).getD n 0
        ((t.bump64 (ctxObj k 0x22) 0x07 1).addError 0x0030 0 (unitField 7 0 (d.shard % 8)) (BitVec.ofNat 32 (k * 2 ^ 16 + 2 ^ 15)) d.shard
          d.newest (BitVec.ofNat 64 n) (BitVec.ofNat 64 (a.toNat * 2 ^ 32 + b.toNat)), true)

/-- σ of version v + 1: the owner's, or in a replay the ledger's (R438). -/
def Job.sigmaFor (j : Job) (d : Shard) (v1 : DWord) : Nat :=
  if !j.follows then d.nextSigma
  else
    match j.replayed.find? (fun r => r.1 = 0x12 && field r.2.2 0 4 = d.shard && field r.2.2 8 8 = v1.toNat) with
    | some r => field r.2.2 5 1
    | none => if j.replay then d.sigma else d.nextSigma

/-- Writes bytes at a local address of a held rank. -/
def State.rankWrite (s : State) (k r a : Nat) (bs : List Byte) : State :=
  (runs (s.viewAll k r ((bs.zipIdx).map (fun p => (a + p.2, p.1))))).foldl (fun (t : State) p => t.devWrite p.1 p.2) s

/-- The whole owner has completed step v: one completion report (R406). -/
def State.reportStep (s : State) (k : Nat) (v : DWord) : State :=
  match s.job k with
  | none => s
  | some j =>
    let mine := j.shards.filter (fun d => j.owns d)
    let sent := match j.reported with
      | some u => decide (v.toNat ≤ u.toNat)
      | none => false
    if sent || mine.any (fun d => d.newest.toNat ≤ v.toNat) then s
    else
      let pairs := mine.map (fun d => (d.shard, d.digest))
      let t := s.setJob k (some { j with reported := some v })
      if j.lead then t.reportArrive k v s.coord pairs
      else (t.ask 0x26 j.leadCoord k 0 v (pairs.flatMap (fun p => leBytes 4 p.1 ++ leBytes 8 p.2.toNat)) true .other).1

/-- Replaces a shard in the job's table. -/
def Job.setShard (j : Job) (d : Shard) : Job := { j with shards := j.shards.map (fun e => if e.shard = d.shard then d else e) }

/-- A sample mismatch makes step v a comparison step: the lead of this replica is told by a digest message that names the
step (R500, log 19). -/
def State.forceComparison (s : State) (k : Nat) (v : DWord) : State :=
  match s.job k with
  | none => s
  | some j =>
    let t := s.setJob k (some { j with forced := j.forced ++ [v] })
    t.controlLead k j 0x0B (leBytes 8 v.toNat ++ leBytes 8 0)

/-- The first granule that the update of a shard reads and cannot: of the step table, the master, the tails, the state or,
for a held version, the copy (R389, R397, R398, R400). -/
def State.updateLoses (s : State) (k : Nat) (d : Shard) (entry : Nat) (held : Bool) : Option Nat :=
  let ma := d.master + d.buffer * d.masterSize
  [(entry, 12), (ma, 4 * d.elements), (ma + 4 * d.elements, if d.flags.testBit 0 then 2 * d.elements else 0),
    (d.state + d.buffer * d.stateSize, d.stateSize), (d.slotAddr d.newest + 32, if held then d.elements * d.copyElem else 0)].findSome?
    (fun p => s.lostGranule k d.owner p.1 p.2)

/-- An uncorrectable read of a shard's update unit: the error record, the repair entry that it asks for, and the job's fault
with cause 0x06 (R278, R283, R404). -/
def State.updateLost (s : State) (k : Nat) (d : Shard) (b : Nat) : State :=
  let enter := fun (t : State) (unit : Word) (detail : Nat) =>
    let u := t.addError 0x0010 2 unit (jobField k 0) (unitField 7 0 (d.shard % 8)).toNat noStep (BitVec.ofNat 64 b) (BitVec.ofNat 64 detail)
    u.faultJob k 0x06 0x0010 (BitVec.ofNat 32 (u.errors.next - 1))
  match unitOf b with
  | some 0 =>
    let h := (gddrDecode b).1
    enter (s.lost (h / 8) h (b / 64)) (unitField 3 h (h / 8)) (readDetail 0 (h / 8))
  | _ =>
    let n := (unitOf b).getD 1 - 1
    enter s (unitField 5 0 n) (readDetail 1 n)

/-- The update of shard d in step v = its newest version (R398 to R404, R437, R438). -/
def State.updateShard (s : State) (k : Nat) (j : Job) (d : Shard) (ps : List Pos) : State :=
  let v := d.newest
  let h := Hyper.ofBytes (j.hypers.getD d.hyper [])
  if v.toNat < h.first ∨ h.first + h.length ≤ v.toNat then s.faultJob k 0x07 0 (BitVec.ofNat 32 0xFFFFFFFF)
  else
    let q := s.sampleCheck k j d ps
    let s := q.1
    if q.2 && j.replicas = 0 then s.faultJob k 0x08 0x0030 (BitVec.ofNat 32 (s.errors.next - 1))
    else
      let at_ := h.table + 16 * (v.toNat - h.first)
      let word := fun (o : Nat) => (BitVec.ofNat 32 (leNat (s.rankBytes k d.owner (at_ + o) 4)) : Word)
      let sums := j.rootSums d false v ps
      let held := d.flags.testBit 1 && sums.any (fun G => !(b32 G).isFinite)
      match s.updateLoses k d at_ held with
      | some b => s.updateLost k d b
      | none =>
      let x : StepVals := { eta := word 0, c1 := word 4, c2 := word 8, d := mul32 (word 0) h.lam }
      let old := s.elems k d
      let res := (old.zip sums).map (fun p =>
        if held then (p.1, masterVal p.1.w p.1.t, masterVal p.1.w p.1.t)
        else updateElem d.optimizer (d.flags.testBit 0) h x p.1 p.2)
      let es := res.map (fun r => r.1)
      let sigma := if held then d.sigma else j.sigmaFor d (v + 1)
      let copy := if held then s.rankBytes k d.owner (d.slotAddr v + 32) (d.elements * d.copyElem)
        else copyBytes d sigma (res.map (fun r => r.2.1))
      let md := masterDigest es
      let slot := leBytes 8 (v + 1).toNat ++ leBytes 8 md.toNat ++ leBytes 8 (crc64 copy).toNat ++ leBytes 1 sigma ++ leBytes 7 0 ++ copy
      let nb := 1 - d.buffer
      let ma := d.master + nb * d.masterSize
      let t := s.rankWrite k d.owner ma (masterBytes es)
      let t := if d.flags.testBit 0 then t.rankWrite k d.owner (ma + 4 * d.elements) (tailBytes es) else t
      let t := t.rankWrite k d.owner (d.state + nb * d.stateSize) (stateBytes d.optimizer es)
      let t := t.rankWrite k d.owner (d.slotAddr (v + 1)) slot
      let t := t.bump64 (ctxObj k 0x22) 0x01 1
      let t := if held then t.bump64 (ctxObj k 0x22) 0x03 1 else t
      let ns := nextScale d sigma es
      let d1 : Shard :=
        { d with
          versions := d.versions.filter (fun w => w.v.toNat % 4 ≠ (v + 1).toNat % 4) ++
            [{ v := v + 1, committed := false, retiredAt := none, released := (d.early.filter (fun e => e.1 = v + 1)).map (fun e => e.2) }]
          newest := v + 1, buffer := nb, early := d.early.filter (fun e => e.1 ≠ v + 1), sigma := sigma, nextSigma := ns, digest := md
          mismatched := q.2 }
      match t.job k with
      | none => t
      | some j1 =>
        let j1 := if j1.replicas = 0 then j1 else j1.addDigest v d.owner 0 md
        let j2 := { j1.setShard d1 with
          nodes := j1.nodes.filter (fun n => !(n.shard = d.shard && n.step = v))
          holdData := j1.holdData.filter (fun z => !(z.1 = d.shard && ps.any (fun p => p.origin = some z.2.1))) }
        let t := t.setJob k (some j2)
        let t := if q.2 then t.forceComparison k v else t
        -- a change of σ, and a replay's difference (R438)
        let t := if d.copyFmt ≠ 2 && sigma ≠ d.sigma then
            t.record k 0x12 v (leBytes 4 d.shard ++ leBytes 1 d.sigma ++ leBytes 1 sigma ++ leBytes 2 0 ++ leBytes 8 (v + 1).toNat)
          else t
        let t := if j1.follows && d.copyFmt ≠ 2 && sigma ≠ d.nextSigma && !held then
            (t.alarm (numObj k 0) 0x04 3).addError 0x0033 0 (unitField 7 0 (d.shard % 8)) (BitVec.ofNat 32 (k * 2 ^ 16 + 2 ^ 15)) d.shard v
              (BitVec.ofNat 64 sigma) (BitVec.ofNat 64 d.nextSigma)
          else t
        let diffs := res.map (fun r => vadd r.2.1 r.2.2.negate)
        let t := t.sendRatio k j2 d1 (squareSum diffs) (squareSum (res.map (fun r => r.2.1)))
        t.reportStep k v

/-- Updates shard n when everything it waits for is there (R406, R409). -/
def State.tryUpdate (s : State) (k n : Nat) : State :=
  match s.job k with
  | none => s
  | some j =>
    match j.shards.find? (fun d => d.shard = n) with
    | none => s
    | some d =>
      if s.updateReady k j d && d.slotFree (d.newest + 1) then
        match j.stepPositions d with
        | some ps => s.updateShard k j d ps
        | none => s
      else s

/-- Tries every shard that this device owns. -/
def State.tryUpdates (s : State) (k : Nat) : State :=
  match s.job k with
  | none => s
  | some j => (j.shards.filter (fun d => j.owns d)).foldl (fun (t : State) d => t.tryUpdate k d.shard) s

end Sys2Proof.Machine
end

