-- ==== Sys2Proof/Machine/Coordinator.lean ====
section
/-! DEFINITION. Readiness and decisions of reduction groups (R414 to R420, R459). -/

namespace Sys2Proof.Machine

/-- Body of a decision: group, number of entries, and 24 bytes for each (R458, R459). -/
def decisionBody (g : Nat) (es : List DecisionEntry) : List Byte :=
  leBytes 4 g ++ leBytes 4 es.length ++ es.flatMap (fun e =>
    leBytes 1 e.kind ++ leBytes 3 0 ++ leBytes 4 e.position ++ leBytes 4 e.rank ++ leBytes 4 e.backup ++ leBytes 8 e.step.toNat)

def decisionEntries (body : List Byte) : List DecisionEntry :=
  (upto (field body 4 4)).map (fun i =>
    let o := 8 + 24 * i
    { kind := field body o 1, position := field body (o + 4) 4, rank := field body (o + 8) 4, backup := field body (o + 12) 4,
      step := BitVec.ofNat 64 (field body (o + 16) 8) })

def allOnes32 : Nat := 2 ^ 32 - 1

/-- The backups of a rank. -/
def Group.backupsOf (g : Group) (r : Nat) : List Nat := (g.backups.filter (fun b => b.1 = r)).map (fun b => b.2)

/-- The entry for one position, or that it must still wait: none. `n` counts the contributions already under delay
(R415, R417). -/
def Group.positionEntry (g : Group) (q : Readiness) (late : Bool) (n pos r : Nat) : Option (List DecisionEntry) :=
  if q.members.contains r then some []
  else if !late then none
  else
    match (g.backupsOf r).find? (fun b => q.backups.contains b) with
    | some b => some [{ kind := 1, position := pos, rank := r, backup := b, step := 0 }]
    | none =>
      if g.late = 2 then some [{ kind := 3, position := pos, rank := r, backup := allOnes32, step := 0 }]
      else if g.late = 1 ∧ n < 4 then some [{ kind := 2, position := pos, rank := r, backup := allOnes32, step := 0 }]
      else none

/-- The entries for every position, or none while one must wait. -/
def Group.positionEntries (g : Group) (q : Readiness) (late : Bool) : List (Nat × Nat) → Nat → Option (List DecisionEntry)
  | [], _ => some []
  | (r, pos) :: t, n =>
    match g.positionEntry q late n pos r with
    | none => none
    | some es =>
      match Group.positionEntries g q late t (n + (es.filter (fun e => e.kind = 2)).length) with
      | none => none
      | some rest => some (es ++ rest)

/-- Contributions under delay whose late notice has come, in ascending order of step and rank. -/
def insertHeld (h : DWord × Nat × Bool) : List (DWord × Nat × Bool) → List (DWord × Nat × Bool)
  | [] => [h]
  | q :: t => if h.1.toNat < q.1.toNat ∨ (h.1 = q.1 ∧ h.2.1 < q.2.1) then h :: q :: t else q :: insertHeld h t

def Group.appendable (g : Group) (step : DWord) : List (DWord × Nat × Bool) :=
  (g.held.filter (fun h => h.2.2 && decide (h.1.toNat < step.toNat))).foldl (fun acc h => insertHeld h acc) []

/-- The whole decision of a step, or none while it waits (R415, R417). -/
def Job.decisionFor (j : Job) (g : Group) (q : Readiness) (late : Bool) : Option (List DecisionEntry) :=
  let ms := j.membersOf g
  match g.positionEntries q late ms.zipIdx g.held.length with
  | none => none
  | some es => some (es ++ ((g.appendable q.step).zipIdx).map (fun h =>
      { kind := 4, position := ms.length + h.2, rank := h.1.2.1, backup := allOnes32, step := h.1.1 }))

/-- The decision that a ledger gives for a step (R420); a replica waits for that of replica 0 (R495). -/
def Job.ledgerDecision (j : Job) (g : Nat) (step : DWord) : Option (List DecisionEntry) :=
  match j.replayed.find? (fun r => r.1 = 0x10 && r.2.1 = step && field r.2.2 0 4 = g) with
  | some r => some (decisionEntries r.2.2)
  | none => if j.replay then some [] else none

/-- In a replay, every contribution that the decision names is ready (R420). -/
def Job.namedReady (j : Job) (g : Group) (q : Readiness) (es : List DecisionEntry) : Bool :=
  ((j.membersOf g).zipIdx).all (fun m =>
    match es.find? (fun e => e.position = m.2 && e.kind < 4) with
    | none => q.members.contains m.1
    | some e => if e.kind = 1 then q.backups.contains e.backup else true) &&
  (es.filter (fun e => e.kind = 4)).all (fun e => g.held.any (fun h => h.1 = e.step && h.2.1 = e.rank && h.2.2))

/-- The tick from which the readiness of a step counts as late. -/
def Group.lateAt (g : Group) (q : Readiness) (now : DWord) : Bool := g.deadline ≠ 0 && q.first.toNat + g.deadline ≤ now.toNat

/-- Replaces a group in the job's table. -/
def Job.setGroup (j : Job) (g : Group) : Job := { j with groups := j.groups.map (fun x => if x.group = g.group then g else x) }

/-- The devices that a decision goes to: every member, every backup, and every owner of the group's shards (R416). -/
def Job.decisionDevices (j : Job) (g : Group) : List Half :=
  (((j.membersOf g) ++ g.backups.map (fun b => b.2) ++ (j.shards.filter (fun d => d.group = g.group)).map (fun d => d.owner)).map j.physical).eraseDups

/-- The coordinator has made the decision of a step: it is noted, entered into the ledger and sent (R416, R419). -/
def State.announce (s : State) (k : Nat) (g : Group) (step : DWord) (es : List DecisionEntry) : State :=
  match s.job k with
  | none => s
  | some j =>
    let o := ctxObj k 0x22
    let count := fun (n : Nat) => (es.filter (fun e => e.kind = n)).length
    let held := g.held.filter (fun h => !(es.any (fun e => e.kind = 4 && e.step = h.1 && e.rank = h.2.1))) ++
      (es.filter (fun e => e.kind = 2)).map (fun e => (step, e.rank, false))
    let g1 := { g with held := held, ready := g.ready.map (fun q => if q.step = step then { q with decided := true } else q) }
    let t := ((s.setJob k (some (j.setGroup g1))).bump64 o 0x09 (count 1)).bump64 o 0x0B (count 2) |>.bump64 o 0x0D (count 3)
    let t := if es = [] && j.replicas = 0 then t else t.record k 0x10 step (decisionBody g.group es)
    let t := ((j.decisionDevices g).filter (fun c => c ≠ s.coord)).foldl (fun (u : State) c =>
      (u.ask 0x23 c k 0 (BitVec.ofNat 64 (step.toNat % 2 ^ 24 * 2 ^ 40 + g.group)) (decisionBody g.group es) true .other).1) t
    (t.decided k g.group step es).tryUpdates k

/-- The coordinator decides a step when it may (R415, R420). -/
def State.tryDecide (s : State) (k gn : Nat) (step : DWord) : State :=
  match s.job k with
  | none => s
  | some j =>
    match j.group gn with
    | none => s
    | some g =>
      match g.ready.find? (fun q => q.step = step) with
      | none => s
      | some q =>
        if q.decided then s
        else if j.follows then
          (match j.ledgerDecision gn step with
          | some es => if j.namedReady g q es then s.announce k g step es else s
          | none => s)
        else
          match j.decisionFor g q (g.lateAt q s.clock.tick) with
          | some es => s.announce k g step es
          | none => s

/-- A ready notice reaches the coordinator (R415, R416, R417). A notice that arrives at or after the deadline counts as late:
the decision that the deadline brings is made before it. -/
def State.noteReady (s : State) (k gn : Nat) (step : DWord) (backup : Bool) (r : Nat) : State :=
  match s.job k with
  | none => s
  | some j =>
    match j.group gn with
    | none => s
    | some g =>
      let late := g.ready.any (fun q => q.step = step && g.lateAt q s.clock.tick)
      let s := if late then s.tryDecide k gn step else s
      match s.job k with
      | none => s
      | some j =>
        match j.group gn with
        | none => s
        | some g =>
          match g.ready.find? (fun q => q.step = step) with
          | none =>
            let q : Readiness := { step := step, first := s.clock.tick, members := if backup then [] else [r], backups := if backup then [r] else [], decided := false }
            (s.setJob k (some (j.setGroup { g with ready := g.ready ++ [q] }))).tryDecide k gn step
          | some q =>
            if q.decided then
              let held := g.held.map (fun h => if h.1 = step && h.2.1 = r && !backup then (h.1, h.2.1, true) else h)
              let t := s.setJob k (some (j.setGroup { g with held := held }))
              if j.follows then
                (g.ready.filter (fun p => !p.decided)).foldl (fun (u : State) p => u.tryDecide k gn p.step) t
              else t
            else
              let q1 := if backup then { q with backups := q.backups ++ [r] } else { q with members := q.members ++ [r] }
              (s.setJob k (some (j.setGroup { g with ready := g.ready.map (fun p => if p.step = step then q1 else p) }))).tryDecide k gn step

/-- The device that coordinates a group: that of position 0 (R414). -/
def Job.coordinator (j : Job) (g : Group) : Half := j.physical ((j.membersOf g).headD 0)

/-- A member or a backup has taken the ready count of a group (R414). The notice's data name its rank (log 36). -/
def State.sendReady (s : State) (k : Nat) (j : Job) (g : Group) (r : Nat) (step : DWord) : State :=
  let backup := !((j.membersOf g).contains r)
  if j.held.contains ((j.membersOf g).headD 0) then s.noteReady k g.group step backup r
  else
    (s.ask 0x22 (j.coordinator g) k 0
      (BitVec.ofNat 64 (step.toNat % 2 ^ 24 * 2 ^ 40 + (if backup then 2 ^ 32 else 0) + g.group)) (leBytes 4 r) true .other).1

/-- The held ranks that signal readiness for a group: members and backups. -/
def Job.readyRanks (j : Job) (g : Group) : List Nat :=
  j.held.filter (fun r => (j.membersOf g).contains r || g.backups.any (fun b => b.2 = r))

/-- The reduction side queues its take of the ready count at the home (R414, R324). -/
def State.queueTake (s : State) (k : Nat) (g : Group) (r : Nat) : State :=
  s.semArrive k r g.readySem (.take (.reduction g.group)) g.readyCount 23

end Sys2Proof.Machine
end

