-- ==== Sys2Proof/Machine/Commit.lean ====
section
/-! DEFINITION. The commit tick: versions, waiting gathers, pushes, the ledger and checkpoints (R406 to R411, R456, R464 to
R469, R496). -/

namespace Sys2Proof.Machine

/-! ## Gathers (R410) -/

/-- The bytes of a version at an owner: the request's base plus (v mod 4) × Z. -/
def State.versionBytes (s : State) (k : Nat) (d : Shard) (v : DWord) (a n : Nat) : List Byte :=
  s.rankBytes k d.owner (a + v.toNat % 4 * d.slotSize) n

/-- Answers with read data, 31 granules at a time, each piece with its offset (log 28). -/
def State.sendData (s : State) (k : Nat) (dest tag : Half) (bs : List Byte) : State :=
  (pieces 1984 (bs.length + 1) 0 bs).foldl (fun (t : State) p => t.send (t.packet 0x10 dest k tag 0 (BitVec.ofNat 64 p.1) p.2) false) s

/-- An error answer: the reason in argument bits [39:32], its detail below (log 37). -/
def State.sendError (s : State) (k : Nat) (dest tag : Half) (reason detail : Nat) : State :=
  s.send (s.packet 0x13 dest k tag 0 (BitVec.ofNat 64 (reason * 2 ^ 32 + detail % 2 ^ 32)) []) false

/-- What the owner answers to a request for version v: served, to wait, or retired (R410). -/
inductive Service where
  | serve
  | wait
  | retired
  deriving DecidableEq, Repr

def Shard.service (d : Shard) (v tick : DWord) : Service :=
  match d.versions.find? (fun w => w.v = v) with
  | some w =>
    if !w.committed then .wait
    else match w.retiredAt with
      | none => .serve
      | some t => if t = tick then .serve else .retired
  | none => if d.newest.toNat < v.toNat then .wait else .retired

/-- A parameter gather at the owner (R410). -/
def State.gather (s : State) (k : Nat) (g : Gather) : State :=
  match s.job k with
  | none => s.sendError k g.src g.tag 0x10 0
  | some j =>
    match j.shards.find? (fun d => d.shard = g.shard && j.owns d) with
    | none => s.sendError k g.src g.tag 0x10 0
    | some d =>
      match d.service g.version s.clock.tick with
      | .serve => s.sendData k g.src g.tag (s.versionBytes k d g.version g.addr g.length)
      | .wait => s.setJob k (some { j with gathers := j.gathers ++ [g] })
      | .retired => s.sendError k g.src g.tag 0x41 g.version.toNat

/-- Serves the gathers that waited for a commit (R410). -/
def State.serveWaiting (s : State) (k : Nat) : State :=
  match s.job k with
  | none => s
  | some j =>
    let may := fun (g : Gather) => j.shards.any (fun d => d.shard = g.shard && j.owns d && d.service g.version s.clock.tick ≠ .wait)
    let t := (s.setJob k (some { j with gathers := j.gathers.filter (fun g => !(may g)) })).bump64 (ctxObj k 0x22) 0x0F (j.gathers.filter may).length
    (j.gathers.filter may).foldl (fun (u : State) g => u.gather k g) t

/-! ## Pushes (R411) -/

/-- Pushes version v of a shard to one member: a copy here and a signal, or packets whose last answer brings the signal. -/
def State.pushTo (s : State) (k : Nat) (j : Job) (d : Shard) (v : DWord) (slot : List Byte) (r : Nat) : State :=
  if j.held.contains r then
    (s.rankWrite k r d.pushAddr slot).semArrive k r d.pushSem .signal 1 23
  else
    (pieces 1984 (slot.length + 1) 0 slot).foldl (fun (t : State) p =>
      (t.askAt r 0x25 (j.physical r) k (d.pushAddr + p.1) v p.2 true (.push k r d.pushSem d.shard v)).1) s

/-- Pushes the committed version v of every shard that this device owns and whose push flag is set. -/
def State.pushAll (s : State) (k : Nat) (v : DWord) : State :=
  match s.job k with
  | none => s
  | some j =>
    (j.shards.filter (fun d => j.owns d && d.flags.testBit 2)).foldl (fun (t : State) d =>
      let slot := t.rankBytes k d.owner (d.slotAddr v) (32 + d.elements * d.copyElem)
      (groupRanks j.shape j.ranks d.pushUnit d.pushSpan).foldl (fun (u : State) r => u.pushTo k j d v slot r) t) s

/-! ## Checkpoints (R464 to R469) -/

/-- A section with its header (R466). -/
def sectionBytes (kind rank key : Nat) (body : List Byte) : List Byte :=
  leBytes 2 kind ++ leBytes 2 0 ++ leBytes 4 rank ++ leBytes 4 key ++ leBytes 4 0 ++ leBytes 8 body.length ++
    leBytes 8 (crc64 body).toNat ++ body

/-- The section of a shard at the commit that makes its newest version current. -/
def State.shardSection (s : State) (k : Nat) (d : Shard) : List Byte :=
  let es := s.elems k d
  let heldV := sortNat ((d.versions.filter (fun w => w.retiredAt.isNone)).map (fun w => w.v.toNat))
  sectionBytes 1 d.owner d.shard
    (leBytes 8 d.newest.toNat ++ leBytes 1 d.nextSigma ++ leBytes 7 0 ++ masterBytes es ++ tailBytes es ++ stateBytes d.optimizer es ++
      heldV.flatMap (fun v => s.rankBytes k d.owner (d.slotAddr (BitVec.ofNat 64 v)) d.slotSize))

/-- The bytes of a placed tensor of a held rank. -/
def State.tensorBytes (s : State) (k r : Nat) (p : Placed) : List Byte :=
  if p.tier = 1 ∨ p.tier = 2 then s.rankBytes k r p.base p.size
  else if p.tier = 3 then s.rankBytes k (p.rank.getD r) (p.base % 2 ^ 48) p.size
  else []

/-- The sections of this device's part, in ascending order of kind, rank and key (R464, R466). -/
def State.partSections (s : State) (k : Nat) (j : Job) : List (List Byte) :=
  let ts := (s.tensors (s.imageOf k)).filter (fun t => t.persistent)
  let shards := j.held.flatMap (fun r =>
    (sortNat ((j.shards.filter (fun d => d.owner = r)).map (fun d => d.shard))).filterMap (fun n => j.shards.find? (fun d => d.shard = n)))
  let tens := j.held.flatMap (fun r => (sortNat (ts.map (fun t => t.tensor))).filterMap (fun n =>
    j.tensors.find? (fun p => p.tensor = n && (p.rank.isNone || p.rank = some r)) |>.map (fun p => (r, p))))
  shards.map (fun d => s.shardSection k d) ++
  tens.map (fun p => sectionBytes 2 p.1 p.2.tensor (s.tensorBytes k p.1 p.2)) ++
  (if j.lead && !j.watches.isEmpty then
    [sectionBytes 3 (j.held.headD 0) 0 (s.rankBytes k (j.held.headD 0) j.scaleTable 4096 ++ j.watches.flatMap (fun w => leBytes 4 w.run))]
   else []) ++
  j.held.flatMap (fun r => ((j.holdData.filter (fun h => h.2.2.1 = r))).map (fun h =>
    let pos := match j.shards.find? (fun d => d.shard = h.1) with
      | some d => match j.group d.group with
        | some g => ((j.membersOf g).findIdx? (fun m => m = r)).getD 0
        | none => 0
      | none => 0
    let size := match j.shards.find? (fun d => d.shard = h.1) with
      | some d => d.esize
      | none => 4
    sectionBytes 4 r h.1 (leBytes 8 h.2.1.toNat ++ leBytes 4 pos ++ leBytes 4 0 ++ h.2.2.2.flatMap (fun (w : Word) => leBytes size w.toNat))))

/-- The whole part with its header, for the commit of step v (R465). -/
def State.partBytes (s : State) (k : Nat) (j : Job) (v : DWord) : List Byte :=
  let secs := s.partSections k j
  let body := secs.flatMap (fun b => b)
  let head := fun (digest : DWord) =>
    leBytes 4 0x4B434845 ++ leBytes 2 1 ++ leBytes 2 1 ++ leBytes 8 (v + 1).toNat ++ leBytes 8 (s.slot k j.j).imageDigest.toNat ++
      leBytes 8 (s.slot k j.j).seed.toNat ++ leBytes 4 j.ranks ++ leBytes 4 secs.length ++ leBytes 8 (64 + body.length) ++
      leBytes 8 digest.toNat ++ leBytes 8 0
  head (crc64 (head 0)) ++ body

/-- A checkpoint that cannot be or was not written (R469, R630). -/
def State.checkpointLost (s : State) (k state : Nat) (v : DWord) : State :=
  ((s.setReg (ctxObj k 0x25) 0x08 (BitVec.ofNat 32 state)).msix k 3).addError 0x0034 0 (unitField 0 0 s.coord.toNat) (BitVec.ofNat 32 (k * 2 ^ 16 + 2 ^ 15))
    state v (BitVec.ofNat 64 v.toNat) 0

/-- The checkpoint ordered for step v begins to be written at its commit (R464, R468, R469). -/
def State.checkpoint (s : State) (k : Nat) (v : DWord) : State :=
  match s.job k with
  | none => s
  | some j =>
    let o := ctxObj k 0x25
    if BitVec.ofNat 64 (s.reg64 o 0x01) ≠ v || v = noStep then s
    else
      let part := s.partBytes k j v
      if s.reg64 o 0x06 < part.length then s.checkpointLost k 4 v
      else
        (s.setJob k (some { j with parts := j.parts ++ [(false, (s.reg o 0x03).toNat, s.reg64 o 0x04, part)] })).setReg o 0x08 2

/-- A shield checkpoint of an agreed comparison step (R496): area v′ mod 2. -/
def State.shieldCheckpoint (s : State) (k : Nat) (v : DWord) : State :=
  match s.job k with
  | none => s
  | some j =>
    if !(j.comparison v) then s
    else
      let o := ctxObj k 0x26
      let part := s.partBytes k j v
      let t := s.setReg64 o 0x0F v.toNat
      let j1 := { j with
        agreed := some v, comparisons := j.comparisons + 1
        rankDigests := j.rankDigests.filter (fun d => v.toNat < d.1.toNat), digests := [], history := []
        shieldDigests := j.shieldDigests.filter (fun d => v.toNat < d.2.1.toNat), judged := [] }
      if s.reg64 o 0x0D < part.length then (t.setJob k (some j1)).addError 0x0034 0 (unitField 0 0 s.coord.toNat) (BitVec.ofNat 32 (k * 2 ^ 16 + 2 ^ 15)) 4 v (BitVec.ofNat 64 v.toNat) 0
      else
        t.setJob k (some { j1 with parts := j1.parts ++ [(true, (s.reg o 0x0A).toNat, s.reg64 o 0x0B + (j.comparisons % 2) * s.reg64 o 0x0D, part)] })

/-- Writes a part to its destination: a partition of the context, or host memory (R468). -/
def State.writePart (s : State) (k tier a : Nat) (bs : List Byte) : State :=
  if tier = 4 then s.hostWrites k [(a, bs)] else s.devWrite a bs

/-- The first part's write ends (R468, R469): it is in place, or it has failed. -/
def State.partDone (s : State) (k : Nat) (ok : Bool) : State :=
  match s.job k with
  | none => s
  | some j =>
    match j.parts with
    | [] => s
    | (shield, tier, a, bs) :: rest =>
      let t := s.setJob k (some { j with parts := rest })
      let inRange := tier = 4 || s.inPartition k a (a + bs.length)
      let t :=
        if ok && inRange then
          let u := t.writePart k tier a bs
          if shield then u else ((u.setReg (ctxObj k 0x25) 0x08 3).setReg64 (ctxObj k 0x25) 0x09 bs.length).msix k 3
        else if shield then
          t.addError 0x0034 0 (unitField 0 0 s.coord.toNat) (BitVec.ofNat 32 (k * 2 ^ 16 + 2 ^ 15)) 5 (j.committed.getD noStep) 0 0
        else t.checkpointLost k 5 (j.committed.getD noStep)
      t.tryUpdates k

/-! ## The commit (R406, R456) -/

/-- Every shard moves to version v + 1, and what may retire does (R406, R408). -/
def State.commitVersions (s : State) (k : Nat) (v : DWord) : State :=
  match s.job k with
  | none => s
  | some j =>
    let new := j.shards.map (fun d =>
      ({ d with versions := d.versions.map (fun w => if w.v = v + 1 then { w with committed := true } else w) } : Shard).retireAll s.clock.tick)
    let n := (j.shards.zip new).foldl (fun n p => n + p.1.retirements p.2) 0
    (s.setJob k (some { j with shards := new })).bump64 (ctxObj k 0x22) 0x11 n

/-- The lead writes the records of step v, its commit record with a step digest among them (R456, R458). -/
def State.commitLedger (s : State) (k : Nat) (tick v digest : DWord) : State :=
  match s.job k with
  | none => s
  | some j =>
    if !j.lead then s
    else
      let body := commitBody tick digest j.shards.length
      let rs := j.recordsOf v ++ [(4, field body 0 4, v, body)]
      let t := s.writeRecords k j rs
      t.setJob k (some { j with
        ledger := j.ledger.filter (fun r => !(r.2.2.1.toNat ≤ v.toNat || r.1 ≤ 3)), ledgerSeq := j.ledgerSeq + rs.length
        digests := if j.replicas = 0 || j.digests.any (fun d => d.1 = v) then j.digests else j.digests ++ [(v, digest)]
        history := if j.replicas = 0 || j.replica ≠ 0 then j.history else j.history ++ rs.filter (fun r => 0x10 ≤ r.1)
        stepDigest := digest, reports := j.reports.filter (fun r => v.toNat < r.1.toNat) })

/-- Step v commits at this device. -/
def State.commitStep (s : State) (k : Nat) (tick v : DWord) : State :=
  let d := match s.job k with
    | some j => j.digestOf v
    | none => 0
  let t := (s.commitVersions k v).commitLedger k tick v d
  match t.job k with
  | none => t
  | some j =>
    let t := t.setJob k (some { j with commit := none, committed := some v, committedAt := tick })
    let t := ((t.serveWaiting k).pushAll k (v + 1)).checkpoint k v |>.shieldCheckpoint k v
    ((t.tryUpdates k).tryCommit k).tryDone k

end Sys2Proof.Machine
end

