-- ==== Sys2Proof/Machine/Sync.lean ====
section
/-! DEFINITION. Barriers, semaphores and the step boundary (R308 to R328, R411, R414, R424 to R428, R433 to R435, R450,
R471, R472, R523, R533). -/

namespace Sys2Proof.Machine

/-! ## The step boundary of the device -/

/-- The step that a logical core has reached: a capture that waits counts as made (R425, R426). -/
def LCore.reached (x : LCore) : Nat := x.step.toNat + if x.boundary then 1 else 0

/-- The logical cores of a context. -/
def State.coresOf (s : State) (k : Nat) : List LCore :=
  s.lcores.filterMap (fun p =>
    match p.2 with
    | some x => if x.k = k then some x else none
    | none => none)

/-- The counts that a logical core's boundary captured: those that still wait for their capture, or the harvest. -/
def LCore.captured (x : LCore) : Sparse Counts := if x.boundary then x.sets else x.harvest
def LCore.capturedTaps (x : LCore) : Sparse (DWord × DWord) := if x.boundary then x.taps else x.harvestTaps

/-- The watch that counts set n of a logical pod, 0xFF for none (R432). -/
def Job.watchOf (j : Job) (n pod : Nat) : Nat := (j.watchMap.getD (64 * n + pod) 0xFF).toNat

/-- The watch partials of this device (R433). -/
def State.watchPartials (s : State) (k : Nat) (j : Job) : List Counts :=
  (upto j.watches.length).map (fun w =>
    (s.coresOf k).foldl (fun c x =>
      x.captured.foldl (fun c e => if j.watchOf e.1 (x.l / 16) = w then countPlus c e.2 else c) c) Counts.zero)

/-- The tap sums of this device (R472). -/
def State.tapPartials (s : State) (k : Nat) (j : Job) : List (DWord × DWord) :=
  (upto j.taps.length).map (fun n =>
    (s.coresOf k).foldl (fun (c : DWord × DWord) x =>
      let v := sget (fun _ => ((0 : DWord), (0 : DWord))) x.capturedTaps n
      (c.1 + v.1, c.2 + v.2)) (0, 0))

/-- The watch objects after a harvest (R440). -/
def State.noteWatches (s : State) (k : Nat) (cs : List Counts) : State :=
  (cs.zipIdx).foldl (fun (t : State) p =>
    let o := numObj k (0x10 + p.2)
    let c := p.1
    let t := (((t.setReg64 o 0x01 c.outputs).setReg64 o 0x03 c.zeros).setReg64 o 0x05 c.saturated).setReg64 o 0x07 c.nonFinite
    let t := (t.bump64 o 0x09 c.saturated).bump64 o 0x0B c.nonFinite
    if 0 < c.nonFinite then t.alarm (numObj k 0) 0x04 0 else t) s

/-- Bytes of four counts. -/
def countBytes (c : Counts) : List Byte := leBytes 8 c.outputs ++ leBytes 8 c.zeros ++ leBytes 8 c.saturated ++ leBytes 8 c.nonFinite

/-- The counts and tap sums of step v go to the lead (R433, R472). -/
def State.sendHarvest (s : State) (k : Nat) (v : DWord) : State :=
  match s.job k with
  | none => s
  | some j =>
    let cs := s.watchPartials k j
    let ts := s.tapPartials k j
    let t := (s.setReg64 (numObj k 0) 0x01 v.toNat).noteWatches k cs
    let t := if j.watches.isEmpty then t
      else if j.lead then t.watchArrive k s.coord v cs
      else t.controlLead k j 0x06 (leBytes 8 v.toNat ++ cs.flatMap countBytes)
    if j.taps.isEmpty then t
    else if j.lead then t.tapArrive k s.coord v ts
    else t.controlLead k j 0x07 (leBytes 8 v.toNat ++ ts.flatMap (fun p => leBytes 8 p.1.toNat ++ leBytes 8 p.2.toNat))

/-- The largest release latency of the ports in service (R533). -/
def State.longest (s : State) : Nat := (s.ports.filter (fun p => inService p.2.state)).foldl (fun n p => max n p.2.release) 0

/-- 1,024 × 60 × ticks / estimate, in 32 bits (R533). -/
def slowDown (ticks estimate : Nat) : Nat := if estimate = 0 then 0 else min (2 ^ 32 - 1) (1024 * 60 * ticks / estimate)

/-- The accounts of a step that ends now (R428, R533). -/
def State.stepAccounts (s : State) (k : Nat) (v : DWord) : State :=
  match s.job k with
  | none => s
  | some j =>
    let e := if j.estimate = 0 then 0 else j.estimate + j.releases * s.longest
    let t := s.setJob k (some { j with lastBoundary := s.clock.tick, bound := v + 1, estimated := j.estimated + e })
    (t.changeSlot k j.j (fun q => { q with
      steps := q.steps + 1
      lastSlow := slowDown (s.clock.tick - j.lastBoundary).toNat e
      slowdown := slowDown (s.clock.tick - j.launched).toNat (j.estimated + e) })).bump64 (ctxObj k 0x23) 0x06 1

/-- The boundary after step v at this device, once every logical core of every held rank has passed it: harvest, releases,
accounts, and the job's end after its end step (R408, R426, R433, R472, R523, R533). -/
def State.stepBoundary (s : State) (k : Nat) : State :=
  match s.job k with
  | none => s
  | some j =>
    if (s.coresOf k).any (fun x => x.reached ≤ j.bound.toNat) || (s.coresOf k).isEmpty then s
    else
      let v := j.bound
      let t := ((s.stepAccounts k v).sendHarvest k v)
      let t := match t.job k with
        | some j1 => t.releaseStep k j1 v
        | none => t
      let t := if j.stop.toNat ≤ v.toNat then t.ranksEnd k (some v) else t
      ((t.tryUpdates k).tryCommit k).tryDone k

/-! ## Barriers at their home -/

/-- The participants of a scope at one device (R49, and the depths of SARM). -/
def partsAt (n : Nat) (p : BarrierParams) : Nat :=
  let ls := groupCores n p.unit p.span
  if p.depth = 0 then 1 else if p.depth = 1 then ((ls.map (fun l => l / 16)).eraseDups).length else ls.length

/-- The participants of a scope. -/
def Job.participants (j : Job) (p : BarrierParams) : Nat := partsAt j.cores p * (groupRanks j.shape j.ranks p.unit p.span).length

/-- The home at held rank r releases the present phase to every core that armed the barrier, and moves to the other phase
(R316). -/
def State.releaseLocal (s : State) (k r b : Nat) : State :=
  let e := s.barrier (bkey k r b)
  { s.setBarrier (bkey k r b) { e with arrived := [], sent := false, devices := [], phase := !e.phase } with
    flights := s.flights ++ e.armed.map (fun l => Flight.release k r l b e.phase) }

/-- Body of a device arrival: rank and parameters. -/
def arrivalBody (rank : Nat) (p : BarrierParams) : List Byte :=
  leBytes 4 rank ++ leBytes 4 p.unit.toNat ++ leBytes 4 p.span.toNat ++ leBytes 4 p.depth ++ leBytes 4 p.count

/-- The root at held rank r releases the phase: to the member ranks here, and by one packet to each other member (R319). -/
def State.rootRelease (s : State) (k r b : Nat) (p : BarrierParams) : State :=
  match s.job k with
  | none => s
  | some j =>
    let sense := (s.barrier (bkey k r b)).phase
    (groupRanks j.shape j.ranks p.unit p.span).foldl (fun (t : State) n =>
      if j.held.contains n then t.releaseLocal k n b
      else (t.ask 0x29 (j.physical n) k b (if sense then 1 else 0) (leBytes 4 n) true .other).1) s

/-- The root of the step barrier holds the release that ends a step until the scale update of the step before has been
written at every device (R435). The root knows of the writes when it is the lead (log 41). -/
def State.holds (s : State) (k b : Nat) : Bool :=
  match s.job k with
  | none => false
  | some j =>
    b = 255 && j.lead && !j.watches.isEmpty && j.start.toNat < j.bound.toNat &&
      (j.scalePending || j.scaled ≠ some (j.bound - 1))

/-- The sum of the numbers is the count: the root at held rank r releases, or holds the release (R319, R435). -/
def State.rootCheck (s : State) (k r b : Nat) : State :=
  let e := s.barrier (bkey k r b)
  match e.root with
  | none => s
  | some p =>
    if e.devices.foldl (fun n d => n + d.2) 0 < p.count then s
    else if s.holds k b then
      (if e.holding.isSome then s else s.setBarrier (bkey k r b) { e with holding := some s.clock.tick })
    else s.rootRelease k r b p

/-- A device arrival at the root of held rank r: counted, or refused when its parameters differ (R319, R320). -/
def State.deviceArrive (s : State) (k r b rank number : Nat) (p : BarrierParams) : State × Bool :=
  let e := s.barrier (bkey k r b)
  match e.root with
  | some q =>
    if q = p then ((s.setBarrier (bkey k r b) { e with devices := e.devices ++ [(rank, number)] }).rootCheck k r b, true) else (s, false)
  | none => ((s.setBarrier (bkey k r b) { e with root := some p, devices := e.devices ++ [(rank, number)] }).rootCheck k r b, true)

/-- Every participant at held rank r has arrived: a scope of one device releases, a larger one tells its root (R319). -/
def State.localComplete (s : State) (k r b : Nat) (p : BarrierParams) (l : Nat) (at_ : Address) : State :=
  match s.job k with
  | none => s
  | some j =>
    match groupRanks j.shape j.ranks p.unit p.span with
    | [] => s
    | root :: rest =>
      let e := s.barrier (bkey k r b)
      let t := s.setBarrier (bkey k r b) { e with sent := true }
      if rest = [] && !(t.holds k b) then t.releaseLocal k r b
      else if j.held.contains root then
        let q := t.deviceArrive k root b r (partsAt j.cores p) p
        if q.2 then q.1 else q.1.mistakeOf (lkey k r l) at_ 0x41 0x53 b
      else
        (t.ask 0x28 (j.physical root) k b (BitVec.ofNat 64 (partsAt j.cores p + if e.phase then 2 ^ 32 else 0)) (arrivalBody r p) true
          (.barrier (lkey k r l) b at_)).1

/-- A step barrier that the root held is released when the scale writes are complete, and the ticks of the hold are
counted (R428, R435). -/
def State.releaseHeld (s : State) (k : Nat) : State :=
  match s.job k with
  | none => s
  | some j =>
    if s.holds k 255 then s
    else
      j.held.foldl (fun (t : State) r =>
        let e := t.barrier (bkey k r 255)
        match e.holding, e.root with
        | some since, some p =>
          ((t.setBarrier (bkey k r 255) { e with holding := none }).bump64 (ctxObj k 0x23) 0x08 (t.clock.tick - since).toNat).rootRelease k r 255 p
        | _, _ => t) s

/-- The scale writes that have been answered: with the last of them the update is in place (R435). -/
def State.scaleWritten (s : State) (k : Nat) : State :=
  match s.job k with
  | none => s
  | some j =>
    if j.scalePending && !(s.scaleWrites k) then (s.setJob k (some { j with scalePending := false })).releaseHeld k else s

/-- A core leaves a barrier; with the last of them the entry is unarmed (R318). -/
def State.disarm (s : State) (k r l b : Nat) : State :=
  let e := s.barrier (bkey k r b)
  let rest := e.armed.filter (fun n => n ≠ l)
  let t := s.setBarrier (bkey k r b)
    (if rest = [] then { e with params := none, armed := [], arrived := [], sent := false, root := if e.devices = [] then none else e.root }
     else { e with armed := rest })
  match t.lcore (lkey k r l) with
  | none => t
  | some x => t.setLcore (lkey k r l) (some (x.setBar b {}))

/-! ## SARM (R312 to R314, R318) -/

/-- The parameters that a SARM states. -/
def armParams (w : IWord) (x : LCore) : BarrierParams :=
  { unit := x.getS (bits w 111 108), span := x.getS (bits w 107 104), depth := bits w 103 102, count := bits w 97 71 }

/-- Mistakes of SARM (R312, R313, R326, R328, R424). A SARM with count 0 names no scope (log 38). -/
def State.sarmMistakes (s : State) (w : IWord) (x : LCore) : List Mistake :=
  let p := armParams w x
  let b := bits w 119 112
  reservedBits w [(119, 102), (97, 71)] ++ mistakeIf (p.depth = 3) 0x04 4 ++
  match s.job x.k with
  | none => []
  | some j =>
    if p.count = 0 then []
    else
      let ok := groupOk j.shape j.cores p.unit p.span && unitDepth p.unit ≤ p.depth && inBlock j.shape p.unit p.span x.r &&
        (groupCores j.cores p.unit p.span).contains x.l
      let stepOk := b ≠ 255 || (p.unit = 0 && p.span = stepSpan j.shape && p.depth = 0)
      mistakeIf (!(if b = 255 then stepOk else ok)) 0x14 2 ++ mistakeIf ((if b = 255 then stepOk else ok) && p.count ≠ j.participants p) 0x53 b

/-- Meaning of SARM. -/
def execSarm (c : Nat) (w : IWord) (s : State) : Host.Outcome State Fault Refusal :=
  issue s c w (opcode w = 0x40) (s.sarmMistakes w) (fun i x =>
    let b := bits w 119 112
    let v := x.bar b
    if x.pendingS (bits w 111 108) || x.pendingS (bits w 107 104) || v.disarming then s
    else
      let t := s.diag c 1 1 x.diagnostic
      if bits w 97 71 = 0 then
        if !v.armed then t.setLcore i (some x.next)
        else if v.waiting.isSome then t.setLcore i (some (x.next.setBar b { v with disarming := true }))
        else (t.setLcore i (some x.next)).disarm x.k x.r x.l b
      else
        { t.setLcore i (some (x.next.setBar b { v with armed := true })) with
          flights := t.flights ++ [.arm x.k x.r x.l b (armParams w x) x.here] })

/-- Takes the oldest message that `f` recognises off the mesh. -/
def State.popFlight {α : Type} (s : State) (f : Flight → Option α) : Option (α × State) :=
  match s.flights.find? (fun m => (f m).isSome) with
  | none => none
  | some m =>
    match f m with
    | none => none
    | some a => some (a, { s with flights := s.flights.erase m })

/-- The home's answer to a SARM that is on its way (R313, R314). -/
def State.armAnswer (s : State) (k r l b : Nat) (p : BarrierParams) (at_ : Address) : State :=
  let e := s.barrier (bkey k r b)
  let answer := fun (t : State) =>
    match t.lcore (lkey k r l) with
    | none => t
    | some x => t.setLcore (lkey k r l) (some (x.setBar b { x.bar b with answered := true, sense := e.phase }))
  match e.params with
  | none => answer (s.setBarrier (bkey k r b) { e with params := some p, armed := [l] })
  | some q =>
    if q ≠ p then s.mistakeOf (lkey k r l) at_ 0x40 0x53 b
    else if e.armed.contains l then s
    else answer (s.setBarrier (bkey k r b) { e with armed := e.armed ++ [l] })

/-- Meaning of ARM_ANSWER (R313, R314). -/
def execArmAnswer (k r l b : Nat) (s : State) : Host.Outcome State Fault Refusal :=
  .next (match s.popFlight (fun m =>
      match m with
      | .arm k' r' l' b' p a => if k' = k ∧ r' = r ∧ l' = l ∧ b' = b then some (p, a) else none
      | _ => none) with
    | none => s
    | some q => q.2.armAnswer k r l b q.1.1 q.1.2)

/-! ## SARR (R315 to R317, R424) -/

/-- Mistakes of a SARR word. -/
def sarrMistakes (w : IWord) (x : LCore) : List Mistake :=
  let b := bits w 119 112
  reservedBits w [(119, 110)] ++ mistakeIf (sarrOp w = 3 || (b = 255 && (sarrOp w = 1 || sarrOp w = 2))) 0x04 2 ++
  mistakeIf (!(x.bar b).armed) 0x52 b

/-- The arrival of a SARR: its sense goes to the home when the core's earlier writes are complete (R315, R321). -/
def State.arrive (s : State) (c i : Nat) (w : IWord) (x : LCore) (wait : Bool) : State :=
  let b := bits w 119 112
  let v := x.bar b
  if !v.answered || v.disarming then s
  else
    let y := x.next.setBar b { v with waiting := some v.sense, sense := !v.sense }
    let t := (s.diag c 1 1 x.diagnostic).setLcore i (some (if wait then { y with status := .atBarrier b } else y))
    let t := t.postSync i (.arrive b v.sense x.here x.openWrites)
    if wait then t.reschedule c else t

/-- Meaning of SARR (R315, op 0): arrive and wait. -/
def execSarr (c : Nat) (w : IWord) (s : State) : Host.Outcome State Fault Refusal :=
  issue s c w (opcode w = 0x41 && (sarrOp w = 0 || sarrOp w = 3)) (sarrMistakes w) (fun i x => s.arrive c i w x true)

/-- Meaning of SARR_ARRIVE (R315, op 1). -/
def execSarrArrive (c : Nat) (w : IWord) (s : State) : Host.Outcome State Fault Refusal :=
  issue s c w (opcode w = 0x41 && sarrOp w = 1) (sarrMistakes w) (fun i x => s.arrive c i w x false)

/-- Meaning of SARR_WAIT (R315, op 2): it holds the core until its pending phase is released. -/
def execSarrWait (c : Nat) (w : IWord) (s : State) : Host.Outcome State Fault Refusal :=
  issue s c w (opcode w = 0x41 && sarrOp w = 2) (sarrMistakes w) (fun i x =>
    let v := x.bar (bits w 119 112)
    if !v.answered || v.disarming then s
    else
      let t := s.diag c 1 1 x.diagnostic
      if v.waiting.isSome then
        (t.setLcore i (some { x.next with status := .atBarrier (bits w 119 112) })).reschedule c
      else t.setLcore i (some x.next))

/-- An arrival at the home (R316, R317). -/
def State.arrivalAt (s : State) (k r l b : Nat) (sense : Bool) (at_ : Address) : State :=
  let e := s.barrier (bkey k r b)
  match e.params, s.job k with
  | some p, some j =>
    if sense ≠ e.phase then s.mistakeOf (lkey k r l) at_ 0x41 0x51 b
    else
      let arrived := e.arrived ++ [l]
      let t := s.setBarrier (bkey k r b) { e with arrived := arrived }
      if (groupCores j.cores p.unit p.span).all (fun n => arrived.contains n) && !e.sent then t.localComplete k r b p l at_ else t
  | _, _ => s.mistakeOf (lkey k r l) at_ 0x41 0x52 b

/-- Meaning of BARRIER_ARRIVAL (R316): the oldest arrival of the core that is on its way reaches the home. -/
def execBarrierArrival (k r l b : Nat) (s : State) : Host.Outcome State Fault Refusal :=
  .next (match (s.flushAll k).popFlight (fun m =>
      match m with
      | .arrive k' r' l' b' sense a => if k' = k ∧ r' = r ∧ l' = l ∧ b' = b then some (sense, a) else none
      | _ => none) with
    | none => s.flushAll k
    | some q => q.2.arrivalAt k r l b q.1.1 q.1.2)

/-- Meaning of BARRIER_DEVICE_ARRIVAL (R319, R320, type 0x28): the root counts it, or answers that it is refused. -/
def execBarrierDeviceArrival (p : Packet) (s : State) : Host.Outcome State Fault Refusal :=
  .next (s.inbound 0x28 p (fun t =>
    match t.job p.context with
    | none => t.complete p
    | some j =>
      let q : BarrierParams :=
        { unit := BitVec.ofNat 32 (field p.data 4 4), span := BitVec.ofNat 32 (field p.data 8 4), depth := field p.data 12 4, count := field p.data 16 4 }
      match groupRanks j.shape j.ranks q.unit q.span with
      | [] => t.complete p
      | root :: _ =>
        if !(j.held.contains root) then t.complete p
        else
          let a := t.deviceArrive p.context root p.addr.toNat (field p.data 0 4) (bits p.arg 31 0) q
          if a.2 then a.1.complete p else a.1.answer p 0x13 (BitVec.ofNat 64 (0x53 * 2 ^ 32 + p.addr.toNat % 2 ^ 32)) []))

/-- Meaning of BARRIER_RELEASE_MESSAGE (R319, type 0x29): the local node of the named held rank releases its cores. -/
def execBarrierReleaseMessage (p : Packet) (s : State) : Host.Outcome State Fault Refusal :=
  .next (s.served 0x29 p (fun t =>
    match t.job p.context with
    | none => t
    | some j =>
      let r := field p.data 0 4
      let b := p.addr.toNat
      if j.held.contains r && (t.barrier (bkey p.context r b)).phase = bit p.arg 0 then t.releaseLocal p.context r b else t))

/-- The release of barrier b's phase reaches logical core i (R315, R318). The step barrier's release is a step boundary
(R425, R426): the core captures now when it is on a physical core, else when it next runs, and the end step ends its
work (R523). -/
def State.released (s : State) (i b : Nat) (sense : Bool) : State :=
  match s.lcore i with
  | none => s
  | some x =>
    let v := x.bar b
    if v.waiting ≠ some sense then s
    else
      let here := s.cores.any (fun p => p.2.res0 = some i || p.2.res1 = some i)
      let x1 := x.setBar b { v with waiting := none }
      let last := b = 255 && (match s.job x.k with
        | some j => x.step = j.stop
        | none => false)
      let x2 := if b ≠ 255 then x1 else if here then x1.capture else { x1 with boundary := true }
      let t := s.setLcore i (some (if last then { x2 with status := .stopped } else x2))
      let t := if v.disarming then t.disarm x.k x.r x.l b else t
      let t := if x.status = .atBarrier b && !last then t.wake i id else t
      if b = 255 then t.stepBoundary x.k else t

/-- Meaning of BARRIER_RELEASE (R315): the oldest release on its way to the core reaches it. -/
def execBarrierRelease (k r l : Nat) (s : State) : Host.Outcome State Fault Refusal :=
  .next (match s.popFlight (fun m =>
      match m with
      | .release k' r' l' b sense => if k' = k ∧ r' = r ∧ l' = l then some (b, sense) else none
      | _ => none) with
    | none => s
    | some q => q.2.released (lkey k r l) q.1.1 q.1.2)

/-! ## Semaphores (R323 to R327) -/

/-- Mistakes of a semaphore word: reserved bits, k = 0 (R326). -/
def semMistakes (w : IWord) (used : List (Nat × Nat)) : List Mistake := reservedBits w used ++ mistakeIf (bits w 109 94 = 0) 0x04 2

/-- Mistakes of SSIG: its group when the remote bit is set (R323). -/
def State.ssigMistakes (s : State) (w : IWord) (x : LCore) : List Mistake :=
  semMistakes w ([(119, 93)] ++ if bit w 93 then [(92, 85)] else []) ++
  match s.job x.k with
  | none => []
  | some j =>
    let u := x.getS (bits w 92 89)
    if !(bit w 93) then []
    else if unitDepth u ≠ 0 || !groupOk j.shape j.cores u 0 then [(0x14, 4)]
    else mistakeIf (!groupOk j.shape j.cores u (x.getS (bits w 88 85))) 0x14 5

/-- Meaning of SSIG (R321, R323): its request goes out when the core's earlier writes are complete. -/
def execSsig (c : Nat) (w : IWord) (s : State) : Host.Outcome State Fault Refusal :=
  issue s c w (opcode w = 0x43) (s.ssigMistakes w) (fun i x =>
    if bit w 93 && (x.pendingS (bits w 92 89) || x.pendingS (bits w 88 85)) then s
    else
      let targets := match s.job x.k with
        | none => []
        | some j => if bit w 93 then groupRanks j.shape j.ranks (x.getS (bits w 92 89)) (x.getS (bits w 88 85)) else [x.r]
      ((s.diag c 1 1 x.diagnostic).setLcore i (some x.next)).postSync i
        (.signal (bits w 119 110) (bits w 109 94) targets x.openWrites))

/-- Meaning of SWAIT (R324): its request queues at the home, and the core does not issue until the grant. -/
def execSwait (c : Nat) (w : IWord) (s : State) : Host.Outcome State Fault Refusal :=
  issue s c w (opcode w = 0x42) (fun _ => semMistakes w [(119, 94)]) (fun i x =>
    let q := bits w 119 110
    ((s.diag c 1 1 x.diagnostic).setLcore i (some { x.next with status := .atSemaphore q })).semArrive x.k x.r q (.take (.core x.l))
      (bits w 109 94) (s.semInput i x.k x.r q))

/-- Meaning of SDEC (R325): its request goes to the home. -/
def execSdec (c : Nat) (w : IWord) (s : State) : Host.Outcome State Fault Refusal :=
  issue s c w (opcode w = 0x44) (fun _ => semMistakes w [(119, 94)]) (fun i x =>
    let q := bits w 119 110
    ((s.diag c 1 1 x.diagnostic).setLcore i (some x.next)).semArrive x.k x.r q (.dec x.l x.here) (bits w 109 94) (s.semInput i x.k x.r q))

/-- Meaning of SEMAPHORE_REQUEST (R327): the home of semaphore q applies its next request. -/
def execSemaphoreRequest (k r q : Nat) (s : State) : Host.Outcome State Fault Refusal := .next ((s.flushAll k).semStep k r q)

/-- Meaning of SEMAPHORE_GRANT (R324): the oldest grant on its way to the core reaches it, and it resumes issue. -/
def execSemaphoreGrant (k r l : Nat) (s : State) : Host.Outcome State Fault Refusal :=
  .next (match s.popFlight (fun m =>
      match m with
      | .grant k' r' l' q => if k' = k ∧ r' = r ∧ l' = l then some q else none
      | _ => none) with
    | none => s
    | some q =>
      match q.2.lcore (lkey k r l) with
      | none => q.2
      | some x => if x.status = .atSemaphore q.1 then q.2.wake (lkey k r l) id else q.2)

/-- Meaning of REMOTE_SEMAPHORE_SIGNAL (R323, type 0x2A): the request reaches the home through the router's edge input
(R327, R651). -/
def execRemoteSemaphoreSignal (p : Packet) (s : State) : Host.Outcome State Fault Refusal :=
  .next (s.served 0x2A p (fun t =>
    match t.job p.context with
    | none => t
    | some j =>
      let r := field p.data 0 4
      if j.held.contains r then t.semArrive p.context r (p.addr.toNat % 1024) .signal (bits p.arg 31 0) 22 else t))

/-- The reduction side's take of a ready count is served (R414, R417): the notice goes to the coordinator, a step under
delay is copied, and the take for the next step queues. -/
def State.readyTaken (s : State) (k r gn : Nat) : State :=
  match s.job k with
  | none => s
  | some j =>
    match j.group gn with
    | none => s
    | some g =>
      match g.takes.find? (fun x => x.1 = r) with
      | none => s
      | some x =>
        let late := match g.decision x.2 with
          | some es => es.any (fun e => e.kind = 2 && e.rank = r)
          | none => false
        let g1 := { g with takes := g.takes.map (fun y => if y.1 = r then (r, x.2 + 1) else y) }
        let t := s.setJob k (some (j.setGroup g1))
        let t := if late then t.holdContributions k gn r x.2 else t
        (t.sendReady k j g1 r x.2).queueTake k g1 r

/-- Meaning of READY_TAKE (R414). -/
def execReadyTake (k r g : Nat) (s : State) : Host.Outcome State Fault Refusal :=
  .next (match s.popFlight (fun m =>
      match m with
      | .granted k' r' g' => if k' = k ∧ r' = r ∧ g' = g then some () else none
      | _ => none) with
    | none => s
    | some q => q.2.readyTaken k r g)

end Sys2Proof.Machine
end

