-- ==== Sys2Proof/Machine/Reduction.lean ====
section
/-! DEFINITION. What arrives for gradient reduction, parameter versions, the ledger and the end of a job (R303, R394, R403,
R406, R408 to R418, R421, R433, R456, R463, R469, R472, R523 to R526). -/

namespace Sys2Proof.Machine

/-! ## Operands, decisions, versions -/

/-- Meaning of NODE_OPERAND (R394, type 0x20): `i` is the operand's node at the packet's level (log 42). -/
def execNodeOperand (p : Packet) (i : Nat) (s : State) : Host.Outcome State Fault Refusal :=
  .next (s.served 0x20 p (fun t => (t.operand p.context p i false).tryUpdates p.context))

/-- Meaning of NODE_OPERAND_SECOND_TREE (R412, type 0x27). -/
def execNodeOperandSecondTree (p : Packet) (i : Nat) (s : State) : Host.Outcome State Fault Refusal :=
  .next (s.served 0x27 p (fun t => (t.operand p.context p i true).tryUpdates p.context))

/-- Meaning of ROOT_OPERAND (R394, type 0x21). -/
def execRootOperand (p : Packet) (second : Bool) (s : State) : Host.Outcome State Fault Refusal :=
  .next (s.served 0x21 p (fun t => (t.operand p.context p 0 second).tryUpdates p.context))

/-- Meaning of UPDATE_SLOT_FREED (R409). -/
def execUpdateSlotFreed (k n : Nat) (s : State) : Host.Outcome State Fault Refusal := .next (s.tryUpdate k n)

/-- Meaning of READY_NOTICE (R415, type 0x22). -/
def execReadyNotice (p : Packet) (s : State) : Host.Outcome State Fault Refusal :=
  .next (s.served 0x22 p (fun t =>
    match t.job p.context with
    | none => t
    | some j => t.noteReady p.context (bits p.arg 31 0) (fullStep j.earliest (bits p.arg 63 40)) (bit p.arg 32) (field p.data 0 4)))

/-- The first step of a group that waits for its decision and has a deadline. -/
def Group.awaited (g : Group) : Option Readiness := if g.deadline = 0 then none else g.ready.find? (fun q => !q.decided)

/-- Meaning of COORDINATOR_DEADLINE (R415): time goes on to the deadline of the group's first undecided step, and the
coordinator decides. -/
def execCoordinatorDeadline (k g : Nat) (s : State) : Host.Outcome State Fault Refusal :=
  .next (match s.job k with
    | none => s
    | some j =>
      match j.group g with
      | none => s
      | some x =>
        match x.awaited with
        | none => s
        | some q => (s.until (q.first.toNat + x.deadline)).tryDecide k g q.step)

/-- Meaning of DECISION (R416, type 0x23). -/
def execDecision (p : Packet) (s : State) : Host.Outcome State Fault Refusal :=
  .next (s.served 0x23 p (fun t =>
    match t.job p.context with
    | none => t
    | some j =>
      (t.decided p.context (bits p.arg 31 0) (fullStep j.earliest (bits p.arg 63 40)) (decisionEntries p.data)).tryUpdates p.context))

/-- Meaning of RELEASE (R408, type 0x24). An update that waits for the slot goes on at UPDATE_SLOT_FREED. -/
def execRelease (p : Packet) (s : State) : Host.Outcome State Fault Refusal :=
  .next (s.served 0x24 p (fun t => t.releaseAt p.context (field p.data 0 4) p.arg))

/-- The held rank that a packet addresses (R446, log 40). -/
def State.rankFor (s : State) (p : Packet) : Nat :=
  match s.job p.context with
  | none => p.rank
  | some j => match j.held with
    | [r] => r
    | _ => p.rank

/-! ## Commit -/

/-- Pairs of shard and master digest of a completion report. -/
def reportPairs (bs : List Byte) : List (Nat × DWord) :=
  (upto (bs.length / 12)).map (fun i => (field bs (12 * i) 4, BitVec.ofNat 64 (field bs (12 * i + 4) 8)))

/-- Meaning of COMPLETION_REPORT (R406, type 0x26). -/
def execCompletionReport (p : Packet) (s : State) : Host.Outcome State Fault Refusal :=
  .next (s.served 0x26 p (fun t => t.reportArrive p.context p.arg p.src (reportPairs p.data)))

/-- Meaning of COMMIT_NOTICE (R406, type 0x26): the step and the commit tick that the lead has chosen. -/
def execCommitNotice (p : Packet) (s : State) : Host.Outcome State Fault Refusal :=
  .next (s.served 0x26 p (fun t =>
    match t.job p.context with
    | none => t
    | some j => t.setJob p.context (some { j with commit := some (BitVec.ofNat 64 (field p.data 0 8), p.arg) })))

/-- Meaning of COMMIT_TICK (R406): time goes on to the commit tick, and the step commits. -/
def execCommitTick (k : Nat) (s : State) : Host.Outcome State Fault Refusal :=
  .next (match s.job k with
    | none => s
    | some j =>
      match j.commit with
      | none => s
      | some (tick, v) => (s.until tick.toNat).commitStep k tick v)

/-- Meaning of RATIO_PARTIAL (R403, type 0x2B). -/
def execRatioPartial (p : Packet) (s : State) : Host.Outcome State Fault Refusal :=
  .next (s.served 0x2B p (fun t =>
    t.ratioArrive p.context (bits p.arg 31 0) (BitVec.ofNat 32 (field p.data 0 4)) (BitVec.ofNat 32 (field p.data 4 4))))

/-- Meaning of CHECKPOINT_WRITE_DONE (R468, R469). -/
def execCheckpointWriteDone (k : Nat) (ok : Bool) (s : State) : Host.Outcome State Fault Refusal := .next (s.partDone k ok)

/-! ## The ledger, the sums of a step and the end of a job -/

/-- Records to apply are at hand: what waited for them goes on (R420, R438, R463, R495). -/
def State.applyInput (s : State) (k : Nat) : State :=
  match s.job k with
  | none => s
  | some j =>
    (j.groups.foldl (fun (u : State) g =>
      (g.ready.filter (fun q => !q.decided)).foldl (fun (v : State) q => v.tryDecide k g.group q.step) u) s).tryUpdates k

/-- A record from another device: the lead keeps what its own devices send for the commit of its step (R456). Every other
record is one to apply (R463, R495, R504), which a lead sends on to its devices. -/
def State.ledgerArrive (s : State) (k : Nat) (src : Half) (bytes : List Byte) : State :=
  match s.job k with
  | none => s
  | some j =>
    if j.lead && j.rankMap.contains src then
      (parseRecords 1 bytes).foldl (fun (t : State) r => t.record k r.1 r.2.1 r.2.2) s
    else
      let t := s.setJob k (some { j with input := j.input ++ bytes, replay := j.replay || j.replica = 0 })
      (if j.lead then t.controlAll k j 0x05 bytes else t).applyInput k

/-- Meaning of LEDGER_RECORD (R456). -/
def execLedgerRecord (k : Nat) (src : Half) (bytes : List Byte) (s : State) : Host.Outcome State Fault Refusal :=
  .next (s.ledgerArrive k src bytes)

/-- Meaning of WATCH_PARTIALS (R433, R435). -/
def execWatchPartials (k : Nat) (src : Half) (step : DWord) (counts : List Counts) (s : State) : Host.Outcome State Fault Refusal :=
  .next ((s.watchArrive k src step counts).releaseHeld k)

/-- Meaning of TAP_SUMS (R472). -/
def execTapSums (k : Nat) (src : Half) (step : DWord) (sums : List (DWord × DWord)) (s : State) : Host.Outcome State Fault Refusal :=
  .next (s.tapArrive k src step sums)

/-- Meaning of END_NOTICE (R524). The lead ends the job with the last of them, once the final commit has passed. -/
def execEndNotice (k : Nat) (src : Half) (_last : DWord) (s : State) : Host.Outcome State Fault Refusal :=
  .next (match s.job k with
    | none => s
    | some j =>
      if !j.lead then s
      else
        ((s.setJob k (some { j with ended := if j.ended.contains src then j.ended else j.ended ++ [src] })).tryCommit k).tryDone k)

/-- Meaning of DONE_NOTICE (R524). -/
def execDoneNotice (k : Nat) (tick last digest : DWord) (s : State) : Host.Outcome State Fault Refusal :=
  .next (match s.job k with
    | none => s
    | some j => s.finishJob k j.j tick last digest)

/-- Meaning of TEARDOWN (R526): a device tears the job down with cause 0x0C; the lead does so too and tells the others. -/
def execTeardown (k cause : Nat) (coord : Half) (s : State) : Host.Outcome State Fault Refusal :=
  .next (match s.job k with
    | none => s
    | some j =>
      let t := if j.jobLead = s.coord then s.controlEveryone k j 0x0A (teardownBody cause coord) else s
      t.endFaulted k j.j 0x0C 0xFFFFFFFF)

end Sys2Proof.Machine
end

