-- ==== Sys2Proof/Machine/MemSys.lean ====
section
/-! DEFINITION. Memory controllers, CXL ports, host memory and the memory group's power (R270 to R302, R304, R571, R572). -/

namespace Sys2Proof.Machine

/-! ## The memory group (R571) -/

/-- A request wakes a group that is in self-refresh. -/
def State.wakeMemory (s : State) : State :=
  if s.power.memory = 0 then { s with power := { s.power with memory := 1, wakeAt := some s.clock.tick } } else s

/-- A condition of R571 does not hold at the present tick. -/
def State.useMemory (s : State) : State := { s with power := { s.power with memoryUsed := s.clock.tick } }

/-- The first multiple of 96 at or after t. -/
def next96 (t : Nat) : Nat := (t + 95) / 96 * 96

/-- The group becomes active at the first multiple of 96 at least 2,400 ticks after the wake cause. -/
def State.memoryWoken (s : State) : State :=
  match s.power.wakeAt with
  | none => s
  | some w =>
    let t := s.until (next96 (w.toNat + 2400))
    { t with power := { t.power with memory := 2, wakeAt := none, memoryUsed := t.clock.tick } }

/-- A request reaches the group: one that finds it in self-refresh wakes it and waits, and is served once it is active
(log 14). A group that start-up has not activated serves nothing. -/
def State.atMemory (s : State) (f : State → State) : State :=
  if s.power.memory = 2 then f s.useMemory
  else if s.power.phase ≠ 1 then s
  else f s.wakeMemory.memoryWoken

/-- No slot of any context is accepted or running. -/
def State.noJobs (s : State) : Bool := s.slots.all (fun p => p.2.state ≠ 3 && p.2.state ≠ 4)

/-- Meaning of SELF_REFRESH_ENTRY (R571): time goes on to the first multiple of 96 at which the conditions have held for
25,000,000 ticks. -/
def execSelfRefreshEntry (s : State) : Host.Outcome State Fault Refusal :=
  .next (if s.power.memory = 2 && s.power.phase = 1 && s.noJobs && !s.power.floor then
      let t := s.until (next96 (s.power.memoryUsed.toNat + 25000000))
      { t with power := { t.power with memory := 0 } }
    else s)

/-- Meaning of MEMORY_GROUP_WAKE (R571): active from the first multiple of 96 at least 2,400 ticks after the wake cause. -/
def execMemoryGroupWake (s : State) : Host.Outcome State Fault Refusal :=
  .next s.memoryWoken

/-- Meaning of FLOOR_TICK (R572). -/
def execFloorTick (s : State) : Host.Outcome State Fault Refusal :=
  .next (match s.power.floorNext with
    | none => s
    | some (on, tick) =>
      let t := s.until tick.toNat
      { t with power := { t.power with
          floor := on, floorNext := none, memory := if on then 2 else t.power.memory, wakeAt := if on then none else t.power.wakeAt
          memoryUsed := t.clock.tick } })

/-! ## Counters (R304) -/

/-- Every context with a running job is in diagnostic mode: traffic counters count. -/
def State.traffic (s : State) : Bool :=
  s.lcores.all (fun p =>
    match p.2 with
    | some x => (s.slot x.k x.j).state ≠ 4 || x.diagnostic
    | none => true)

/-- Adds 1 to a 64-bit traffic counter. -/
def State.trafficBump (s : State) (idx sub : Nat) : State := if s.traffic then s.bump64 idx sub 1 else s

/-! ## Addresses of granules (R271) -/

/-- End of the GDDR7 range, the firmware region included (R266). -/
def gddrEnd : Nat := 0x2E80000000

/-- The address of granule w of a row, the reverse of R271. -/
def granuleAddr (ch bank row w : Nat) : Nat :=
  let q := row * 16 + (bank ^^^ (row % 16))
  ((q * 192 + ch) * 31 + w) * 64

/-! ## Uncorrectable reads (R278, R279) -/

/-- Unit field of a requester (R489). -/
def requesterUnit : Requester → Word
  | .core c => unitField 1 0 c
  | .update u => unitField 7 0 u
  | .control n => unitField 2 0 n
  | .host _ => unitField 6 0 0
  | .inbound p => unitField 4 0 p

/-- The logical core of a context that is resident on a physical core. -/
def State.residentOf (s : State) (c k : Nat) : Option (Nat × LCore) :=
  (s.residents c).findSome? (fun i =>
    match s.lcore i with
    | some x => if x.k = k then some (i, x) else none
    | none => none)

/-- Address and opcode of the oldest move that a logical core has under way, else of its next instruction. -/
def LCore.moving (x : LCore) : Address × Nat :=
  match x.fetches with
  | f :: _ => (f.held.at_, opcode f.held.w)
  | [] => match x.held.find? (fun h => engineOf h.w = 3) with
    | some h => (h.at_, opcode h.w)
    | none => (x.here, 0x30)

/-- The jobs whose placement record holds an address of the firmware region (R42, R493). -/
def State.recordsAt (s : State) (a : Nat) : List Nat :=
  s.jobs.filterMap (fun p =>
    match p.2 with
    | some j => if j.recordAddr ≤ a / 64 * 64 + 63 && a / 64 * 64 < j.recordAddr + j.recordLen then some p.1 else none
    | none => none)

/-- What an uncorrectable read does to its requester (R278, R404, R493). -/
def State.readFailed (s : State) (who : Requester) (k a detail : Nat) : State :=
  match who with
  | .core c =>
    match s.residentOf c k with
    | none => s
    | some (i, x) => s.mistake c i x.moving.1 x.moving.2 0x43 detail
  | .update _ => s.faultJob k 0x06 0x0010 (BitVec.ofNat 32 (s.errors.next - 1))
  | .control _ => (s.recordsAt a).foldl (fun (t : State) n => t.faultJob n 0x06 0x0010 (BitVec.ofNat 32 (s.errors.next - 1))) s
  | .host fn => { s with host := { s.host with completions := s.host.completions ++ [(fn, a - (s.partition fn 0).1, 4, [])] } }
  | .inbound _ => s

/-- The job field of a record about a requester. -/
def State.jobOf (s : State) (who : Requester) (k : Nat) : Word :=
  match who with
  | .core c => match s.residentOf c k with
    | some (_, x) => jobField k x.l
    | none => noJob
  | .update _ => jobField k 0
  | _ => noJob

/-- An uncorrectable read is entered into the records of the device that holds the memory, and then handled. -/
def State.uncorrectable (s : State) (unit : Word) (who : Requester) (k a detail : Nat) : State :=
  let effect := match who with
    | .core c => if (s.residentOf c k).isSome then 2 else 0
    | .update _ => if (s.job k).isSome then 2 else 0
    | .control _ => if s.recordsAt a = [] then 0 else 2
    | _ => 0
  (s.addError 0x0010 effect unit (s.jobOf who k) (requesterUnit who).toNat noStep (BitVec.ofNat 64 a) (BitVec.ofNat 64 detail)).readFailed who k a detail

/-- A corrected read: counted, and listed for write-back when its channel's list has room (R277, R282). -/
def State.corrected (s : State) (n h g : Nat) : State :=
  let t := s.bump64 (ctlObj n 1) 0x01 1
  let x := t.ctl n
  if x.writeBacks.contains (h, g) then t
  else if (x.writeBacks.filter (fun w => w.1 = h)).length < 8 then t.setCtl n { x with writeBacks := x.writeBacks ++ [(h, g)] }
  else t.bump64 (ctlObj n 1) 0x05 1

/-- What a read of granule g finds, given the symbols that the memory returns wrongly (R277, R283, R284). -/
def State.readGranule (s : State) (n g : Nat) (errors : List (Nat × Byte)) : EccResult :=
  match (s.ctl n).repairs.find? (fun r => r.granule = g) with
  | some r => if r.written then .clean else .uncorrectable
  | none => eccDecode errors

/-! ## Requests at a controller (R280, R285 to R288) -/

/-- Notes a refused requester in a bank's refusal map (R286). -/
def Controller.refuse (x : Controller) (bank : Nat) (who : Requester) : Controller :=
  if x.refused.contains (bank, who) then x else { x with refused := x.refused ++ [(bank, who)] }

/-- The access opens its row, or finds it open (R280). -/
def State.openRow (s : State) (n bank row : Nat) (write : Bool) : State :=
  let x := s.ctl n
  match sget (fun _ => none) x.rows bank with
  | some (r, d) =>
    if r = row then s.setCtl n { x with rows := sput (fun _ => none) x.rows bank (some (row, d || write)) }
    else (s.setCtl n { x with rows := sput (fun _ => none) x.rows bank (some (row, write)) }).trafficBump (ctlObj n 2) 0x07
  | none => (s.setCtl n { x with rows := sput (fun _ => none) x.rows bank (some (row, write)) }).trafficBump (ctlObj n 2) 0x07

/-- The access of an admitted request (R278, R282, R288). -/
def State.access (s : State) (n h : Nat) (q : MemReq) : State :=
  let g := q.addr.toNat / 64
  let checked := fun (t : State) (good : State → State) =>
    match t.readGranule n g q.errors with
    | .clean => good t
    | .corrected _ => good (t.corrected n h g)
    | .uncorrectable => (t.lost n h g).uncorrectable (unitField 3 h n) q.who q.context (64 * g) (readDetail 0 n)
  match q.op with
  | .read => checked (s.trafficBump (ctlObj n 2) 0x01) id
  | .write data => (s.trafficBump (ctlObj n 2) 0x03).devWrite (64 * g) (data.take 64)
  | .partialWrite mask data =>
    checked (s.trafficBump (ctlObj n 2) 0x05) (fun t =>
      t.devWrite (64 * g) (maskBytes (getBytes t.mem (64 * g) 64) data mask.toNat))

/-- A request at the controller of channel h (R285, R286). -/
def State.controllerRequest (s : State) (q : MemReq) : State :=
  let d := gddrDecode q.addr.toNat
  let h := d.1
  let n := h / 8
  let bank := h % 8 * 16 + d.2.1
  let x := s.ctl n
  if 64 ≤ (x.slots.filter (fun u => u.bank = bank)).length then
    (s.setCtl n (x.refuse bank q.who)).trafficBump (ctlObj n 2) 0x09
  else if 5440 ≤ x.slots.length then (s.setCtl n (x.refuse bank q.who)).trafficBump (ctlObj n 2) 0x0B
  else
    let t := s.setCtl n { x with slots := x.slots ++ [{ bank := bank, who := q.who, context := q.context, addr := q.addr.toNat }] }
    let t := if t.traffic then t.peak (ctlObj n 2) 0x0D (x.slots.length + 1) else t
    let isWrite := match q.op with
      | .read => false
      | _ => true
    (t.openRow n bank d.2.2.1 isWrite).access n h q

/-- A request at a CXL port (R298, R299). One at a port that is not in service is uncorrectable (log 43). -/
def State.cxlRequest (s : State) (n : Nat) (q : MemReq) : State :=
  let x := s.cxlPort n
  let o := cxlObj n 2
  if x.state ≠ 1 then s.uncorrectable (unitField 5 0 n) q.who q.context q.addr.toNat (readDetail 1 n)
  else if 3200 ≤ x.slots.length then
    (s.setCxl n (if x.refused.contains q.who then x else { x with refused := x.refused ++ [q.who] })).trafficBump o 0x07
  else
    let t := s.setCxl n { x with slots := x.slots ++ [{ bank := 0, who := q.who, context := q.context, addr := q.addr.toNat }] }
    let t := if t.traffic then t.peak o 0x09 (x.slots.length + 1) else t
    let a := q.addr.toNat / 64 * 64
    match q.op with
    | .read => t.trafficBump o 0x01
    | .write data => (t.trafficBump o 0x03).devWrite a (data.take 64)
    | .partialWrite mask data => (t.trafficBump o 0x05).devWrite a (maskBytes (getBytes t.mem a 64) data mask.toNat)

/-- The unit that a request's address names: a controller, a CXL port, or none. -/
def requestUnit (a : Nat) : Option Nat :=
  if a < gddrEnd then some 0
  else if cxlBase 0 ≤ a ∧ a < cxlBase 0 + cxlWindow then some 1
  else if cxlBase 1 ≤ a ∧ a < cxlBase 1 + cxlWindow then some 2
  else none

/-- Meaning of MEMORY_REQUEST (R285, R286, R571). -/
def execMemoryRequest (q : MemReq) (s : State) : Host.Outcome State Fault Refusal :=
  match requestUnit q.addr.toNat with
  | none => .fault .noSuchUnit
  | some u =>
    .next (s.atMemory (fun t => if u = 0 then t.controllerRequest q else t.cxlRequest (u - 1) q))

/-- The first use of a bank leaves its slot. -/
def freeBankSlot (bank : Nat) : List SlotUse → List SlotUse
  | [] => []
  | u :: t => if u.bank = bank then t else u :: freeBankSlot bank t

/-- Meaning of SLOT_FREE_NOTICE (R286): units 0 to 23 are the controllers, 24 and 25 the CXL ports. The requesters marked
in the map get the free notice and present their requests again. -/
def execSlotFreeNotice (unit bank : Nat) (s : State) : Host.Outcome State Fault Refusal :=
  onUnit (decide (unit < 26))
    (if unit < 24 then
      let x := s.ctl unit
      if x.slots.any (fun u => u.bank = bank) then
        s.setCtl unit { x with slots := freeBankSlot bank x.slots, refused := x.refused.filter (fun r => r.1 ≠ bank) }
      else s
    else
      let x := s.cxlPort (unit - 24)
      if x.slots = [] then s else s.setCxl (unit - 24) { x with slots := x.slots.drop 1, refused := [] })

/-! ## Refresh, scrub and write-back (R281 to R284, R293, R294) -/

/-- The first tick at or after t whose remainder by m is r. -/
def nextMod (t m r : Nat) : Nat := t + (r + m - t % m) % m

/-- The next window of a bank (R293, R294). -/
def State.windowTick (s : State) (h bank : Nat) : Nat :=
  if (s.ctl (h / 8)).double.contains h then nextMod s.clock.tick.toNat 48 ((3 * bank + h % 3) % 48)
  else nextMod s.clock.tick.toNat 96 ((6 * bank + h % 6) % 96)

/-- The scrub of one granule (R281, R283). -/
def State.scrubGranule (s : State) (n h g : Nat) (errors : List (Nat × Byte)) : State :=
  match s.readGranule n g errors with
  | .clean => s
  | .corrected _ =>
    let t := s.corrected n h g
    if (s.ctl n).scrubbed.contains g then t.repair n h g true else t
  | .uncorrectable =>
    (s.lost n h g).addError 0x0010 0 (unitField 3 h n) noJob 0 noStep (BitVec.ofNat 64 (64 * g)) (BitVec.ofNat 64 (readDetail 0 n))

/-- The scrub of a bank's next row. -/
def State.scrubRow (s : State) (h bank : Nat) (errors : List (Nat × Nat × Byte)) : State :=
  let n := h / 8
  let key := h % 8 * 16 + bank
  let row := sget (fun _ => 0) (s.ctl n).scrubRow key
  let of_ := fun (w : Nat) => (errors.filter (fun e => e.1 = w)).map (fun e => e.2)
  let t := (upto 31).foldl (fun (u : State) w =>
    if of_ w = [] then u else u.scrubGranule n h (granuleAddr h bank row w / 64) (of_ w)) s
  let mine := (upto 31).map (fun w => granuleAddr h bank row w / 64)
  let hit := (upto 31).filterMap (fun w =>
    match s.readGranule n (granuleAddr h bank row w / 64) (of_ w) with
    | .corrected _ => some (granuleAddr h bank row w / 64)
    | _ => none)
  let x := t.ctl n
  (t.setCtl n { x with
    scrubbed := x.scrubbed.filter (fun g => !(mine.contains g)) ++ hit
    scrubRow := sput (fun _ => 0) x.scrubRow key ((row + 1) % 32768) }).bump64 (ctlObj n 1) 0x07 1

/-- Meaning of REFRESH_WINDOW (R293): the bank's row closes, and one listed granule of the bank is written back, or the
next row is scrubbed. `errors` are the symbols that the row's granules return wrongly. -/
def execRefreshWindow (h bank : Nat) (errors : List (Nat × Nat × Byte)) (s : State) : Host.Outcome State Fault Refusal :=
  onUnit (decide (h < 192) && decide (bank < 16))
    (if s.power.memory ≠ 2 then s
    else
      let t := s.until (s.windowTick h bank)
      let n := h / 8
      let x := t.ctl n
      let x := { x with rows := sput (fun _ => none) x.rows (h % 8 * 16 + bank) none }
      match x.writeBacks.find? (fun w => w.1 = h && (gddrDecode (64 * w.2)).2.1 = bank) with
      | some w => t.setCtl n { x with writeBacks := x.writeBacks.erase w }
      | none => (t.setCtl n x).scrubRow h bank errors)

/-- Meaning of REFRESH_RATE_CHANGE (R294): `temperature` is the highest report of the channel's devices, in 1/16 °C. -/
def execRefreshRateChange (h : Nat) (temperature : Int) (s : State) : Host.Outcome State Fault Refusal :=
  onUnit (decide (h < 192))
    (let t := s.until (next96 s.clock.tick.toNat)
    let x := t.ctl (h / 8)
    if 85 * 16 < temperature && !(x.double.contains h) then t.setCtl (h / 8) { x with double := x.double ++ [h] }
    else if temperature ≤ 80 * 16 then t.setCtl (h / 8) { x with double := x.double.filter (fun d => d ≠ h) }
    else t)

/-! ## CXL ports (R299, R300) -/

/-- The link of CXL port n goes down (R299). -/
def State.cxlDown (s : State) (n : Nat) : State :=
  let x := s.cxlPort n
  x.slots.foldl (fun (t : State) u => t.uncorrectable (unitField 5 0 n) u.who u.context u.addr (readDetail 1 n))
    (s.setCxl n { x with state := 2, slots := [], refused := [] })

/-- Meaning of CXL_LINK_TRAINED (R299). -/
def execCxlLinkTrained (n speed width : Nat) (s : State) : Host.Outcome State Fault Refusal :=
  onUnit (decide (n < 2))
    (let x := s.cxlPort n
    if x.state = 2 then s.setCxl n { x with state := 1, speed := speed, width := width } else s)

/-- Meaning of CXL_READ_RESPONSE (R299, R300): the request leaves its slot, and marked requesters get the free notice. -/
def execCxlReadResponse (n : Nat) (a : CxlAnswer) (s : State) : Host.Outcome State Fault Refusal :=
  onUnit (decide (n < 2))
    (let x := s.cxlPort n
    match x.slots.find? (fun u => u.addr = a.addr.toNat) with
    | none => s
    | some u =>
      let t := s.setCxl n { x with slots := x.slots.erase u, refused := [] }
      let t := if a.overload then t.bump64 (cxlObj n 1) 0x05 1 else t
      if a.poisoned then (t.bump64 (cxlObj n 1) 0x01 1).uncorrectable (unitField 5 0 n) u.who u.context u.addr (readDetail 1 n) else t)

/-- Meaning of CXL_EXPANDER_EVENT (R300, R490). -/
def execCxlExpanderEvent (n : Nat) (first second : DWord) (s : State) : Host.Outcome State Fault Refusal :=
  onUnit (decide (n < 2)) (s.addError 0x0012 0 (unitField 5 0 n) noJob 0 noStep first second)

/-! ## Host memory (R301, R302) -/

/-- The outstanding read with a tag: one of the first 768 that are not held (R301, R632). -/
def HostIf.sentAsk (h : HostIf) (tag : Nat) : Option HostAsk := ((h.asks.filter (fun a => a.heldFor.isNone)).take 768).find? (fun a => a.tag = tag)

/-- Asks of the job manager carry this and the context in place of a logical core. -/
def managerAsk : Nat := 2 ^ 40

/-- A host-memory read that is uncorrectable, with source 4 (R302). What the job manager asked for is noted as unread. -/
def State.hostReadFailed (s : State) (a : HostAsk) : State :=
  let t := { s with host := { s.host with asks := s.host.asks.filter (fun b => b.tag ≠ a.tag) } }
  let t := t.addError 0x0010 (if managerAsk ≤ a.core then 0 else 2) (unitField 6 0 0)
    (match s.lcore a.core with
    | some x => jobField x.k x.l
    | none => noJob) 0 noStep (BitVec.ofNat 64 a.addr) (BitVec.ofNat 64 (readDetail 4 0))
  if managerAsk ≤ a.core then { t with host := { t.host with fetched := t.host.fetched ++ [(a.core - managerAsk, a.addr, [])] } }
  else
    match t.lcore a.core with
    | none => t
    | some x =>
      match x.fetches.find? (fun f => f.asks.any (fun b => b.tag = hostTag a.tag)) with
      | some f => t.mistakeOf a.core f.held.at_ (opcode f.held.w) 0x43 (readDetail 4 0)
      | none => t

/-- Data of a host-memory read; the ask is done when all of it has come. -/
def State.hostData (s : State) (a : HostAsk) (bytes : List Byte) : State :=
  let bs := bytes.take a.length
  let left := a.length - bs.length
  let asks := if left = 0 then s.host.asks.filter (fun b => b.tag ≠ a.tag)
    else s.host.asks.map (fun b => if b.tag = a.tag then { b with addr := a.addr + bs.length, length := left } else b)
  let t := { s with host := { s.host with asks := asks } }
  if managerAsk ≤ a.core then { t with host := { t.host with fetched := t.host.fetched ++ [(a.core - managerAsk, a.addr, bs)] } }
  else
    match t.lcore a.core with
    | none => t
    | some x =>
      match (x.fetches.flatMap (fun f => f.asks)).find? (fun b => b.tag = hostTag a.tag) with
      | none => t
      | some b => t.dataArrive a.core (hostTag a.tag) (tierKey 4 a.addr - b.addr) bs

/-- Meaning of HOST_COMPLETION_TIMEOUT (R302). -/
def execHostCompletionTimeout (tag : Nat) (s : State) : Host.Outcome State Fault Refusal :=
  .next (match s.host.sentAsk tag with
    | none => s
    | some a => (s.bump64 0x9900 0x06 1).hostReadFailed a)

/-- Meaning of HOST_READ_COMPLETION (R302). -/
def execHostReadCompletion (tag : Nat) (a : HostAnswer) (s : State) : Host.Outcome State Fault Refusal :=
  .next (match s.host.sentAsk tag with
    | none => s
    | some q =>
      match a with
      | .data bs => s.hostData q bs
      | .poisoned => (s.bump64 0x9900 0x08 1).hostReadFailed q
      | .unsupported => s.hostReadFailed q
      | .abort => s.hostReadFailed q)

/-! ## BAR2 (R270) -/

/-- Log2 of the size of a function's BAR2. -/
def HostIf.bar2Size (h : HostIf) (fn : Nat) : Nat := sget (fun _ => 34) h.bar2 fn

/-- A function takes accesses: the link is up, and it is not in D3hot (R631, R632). -/
def State.takesAccess (s : State) (fn : Nat) : Bool := s.power.alive && s.host.state = 2 && !(s.host.d3.contains fn)

/-- Completes a BAR access. -/
def State.barAnswer (s : State) (fn offset status : Nat) (data : List Byte) : State :=
  { s with host := { s.host with completions := s.host.completions ++ [(fn, offset, status, data)] } }

/-- Meaning of BAR2_ACCESS (R270, R278, R571, R632): `data` are the bytes of a write, none for a read of `length` bytes. -/
def execBar2Access (fn offset length : Nat) (data : Option (List Byte)) (s : State) : Host.Outcome State Fault Refusal :=
  onUnit (decide (fn < 16))
    (if !(s.takesAccess fn) || 2 ^ s.host.bar2Size fn ≤ offset then s
    else
      let p := s.partition fn 0
      let n := match data with
        | some bs => bs.length
        | none => length
      if p.2 < offset + n || p.2 ≤ offset then
        (match data with
        | some _ => s
        | none => s.barAnswer fn offset 1 [])
      else s.atMemory (fun t =>
        match data with
        | some bs => t.devWrite (p.1 + offset) bs
        | none =>
          match t.unreadable (p.1 + offset) length with
          | some g =>
            let h := (gddrDecode (64 * g)).1
            (t.lost (h / 8) h g).uncorrectable (unitField 3 h (h / 8)) (.host fn) fn (p.1 + offset) (readDetail 0 (h / 8))
          | none => t.barAnswer fn offset 0 (getBytes t.mem (p.1 + offset) length)))

end Sys2Proof.Machine
end

