-- ==== Sys2Proof/Machine/Link.lean ====
section
/-! DEFINITION. Scatex links: blocks, retry, release, credits and lanes (R330 to R361, R370, R374 to R376, R385). -/

namespace Sys2Proof.Machine

/-! ## Ports -/

/-- Lanes in a mask. -/
def lanes (m : BitVec 13) : Nat := ((upto 13).filter (fun i => bit m i)).length

/-- A mask with only lane l. -/
def lane (l : Nat) : BitVec 13 := BitVec.ofNat 13 (2 ^ l)

/-- In service with 12 lanes in both directions, or with a direction on 11 (R385). -/
def serviceState (tx rx : BitVec 13) : Nat := if lanes tx = 12 && lanes rx = 12 then 2 else 3

def Port.inService (x : Port) : Bool := Sys2Proof.Machine.inService x.state

/-- Flits of a packet: its header and its data (R339). -/
def flits (p : Packet) : Nat := 1 + (p.data.length + 31) / 32

/-- Flits that the buffer of a class and channel holds (R345). -/
def creditFull (key : Nat) : Nat := if key % 4 < 2 then 14336 else 2048

def Port.credit (x : Port) (key : Nat) : Nat := sget creditFull x.credits key
def Port.setCredit (x : Port) (key n : Nat) : Port := { x with credits := sput creditFull x.credits key n }

/-- Sends a link-control message on a port. -/
def State.linkSend (s : State) (p sub : Nat) (arg : DWord) (body : List Byte) : State :=
  s.setPort p { s.port p with control := (s.port p).control ++ [(sub, arg, body)] }

/-- Sends a flooded message on every port in service but one (R343). -/
def State.flood (s : State) (skip : Option Nat) (sub : Nat) (arg : DWord) (body : List Byte) : State :=
  ((upto 8).filter (fun p => some p ≠ skip && (s.port p).inService)).foldl (fun (t : State) p => t.linkSend p sub arg body) s

/-- The own ends of a link record (R365). -/
def State.ownEnds (s : State) : List LinkEnd :=
  (upto 8).map (fun p => { state := (s.port p).state, neighbour := (s.port p).nCoord })

/-- Body of a link record (R342, subtype 0x08). -/
def recordBody (coord : Half) (version : Word) (ends : List LinkEnd) : List Byte :=
  leBytes 2 coord.toNat ++ leBytes 2 0 ++ leBytes 4 version.toNat ++
    ends.flatMap (fun e => leBytes 1 e.state ++ leBytes 1 0 ++ leBytes 2 e.neighbour.toNat)

/-- Destinations, each once, that have packets unanswered. -/
def Fabric.waitingFor (f : Fabric) : List Half := (f.unanswered.map (fun u => u.dest)).eraseDups

/-- The port on which a packet leaves toward its target, given where it is (R370): none at its target. -/
def outPort (p : Packet) (at_ : Nat) : Option Nat :=
  let two := !p.detour || 2 ≤ p.channel
  let target := if two then p.dest.toNat else p.inter.toNat
  let dirs := if p.detour && two then p.dir1 else p.dir0
  match (upto 4).find? (fun i => digit at_ i ≠ digit target i) with
  | none => none
  | some i => some (portOf i (bit dirs (3 - i)))

/-- The devices present in the torus map (R365). -/
def Fabric.devices (f : Fabric) : List Nat := ((f.records.map (fun p => p.1))).filter f.present

/-- The port on the first hop of the route to a device (R368, R380). -/
def State.firstHop (s : State) (d : Nat) : Option Nat :=
  outPort (s.packet 0x7F (BitVec.ofNat 16 d) 0 0 0 0 []) s.coord.toNat

/-- The time master and the time parent once discovery has ended (R380): the lowest device present; one that joins a
running torus is not synchronised and does not count itself. -/
def State.retime (s : State) : State :=
  let f := s.fabric
  if f.discovering || f.coord.isNone then s
  else
    let waits := f.joining && !s.clock.synced
    match (f.devices).find? (fun d => !(waits && d = s.coord.toNat)) with
    | none => s
    | some m =>
      if m = s.coord.toNat then
        { s with clock := { s.clock with synced := true, parent := 0xFF, mode := if s.clock.mode = 2 then 0 else s.clock.mode } }
      else
        match s.firstHop m with
        | none => s
        | some p => if s.clock.parent = p then s else { s with clock := { s.clock with parent := p, asked := none } }

/-- A change of the torus map: it is counted when it changes a route, and a destination that has packets unanswered and a
new route is held (R371, R386). The time parent follows the map (R380). -/
def State.mapChange (s : State) (f : Fabric) : State :=
  let a := s.coord.toNat
  let moved := ((s.fabric.records ++ f.records).map (fun p => p.1)).any (fun d => s.fabric.route a d ≠ f.route a d)
  let held := (s.fabric.waitingFor).filter (fun d => !(f.holds.contains d) && s.fabric.route a d.toNat ≠ f.route a d.toNat)
  let t := { s with fabric := { f with holds := f.holds ++ held, changed := some s.clock.tick } }
  (if moved then t.bump 0x0420 0x07 1 else t).retime

/-- The own link record takes a new version and is flooded (R365). -/
def State.ownRecord (s : State) : State :=
  match s.fabric.coord with
  | none => s
  | some c =>
    let v := s.fabric.version + 1
    let f := { s.fabric with version := v, records := sput (fun _ => none) s.fabric.records c.toNat (some { version := v, ends := s.ownEnds }) }
    (s.mapChange f).flood none 0x08 0 (recordBody c v s.ownEnds)

/-- A port leaves service: counted and recorded, and what waits for it is discarded (R332, R352, R374). -/
def State.portDown (s : State) (p : Nat) : State :=
  let x := s.port p
  if !x.inService then s
  else
    let lost := s.fabric.tx.filter (fun q => outPort q s.coord.toNat = some p)
    let t := s.setPort p { x with state := 6, retry := [], resend := [], nakking := false, naks := 0, txNext := none, rxNext := none, rxSwap := none, txSwap := none }
    let t := { t with fabric := { t.fabric with tx := t.fabric.tx.filter (fun q => !(lost.contains q)) } }
    let t := (t.bump64 (portObj p 1) 0x0D 1).bump64 (portObj p 1) 0x0B lost.length
    (t.addError 0x0022 0 (unitField 4 0 p) noJob 0 noStep (BitVec.ofNat 64 (x.txMask.toNat * 2 ^ 13 + x.rxMask.toNat)) 0).ownRecord

/-- The state of a port in service follows its masks; fewer than 11 lanes take it down (R332). -/
def State.portMasks (s : State) (p : Nat) : State :=
  let x := s.port p
  if !x.inService then s
  else if lanes x.txMask < 11 || lanes x.rxMask < 11 then s.portDown p
  else if x.state = serviceState x.txMask x.rxMask then s
  else
    let t := s.setPort p { x with state := serviceState x.txMask x.rxMask }
    let t := if serviceState x.txMask x.rxMask = 3 &&
        ((lanes x.txMask = 11 && lanes x.txRetired = 2) || (lanes x.rxMask = 11 && lanes x.rxRetired = 2)) then t.alarm 0x0200 0x09 2 else t
    t.ownRecord

/-! ## Blocks (R337, R349 to R354) -/

/-- The sequence number n lies at or after m in the near future. -/
def seqReached (m n : BitVec 14) : Bool := (n - m).toNat < 8192

/-- The receiver asks for a retry (R349). -/
def State.sendNak (s : State) (p : Nat) : State :=
  s.setPort p { s.port p with nakking := true, naksSent := (s.port p).naksSent + 1 }

/-- The blocks after an acknowledged one stay in the retry buffer. -/
def dropAcked (ack : BitVec 14) (l : List (BitVec 14)) : List (BitVec 14) :=
  match l.findIdx? (fun q => q = ack) with
  | some n => l.drop (n + 1)
  | none => l

/-- The acknowledgement and the NAK of a block (R348, R350, R352). -/
def State.takeAck (s : State) (p : Nat) (b : FecBlock) : State :=
  let x := s.port p
  let rest := dropAcked b.ack x.retry
  if b.nak then
    let t := (s.setPort p { x with retry := rest, resend := rest, naks := x.naks + 1 }).bump64 (portObj p 1) 0x05 1
    if 64 ≤ x.naks + 1 then t.portDown p else t
  else s.setPort p { x with retry := rest, resend := x.resend.filter (fun q => rest.contains q) }

/-- Adds the corrected symbols of each receive lane. -/
def addLanes (a b : List Nat) : List Nat := (upto 13).map (fun i => a.getD i 0 + b.getD i 0)

/-- A stamp extended to the receiver's global cycle (R354): the latest cycle not after now that ends in it. -/
def extendStamp (now stamp : Nat) : Nat := now - (now + 65536 - stamp) % 65536

/-- A block in sequence is accepted: credits, and its packets wait for their release (R346, R349, R354). -/
def State.accept (s : State) (p : Nat) (b : FecBlock) : State :=
  let x := s.port p
  let key := b.creditClass * 4 + b.creditChan
  let x := if b.creditClass < 3 then x.setCredit key (min (creditFull key) (x.credit key + 16 * b.credits)) else x
  let due := extendStamp s.now b.stamp.toNat + x.release
  let x := { x with
    expect := x.expect + 1, nakking := false, naks := if b.nak then x.naks else 0
    waiting := x.waiting ++ [{ at_ := max s.now due, packets := b.packets }] }
  let t := s.setPort p x
  let t := if due < s.now then t.bump64 (portObj p 1) 0x07 1 else t
  if t.traffic then
    b.packets.foldl (fun (u : State) q => if q.cls < 3 then u.bump64 (portObj p 3) (0x07 + 2 * q.cls) (flits q) else u) t
  else t

/-- Meaning of FEC_BLOCK_RECEIVED (R337, R349 to R352). -/
def execFecBlockReceived (p : Nat) (b : FecBlock) (s : State) : Host.Outcome State Fault Refusal :=
  onUnit (decide (p < 8))
    (if !(s.port p).inService then s
    else
      let x := s.port p
      let t := s.setPort p { x with laneErrors := addLanes x.laneErrors b.corrected, windowBlocks := x.windowBlocks + 1 }
      let t := t.bump64 (portObj p 1) 0x01 (b.corrected.foldl (fun n m => n + m) 0)
      if !b.correctable then
        let t := t.bump64 (portObj p 1) 0x03 1
        if (t.port p).nakking then t else t.sendNak p
      else
        let t := t.takeAck p b
        if !(t.port p).inService then t
        else if b.seq = (t.port p).expect then t.accept p b
        else if (t.port p).nakking then t
        else t.sendNak p)

/-- Meaning of NAK_REPEAT (R349). -/
def execNakRepeat (p : Nat) (s : State) : Host.Outcome State Fault Refusal :=
  onUnit (decide (p < 8)) (if (s.port p).inService && (s.port p).nakking then s.sendNak p else s)

/-- Meaning of BLOCK_RELEASE (R354): time goes on to the release of the oldest block that waits, its packets leave the
receive buffer, and their flits fall due as credits (R346). The packets themselves follow as commands. -/
def execBlockRelease (p : Nat) (s : State) : Host.Outcome State Fault Refusal :=
  onUnit (decide (p < 8))
    (match (s.port p).waiting with
    | [] => s
    | w :: rest =>
      let t := s.untilCycle w.at_
      let x := t.port p
      t.setPort p { x with
        waiting := rest
        due := w.packets.foldl (fun (m : Sparse Nat) q =>
          if q.cls < 3 then sput (fun _ => 0) m (4 * q.cls + q.channel) (sget (fun _ => 0) m (4 * q.cls + q.channel) + flits q) else m) x.due })

/-! ## Forwarding (R340, R346, R369 to R371, R375) -/

/-- The packet as it is on the link of output o, and that output; none at its target (R369, R370). `q` is the input. -/
def hop (f : Fabric) (at_ q : Nat) (p : Packet) : Option (Nat × Packet) :=
  let p := if p.detour && p.channel < 2 && at_ = p.inter.toNat then { p with channel := 2 } else p
  match outPort p at_ with
  | none => none
  | some o =>
    let i := o / 2
    let low := p.channel / 2 * 2
    let ch := if q = o || q / 2 ≠ i then low else p.channel
    let e := f.extent i
    let dateline := if o % 2 = 0 then digit at_ i = e - 1 else digit at_ i = 0
    some (o, { p with channel := if dateline then low + 1 else ch })

/-- The class and channel that returns credits next: the first from the turn on that has 16 flits due (R346). -/
def Port.returning (x : Port) : Option Nat :=
  ((upto 12).map (fun i => (x.turn + i) % 12)).find? (fun key => 16 ≤ sget (fun _ => 0) x.due key)

/-- A block goes out: it takes the next sequence number, stays in the retry buffer, and returns one class's credits. -/
def Port.sendBlock (x : Port) : Port :=
  let y := { x with nextSeq := x.nextSeq + 1, retry := x.retry ++ [x.nextSeq] }
  match x.returning with
  | none => y
  | some key => { y with due := sput (fun _ => 0) x.due key (sget (fun _ => 0) x.due key % 16), turn := (key + 1) % 12 }

/-- A reserved packet type (R340). -/
def reservedType (t : Nat) : Bool :=
  !((1 ≤ t && t ≤ 8) || (0x10 ≤ t && t ≤ 0x14) || (0x20 ≤ t && t ≤ 0x2B) || t = 0x30 || t = 0x7F)

/-- A packet that entered on input q leaves on its output, when a link, credits and room in the retry buffer are there. A
packet begins a block of its own (log 44). -/
def State.forward (s : State) (q : Nat) (p : Packet) : State :=
  match hop s.fabric s.coord.toNat q p with
  | none => s
  | some (o, p1) =>
    let x := s.port o
    let local_ := q = o
    let key := 4 * p1.cls + p1.channel
    let n := flits p1
    let blocks := (n + 59) / 60
    if !x.inService || (local_ && (!(s.fabric.tx.contains p) || s.fabric.holds.contains p.dest)) then s
    else if x.credit key < n || 512 < x.retry.length + blocks then s
    else
      let y := (upto blocks).foldl (fun (z : Port) _ => z.sendBlock) (x.setCredit key (x.credit key - n))
      let t := s.setPort o y
      let t := { t with fabric := { t.fabric with
        sent := (o, p1) :: t.fabric.sent, tx := if local_ then t.fabric.tx.erase p else t.fabric.tx } }
      if t.traffic then t.bump64 (portObj o 3) (1 + 2 * p1.cls) n else t

/-- Meaning of PACKET_FORWARD (R340, R370, R371): `q` is the input of R375; a packet of this device comes in on the input
of its own output. -/
def execPacketForward (q : Nat) (p : Packet) (s : State) : Host.Outcome State Fault Refusal :=
  onUnit (decide (q < 8))
    (if reservedType p.ptype then s.bump64 (portObj q 1) 0x0B 1 else if 3 ≤ p.cls then s else s.forward q p)

/-! ## Lanes (R355 to R359) -/

/-- The lane of a direction that is neither in use nor retired. -/
def spareLane (mask retired : BitVec 13) : Option Nat := (upto 13).find? (fun l => !(bit mask l) && !(bit retired l))

/-- The receiver asks for a substitution (R355, R357 step 1). -/
def State.requestLane (s : State) (p : Nat) (weak : Option Nat) : State :=
  let x := s.port p
  match spareLane x.rxMask x.rxRetired with
  | none => s
  | some sp =>
    if x.rxSwap.isSome then s
    else
      (s.setPort p { x with rxSwap := some { weak := weak, sprout := sp, stage := 1, from_ := 0, mask := x.rxMask } }).linkSend p 0x01
        (BitVec.ofNat 64 (weak.getD 0 * 2 ^ 12 + sp)) []

/-- Meaning of LANE_REQUEST (R357 step 2): the sender starts the pattern on the sprout. -/
def execLaneRequest (p weak sprout : Nat) (s : State) : Host.Outcome State Fault Refusal :=
  onUnit (decide (p < 8) && decide (sprout < 13) && decide (weak < 13))
    (let x := s.port p
    if !x.inService || bit x.txMask sprout || bit x.txRetired sprout then s
    else s.setPort p { x with txSwap := some { weak := if bit x.txMask weak && lanes x.txMask = 12 then some weak else none, sprout := sprout, stage := 1, from_ := 0, mask := x.txMask } })

/-- Meaning of EQUALISER_ADAPTED (R357 step 3): the receiver sends lane ready. -/
def execEqualiserAdapted (p : Nat) (s : State) : Host.Outcome State Fault Refusal :=
  onUnit (decide (p < 8))
    (let x := s.port p
    match x.rxSwap with
    | none => s
    | some w => (s.setPort p { x with rxSwap := some { w with stage := 3 } }).linkSend p 0x02 (BitVec.ofNat 64 w.sprout) [])

/-- A mask with the sprout in place of the weak lane. -/
def LaneSwap.newMask (w : LaneSwap) (m : BitVec 13) : BitVec 13 :=
  (match w.weak with
    | some l => m &&& ~~~(lane l)
    | none => m) ||| lane w.sprout

/-- Meaning of LANE_READY (R357 step 4): the sender chooses N and sends lane switch. -/
def execLaneReady (p sprout : Nat) (s : State) : Host.Outcome State Fault Refusal :=
  onUnit (decide (p < 8))
    (let x := s.port p
    match x.txSwap with
    | none => s
    | some w =>
      if w.sprout ≠ sprout then s
      else
        let n := x.nextSeq + 64
        let m := w.newMask x.txMask
        (s.setPort p { x with txSwap := some { w with stage := 4, from_ := n, mask := m }, txNext := some (n, m) }).linkSend p 0x03
          (BitVec.ofNat 64 (n.toNat * 2 ^ 50 + m.toNat * 2 ^ 32)) [])

/-- Meaning of LANE_SWITCH (R357 step 5, at the receiver): the mask applies from block N. -/
def execLaneSwitch (p : Nat) (n : BitVec 14) (mask : BitVec 13) (s : State) : Host.Outcome State Fault Refusal :=
  onUnit (decide (p < 8))
    (let x := s.port p
    match x.rxSwap with
    | none => s
    | some w => s.setPort p { x with rxNext := some (n, mask), rxSwap := some { w with stage := 4, from_ := n, mask := mask } })

/-- A lane is retired in a direction (R357, R358), and recorded with the sprout that takes its place, if any (R490). -/
def State.recordLane (s : State) (p l : Nat) (sprout : Option Nat) (left : Nat) : State :=
  let t := s.addError 0x0005 3 (unitField 4 l p) noJob 0 noStep 0 (BitVec.ofNat 64 left)
  match sprout with
  | some n => t.addError 0x0006 1 (unitField 4 n p) noJob 0 noStep (BitVec.ofNat 64 (unitField 4 l p).toNat) 0
  | none => t

/-- The transmit mask of a switch applies (R356, R357). -/
def State.applyTx (s : State) (p : Nat) : State :=
  let x := s.port p
  match x.txNext with
  | none => s
  | some (n, m) =>
    if !(seqReached n x.nextSeq) then s
    else
      let gone := x.txMask &&& ~~~m
      let t := (s.setPort p { x with txMask := m, txRetired := x.txRetired ||| gone, txNext := none, txSwap := none }).bump64 (portObj p 1) 0x09 1
      let t := ((upto 13).filter (fun l => bit gone l)).foldl (fun (u : State) l => u.recordLane p l (x.txSwap.map (fun w => w.sprout)) 0) t
      t.portMasks p

/-- The receive mask of a switch applies. -/
def State.applyRx (s : State) (p : Nat) : State :=
  let x := s.port p
  match x.rxNext with
  | none => s
  | some (n, m) =>
    if !(seqReached n x.expect) then s
    else
      let gone := x.rxMask &&& ~~~m
      let t := (s.setPort p { x with rxMask := m, rxRetired := x.rxRetired ||| gone, rxNext := none, rxSwap := none }).bump64 (portObj p 1) 0x09 1
      let t := ((upto 13).filter (fun l => bit gone l)).foldl (fun (u : State) l => u.recordLane p l (x.rxSwap.map (fun w => w.sprout)) 0) t
      t.portMasks p

/-- Meaning of LANE_SWITCH_APPLY (R356, R357 step 5). -/
def execLaneSwitchApply (p : Nat) (s : State) : Host.Outcome State Fault Refusal :=
  onUnit (decide (p < 8)) (if (s.port p).inService then (s.applyTx p).applyRx p else s)

/-- Meaning of MASK_CHANGE (R358, R359): the sender uses the mask from the named sequence on, and a pending switch is
cancelled. -/
def execMaskChange (p : Nat) (n : BitVec 14) (mask : BitVec 13) (s : State) : Host.Outcome State Fault Refusal :=
  onUnit (decide (p < 8))
    (let x := s.port p
    if !x.inService then s
    else
      let gone := x.txMask &&& ~~~mask
      let t := s.setPort p { x with txMask := mask, txRetired := x.txRetired ||| gone, txNext := none, txSwap := none, resend := x.retry.filter (fun q => seqReached n q) }
      let t := t.bump64 (portObj p 1) 0x09 1
      let t := ((upto 13).filter (fun l => bit gone l)).foldl (fun (u : State) l =>
        u.recordLane p l none (if (spareLane mask (x.txRetired ||| gone)).isSome then 1 else 0)) t
      t.portMasks p)

/-- The receiver drops a lane: the 11-lane mask applies from the next expected block on (R358, R359). -/
def State.dropLane (s : State) (p l : Nat) : State :=
  let x := s.port p
  if !x.inService || !(bit x.rxMask l) then s
  else
    let m := x.rxMask &&& ~~~(lane l)
    let t := s.setPort p { x with rxMask := m, rxRetired := x.rxRetired ||| lane l, rxNext := none, rxSwap := none }
    let t := (t.linkSend p 0x04 (BitVec.ofNat 64 (x.expect.toNat * 2 ^ 50 + m.toNat * 2 ^ 32)) []).bump64 (portObj p 1) 0x09 1
    (t.recordLane p l none (if (spareLane m (x.rxRetired ||| lane l)).isSome then 1 else 0)).portMasks p

/-- Meaning of LANE_FAILURE (R358, R359): NAK, mask change, and the sprout is brought in when there is one. -/
def execLaneFailure (p l : Nat) (s : State) : Host.Outcome State Fault Refusal :=
  onUnit (decide (p < 8) && decide (l < 13))
    (if !(s.port p).inService || !(bit (s.port p).rxMask l) then s
    else
      let t := (s.sendNak p).dropLane p l
      if (t.port p).inService then t.requestLane p none else t)

/-- Meaning of LANE_WINDOW_END (R355, R385): the counts of the window are shown, and the first lane above the threshold is
replaced. -/
def execLaneWindowEnd (p : Nat) (s : State) : Host.Outcome State Fault Refusal :=
  onUnit (decide (p < 8))
    (let x := s.port p
    let t := (upto 13).foldl (fun (u : State) l => u.setReg (portObj p 2) (l + 1) (BitVec.ofNat 32 (min (2 ^ 32 - 1) (x.laneErrors.getD l 0)))) s
    let t := t.setPort p { x with laneErrors := [], windowBlocks := 0 }
    match (upto 13).find? (fun l => bit x.rxMask l && 65536 < x.laneErrors.getD l 0) with
    | some l => if x.inService then t.requestLane p (some l) else t
    | none => t)

/-! ## Bringing a link up (R353, R360, R361) -/

/-- Meaning of TRAINING_BURST (R360): a port without a link sends the pattern. -/
def execTrainingBurst (p : Nat) (s : State) : Host.Outcome State Fault Refusal :=
  onUnit (decide (p < 8))
    (let x := s.port p
    if (x.state = 0 || x.state = 6) && !s.power.txIdle then s.setPort p { x with burst := some s.clock.tick } else s)

/-- Meaning of LINK_TRAINING (R360): both sides train all 13 lanes. A dimension of extent 1 stays idle (R364). -/
def execLinkTraining (p : Nat) (s : State) : Host.Outcome State Fault Refusal :=
  onUnit (decide (p < 8))
    (let x := s.port p
    let single := match s.fabric.extents with
      | some e => digit e.toNat (p / 2) = 0
      | none => false
    if (x.state = 0 || x.state = 6) && !s.power.txIdle && !single then s.setPort p { x with state := 1, burst := none } else s)

/-- The identity of this device (R361). -/
def State.identityBody (s : State) (p : Nat) : List Byte :=
  leBytes 8 s.ident.serial.toNat ++ leBytes 2 s.ident.stepping.toNat ++ leBytes 1 p ++
    leBytes 1 ((if s.fabric.coord.isSome then 1 else 0) + (if s.fabric.anchorUsed.isSome then 2 else 0)) ++
    leBytes 2 s.coord.toNat ++ leBytes 2 (s.fabric.anchorUsed.getD 0).toNat ++
    leBytes 4 (match s.fabric.shape with
      | some e => 65536 + e.toNat
      | none => 0) ++ leBytes 4 0

/-- A reference candidate is better: an anchored device before one that is not, then the lower serial number (R363). -/
def betterRef (a b : Bool × DWord × Half) : Bool :=
  (a.1 && !b.1) || (a.1 = b.1 && decide (a.2.1.toNat < b.2.1.toNat))

/-- The device as a reference candidate (R363). -/
def State.ownCandidate (s : State) : Bool × DWord × Half :=
  (s.fabric.anchorUsed.isSome, s.ident.serial, s.fabric.anchorUsed.getD 0)

/-- Body of a reference candidate (R342, subtype 0x07). -/
def candidateBody (c : Bool × DWord × Half) : List Byte :=
  leBytes 8 c.2.1.toNat ++ leBytes 1 (if c.1 then 1 else 0) ++ leBytes 1 0 ++ leBytes 2 c.2.2.toNat ++ leBytes 4 0

/-- Discovery starts (R366): a device without a coordinate is a candidate itself. -/
def State.discover (s : State) : State :=
  let best := match s.fabric.reference with
    | some r => r
    | none => s.ownCandidate
  { s with fabric := { s.fabric with
      discovering := true, changed := some s.clock.tick
      reference := if s.fabric.coord.isNone then some best else s.fabric.reference } }

/-- Tells the neighbour on a port the best reference candidate. -/
def State.tellReference (s : State) (p : Nat) : State :=
  match s.fabric.reference with
  | some r => s.linkSend p 0x07 0 (candidateBody r)
  | none => s

/-- Meaning of LINK_IN_SERVICE (R345, R353, R361): blocks flow, the release latency is set, and identity goes out. A
neighbour that appears starts discovery (R366). -/
def execLinkInService (p latency : Nat) (s : State) : Host.Outcome State Fault Refusal :=
  onUnit (decide (p < 8))
    (let x := s.port p
    if x.state ≠ 1 then s
    else
      let y : Port := { x with
        state := serviceState x.txMask x.rxMask, release := (latency + 60 + 59) / 60 * 60, nextSeq := 0, retry := [], resend := []
        expect := 0, nakking := false, naks := 0, credits := [], due := [], turn := 0, waiting := [], txNext := none, rxNext := none
        rxSwap := none, txSwap := none, laneErrors := [], windowBlocks := 0, nSerial := 0, nCoord := 0, nHeld := false }
      let t := (s.setPort p y).discover
      (((t.linkSend p 0x05 0 (t.identityBody p)).tellReference p).ownRecord).portMasks p)

end Sys2Proof.Machine
end

