-- ==== Sys2Proof/Machine/Torus.lean ====
section
/-! DEFINITION. Discovery, coordinates, departure, the global counter and route changes (R360 to R383). -/

namespace Sys2Proof.Machine

/-! ## Coordinates (R361 to R364) -/

/-- The coordinate that a neighbour at coordinate n implies through port p (R364): beyond its opposite port. -/
def Fabric.implied (f : Fabric) (p n : Nat) : Nat :=
  let i := p / 2
  let e := f.extent i
  setDigit n i (if p % 2 = 0 then (digit n i + e - 1) % e else (digit n i + 1) % e)

/-- The extent − 1 of a dimension as this device finds it (R362, R364): no link 0; both ports joined to one neighbour 1, or
to this device 0; otherwise as measured. -/
def State.ringOf (s : State) (i : Nat) : Option Nat :=
  let a := s.port (2 * i)
  let b := s.port (2 * i + 1)
  if !a.inService && !b.inService then some 0
  else if a.inService && b.inService && a.nSerial = b.nSerial then some (if a.nSerial = s.ident.serial then 0 else 1)
  else (Config.ring i s.clock.tick).map (fun n => n.toNat)

/-- The extents when none are in force (R362, R378): those of a running torus that the device joins, or as measured. -/
def State.settleExtents (s : State) : State :=
  match s.fabric.extents with
  | some _ => s
  | none =>
    match s.fabric.heardShape with
    | some e => { s with fabric := { s.fabric with extents := some e } }
    | none =>
      match s.ringOf 0, s.ringOf 1, s.ringOf 2, s.ringOf 3 with
      | some w, some x, some y, some z =>
        { s with fabric := { s.fabric with extents := some (BitVec.ofNat 16 (w * 4096 + x * 256 + y * 16 + z)) } }
      | _, _, _, _ => s

/-- Identity goes out on every port in service. -/
def State.tellIdentity (s : State) : State :=
  ((upto 8).filter (fun p => (s.port p).inService)).foldl (fun (t : State) p => t.linkSend p 0x05 0 (t.identityBody p)) s

/-- The device takes coordinate c, tells its neighbours, and floods its record. -/
def State.takeCoord (s : State) (c : Half) : State :=
  ({ s with fabric := { s.fabric with coord := some c } }.tellIdentity).ownRecord

/-- The ports in service whose neighbour holds a coordinate. -/
def State.heldPorts (s : State) : List Nat := (upto 8).filter (fun p => (s.port p).inService && (s.port p).nHeld)

/-- Ports that imply another coordinate than the device's are miscabled (R364). -/
def State.markMiscabled (s : State) : State :=
  match s.fabric.coord with
  | none => s
  | some c =>
    let wrong := (s.heldPorts).filter (fun p => s.fabric.implied p (s.port p).nCoord.toNat ≠ c.toNat)
    if wrong = [] then s else (wrong.foldl (fun (t : State) p => t.setPort p { t.port p with state := 4 }) s).ownRecord

/-- Takes the coordinate that the lowest-numbered port implies, when the device holds none (R364). -/
def State.adopt (s : State) : State :=
  match s.fabric.coord with
  | some _ => s.markMiscabled
  | none =>
    match s.heldPorts with
    | [] => s
    | p :: _ =>
      let t := s.settleExtents
      if t.fabric.extents.isNone then t
      else (t.takeCoord (BitVec.ofNat 16 (t.fabric.implied p (t.port p).nCoord.toNat))).markMiscabled

/-- Meaning of IDENTITY (R361, R364). A device whose neighbour holds a coordinate from the first identity on joins a running
torus (R378). -/
def execIdentity (p : Nat) (serial : DWord) (_stepping : Half) (port : Nat) (held _anchored : Bool) (coord _anchor : Half)
    (shape : Word) (s : State) : Host.Outcome State Fault Refusal :=
  onUnit (decide (p < 8))
    (let x := s.port p
    if !x.inService then s
    else
      let y := { x with nPort := port, nSerial := serial, nCoord := if held then coord else 0, nHeld := held }
      if port ≠ opposite p then (s.setPort p { y with state := 4 }).ownRecord
      else
        let t := s.setPort p y
        let f := t.fabric
        let t := { t with fabric := { f with
          joining := f.joining || (held && f.coord.isNone && decide (x.nSerial = 0))
          heardShape := if held && bit shape 16 && f.heardShape.isNone then some (BitVec.ofNat 16 shape.toNat) else f.heardShape } }
        (if y.nCoord = x.nCoord && y.nHeld = x.nHeld then t else t.ownRecord).adopt)

/-- Meaning of REFERENCE_CANDIDATE (R343, R363). -/
def execReferenceCandidate (p : Nat) (serial : DWord) (anchored : Bool) (coord : Half) (s : State) : Host.Outcome State Fault Refusal :=
  onUnit (decide (p < 8))
    (let c := (anchored, serial, coord)
    let better := match s.fabric.reference with
      | none => true
      | some r => betterRef c r
    if !better then s
    else { s with fabric := { s.fabric with reference := some c } }.flood (some p) 0x07 0 (candidateBody c))

/-- Meaning of LINK_RECORD (R343, R365). A record of the own coordinate that is not older makes the device issue a newer
one. -/
def execLinkRecord (p : Nat) (coord : Half) (version : Word) (ends : List LinkEnd) (s : State) : Host.Outcome State Fault Refusal :=
  onUnit (decide (p < 8))
    (if s.fabric.coord = some coord then
      (if s.fabric.version.toNat < version.toNat then { s with fabric := { s.fabric with version := version } }.ownRecord else s)
    else
      let newer := match s.fabric.record coord.toNat with
        | none => true
        | some r => decide (r.version.toNat < version.toNat)
      if !newer then s
      else
        let f := { s.fabric with records := sput (fun _ => none) s.fabric.records coord.toNat (some { version := version, ends := ends }) }
        (s.mapChange f).flood (some p) 0x08 0 (recordBody coord version ends))

/-- Meaning of DISCOVERY_END (R362, R363, R366, R380): 25,000 ticks without a change of a record. The reference device takes
its coordinate, and discovery goes on from there; otherwise discovery ends. -/
def execDiscoveryEnd (s : State) : Host.Outcome State Fault Refusal :=
  .next (match s.fabric.discovering, s.fabric.changed with
    | true, some c =>
      let t := (s.until (c.toNat + 25000)).settleExtents
      let f := t.fabric
      let self := match f.reference with
        | none => true
        | some r => r.2.1 = t.ident.serial
      if f.coord.isNone && f.extents.isSome && self then t.takeCoord (f.anchorUsed.getD 0)
      else { t with fabric := { f with discovering := false } }.retime
    | _, _ => s)

/-! ## Departure (R379) -/

/-- Body of a leave notice (R342, subtype 0x09). -/
def leaveBody (c : Half) (tick : DWord) : List Byte := leBytes 2 c.toNat ++ leBytes 6 0 ++ leBytes 8 tick.toNat

/-- Ticks for which a departing device keeps forwarding. -/
def leaveTicks : Nat := 2500000

/-- The device departs (R379 steps 1 and 2). -/
def State.depart (s : State) : State :=
  match s.fabric.coord, s.fabric.leaving with
  | some c, none =>
    let tick := s.clock.tick + BitVec.ofNat 64 leaveTicks
    { s with fabric := { s.fabric with leaving := some tick, leaves := s.fabric.leaves ++ [c] } }.flood none 0x09 0 (leaveBody c tick)
  | _, _ => s

/-- Meaning of DEPARTURE_ORDER. -/
def execDepartureOrder (_m : Nat) (s : State) : Host.Outcome State Fault Refusal := .next s.depart

/-- Meaning of LEAVE_NOTICE (R343, R379): the map shows no link of the departing device any more. -/
def execLeaveNotice (p : Nat) (coord : Half) (tick : DWord) (s : State) : Host.Outcome State Fault Refusal :=
  onUnit (decide (p < 8))
    (if s.fabric.leaves.contains coord then s
    else
      let v := match s.fabric.record coord.toNat with
        | some r => r.version
        | none => 0
      let r : LinkRec := { version := v, ends := [] }
      let f := { s.fabric with leaves := s.fabric.leaves ++ [coord], records := sput (fun _ => none) s.fabric.records coord.toNat (some r) }
      (s.mapChange f).flood (some p) 0x09 0 (leaveBody coord tick))

/-- A port goes idle: what waits for it is discarded and counted (R374). -/
def State.portIdle (s : State) (p : Nat) : State :=
  let lost := s.fabric.tx.filter (fun q => outPort q s.coord.toNat = some p)
  let t := s.setPort p { s.port p with state := 0, retry := [], resend := [], nakking := false, naks := 0, txNext := none, rxNext := none, rxSwap := none, txSwap := none }
  { t with fabric := { t.fabric with tx := t.fabric.tx.filter (fun q => !(lost.contains q)) } }.bump64 (portObj p 1) 0x0B lost.length

/-- Meaning of DEPARTURE_PORTS_IDLE (R379 step 4). -/
def execDeparturePortsIdle (s : State) : Host.Outcome State Fault Refusal :=
  .next (match s.fabric.leaving with
    | none => s
    | some tick =>
      let t := s.until tick.toNat
      let t := ((upto 8).filter (fun p => (t.port p).inService)).foldl State.portIdle t
      { t with fabric := { t.fabric with leaving := none } }.ownRecord)

/-! ## The global counter (R380 to R382) -/

/-- The device's count in units of 1/64 tick (R381). -/
def State.stamp (s : State) : Nat := 64 * s.clock.tick.toNat + 64 * s.clock.cycle / 60

/-- Body of a timestamp message (R342, subtype 0x06). -/
def stampBody (t1 t2 t3 : Nat) : List Byte := leBytes 8 t1 ++ leBytes 8 t2 ++ leBytes 8 t3

/-- Meaning of TIMESTAMP_EXCHANGE (R381): 65,536 ticks after the last one, a request goes to the time parent. -/
def execTimestampExchange (s : State) : Host.Outcome State Fault Refusal :=
  .next (if s.clock.parent = 0xFF then s
    else
      let t := match s.clock.askedAt with
        | some n => s.until (n.toNat + 65536)
        | none => s
      let t1 := t.stamp
      { t with clock := { t.clock with asked := some (BitVec.ofNat 64 t1), askedAt := some t.clock.tick } }.linkSend t.clock.parent 0x06
        (BitVec.ofNat 64 (2 ^ 62)) (stampBody t1 0 0))

/-- Meaning of TIMESTAMP_REQUEST (R381): t2 at reception and t3 at sending are the same here. -/
def execTimestampRequest (p : Nat) (t1 : DWord) (s : State) : Host.Outcome State Fault Refusal :=
  onUnit (decide (p < 8))
    (if (s.port p).inService then s.linkSend p 0x06 (BitVec.ofNat 64 (2 ^ 63)) (stampBody t1.toNat s.stamp s.stamp) else s)

/-- θ of R381. -/
def theta (t1 t2 t3 t4 : Int) : Int := ((t2 - t1) - (t4 - t3)) / 2

/-- A slot is armed (R382). -/
def State.anyArmed (s : State) : Bool := s.slots.any (fun p => p.2.state = 2)

/-- The counter is set to count n (R382): recorded when a slot is armed. -/
def State.stepCounter (s : State) (n : DWord) : State :=
  let old := s.clock.tick
  if n = old then s
  else
    let t := { s with clock := { s.clock with tick := n } }.alarm 0x0410 0x05 1
    if t.anyArmed then t.addError 0x0023 0 (unitField 0 0 s.coord.toNat) noJob 0 noStep old n else t

/-- Meaning of TIMESTAMP_REPLY (R380 to R382). -/
def execTimestampReply (p : Nat) (t1 t2 t3 : DWord) (s : State) : Host.Outcome State Fault Refusal :=
  onUnit (decide (p < 8))
    (if s.clock.parent ≠ p || s.clock.asked ≠ some t1 then s
    else
      let d := theta t1.toNat t2.toNat t3.toNat s.stamp
      if s.clock.exchanged then { s with clock := { s.clock with asked := none, theta := d, left := d, mode := 2 } }
      else
        let n : Int := (s.stamp + d) / 64
        let t := s.stepCounter (BitVec.ofInt 64 n)
        { t with clock := { t.clock with
            asked := none, theta := d, left := d - 64 * (n - s.clock.tick.toNat), exchanged := true, synced := true, mode := 2
            askedAt := some t.clock.tick } })

/-- Meaning of TICK_EDGE_CORRECTION (R382): 1/64 tick toward θ = 0, at most once every 4,096 ticks. A positive offset makes
the edge come earlier. -/
def execTickEdgeCorrection (s : State) : Host.Outcome State Fault Refusal :=
  .next (if s.clock.left = 0 then s
    else
      let t := match s.clock.corrected with
        | some n => s.until (n.toNat + 4096)
        | none => s
      let d : Int := if 0 < t.clock.left then 1 else -1
      { t with clock := { t.clock with edge := t.clock.edge - d, left := t.clock.left - d, corrected := some t.clock.tick } })

/-! ## Unanswered packets and route changes (R371, R373) -/

/-- Meaning of PACKET_UNANSWERED (R373). -/
def execPacketUnanswered (dest tag : Half) (s : State) : Host.Outcome State Fault Refusal :=
  .next (match s.fabric.unanswered.find? (fun u => u.dest = dest && u.tag = tag) with
    | none => s
    | some u =>
      let t := s.until (u.tick.toNat + 250000)
      let seq := BitVec.ofNat 32 t.errors.next
      let job := if u.job then BitVec.ofNat 32 (u.context * 2 ^ 16 + 2 ^ 15) else noJob
      let t := t.addError 0x0021 (if u.job then 2 else 0) (unitField 0 0 t.coord.toNat) job u.ptype noStep
        (BitVec.ofNat 64 dest.toNat) (BitVec.ofNat 64 tag.toNat)
      let t := { t with fabric := { t.fabric with
        unanswered := t.fabric.unanswered.filter (fun v => v.dest ≠ dest), purposes := t.fabric.purposes.filter (fun q => q.1 ≠ dest) } }
      if u.job then t.faultJob u.context 0x05 0x0021 seq else t)

/-- A packet that has not left takes the route in force (R371). -/
def State.reroute (s : State) (p : Packet) : Packet :=
  let r := (s.fabric.route s.coord.toNat p.dest.toNat).getD (none, 0, 0)
  { p with channel := 0, detour := r.1.isSome, inter := BitVec.ofNat 16 (r.1.getD 0), dir0 := r.2.1, dir1 := r.2.2 }

/-- Meaning of ROUTE_CHANGE_RESUME (R371). -/
def execRouteChangeResume (dest : Half) (s : State) : Host.Outcome State Fault Refusal :=
  .next (if !(s.fabric.holds.contains dest) || s.fabric.unanswered.any (fun u => u.dest = dest && !(s.fabric.tx.any (fun p => p.dest = dest && p.tag = u.tag))) then s
    else { s with fabric := { s.fabric with
      holds := s.fabric.holds.filter (fun d => d ≠ dest), tx := s.fabric.tx.map (fun p => if p.dest = dest then s.reroute p else p) } })

end Sys2Proof.Machine
end

