-- ==== Sys2Proof/Machine/Remote.lean ====
section
/-! DEFINITION. Requests from other devices for memory, and the answers to this device's own (R245, R246, R250, R253, R258,
R278, R303, R340). -/

namespace Sys2Proof.Machine

/-! ## Serving (R303) -/

/-- An uncorrectable granule that a remote request needs: recorded here, and answered with the detail of R279 (R303). -/
def State.remoteLost (s : State) (p : Packet) (b : Nat) : State :=
  let here := s.coord.toNat
  match unitOf b with
  | some 0 =>
    let h := (gddrDecode b).1
    ((s.lost (h / 8) h (b / 64)).uncorrectable (unitField 3 h (h / 8)) (.inbound ((arrivalPort p).getD 0)) p.context b (readDetail 0 (h / 8))).sendError
      p.context p.src p.tag 0 (readDetail 2 here)
  | _ =>
    let n := (unitOf b).getD 1 - 1
    (s.uncorrectable (unitField 5 0 n) (.inbound ((arrivalPort p).getD 0)) p.context b (readDetail 1 n)).sendError p.context p.src p.tag 0 (readDetail 3 here)

/-- Serves a request for n bytes from address a on of the rank that it addresses: refused outside the partition, and waiting
while the memory group wakes (R303, R571). `reads` tells that the bytes must be readable. -/
def State.serve (s : State) (p : Packet) (a n : Nat) (reads : Bool) (f : Nat → State → State) : State :=
  let k := p.context
  let r := s.rankFor p
  if !(s.localOk k r a (a + n)) then s.sendError k p.src p.tag 0x10 0
  else s.atMemory (fun t =>
    match (if reads then t.lostGranule k r a n else none) with
    | some b => t.remoteLost p b
    | none => f r t)

/-- Meaning of READ (R303, type 0x01). -/
def execRead (p : Packet) (s : State) : Host.Outcome State Fault Refusal :=
  .next (s.inbound 0x01 p (fun t =>
    let n := 64 * bits p.arg 4 0
    t.serve p p.addr.toNat n true (fun r u => u.sendData p.context p.src p.tag (u.rankBytes p.context r p.addr.toNat n))))

/-- Meaning of WRITE (R253, R303, type 0x02). -/
def execWrite (p : Packet) (s : State) : Host.Outcome State Fault Refusal :=
  .next (s.inbound 0x02 p (fun t =>
    t.serve p p.addr.toNat p.data.length false (fun r u => (u.rankWrite p.context r p.addr.toNat p.data).complete p)))

/-- Meaning of PARTIAL_WRITE (R288, R303, type 0x03): the argument selects the bytes of the granule. -/
def execPartialWrite (p : Packet) (s : State) : Host.Outcome State Fault Refusal :=
  .next (s.inbound 0x03 p (fun t =>
    let a := p.addr.toNat / 64 * 64
    t.serve p a 64 true (fun r u =>
      (u.rankWrite p.context r a (maskBytes (u.rankBytes p.context r a 64) p.data p.arg.toNat)).complete p)))

/-! ## Parameter versions (R410, R411) -/

/-- Meaning of VERSION_PUSH (R411, type 0x25): the slot's bytes land at the push address. The semaphore's signal follows
from the owner once every piece is complete. -/
def execVersionPush (p : Packet) (s : State) : Host.Outcome State Fault Refusal :=
  .next (s.inbound 0x25 p (fun t =>
    t.serve p p.addr.toNat p.data.length false (fun r u => (u.rankWrite p.context r p.addr.toNat p.data).complete p)))

/-- A gather that can be answered now reads its bytes like any other request (R278, R303, R410). -/
def State.gatherFrom (s : State) (p : Packet) (k r a : Nat) (g : Gather) (now : Bool) : State :=
  if !now then s.gather k g
  else s.atMemory (fun t =>
    match t.lostGranule k r a g.length with
    | some b => t.remoteLost p b
    | none => t.gather k g)

/-- Meaning of PARAMETER_GATHER (R410, type 0x06): the shard and the length come in the body (log 28). A base that
is not the copies address, bytes past one copy slot and bytes outside the partition are refused (R251, R303). -/
def execParameterGather (p : Packet) (s : State) : Host.Outcome State Fault Refusal :=
  .next (s.inbound 0x06 p (fun t =>
    let k := p.context
    let g : Gather := { src := p.src, tag := p.tag, shard := field p.data 0 4, version := p.arg, addr := p.addr.toNat, length := field p.data 4 8 }
    match t.job k with
    | none => t.sendError k p.src p.tag 0x10 0
    | some j =>
      match j.shards.find? (fun d => d.shard = g.shard && j.owns d && d.copies = g.addr && g.length ≤ d.slotSize) with
      | none => t.sendError k p.src p.tag 0x10 0
      | some d =>
        let a := g.addr + g.version.toNat % 4 * d.slotSize
        if t.localOk k d.owner a (a + g.length) then t.gatherFrom p k d.owner a g (d.service g.version t.clock.tick = .serve)
        else t.sendError k p.src p.tag 0x10 0))

/-! ## Scatter-adds (R250) -/

/-- One row of a descriptor over the elements that the terms name, in their order. -/
def scatterDesc (fmt : Nat) (terms : List ScatterTerm) : Desc :=
  let es := (terms.map (fun t => (t.addr, t.high))).eraseDups
  let base := (terms.map (fun t => t.addr)).headD 0
  { num := 0, base := base, tensor := 0, rows := 1, cols := es.length
    stride := if fmt = 5 then (terms.map (fun t => t.scaleAddr)).headD 0 - base else es.length * (fmtWidth fmt / 8)
    origin := 0, pitch := 0, fmt := fmt, tier := 1, strict := false }

/-- The exact value of a term: the element, or its product with the weight (R238). -/
def termVal (t : ScatterTerm) : Val :=
  let x := decodeElem t.fmt t.bits.toNat t.scale
  match t.weight with
  | none => x
  | some w =>
    let v := decodeElem w.1 w.2.1.toNat w.2.2
    match firstNan [v, x] with
    | some n => .nan n
    | none => mulVal v x

/-- The elements after a scatter-add: the prior value and all terms exactly, converted once. -/
def scatterSums (rd : Nat → Byte) (d : Desc) (arg : DWord) (terms : List ScatterTerm) : List ElemW :=
  let es := (terms.map (fun t => (t.addr, t.high))).eraseDups
  let mine := fun (e : Nat × Bool) => terms.filter (fun t => (t.addr, t.high) = e)
  let sums := (es.zipIdx).map (fun p => (mine p.1).foldl (fun (acc : Entry) t => acc.add (termVal t)) (({} : Entry).add (d.valAt rd 0 p.2)))
  d.convAll (bits arg 5 4) (bit arg 6) (fun i => ((mine (es.getD i (0, false))).map (fun t => t.u)).headD 0)
    ((sums.zipIdx).map (fun q => (0, q.2, q.1.value.exact)))

/-- Meaning of SCATTER_ADD (R250, type 0x04): one atomic step for the elements of the packet (log 27). -/
def execScatterAdd (p : Packet) (fmt : Nat) (terms : List ScatterTerm) (s : State) : Host.Outcome State Fault Refusal :=
  .next (s.inbound 0x04 p (fun t =>
    let d := scatterDesc fmt terms
    let k := p.context
    let n := if fmt = 5 then d.stop - d.base else d.rowBytes
    t.serve p d.base n true (fun r u =>
      let ws := d.byteWrites (scatterSums (u.rdDev k r) d p.arg terms)
      ((runs ws).foldl (fun (v : State) q => v.rankWrite k r q.1 q.2) u).complete p)))

/-! ## Broadcasts and watches -/

/-- Base of the core windows (R266). -/
def coreBase : Nat := 0x800000000000

/-- Meaning of BROADCAST_DELIVERY (R50, R268, type 0x05): into the partition, or into a member core's data SRAM. -/
def execBroadcastDelivery (p : Packet) (s : State) : Host.Outcome State Fault Refusal :=
  .next (s.inbound 0x05 p (fun t =>
    let a := p.addr.toNat
    if a < coreBase then
      t.serve p a p.data.length false (fun r u => (u.rankWrite p.context r a p.data).complete p)
    else
      let i := lkey p.context (t.rankFor p) ((a - coreBase) / 0x100000)
      let o := (a - coreBase) % 0x100000
      match t.lcore i with
      | none => t.sendError p.context p.src p.tag 0x10 0
      | some x =>
        if x.footprint < o + p.data.length then t.sendError p.context p.src p.tag 0x10 0
        else (t.setLcore i (some { x with sram := putBytes x.sram o p.data })).complete p))

/-- Meaning of PREFETCH_WATCH (R253, R258, type 0x07): a completion of no packets tells that no watch was free. -/
def execPrefetchWatch (p : Packet) (s : State) : Host.Outcome State Fault Refusal :=
  .next (s.inbound 0x07 p (fun t =>
    let n := 64 * p.arg.toNat
    t.serve p p.addr.toNat n false (fun r u =>
      let old := u.fabric.watches.filter (fun w => !(w.src = p.src && w.tag = p.tag))
      if 4096 ≤ old.length then u.answer p 0x11 0 []
      else
        let w : Watch := { src := p.src, tag := p.tag, context := p.context, granules := (u.viewGranules p.context r p.addr.toNat n).map (fun b => b / 64) }
        { u with fabric := { u.fabric with watches := old ++ [w] } }.complete p)))

/-- Changes the prefetch entries that `f` finds. -/
def State.mapPrefetch (s : State) (sel : Prefetch → Bool) (f : Prefetch → Prefetch) : State :=
  s.lcores.foldl (fun (t : State) p =>
    match p.2 with
    | some x =>
      if x.prefetches.any sel then t.setLcore p.1 (some { x with prefetches := x.prefetches.map (fun e => if sel e then f e else e) }) else t
    | none => t) s

/-- Meaning of GENERATION_NOTICE (R253, type 0x14): the tag is that of the watch. -/
def execGenerationNotice (p : Packet) (s : State) : Host.Outcome State Fault Refusal :=
  .next (s.inbound 0x14 p (fun t =>
    t.mapPrefetch (fun e => e.watches.contains (p.src, p.tag)) (fun e => { e with generation := min (2 ^ 32 - 1) (e.generation + 1) })))

end Sys2Proof.Machine
end

