-- ==== Sys2Proof/Machine/Place.lean ====
section
/-! DEFINITION. The placer: core map, tensor map, rank map, rank views, save areas and the placement record (R18, R29 to R44,
R106, R172, R423, R430, R444 to R447, R650). Choices that the rules leave to it are in logs 15 to 18. -/

namespace Sys2Proof.Machine

/-! ## Core map (R31 to R33, R36, R172) -/

/-- Pod-local cores in the in-service slots of pod p (R18). -/
def State.podSlots (s : State) (p : Nat) : List Nat :=
  match (s.pod p).slots with
  | some l => l
  | none => upto (if s.ident.grade = 0 then 16 else 15)

/-- Two contexts may share a core (R172). -/
def CoreEntry.shares (e : CoreEntry) (diagnostic : Bool) (y : LCore) : Bool :=
  decide (1024 * e.footprint + y.footprint ≤ 416 * 1024) && decide (e.rows0 + y.rows0 ≤ 32) && decide (e.rows1 + y.rows1 ≤ 32) &&
    !diagnostic && !y.diagnostic

/-- Core c can carry logical cores of context k: free of other contexts, or beside one when it carries no fold. -/
def State.hosts (s : State) (k : Nat) (diagnostic : Bool) (c : Nat) (es : List CoreEntry) : Bool :=
  let x := s.core c
  let foreign := ([x.res0, x.res1].filterMap id ++ x.entering ++ x.fold).filter (fun i => ctxOfLkey i ≠ k) |>.eraseDups
  !x.retired &&
    (match foreign with
    | [] => true
    | [i] =>
      (match es, s.lcore i with
      | [e], some y => e.shares diagnostic y
      | _, _ => false)
    | _ => false)

/-- The core entries of a logical pod of rank r. -/
def State.podEntries (s : State) (base n r lp : Nat) : List CoreEntry :=
  (upto (min 16 (n - 16 * lp))).filterMap (fun i => s.coreEntry base r (16 * lp + i))

/-- Those of a list that stand at positions q, q + m, q + 2m and so on. -/
def everyNth {α : Type} (l : List α) (m q : Nat) : List α := (l.zipIdx.filter (fun p => p.2 % m = q)).map (fun p => p.1)

/-- A logical pod fits physical pod p: folds of at most 4 on cores that can carry them (R31 to R33). -/
def State.podFits (s : State) (k : Nat) (diagnostic : Bool) (es : List CoreEntry) (p : Nat) : Bool :=
  let sl := s.podSlots p
  sl.length ≠ 0 && ((sl.take es.length).zipIdx).all (fun q =>
    let mine := everyNth es sl.length q.2
    decide (mine.length ≤ 4) && s.hosts k diagnostic (18 * p + q.1) mine)

/-- The cores that the logical pod's cores get in physical pod p. -/
def State.podCores (s : State) (r lp count p : Nat) : List PlacedCore :=
  let sl := s.podSlots p
  (upto count).map (fun i =>
    { rank := r, lcore := 16 * lp + i, phys := 18 * p + sl.getD (i % sl.length) 0
      fold := i + sl.length < count || sl.length ≤ i })

/-- Logical pods of a device with n logical cores (R27). -/
def podCount (n : Nat) : Nat := (n + 15) / 16

/-- Places the logical pods of a list one after another: each keeps the pod it prefers when it fits, else it gets the
lowest-numbered pod that fits and holds no logical pod of the job. -/
def State.placePods (s : State) (k base n : Nat) (diagnostic : Bool) (prefer : Nat → Nat → Option Nat) :
    List (Nat × Nat) → List Nat → Option (List PlacedCore)
  | [], _ => some []
  | (r, lp) :: t, used =>
    let es := s.podEntries base n r lp
    let free := fun (p : Nat) => !(used.contains p) && s.podFits k diagnostic es p
    let wish := match prefer r lp with
      | some p => if free p then some p else none
      | none => none
    match (match wish with
      | some p => some p
      | none => (upto 64).find? free) with
    | none => none
    | some p =>
      match s.placePods k base n diagnostic prefer t (p :: used) with
      | none => none
      | some l => some (s.podCores r lp es.length p ++ l)

/-- The core map of the held ranks. -/
def State.placeCores (s : State) (k base n : Nat) (held : List Nat) (diagnostic : Bool) (prefer : Nat → Nat → Option Nat) :
    Option (List PlacedCore) :=
  s.placePods k base n diagnostic prefer (held.flatMap (fun r => (upto (podCount n)).map (fun lp => (r, lp)))) []

/-- The physical pod that a logical pod has now. -/
def Job.podNow (j : Job) (r lp : Nat) : Option Nat :=
  match j.coreMap.find? (fun e => e.rank = r && e.lcore / 16 = lp) with
  | some e => some (e.phys / 18)
  | none => none

/-! ## Rank map (R38, R423) -/

/-- A device that a job can use: present, and not departing (R379, R423). -/
def State.usable (s : State) (c : Nat) : Bool :=
  s.fabric.coord = none && c = 0 || (s.fabric.present c && !(s.fabric.leaves.contains (BitVec.ofNat 16 c)))

/-- Physical coordinate of a logical coordinate under an offset vector (R423). -/
def State.shifted (s : State) (c o : Nat) : Nat :=
  (upto 4).foldl (fun v i => v * 16 + (digit c i + digit o i) % s.fabric.extent i) 0

/-- The offset vectors in ascending order of W, then X, Y and Z. -/
def State.offsets (s : State) : List Nat :=
  (upto (s.fabric.extent 0)).flatMap (fun w => (upto (s.fabric.extent 1)).flatMap (fun x =>
    (upto (s.fabric.extent 2)).flatMap (fun y => (upto (s.fabric.extent 3)).map (fun z => w * 4096 + x * 256 + y * 16 + z))))

/-- The map by the first offset vector whose devices, this one among them, can all be used. -/
def State.mapByOffset (s : State) (shape : Half) (ranks : Nat) : Option (List Half) :=
  if (upto 4).any (fun i => s.fabric.extent i ≤ digit shape.toNat i) then none
  else
    let at_ := fun (o : Nat) => (upto ranks).map (fun r => s.shifted (coordOf shape r) o)
    match s.offsets.find? (fun o => (at_ o).all s.usable && (at_ o).contains s.coord.toNat) with
    | some o => some ((at_ o).map (fun c => BitVec.ofNat 16 c))
    | none => none

/-- The devices that the ascending assignment uses, at most n: this one, and the lowest of the others. -/
def State.usableDevices (s : State) (skip : List Half) (n : Nat) : List Half :=
  let me := s.coord
  let rest := (s.fabric.devices.filter (fun c => s.usable c && c ≠ me.toNat && !(skip.contains (BitVec.ofNat 16 c)))).take (n - 1)
  (sortNat (me.toNat :: rest)).map (fun c => BitVec.ofNat 16 c)

/-- Ranks in ascending order over m devices, each taking the same number of them. -/
def spread (ds : List Half) (ranks : Nat) : List Half :=
  let each := (ranks + ds.length - 1) / max 1 ds.length
  (upto ranks).map (fun r => ds.getD (r / max 1 each) 0)

/-- The whole rank map that the lead computes: D copies of the shape on separate devices for a shielded job (R38, R423,
R495). -/
def State.rankMapFor (s : State) (shape : Half) (ranks replicas : Nat) (standbys : List Half) : Option (List Half) :=
  if replicas = 0 then
    (match s.mapByOffset shape ranks with
    | some l => some l
    | none => some (spread (s.usableDevices [] ranks) ranks))
  else
    let ds := s.usableDevices standbys (replicas * ranks)
    let mine := s.coord :: ds.filter (fun c => c ≠ s.coord)
    let each := mine.length / replicas
    if each = 0 then none
    else some ((upto replicas).flatMap (fun d => spread ((mine.drop (d * each)).take each) ranks))

/-- Every coordinate of a rank map is present here (R38). -/
def State.mapPresent (s : State) (m : List Half) : Bool := m.all (fun c => s.usable c.toNat || c = s.coord)

/-! ## Addresses -/

/-- Rounds up to a multiple of n. -/
def roundUp (n a : Nat) : Nat := (a + n - 1) / n * n

/-- The lowest 64-byte aligned address from lo on at which n bytes below hi are free of the taken ranges. -/
def fitAt (taken : List (Nat × Nat)) (lo hi n : Nat) : Option Nat :=
  let ok := fun (a : Nat) => decide (lo ≤ a) && decide (a + n ≤ hi) && taken.all (fun t => decide (t.2 ≤ a) || decide (a + n ≤ t.1))
  let cand := (roundUp 64 lo :: taken.map (fun t => roundUp 64 t.2)).filter ok
  match cand with
  | [] => none
  | a :: t => some (t.foldl min a)

/-- The byte ranges of the program images that slots of context k hold (R37). -/
def State.imageRanges (s : State) (k : Nat) : List (Nat × Nat) :=
  (upto 8).filterMap (fun j =>
    let q := s.slot k j
    if 1 ≤ q.state && q.state ≤ 4 then some (q.image.toNat, q.image.toNat + s.img q.image.toNat 0x18 8) else none)

/-- The address ranges of rank r that the image's tables name (R387, R432). -/
def State.tableRanges (s : State) (base : Nat) (shape : Half) (leadRank r : Nat) : List (Nat × Nat) :=
  let shards := s.shardsOf base 0
  let groups := s.groupsOf base
  let hypers := s.hypersOf base
  let span := fun (a n : Nat) => (a, a + n)
  let watch := (s.sect base 9).1 + base
  (shards.flatMap (fun d =>
    (if d.owner = r then
      [span d.master (2 * d.masterSize), span d.state (2 * d.stateSize), span d.copies (4 * d.slotSize),
        (let h := Hyper.ofBytes (hypers.getD d.hyper [])
        span h.table (16 * h.length))]
     else []) ++
    (if groups.any (fun g => g.group = d.group && (inBlock shape g.unit g.span r || g.backups.any (fun b => b.2 = r))) then
      [span d.contribution (d.esize * d.elements)] else []) ++
    (if d.flags.testBit 2 && inBlock shape d.pushUnit d.pushSpan r then [span d.pushAddr d.slotSize] else []))) ++
  (if s.hasSect base 9 then
    [span (s.img watch 8 8) 4096] ++ (if r = leadRank then [span (s.img watch 0x10 8) (16 * s.img watch 4 4)] else [])
   else [])

/-- Bytes of a logical core's save area (R35, R106): its drain area first, then the state of R35. -/
def CoreEntry.saveSize (e : CoreEntry) : Nat := roundUp 64 (332800 + 1024 * e.footprint + 1536 * (e.rows0 + e.rows1) + 18432)

/-- The ranges in which rank r's tiers have room: GDDR7, then the two CXL windows. A rank view has the whole tier (R446),
otherwise they are the context's partitions (R267, R297). -/
def State.roomRanges (s : State) (k : Nat) (view : Bool) : List (Nat × Nat) :=
  if view then [(0, gddrStop), (cxlBase 0, cxlBase 0 + cxlWindow), (cxlBase 1, cxlBase 1 + cxlWindow)]
  else
    (upto 3).map (fun u =>
      let p := s.partition k u
      let stop := if u = 0 then p.1 + p.2 else min (p.1 + p.2) (cxlBase (u - 1) + (s.cxlPort (u - 1)).size)
      (p.1, stop))

/-- The first of some ranges with room for n bytes. -/
def fitFirst (taken : List (Nat × Nat)) (n : Nat) : List (Nat × Nat) → Option Nat
  | [] => none
  | r :: t =>
    match fitAt taken r.1 r.2 n with
    | some a => some a
    | none => fitFirst taken n t

/-- Room of a tensor in tier t of rank r (R37, R650); host memory has none (log 17). -/
def roomIn (rooms taken : List (Nat × Nat)) (t n : Nat) : Option Nat :=
  if t = 1 then fitFirst taken n (rooms.take 1)
  else if t = 2 then fitFirst taken n (rooms.drop 1)
  else if t = 3 then fitFirst taken n rooms
  else none

/-- Save areas of rank r's logical cores, one after another. -/
def State.placeSaves (s : State) (base r : Nat) (room : Nat × Nat) : List Nat → List (Nat × Nat) → Option (List (Nat × Nat × Nat) × List (Nat × Nat))
  | [], taken => some ([], taken)
  | l :: t, taken =>
    match s.coreEntry base r l with
    | none => none
    | some e =>
      match fitAt taken room.1 room.2 e.saveSize with
      | none => none
      | some a =>
        match s.placeSaves base r room t (taken ++ [(a, a + e.saveSize)]) with
        | none => none
        | some q => some ((r, l, a) :: q.1, q.2)

/-- The declared tensors of rank r, one after another (R37, R430). `coord` is the rank's physical coordinate. -/
def placeTensors (rooms : List (Nat × Nat)) (r coord : Nat) : List TensorEntry → List (Nat × Nat) → Option (List Placed)
  | [], _ => some []
  | t :: ts, taken =>
    let spot := (tierList t.tiers).findSome? (fun c =>
      match roomIn rooms taken c t.size with
      | some a => some (c, a)
      | none => none)
    match spot with
    | none => if t.optional then placeTensors rooms r coord ts taken else none
    | some q =>
      match placeTensors rooms r coord ts (taken ++ [(q.2, q.2 + t.size)]) with
      | none => none
      | some l =>
        some ({ tensor := t.tensor, tier := q.1, base := if q.1 = 3 then coord * 2 ^ 48 + q.2 else q.2, rank := some r, size := t.size } :: l)

/-- Tensor map and save areas of rank r: the device that holds it sees it through a rank view when it holds more than one
rank. -/
def State.placeRank (s : State) (k base n : Nat) (shape : Half) (m : List Half) (lead : Half) (r : Nat) :
    Option (List Placed × List (Nat × Nat × Nat)) :=
  let c := m.getD r 0
  let view := decide (1 < (m.filter (fun d => d = c)).length)
  let rooms := s.roomRanges k view
  let leadRank := (m.findIdx? (fun d => d = lead)).getD 0
  let taken := s.tableRanges base shape leadRank r ++ (if view then [] else s.imageRanges k)
  match s.placeSaves base r (rooms.headD (0, 0)) (upto n) taken with
  | none => none
  | some q =>
    match placeTensors rooms r c.toNat ((s.tensors base).filter (fun t => !t.coreLocal && t.heldBy r)) q.2 with
    | none => none
    | some l => some (l, q.1)

/-! ## Rank views (R446, R447) -/

/-- The free pages of the context's partitions as page codes, GDDR7 first (R447, R458). -/
def State.freePages (s : State) (k : Nat) : List Nat :=
  (upto 3).flatMap (fun u =>
    let p := s.partition k u
    let room := if u = 0 then p.2 else min p.2 ((s.cxlPort (u - 1)).size - (p.1 - cxlBase (u - 1)))
    ((upto (room / page64)).filter (fun i =>
      (s.imageRanges k).all (fun t => decide (t.2 ≤ p.1 + i * page64) || decide (p.1 + (i + 1) * page64 ≤ t.1)))).map
      (fun i => u * 2 ^ 30 + i))

/-- The rank pages that ranges of bytes touch, ascending. -/
def touched (l : List (Nat × Nat)) : List Nat := sortNat ((l.filter (fun t => t.1 < t.2)).flatMap (fun t => pagesOf t.1 t.2))

/-- Maps the pages of each rank in turn; none when the free pages run out. -/
def mapPages : List (Nat × List Nat) → List Nat → Option (List (Nat × Nat × Nat))
  | [], _ => some []
  | (r, ps) :: t, free =>
    if free.length < ps.length then none
    else
      match mapPages t (free.drop ps.length) with
      | none => none
      | some l => some ((ps.zip free).map (fun q => (r, q.1, q.2)) ++ l)

/-! ## The whole placement -/

/-- What the placer decides for the ranks that a device holds. -/
structure Plan where
  held : List Nat
  cores : List PlacedCore
  tensors : List Placed
  saves : List (Nat × Nat × Nat)
  pages : List (Nat × Nat × Nat)
  deriving DecidableEq, Repr

/-- The ranks whose tier-3 tensors a rank's descriptors may name. -/
def State.holders (s : State) (base : Nat) (held : List Nat) : List Nat :=
  (((s.tensors base).filter (fun t => (tierList t.tiers).contains 3 && t.holder ≠ 0xFFFFFFFF)).map (fun t => t.holder)).eraseDups.filter
    (fun r => !(held.contains r))

/-- Bytes of a save area. -/
def State.saveSizeOf (s : State) (base r l : Nat) : Nat :=
  match s.coreEntry base r l with
  | some e => e.saveSize
  | none => 0

/-- Places the held ranks but for their cores. -/
def State.planMemory (s : State) (k base : Nat) (m : List Half) (lead : Half) (held : List Nat) :
    Option (List Placed × List (Nat × Nat × Nat) × List (Nat × Nat × Nat)) :=
  let n := s.img base 0x0E 2
  let shape : Half := BitVec.ofNat 16 (s.img base 0x0C 2)
  let own := held.map (fun r => s.placeRank k base n shape m lead r)
  if own.any (fun q => q.isNone) then none
  else
    let mine := own.filterMap id
    let far := (s.holders base held).flatMap (fun r =>
      match s.placeRank k base n shape m lead r with
      | some q => q.1.filter (fun p => p.tier = 3)
      | none => [])
    let tensors := mine.flatMap (fun q => q.1) ++ far
    let saves := mine.flatMap (fun q => q.2)
    if held.length ≤ 1 then some (tensors, saves, [])
    else
      let leadRank := (m.findIdx? (fun d => d = lead)).getD 0
      let need := held.map (fun r =>
        (r, touched (s.tableRanges base shape leadRank r ++
          (tensors.filter (fun p => p.rank = some r)).map (fun p => (p.base % 2 ^ 48, p.base % 2 ^ 48 + p.size)) ++
          (saves.filter (fun v => v.1 = r)).map (fun v => (v.2.2, v.2.2 + s.saveSizeOf base r v.2.1)))))
      match mapPages need (s.freePages k) with
      | none => none
      | some pages => some (tensors, saves, pages)

/-- State as it would be without some contexts on the cores (R527). -/
def State.withoutContexts (s : State) (ks : List Nat) : State :=
  ks.foldl (fun (t : State) k => t.cores.foldl (fun (u : State) p => u.setCore p.1 (p.2.without k)) t) s

/-! ## The placement record (R40 to R42) -/

/-- One placement record (R41). -/
def placementBytes (k epoch : Nat) (sequence from_ : DWord) (ranks n : Nat) (shape : Half) (cores : List PlacedCore) (tensors : List Placed)
    (m : List Half) : List Byte :=
  let ce := (sortNat (cores.map (fun e => e.lcore))).filterMap (fun l => cores.find? (fun e => e.lcore = l))
  let te := (sortNat (tensors.map (fun p => p.tensor))).filterMap (fun t => tensors.find? (fun p => p.tensor = t))
  let body :=
    ce.flatMap (fun e => leBytes 4 ((if e.fold then 2 ^ 27 else 0) + e.phys * 2 ^ 16 + e.lcore)) ++
    te.flatMap (fun p => leBytes 4 p.tensor ++ leBytes 1 p.tier ++ leBytes 3 0 ++ leBytes 8 p.base) ++
    (m.zipIdx).flatMap (fun q => leBytes 4 (q.1.toNat * 2 ^ 16 + q.2 % 2 ^ 16))
  let head := fun (digest : DWord) =>
    leBytes 2 1 ++ leBytes 2 k ++ leBytes 4 epoch ++ leBytes 8 sequence.toNat ++ leBytes 8 from_.toNat ++ leBytes 4 ranks ++ leBytes 2 n ++
      leBytes 2 shape.toNat ++ leBytes 4 ce.length ++ leBytes 4 te.length ++ leBytes 4 m.length ++ leBytes 4 0 ++ leBytes 8 digest.toNat ++ leBytes 8 0
  head (crc64 (head 0 ++ body)) ++ body

/-- The records of every held rank, in ascending rank order (R444). -/
def Job.placementRecords (j : Job) (k : Nat) (sequence : DWord) : List (List Byte) :=
  j.held.map (fun r =>
    placementBytes k j.epoch sequence j.fromTick j.ranks j.cores j.shape (j.coreMap.filter (fun e => e.rank = r))
      (j.tensors.filter (fun p => p.rank = some r)) j.rankMap)

/-- Address that the firmware gives the records of context k (R42, log 18): 128 MiB of the firmware region each. -/
def recordHome (k : Nat) : Nat := gddrStop + k * 2 ^ 27

/-- Writes the job's placement records and enters them into the ledger (R40 to R42, R456). -/
def State.writePlacement (s : State) (k : Nat) (step : DWord) : State :=
  match s.job k with
  | none => s
  | some j =>
    let rs := j.placementRecords k (s.slot k j.j).sequence
    let bytes := rs.flatMap (fun b => b)
    let t := s.setJob k (some { j with recordAddr := recordHome k, recordLen := bytes.length })
    let t := ((t.devWrite (recordHome k) bytes).setReg (ctxObj k 0x20) 0x01 (BitVec.ofNat 32 j.epoch)).setReg64 (ctxObj k 0x20) 0x02 (recordHome k)
    rs.foldl (fun (u : State) b => u.record k 0x02 step b) t

/-- Body of a page map record (R458). -/
def pageBody (r : Nat) (pages : List (Nat × Nat × Nat)) : List Byte :=
  let mine := pages.filter (fun p => p.1 = r)
  leBytes 4 r ++ leBytes 4 mine.length ++ mine.flatMap (fun p => leBytes 4 p.2.2 ++ leBytes 4 p.2.1)

/-- The page map of each held rank goes into the ledger (R447). -/
def State.recordPages (s : State) (k : Nat) (step : DWord) : State :=
  match s.job k with
  | none => s
  | some j =>
    if j.pages = [] then s else j.held.foldl (fun (t : State) r => t.record k 0x03 step (pageBody r j.pages)) s

/-! ## Re-placement (R43, R44) -/

/-- A start request for the clock of every pod that some cores lie in (R570). -/
def State.startPods (s : State) (cs : List Nat) : State :=
  ((cs.map (fun c => c / 18)).eraseDups).foldl (fun (t : State) p =>
    let x := t.pod p
    t.setPod p { x with idleSince := none, startAt := if x.clocked || x.startAt.isSome then x.startAt else some t.clock.tick }) s

/-- A new core map of a running job takes effect at the block boundary of each logical core that it moves. -/
def State.replaceCores (s : State) (k : Nat) (cores : List PlacedCore) : State :=
  match s.job k with
  | none => s
  | some j =>
    let moved := cores.filter (fun e => !(j.coreMap.any (fun o => o.rank = e.rank && o.lcore = e.lcore && o.phys = e.phys)))
    let keys := moved.map (fun e => (lkey k e.rank e.lcore, e.phys))
    let t := s.setJob k (some { j with
      coreMap := cores, epoch := j.epoch + 1, fromTick := s.clock.tick
      moves := j.moves.filter (fun m => !(keys.any (fun q => q.1 = m.1))) ++ keys })
    let t := (t.startPods (moved.map (fun e => e.phys))).writePlacement k j.bound
    -- a job that has yet to start stands at a block boundary (R168)
    keys.foldl (fun (u : State) q =>
      match u.lcore q.1, u.physOf q.1 with
      | some x, some c => if x.status = .idle then u.vacate c q.1 else u
      | _, _ => u) t

/-- Re-places a running job after its pods' slots have changed (R19, R20, R33, R43); a job that cannot be placed faults
(R33). -/
def State.replaceJob (s : State) (k : Nat) : State :=
  match s.job k with
  | none => s
  | some j =>
    let base := (s.slot k j.j).image.toNat
    let diag := bit (s.reg (ctxObj k 0) 1) 3
    match s.placeCores k base j.cores j.held diag j.podNow with
    | none => s.faultJob k 0x02 0 0xFFFFFFFF
    | some cores => if cores = j.coreMap then s else s.replaceCores k cores

/-- Every tensor that context k's job keeps in a CXL port that is lost and may do without falls to no tier (R43, R430, R431).
Its switches and descriptors are loaded anew at each logical core's next block boundary. -/
def State.dropTensors (s : State) (k n : Nat) : State :=
  match s.job k with
  | none => s
  | some j =>
    let base := (s.slot k j.j).image.toNat
    let there := fun (p : Placed) =>
      (match s.view k (p.rank.getD 0) (p.base % 2 ^ 48) with
      | some a => unitOf a = some (n + 1)
      | none => false) && (p.rank.getD 0 ∈ j.held)
    let gone := j.tensors.filter (fun p => there p && (s.tensors base).any (fun t => t.tensor = p.tensor && t.heldBy (p.rank.getD 0) && t.optional))
    if gone = [] then s
    else
      let keys := j.coreMap.map (fun e => lkey k e.rank e.lcore)
      let t := s.setJob k (some { j with
        tensors := j.tensors.filter (fun p => !(gone.contains p)), reload := keys, epoch := j.epoch + 1, fromTick := s.clock.tick })
      t.writePlacement k j.bound

/-- Meaning of CXL_LINK_DOWN (R43, R299, R431): requests in flight are uncorrectable, the port is unavailable, and jobs that
keep optional tensors there are placed again. -/
def execCxlLinkDown (n : Nat) (s : State) : Host.Outcome State Fault Refusal :=
  onUnit (decide (n < 2)) ((upto 16).foldl (fun (t : State) k => if (t.job k).isSome then t.dropTensors k n else t) (s.cxlDown n))

end Sys2Proof.Machine
end

