-- ==== Sys2Proof/Machine/Restore.lean ====
section
/-! DEFINITION. Reading checkpoints and ledger inputs, and the starting state of a job (R405, R430, R434, R463 to R467, R514). -/

namespace Sys2Proof.Machine

/-! ## Parts of a checkpoint (R465, R466) -/

/-- A section: kind, rank, key and body. -/
structure PartSection where
  kind : Nat
  rank : Nat
  key : Nat
  body : List Byte
  deriving DecidableEq, Repr

/-- A part: its header's next step, image digest, seed and ranks, and its sections. -/
structure Part where
  next : DWord
  digest : DWord
  seed : DWord
  ranks : Nat
  sections : List PartSection
  deriving DecidableEq, Repr

/-- Reads n sections; none when a body's digest is wrong or bytes are missing (R467). -/
def parseSections : Nat → List Byte → Option (List PartSection)
  | 0, _ => some []
  | n + 1, bs =>
    let len := field bs 16 8
    let body := (bs.drop 32).take len
    if bs.length < 32 + len ∨ field bs 24 8 ≠ (crc64 body).toNat then none
    else
      match parseSections n (bs.drop (32 + len)) with
      | none => none
      | some l => some ({ kind := field bs 0 2, rank := field bs 4 4, key := field bs 8 4, body := body } :: l)

/-- Length of the part whose header stands at the front of some bytes; none when the header is wrong. -/
def partLength (bs : List Byte) : Option Nat :=
  let head := bs.take 64
  let zeroed := head.take 0x30 ++ List.replicate 8 0 ++ head.drop 0x38
  let len := field bs 0x28 8
  if bs.length < 64 ∨ field bs 0 4 ≠ 0x4B434845 ∨ field bs 4 2 ≠ 1 ∨ field bs 6 2 ≠ 1 ∨ field bs 0x30 8 ≠ (crc64 zeroed).toNat ∨
      len < 64 then none
  else some len

/-- Reads the part at the front of some bytes; none when its header is wrong or bytes are missing. -/
def parsePart (bs : List Byte) : Option (Part × List Byte) :=
  let len := (partLength bs).getD 0
  if len = 0 ∨ bs.length < len then none
  else
    match parseSections (field bs 0x24 4) ((bs.take len).drop 64) with
    | none => none
    | some l =>
      some ({ next := BitVec.ofNat 64 (field bs 8 8), digest := BitVec.ofNat 64 (field bs 0x10 8), seed := BitVec.ofNat 64 (field bs 0x18 8),
              ranks := field bs 0x20 4, sections := l }, bs.drop len)

/-- Reads parts one after another to the end of the bytes. -/
def parseParts : Nat → List Byte → Option (List Part)
  | 0, bs => if bs.isEmpty then some [] else none
  | n + 1, bs =>
    if bs.isEmpty then some []
    else
      match parsePart bs with
      | none => none
      | some (p, rest) =>
        match parseParts n rest with
        | none => none
        | some l => some (p :: l)

/-- Part headers agree (R467). -/
def Part.agrees (a b : Part) : Bool := a.next = b.next && a.digest = b.digest && a.seed = b.seed && a.ranks = b.ranks

/-- The restore source: its parts, or none when it is refused (R467). -/
def sourceParts (bs : List Byte) : Option (List Part) :=
  match parseParts (bs.length / 64) bs with
  | some (p :: t) => if t.all p.agrees then some (p :: t) else none
  | _ => none

/-! ## What is read from host memory -/

/-- The job manager asks for bytes of host memory, at most 4 KiB each (R301, log 20). -/
def State.askManager (s : State) (k a : Nat) : Nat → Nat → State
  | 0, _ => s
  | f + 1, n =>
    if n = 0 then s
    else
      let m := min n 4096
      let tag := freeTag (s.host.asks.map (fun q => q.tag))
      let t := s.hostAsk k { tag := tag, core := managerAsk + k, addr := a, length := m }
      t.askManager k (a + m) f (n - m)

/-- How far a read of the job manager has come. -/
inductive Reading where
  | done (bytes : List Byte)
  | failed
  | waiting (s : State)

/-- The bytes from address a on that have been read for context k. -/
def State.hostBytes (s : State) (k a n : Nat) : Sparse Byte :=
  (s.host.fetched.filter (fun f => f.1 = k)).foldl (fun m f =>
    (f.2.2.zipIdx).foldl (fun (q : Sparse Byte) b => if a ≤ f.2.1 + b.2 ∧ f.2.1 + b.2 < a + n then sins q (f.2.1 + b.2) b.1 else q) m) []

/-- Reads n bytes of host memory for context k: they are at hand, or asked for. -/
def State.readHost (s : State) (k a n : Nat) : Reading :=
  let mine := s.host.fetched.filter (fun f => f.1 = k && decide (a ≤ f.2.1) && decide (f.2.1 < a + n))
  let got := s.hostBytes k a n
  if mine.any (fun f => f.2.2.isEmpty) then .failed
  else if got.length = n then .done (got.map (fun p => p.2))
  else if s.host.asks.any (fun q => q.core = managerAsk + k && decide (a ≤ q.addr) && decide (q.addr < a + n)) then .waiting s
  else .waiting (s.askManager k a (n / 4096 + 1) n)

/-- Reads n bytes of a tier of R468: a partition of the context, or host memory. -/
def State.readTier (s : State) (k tier a n : Nat) : Reading :=
  if tier = 4 then s.readHost k a n
  else if s.inPartition k a (a + n) then
    (if (granules a n).any (fun g => s.lostAt (64 * g)) then .failed else .done (getBytes s.mem a n))
  else .failed

/-- What was read for context k is no longer needed. -/
def State.dropFetched (s : State) (k : Nat) : State :=
  { s with host := { s.host with
      fetched := s.host.fetched.filter (fun f => f.1 ≠ k), asks := s.host.asks.filter (fun q => q.core ≠ managerAsk + k) } }

/-! ## The starting state -/

/-- Initial data of the tensors that a held rank keeps in memory (R513). -/
def State.writeInitial (s : State) (k : Nat) (j : Job) (base : Nat) : State :=
  (s.tensors base).foldl (fun (t : State) e =>
    if e.data = noData || e.coreLocal then t
    else
      (j.held.filter e.heldBy).foldl (fun (u : State) r =>
        match j.tensors.find? (fun p => p.tensor = e.tensor && p.rank = some r) with
        | some p => u.rankWrite k r (p.base % 2 ^ 48) (getBytes s.mem (base + e.data) e.size)
        | none => u) t) s

/-- Both banks of the scale table hold the initial values (R434). -/
def State.writeScales (s : State) (k : Nat) (j : Job) : State :=
  if j.watches.isEmpty then s
  else
    let bank := scaleBank (j.watches.map (fun w => w.e))
    j.held.foldl (fun (t : State) r => (t.rankWrite k r j.scaleTable bank).rankWrite k r (j.scaleTable + 2048) bank) s

/-- A shard as its section holds it (R466): its newest version committed in buffer 0 and its older versions served. -/
def Shard.fromSection (d : Shard) (body : List Byte) : Shard :=
  let n := d.elements
  let o := 16 + 6 * n + d.stateSize
  let slots := (upto ((body.length - o) / max 1 d.slotSize)).map (fun i => (body.drop (o + i * d.slotSize)).take d.slotSize)
  let newest : DWord := BitVec.ofNat 64 (field body 0 8)
  let top := (slots.find? (fun b => field b 0 8 = newest.toNat)).getD []
  { d with
    newest := newest, buffer := 0, early := [], mismatched := false
    versions := slots.map (fun b => { v := BitVec.ofNat 64 (field b 0 8), committed := true, released := [], retiredAt := none })
    sigma := field top 0x18 1, nextSigma := field body 8 1, digest := BitVec.ofNat 64 (field top 8 8) }

/-- Writes a shard's masters, tails, state and copy slots to their places (R389). -/
def State.writeShard (s : State) (k : Nat) (d : Shard) (body : List Byte) : State :=
  let n := d.elements
  let o := 16 + 6 * n + d.stateSize
  let t := s.rankWrite k d.owner d.master ((body.drop 16).take (6 * n))
  let t := t.rankWrite k d.owner d.state ((body.drop (16 + 6 * n)).take d.stateSize)
  (upto ((body.length - o) / max 1 d.slotSize)).foldl (fun (u : State) i =>
    let b := (body.drop (o + i * d.slotSize)).take d.slotSize
    u.rankWrite k d.owner (d.slotAddr (BitVec.ofNat 64 (field b 0 8))) b) t

/-- The values of watch n in a saved scale table, for a job that goes on at step u (R434, R466). -/
def watchFrom (body : List Byte) (u n : Nat) : WatchVar :=
  let e := fun (bank : Nat) => signed 32 (field body (2048 * bank + 8 * n) 4)
  { e := e (u % 2), next := e ((u + 1) % 2), run := field body (4096 + 4 * n) 4 }

/-- Takes one section of a checkpoint: a shard or a tensor of a held rank, the scale table, a held contribution. The
coordinator of its group notes every held contribution (R417, log 21). -/
def State.applySection (s : State) (k : Nat) (q : PartSection) : State :=
  match s.job k with
  | none => s
  | some j =>
    let mine := j.held.contains q.rank
    if q.kind = 1 then
      match j.shards.find? (fun d => d.shard = q.key) with
      | some d =>
        let t := s.setJob k (some (j.setShard (d.fromSection q.body)))
        if mine then t.writeShard k d q.body else t
      | none => s
    else if q.kind = 2 then
      match j.tensors.find? (fun p => p.tensor = q.key && p.rank = some q.rank) with
      | some p => if mine then s.rankWrite k q.rank (p.base % 2 ^ 48) q.body else s
      | none => s
    else if q.kind = 3 then
      let t := s.setJob k (some { j with watches := (j.watches.zipIdx).map (fun w => watchFrom q.body j.bound.toNat w.2) })
      j.held.foldl (fun (u : State) r => u.rankWrite k r j.scaleTable (q.body.take 4096)) t
    else if q.kind = 4 then
      match j.shards.find? (fun d => d.shard = q.key) with
      | none => s
      | some d =>
        let origin : DWord := BitVec.ofNat 64 (field q.body 0 8)
        let values := (upto d.elements).map (fun i => (BitVec.ofNat 32 (field q.body (16 + d.esize * i) d.esize) : Word))
        let j1 := if mine then { j with holdData := j.holdData ++ [(q.key, origin, q.rank, values)] } else j
        let j2 : Job := { j1 with groups := j1.groups.map (fun g =>
          if g.group = d.group && !(g.held.any (fun h => h.1 = origin && h.2.1 = q.rank)) then { g with held := g.held ++ [(origin, q.rank, true)] } else g) }
        s.setJob k (some j2)
    else s

/-- Takes a restore source (R467). -/
def State.applyParts (s : State) (k : Nat) (ps : List Part) : State :=
  (ps.flatMap (fun p => p.sections)).foldl (fun (t : State) q => t.applySection k q) s

end Sys2Proof.Machine
end

