-- ==== Sys2Proof/Machine/Jobs.lean ====
section
/-! DEFINITION. Acceptance, launch and pre-emption of jobs, and the messages between a job's devices that go with them (R38,
R39, R452, R456, R463, R467, R495, R504, R513, R516 to R534, R583). Choices are in logs 15 to 20 and 22 to 26. -/

namespace Sys2Proof.Machine

/-! ## Order of the slots (R519) -/

/-- Slot j of context k waits for acceptance: armed, or armed again after a reset (R518, R532). -/
def State.waits (s : State) (k j : Nat) : Bool :=
  let q := s.slot k j
  q.state = 2 || (q.state = 3 && q.rerun && q.launch ≠ 0)

/-- Slot i goes before slot j. -/
def State.before (s : State) (k i j : Nat) : Bool :=
  decide ((s.slot k i).launch.toNat < (s.slot k j).launch.toNat) || (decide (i < j) && (s.slot k i).launch = (s.slot k j).launch)

/-- The job manager may accept slot j: no job of the context is accepted or runs, and every slot before it is done or
faulted, or carries no job. -/
def State.eligible (s : State) (k j : Nat) : Bool :=
  s.waits k j && (s.job k).isNone &&
    (upto 8).all (fun i => i = j || !(2 ≤ (s.slot k i).state && (s.slot k i).state ≤ 4 && s.before k i j))

/-- Priority of a context (R510). -/
def State.priority (s : State) (k : Nat) : Nat := bits (s.reg (ctxObj k 0) 1) 2 1

/-- The rank map that was received for slot j. -/
def State.rankMapOf (s : State) (k j : Nat) : List Half := sget (fun _ => []) s.rankMaps (8 * k + j)
def State.setRankMap (s : State) (k j : Nat) (m : List Half) : State := { s with rankMaps := sput (fun _ => []) s.rankMaps (8 * k + j) m }

/-- The job tag (R344). -/
def Slot.tag (q : Slot) : DWord := mix (q.imageDigest ^^^ q.launch)

/-- A slot that has no job yet goes to faulted (R518, R522, R526). -/
def State.refuseSlot (s : State) (k j cause : Nat) : State :=
  let t := s.changeSlot k j (fun v => { v with state := 6, cause := cause, causeRecord := 0xFFFFFFFF })
  ((t.bump (ctxObj k 1) 0x09 1).setRankMap k j []).dropFetched k

/-! ## Acceptance, steps 1 to 3 (R522) -/

/-- What a slot's role names (R516): this device leads, is a standby, and the coordinate of the lead. -/
def Slot.leads (q : Slot) : Bool := bit q.role 16
def Slot.stands (q : Slot) : Bool := bit q.role 17
def State.leadOf (s : State) (q : Slot) : Half := if q.leads then s.coord else BitVec.ofNat 16 (bits q.role 15 0)

/-- Step 1: the image and its tables; a rerun needs the same image as before (R512 to R514, R532). -/
def State.imageGood (s : State) (k j : Nat) : Bool :=
  let q := s.slot k j
  let base := q.image.toNat
  base % 64 = 0 && unitOf base = some 0 && s.inPartition k base (base + s.img base 0x18 8) && s.imageOk base && s.consumersOk base &&
    (!q.rerun || q.imageDigest.toNat = s.img base 0x30 8)

/-- Replicas D and interval K of an image's shield table (R495); 0 and 50 without one. -/
def State.shieldOf (s : State) (base : Nat) : Nat × Nat :=
  if s.hasSect base 11 then
    let o := (s.sect base 11).1
    (s.img base o 1, if s.img base (o + 1) 1 = 0 then 50 else s.img base (o + 1) 1)
  else (0, 50)

/-- Step 2: the restore source (R467, R468). -/
def State.restoreSource (s : State) (k : Nat) : Reading :=
  let o := ctxObj k 0x25
  if bits (s.reg o 0x0B) 2 0 = 0 then .done [] else s.readTier k (bits (s.reg o 0x0B) 2 0) (s.reg64 o 0x0C) (s.reg64 o 0x0E)

/-- Its parts: none of them without a source, and nothing when it is refused. -/
def State.restoreParts (s : State) (k : Nat) (bs : List Byte) : Option (List Part) :=
  if bits (s.reg (ctxObj k 0x25) 0x0B) 2 0 = 0 then some [] else sourceParts bs

/-- The ledger input, which the lead reads (R462, R463). -/
def State.ledgerInput (s : State) (k j : Nat) : Reading :=
  let o := ctxObj k 0x24
  if (s.slot k j).leads && s.reg o 0x0A ≠ 0 then s.readHost k (s.reg64 o 0x08) (s.reg o 0x0A).toNat else .done []

/-- The whole rank map: the lead computes it, another device has received it (R38). -/
def State.wholeMap (s : State) (k j : Nat) : Option (List Half) :=
  let q := s.slot k j
  let base := q.image.toNat
  if q.leads then s.rankMapFor (BitVec.ofNat 16 (s.img base 0x0C 2)) (s.img base 8 4) (s.shieldOf base).1 (s.standbys k)
  else some (s.rankMapOf k j)

/-- The contexts whose running jobs have been pre-empted. -/
def State.gone (s : State) : List Nat :=
  (upto 16).filter (fun i => match s.job i with
    | some j => (s.slot i j.j).preempted
    | none => false)

/-- Inserts a context into the order of pre-emption: lowest priority first, the highest context number first among equals. -/
def State.insertVictim (s : State) (i : Nat) : List Nat → List Nat
  | [] => [i]
  | h :: t => if s.priority i < s.priority h ∨ (s.priority i = s.priority h ∧ h < i) then i :: h :: t else h :: s.insertVictim i t

/-- The contexts whose running jobs may be pre-empted for context k, in their order (R527). -/
def State.victims (s : State) (k : Nat) : List Nat :=
  (upto 16).foldl (fun l i =>
    match s.job i with
    | some j => if i ≠ k && (s.slot i j.j).state = 4 && !(s.slot i j.j).preempted && decide (s.priority i < s.priority k) then s.insertVictim i l else l
    | none => l) []

/-- Logical core i, which has halted and so passes no further block boundary, leaves its core at once. -/
def State.releaseHalted (s : State) (k : Nat) : State :=
  s.cores.foldl (fun (t : State) p =>
    match p.2.res0, p.2.fold with
    | some i, [] => (match t.lcore i with
      | some x => if x.k = k && x.status = .halted && x.drained then (t.leave p.1 i).notePods else t
      | none => t)
    | _, _ => t) (s.cores.foldl (fun (t : State) p =>
    match p.2.res1 with
    | some i => (match t.lcore i with
      | some x => if x.k = k && x.status = .halted && x.drained then (t.leave p.1 i).notePods else t
      | none => t)
    | none => t) s)

/-- Pre-empts the running job of context k (R528). -/
def State.preempt (s : State) (k : Nat) : State :=
  match s.job k with
  | none => s
  | some j =>
    let t := s.changeSlot k j.j (fun v => { v with preempted := true, preemptions := satAdd (2 ^ 32 - 1) v.preemptions 1 })
    let t := (t.bump (ctxObj k 1) 0x07 1).setJob k (some { j with preemptedAt := some s.clock.tick })
    let t := t.cores.foldl (fun (u : State) p => u.setCore p.1 { p.2 with entering := p.2.entering.filter (fun i => ctxOfLkey i ≠ k) }) t
    t.releaseHalted k

/-- Where the placer stands with the cores of a job (R522 step 3, R527): a core map; it must wait, after pre-empting some
contexts; or the job fits on no free cores. -/
inductive Room where
  | fits (cores : List PlacedCore)
  | wait (preempt : List Nat)
  | none

/-- The shortest start of the list of victims without which the cores suffice. -/
def State.enoughVictims (s : State) (place : State → Option (List PlacedCore)) (gone : List Nat) : List Nat → List Nat → Option (List Nat)
  | _, [] => Option.none
  | taken, v :: t =>
    if (place (s.withoutContexts (gone ++ taken ++ [v]))).isSome then some (taken ++ [v]) else s.enoughVictims place gone (taken ++ [v]) t

/-- Finds cores for the job of context k. -/
def State.findRoom (s : State) (k : Nat) (place : State → Option (List PlacedCore)) : Room :=
  match place s with
  | some l => .fits l
  | none =>
    if (place (s.withoutContexts s.gone)).isSome then .wait []
    else
      match s.enoughVictims place s.gone [] (s.victims k) with
      | some vs => .wait vs
      | none => if (place (s.withoutContexts (upto 16))).isSome then .wait [] else .none

/-! ## The job (R41, R387, R425 to R444, R495, R516) -/

/-- The physical pod of a logical pod under a core map. -/
def podOf (cores : List PlacedCore) (r lp : Nat) : Nat :=
  match cores.find? (fun e => e.rank = r && e.lcore / 16 = lp) with
  | some e => e.phys / 18
  | none => 0

/-- What this device is in a job with a whole rank map: its replica, the replica's rank map, and the replica's lead. -/
structure Seat where
  replica : Nat
  map : List Half
  lead : Half
  held : List Nat
  deriving DecidableEq, Repr

def State.seat (s : State) (q : Slot) (ranks replicas : Nat) (whole : List Half) : Seat :=
  let at_ := (whole.findIdx? (fun c => c = s.coord)).getD 0
  let d := if replicas = 0 || q.stands then 0 else at_ / max 1 ranks
  let map := (whole.drop (d * ranks)).take ranks
  { replica := d, map := map, lead := if d = 0 then s.leadOf q else map.headD 0
    held := if q.stands then [] else (upto ranks).filter (fun r => map[r]? = some s.coord) }

/-- The watches as the image starts them (R432, R434). -/
def State.watchesOf (s : State) (base : Nat) : List WatchVar :=
  if s.hasSect base 9 then
    let o := (s.sect base 9).1
    (upto (s.img base o 4)).map (fun i =>
      let e := signed 32 (s.img base (o + 0x430 + 4 * i) 4)
      { e := e, next := e, run := 0 })
  else []

/-- The job as it is accepted. -/
def State.newJob (s : State) (k j : Nat) (whole : List Half) (seat : Seat) (plan : Plan) (start : DWord) (input : List Byte) : Job :=
  let q := s.slot k j
  let base := q.image.toNat
  let img := s.img base
  let sh := s.shieldOf base
  let w := base + (s.sect base 9).1
  let has := s.hasSect base 9
  let wf := fun (o n : Nat) => if has then s.img w o n else 0
  { j := j, lead := seat.lead = s.coord && !q.stands, leadCoord := seat.lead, standby := q.stands
    tag := mix (BitVec.ofNat 64 (img 0x30 8) ^^^ q.launch)
    shape := BitVec.ofNat 16 (img 0x0C 2), ranks := img 8 4, cores := img 0x0E 2, held := seat.held, rankMap := seat.map
    coreMap := plan.cores, tensors := plan.tensors, pages := plan.pages, saves := plan.saves
    epoch := 0, fromTick := q.launch, recordAddr := 0, recordLen := 0
    estimate := img 0x20 8, releases := img 0x28 4
    groups := s.groupsOf base, shards := s.shardsOf base start, hypers := s.hypersOf base
    nodes := [], gathers := [], undecided := [], holdData := [], reports := [], reported := none, commit := none, committed := none
    committedAt := 0, stepDigest := 0, scaled := none, tapped := none, partials := []
    watches := s.watchesOf base, watchMap := if has then getBytes s.mem (w + 0x30) 1024 else []
    scaleTable := wf 8 8, ratioTable := wf 0x10 8, ratioLimit := BitVec.ofNat 32 (wf 0x20 4), layers := wf 4 4
    satLimit := wf 0x18 4, growth := wf 0x1C 2, eMin := int8 (wf 0x1E 1), eMax := int8 (wf 0x1F 1)
    watchGot := [], tapGot := [], scalePending := false, taps := s.tapsOf base, queues := s.queuesOf base, stalls := []
    homes := s.homeEntries k seat.held (s.homesOf base) (podOf plan.cores)
    replicas := sh.1, interval := sh.2, replica := seat.replica, replicaMap := if sh.1 = 0 then [] else whole, jobLead := s.leadOf q
    shieldDigests := [], agreed := none, comparisons := 0, cleared := none, digests := [], forced := [], disputed := none, history := []
    left := [], expelled := [], judged := [], rankDigests := [], order := none, restored := []
    accepted := [], ended := [], confirmed := none, lastStep := none, lastBoundary := 0, launched := 0, estimated := 0, ending := false
    bound := start, moves := [], reload := [], start := start, stop := q.endStep, preemptedAt := none
    ledger := [], ledgerSeq := 0, sink := (s.reg64 (ctxObj k 0x24) 0x01, (s.reg (ctxObj k 0x24) 0x03).toNat)
    replay := !input.isEmpty, input := input, parts := [] }

/-- The logical core of a core map entry, as it waits for its job's launch (R149, R194, R216, R513, R514). -/
def State.newCore (s : State) (k : Nat) (j : Job) (e : PlacedCore) : LCore :=
  let base := (s.slot k j.j).image.toNat
  match s.coreEntry base e.rank e.lcore with
  | none => { k := k, r := e.rank, l := e.lcore, j := j.j, status := .idle }
  | some ce =>
    let x := s.loadCore j
      { k := k, r := e.rank, l := e.lcore, j := j.j, program := ce.program, status := .idle, step := j.bound
        footprint := 1024 * ce.footprint, rows0 := ce.rows0, rows1 := ce.rows1, diagnostic := bit (s.reg (ctxObj k 0) 1) 3 }
    { x with sram := s.putInitial base ce.set e.rank x.sram }

/-- Loads the logical cores of a core map and places them on their physical cores. -/
def State.seatCores (s : State) (k : Nat) (j : Job) : State :=
  let t := j.coreMap.foldl (fun (u : State) e => u.setLcore (lkey k e.rank e.lcore) (some (s.newCore k j e))) s
  j.coreMap.foldl (fun (u : State) e => u.join e.phys (lkey k e.rank e.lcore) false) t

/-- Body of a job start record (R458). -/
def startBody (digest seed : DWord) (ranks devices : Nat) : List Byte :=
  leBytes 8 digest.toNat ++ leBytes 8 seed.toNat ++ leBytes 4 ranks ++ leBytes 4 devices ++ leBytes 2 1 ++ leBytes 6 0

/-- Rank map entries as a message carries them (R41, R344). -/
def mapBody (m : List Half) : List Byte := (m.zipIdx).flatMap (fun q => leBytes 4 (q.1.toNat * 2 ^ 16 + q.2 % 2 ^ 16))

/-- Acceptance of a job that has passed steps 1 to 3: its state at this device is set up, the sequence and the journal
entry are written, and the notice goes to the lead (R40, R430, R447, R456, R467, R514, R522). -/
def State.acceptSlot (s : State) (k j : Nat) (whole : List Half) (plan : Plan) (parts : List Part) (input : List Byte) : State :=
  let q := s.slot k j
  let base := q.image.toNat
  let digest : DWord := BitVec.ofNat 64 (s.img base 0x30 8)
  let start := match parts with
    | p :: _ => p.next
    | [] => q.startStep
  let seat := s.seat q (s.img base 8 4) (s.shieldOf base).1 whole
  let job := s.newJob k j whole seat plan start input
  let seq := if q.rerun then q.sequence else BitVec.ofNat 64 s.nextSequence
  let t := if q.rerun then s else { s with nextSequence := s.nextSequence + 1 }
  let t := t.changeSlot k j (fun v => { v with state := 3, sequence := seq, imageDigest := digest })
  let t := (t.setJob k (some job)).seatCores k job
  let t := ((t.writeInitial k job base).writeScales k job).applyParts k parts
  let t := t.setReg (ctxObj k 0x26) 0x01
    (if job.replicas = 0 then 0 else if job.standby then 2 else BitVec.ofNat 32 (16 * job.replica + 1))
  let t := t.setReg64 (ctxObj k 0x26) 0x0F (2 ^ 64 - 1)
  let t := if job.lead then t.record k 0x01 start (startBody digest q.seed job.ranks (job.rankMap ++ job.replicaMap).eraseDups.length) else t
  let t := if job.standby then t else (t.writePlacement k start).recordPages k start
  let t := (t.setRankMap k j []).dropFetched k |>.useMemory
  if q.leads then
    match t.job k with
    | none => t
    | some jb => (t.setJob k (some { jb with accepted := [s.coord] })).controlEveryone k jb 0x01 (mapBody whole)
  else t.control k job.tag job.jobLead 0x02 (leBytes 8 seq.toNat ++ leBytes 4 q.role.toNat ++ leBytes 4 0)

/-- Steps 3 to 6 with the whole rank map. -/
def State.placeSlot (s : State) (k j : Nat) (whole : List Half) (parts : List Part) (input : List Byte) : State :=
  let q := s.slot k j
  let base := q.image.toNat
  let seat := s.seat q (s.img base 8 4) (s.shieldOf base).1 whole
  if seat.held = [] && !q.stands then s.refuseSlot k j 0x02
  else
    let diag := bit (s.reg (ctxObj k 0) 1) 3
    match s.findRoom k (fun t => t.placeCores k base (s.img base 0x0E 2) seat.held diag (fun _ _ => none)) with
    | .none => s.refuseSlot k j 0x02
    | .wait vs => vs.foldl (fun (t : State) i => t.preempt i) s
    | .fits cores =>
      match s.planMemory k base seat.map seat.lead seat.held with
      | none => s.refuseSlot k j 0x02
      | some p => s.acceptSlot k j whole { held := seat.held, cores := cores, tensors := p.1, saves := p.2.1, pages := p.2.2 } parts input

/-- The job manager begins, or goes on with, the acceptance of an eligible slot (R519, R520, R522). While something has yet
to be read, received or freed, the slot stays armed and the next ACCEPTANCE_BEGIN goes on. -/
def State.beginAcceptance (s0 : State) (k j : Nat) : State :=
  let s := s0.wakeMemory.useMemory
  if !s.imageGood k j then s.refuseSlot k j 0x01
  else
    match s.restoreSource k with
    | .waiting t => t
    | .failed => s.refuseSlot k j 0x03
    | .done bs =>
      match s.restoreParts k bs with
      | none => s.refuseSlot k j 0x03
      | some parts =>
        match s.ledgerInput k j with
        | .waiting t => t
        | .failed => s.refuseSlot k j 0x06
        | .done input =>
          match s.wholeMap k j with
          | none => s.refuseSlot k j 0x02
          | some [] => s
          | some whole => s.placeSlot k j whole parts input

/-- Context k and slot j exist (R509, R516). -/
def slotOk (k j : Nat) : Bool := decide (k < 16) && decide (j < 8)

/-- Meaning of ACCEPTANCE_BEGIN (R519, R520, R522). -/
def execAcceptanceBegin (k j : Nat) (s : State) : Host.Outcome State Fault Refusal :=
  onUnit (slotOk k j)
    (if s.eligible k j then (s.until ((s.slot k j).launch.toNat - 500000)).beginAcceptance k j else s)

/-! ## Messages before the launch -/

/-- A shielded job takes a new rank map (R498, R499): a standby that it names takes its place in that replica, and a map of
one replica ends the shielding (log 19). -/
def State.newMap (s : State) (k : Nat) (j : Job) (m : List Half) : State :=
  let d := match m.findIdx? (fun c => c = s.coord) with
    | some i => if j.standby then i / max 1 j.ranks else j.replica
    | none => j.replica
  let map := (m.drop (d * j.ranks)).take j.ranks
  let lead := if d = 0 then j.jobLead else map.headD 0
  let alone := m.length ≤ j.ranks
  if j.replicas = 0 then s
  else s.setJob k (some { j with
    replica := d, replicaMap := if alone then [] else m, replicas := if alone then 0 else j.replicas, rankMap := map, leadCoord := lead
    lead := lead = s.coord && !j.standby })

/-- Meaning of RANK_MAP (R38, R39): the map is kept for the slot, and a coordinate that is not present here faults it. -/
def execRankMap (k j : Nat) (entries : List Half) (s : State) : Host.Outcome State Fault Refusal :=
  onUnit (slotOk k j)
    (match s.job k with
    | some jb => if jb.j = j && !(s.slot k j).leads then s.newMap k jb entries else s
    | none =>
      let q := s.slot k j
      if !(s.waits k j) || q.leads then s
      else if s.mapPresent entries then
        let t := s.setRankMap k j entries
        if t.eligible k j && decide (q.launch.toNat ≤ t.clock.tick.toNat + 500000) then t.beginAcceptance k j else t
      else
        (s.control k (mix (BitVec.ofNat 64 (s.img q.image.toNat 0x30 8) ^^^ q.launch)) (s.leadOf q) 0x0A (teardownBody 0x02 s.coord)).refuseSlot k j 0x02)

/-- The accepted job of slot j of context k. -/
def State.acceptedJob (s : State) (k j : Nat) : Option Job :=
  match s.job k with
  | some jb => if jb.j = j && (s.slot k j).state = 3 then some jb else none
  | none => none

/-- Meaning of ACCEPTANCE_NOTICE (R452). -/
def execAcceptanceNotice (k j : Nat) (src : Half) (_sequence : DWord) (s : State) : Host.Outcome State Fault Refusal :=
  onUnit (slotOk k j)
    (match s.acceptedJob k j with
    | none => s
    | some jb =>
      if jb.jobLead ≠ s.coord || jb.accepted.contains src then s
      else s.setJob k (some { jb with accepted := jb.accepted ++ [src] }))

/-- A slot goes to faulted before its launch, with its job when it has been accepted. -/
def State.faultSlot (s : State) (k j cause : Nat) : State :=
  match s.job k with
  | some jb => if jb.j = j then s.endFaulted k j cause 0xFFFFFFFF else s.refuseSlot k j cause
  | none => s.refuseSlot k j cause

/-- The lead's ledger input goes to the devices that apply it (R463, log 19). -/
def State.shareInput (s : State) (k : Nat) (j : Job) : State :=
  (j.replayed.filter (fun r => 0x10 ≤ r.1)).foldl (fun (t : State) r =>
    let b := recordBytes r.1 r.2.1 0 r.2.2
    j.otherLeads.foldl (fun (u : State) c => u.control k j.tag c 0x05 b) (t.controlAll k j 0x05 b)) s

/-- Meaning of LAUNCH_DECISION (R452): at T_L − 1,000 the lead confirms the launch, or cancels it. -/
def execLaunchDecision (k j : Nat) (s0 : State) : Host.Outcome State Fault Refusal :=
  onUnit (slotOk k j)
    (match s0.acceptedJob k j with
    | none => s0
    | some jb =>
      if jb.jobLead ≠ s0.coord || jb.confirmed.isSome then s0
      else
        let tl := (s0.slot k j).launch
        let s := s0.until (tl.toNat - 1000)
        if (s.everyone k jb).all (fun c => jb.accepted.contains c) && jb.accepted.contains s.coord then
          ((s.setJob k (some { jb with confirmed := some tl })).controlEveryone k jb 0x03 (leBytes 8 tl.toNat)).shareInput k jb
        else (s.controlEveryone k jb 0x04 (leBytes 4 0x0D ++ leBytes 4 0)).faultSlot k j 0x0D)

/-- Meaning of LAUNCH_CONFIRMATION (R452). -/
def execLaunchConfirmation (k j : Nat) (tick : DWord) (s : State) : Host.Outcome State Fault Refusal :=
  onUnit (slotOk k j)
    (match s.acceptedJob k j with
    | none => s
    | some jb => s.setJob k (some { jb with confirmed := some tick }))

/-- The cores of an expelled device go to the head of the radish rotation (R501). -/
def State.headOfRotation (s : State) (j : Job) : State :=
  j.coreMap.foldl (fun (t : State) e => t.setCore e.phys { t.core e.phys with visited := 0 }) s

/-- Meaning of CANCEL (R452, R501): an armed, accepted or running slot goes to faulted with the cause that the message
carries. -/
def execCancel (k j cause : Nat) (s : State) : Host.Outcome State Fault Refusal :=
  onUnit (slotOk k j)
    (if 2 ≤ (s.slot k j).state && (s.slot k j).state ≤ 4 then
      let t := match s.job k with
        | some jb => if jb.j = j && cause = 0x09 then s.headOfRotation jb else s
        | none => s
      t.faultSlot k j cause
    else s)

/-! ## Launch -/

/-- Meaning of FAST_CLOCK_START (R452, R518): at T_L − 400 a confirmed device starts the clocks of its pods; a slot without a
confirmation faults. -/
def execFastClockStart (k j : Nat) (s0 : State) : Host.Outcome State Fault Refusal :=
  onUnit (slotOk k j)
    (let q := s0.slot k j
    if q.state = 3 && !(s0.waits k j) && (s0.acceptedJob k j).isNone || !(q.state = 2 || q.state = 3) then s0
    else
      let s := s0.until (q.launch.toNat - 400)
      match s.acceptedJob k j with
      | some jb => if jb.confirmed = some q.launch then s.startPods (jb.coreMap.map (fun e => e.phys)) else s.faultSlot k j 0x0D
      | none => s.faultSlot k j 0x0D)

/-- The objects that count for the running job take their reset values at job start (R329, R422, R428, R440). -/
def State.clearCounts (s : State) (k : Nat) : State :=
  { s with dict := s.dict.filter (fun p =>
      let i := p.1 / 256
      !(ctxObj k 0x21 ≤ i && i ≤ ctxObj k 0x23) && !(numObj k 0 ≤ i && i < numObj k 0x100)) }

/-- The clocks of the pods of some cores run (R452, R570). -/
def State.clockPods (s : State) (cs : List Nat) : State :=
  ((cs.map (fun c => c / 18)).eraseDups).foldl (fun (t : State) p => t.setPod p { t.pod p with clocked := true, startAt := none, idleSince := none }) s

/-- A logical core of the job issues its first instruction; the other members of a fold are ready to take the core (R452). -/
def State.firstIssue (s : State) (i : Nat) : State :=
  match s.lcore i with
  | none => s
  | some x =>
    if x.status ≠ .idle then s
    else if s.cores.any (fun p => p.2.res0 = some i || p.2.res1 = some i) then s.wake i (fun y => y)
    else s.setLcore i (some { x with status := .ready })

/-- The job of context k starts at the present tick, or a replay at a standby starts (R452, R504). -/
def State.startJob (s : State) (k : Nat) : State :=
  match s.job k with
  | none => s
  | some j =>
    let t := (s.clearCounts k).setReg (numObj k 0) 3 (BitVec.ofNat 32 j.watches.length)
    let t := t.setJob k (some { j with
      launched := s.clock.tick, lastBoundary := s.clock.tick
      groups := j.groups.map (fun g => { g with takes := (j.readyRanks g).map (fun r => (r, j.bound)) }) })
    let t := t.clockPods (j.coreMap.map (fun e => e.phys))
    let t := j.groups.foldl (fun (u : State) g => (j.readyRanks g).foldl (fun (v : State) r => v.queueTake k g r) u) t
    let keys := sortNat (j.coreMap.map (fun e => lkey k e.rank e.lcore))
    keys.foldl (fun (u : State) i => u.firstIssue i) (t.setReg (ctxObj k 0x20) 4 (BitVec.ofNat 32 j.recordLen))

/-- Meaning of LAUNCH (R452, R516, R518, R534): at T_L, cycle 0. -/
def execLaunch (k j : Nat) (s0 : State) : Host.Outcome State Fault Refusal :=
  onUnit (slotOk k j)
    (match s0.acceptedJob k j with
    | none => s0
    | some jb =>
      let q := s0.slot k j
      if jb.confirmed ≠ some q.launch then s0
      else
        let s := s0.until q.launch.toNat
        let wait := q.launch - q.armedTick
        let t := s.changeSlot k j (fun v => { v with
          state := 4, rerun := false, queueWait := wait, preemptions := 0, preemptedTicks := 0, steps := 0, slowdown := 0, lastSlow := 0 })
        let t := (t.bump64 (ctxObj k 1) 0x05 wait.toNat).setReg (ctxObj k 1) 0x01 (BitVec.ofNat 32 j)
        t.startJob k)

/-! ## Resumption (R529) -/

/-- Some physical core still holds logical cores of context k. -/
def State.onCores (s : State) (k : Nat) : Bool :=
  s.cores.any (fun p => ([p.2.res0, p.2.res1].filterMap id ++ p.2.fold).any (fun i => ctxOfLkey i = k))

/-- The core map of a re-placement of the running job of context k. -/
def State.newPlaces (s : State) (k : Nat) (j : Job) : Option (List PlacedCore) :=
  s.placeCores k (s.slot k j.j).image.toNat j.cores j.held (bit (s.reg (ctxObj k 0) 1) 3) j.podNow

/-- A pre-empted job for which cores are free. -/
def State.resumable (s : State) (k : Nat) : Bool :=
  match s.job k with
  | none => false
  | some j => (s.slot k j.j).preempted && !(s.onCores k) && (s.newPlaces k j).isSome

/-- Sequence number of the job of context k. -/
def State.sequenceOf (s : State) (k : Nat) : Nat :=
  match s.job k with
  | none => 0
  | some j => (s.slot k j.j).sequence.toNat

/-- Context i goes before context k: its pre-empted job resumes first, or a slot of higher priority is being accepted and
waits for the cores. -/
def State.precedes (s : State) (i k : Nat) : Bool :=
  (i ≠ k && s.resumable i &&
    (decide (s.priority k < s.priority i) || (s.priority k = s.priority i && decide (s.sequenceOf i < s.sequenceOf k)))) ||
  (decide (s.priority k < s.priority i) && (upto 8).any (fun j => s.eligible i j &&
    decide ((s.slot i j).launch.toNat ≤ s.clock.tick.toNat + 500000) && decide (s.clock.tick.toNat + 1000 < (s.slot i j).launch.toNat)))

/-- The saved logical cores take their new places and run again. -/
def State.rejoin (s : State) (k : Nat) (e : PlacedCore) : State :=
  let i := lkey k e.rank e.lcore
  match s.lcore i with
  | none => s
  | some x =>
    if x.status = .halted then s
    else (((s.setLcore i (some { x with status := if x.status = .saved then .ready else x.status })).join e.phys i false).reschedule e.phys).abandonTile e.phys

/-- Meaning of JOB_RESUME (R529): the job is placed again, when cores are free for it and no other goes before it. -/
def execJobResume (k : Nat) (s : State) : Host.Outcome State Fault Refusal :=
  onUnit (decide (k < 16))
    (match s.job k with
    | none => s
    | some j =>
      match s.newPlaces k j with
      | none => s
      | some cores =>
        if !(s.resumable k) || (upto 16).any (fun i => s.precedes i k) then s
        else
          let t := s.changeSlot k j.j (fun v => { v with
            preempted := false
            preemptedTicks := satAdd (2 ^ 64 - 1) v.preemptedTicks ((s.clock.tick - j.preemptedAt.getD s.clock.tick).toNat) })
          let t := t.setJob k (some { j with
            coreMap := cores, epoch := j.epoch + 1, fromTick := s.clock.tick, moves := [], preemptedAt := none })
          let t := (t.startPods (cores.map (fun e => e.phys))).writePlacement k j.bound
          cores.foldl (fun (u : State) e => u.rejoin k e) t)

/-! ## The state of a job across resets (R531, R583) -/

/-- The slot of context k through which this device answers a status query as lead: that of its accepted or running job, or
the done or faulted one with the largest sequence number (log 22). -/
def State.leadSlot (s : State) (k : Nat) : Option Slot :=
  match s.job k with
  | some j => if j.lead then some (s.slot k j.j) else none
  | none =>
    (((upto 8).map (fun j => s.slot k j)).filter (fun q => q.leads && (q.state = 3 || q.state = 4 || q.state = 5 || q.state = 6))).foldl
      (fun (b : Option Slot) q =>
        match b with
        | none => some q
        | some p => if p.sequence.toNat < q.sequence.toNat then some q else some p) none

/-- Meaning of STATUS_QUERY (R583): the lead answers with the state of the job's slot. -/
def execStatusQuery (k : Nat) (src : Half) (_sequence : DWord) (s : State) : Host.Outcome State Fault Refusal :=
  onUnit (decide (k < 16))
    (match s.leadSlot k with
    | none => s
    | some q => s.control k q.tag src 0x0E
        (leBytes 4 q.state ++ leBytes 4 0 ++ leBytes 8 q.endTick.toNat ++ leBytes 8 q.lastStep.toNat ++ leBytes 8 q.digest.toNat))

/-- A slot whose job was interrupted must run again from its start (R531). -/
def State.rerunSlot (s : State) (k j : Nat) : State :=
  s.changeSlot k j (fun v => { v with state := 3, rerun := true, launchReg := 0, launch := 0, preempted := false })

/-- Slot j of context k was running when the device was reset, and its lead has not answered yet (R531). -/
def State.interrupted (s : State) (k j : Nat) : Bool := (s.slot k j).state = 4 && (s.job k).isNone

/-- Meaning of STATUS_ANSWER (R531, R583). -/
def execStatusAnswer (k j state : Nat) (tick last digest : DWord) (s : State) : Host.Outcome State Fault Refusal :=
  onUnit (slotOk k j)
    (let s := { s with power := { s.power with queries := s.power.queries.filter (fun q => !(q.1 = k && q.2.1 = j)) } }
    if !(s.interrupted k j) then s
    else if state = 5 then
      s.changeSlot k j (fun v => { v with state := 5, endTick := tick, lastStep := last, digest := digest, preempted := false })
    else s.rerunSlot k j)

end Sys2Proof.Machine
end

