-- ==== Sys2Proof/Machine/Shield.lean ====
section
/-! DEFINITION. Shielding with replicas: comparison, replay at a standby, expulsion, and restoration (R495 to R504). What the
rules leave open of the messages between the devices is in log 19. -/

namespace Sys2Proof.Machine

/-! ## Comparison (R496, R500) -/

/-- Meaning of REPLICA_DIGEST (R496, R500). The job lead compares a replica's digest; a digest for a step that is not
compared so far, or from a device of the lead's own replica, names a step that becomes a comparison step (log 19). -/
def execReplicaDigest (k replica : Nat) (step digest : DWord) (s : State) : Host.Outcome State Fault Refusal :=
  onUnit (decide (k < 16))
    (match s.job k with
    | none => s
    | some j =>
      if !j.lead || j.replicas = 0 then s
      else if j.jobLead ≠ s.coord then
        (s.setJob k (some { j with forced := j.forced ++ [step] })).control k j.tag j.jobLead 0x0B (leBytes 8 step.toNat ++ leBytes 8 0)
      else if replica = j.replica || !(j.comparison step || j.disputed.isSome) then s.dispute k step
      else if (j.digestBy replica step).isSome then s
      else ((s.setJob k (some { j with shieldDigests := j.shieldDigests ++ [(replica, step, digest)] })).compareDigests k step).tryCommit k)

/-- This device sends the job lead the digests of its ranks in every step since the last agreed one (R497, R498). -/
def State.sendDigests (s : State) (k : Nat) (j : Job) : State :=
  ((j.rankDigests.map (fun d => d.1)).eraseDups).foldl (fun (t : State) v =>
    t.control k j.tag j.jobLead 0x10 (digestsBody v (j.digestsIn v))) s

/-- Meaning of AGREEMENT (R496, R498): on agreement a replica lead may commit; otherwise it reports its step digests, and,
once its own digest of the step is known, it and its devices report the digests of their ranks. -/
def execAgreement (k : Nat) (step : DWord) (agree : Bool) (s : State) : Host.Outcome State Fault Refusal :=
  onUnit (decide (k < 16))
    (match s.job k with
    | none => s
    | some j =>
      if j.replicas = 0 then s
      else if agree then
        (if j.lead then (s.setJob k (some { j with cleared := some step })).tryCommit k else s)
      else
        let t := s.setJob k (some { j with forced := if j.forced.contains step then j.forced else j.forced ++ [step] })
        if !j.lead then t.sendDigests k j
        else
          let t := j.digests.foldl (fun (u : State) d => u.control k j.tag j.jobLead 0x0B (leBytes 8 d.1.toNat ++ leBytes 8 d.2.toNat)) t
          if j.digests.any (fun d => d.1 = step) then (t.controlAll k j 0x0C (agreementBody step 1)).sendDigests k j else t)

/-! ## Restoring from a shield checkpoint (R498, R504) -/

/-- The devices of replica d. -/
def Job.seatsOf (j : Job) (d : Nat) : List Half := ((j.replicaMap.drop (d * j.ranks)).take j.ranks).eraseDups

/-- What has been read of n bytes from an offset in the shield areas of device c: nothing for a byte that cannot be read. -/
def Job.areaBytes (j : Job) (s : State) (c : Half) (off n : Nat) : Reading :=
  let mine := j.restored.filter (fun r => r.1 = c)
  if mine.any (fun r => r.2.2.isEmpty && decide (off ≤ r.2.1) && decide (r.2.1 < off + n)) then .failed
  else
    let got := mine.foldl (fun (m : Sparse Byte) r =>
      (r.2.2.zipIdx).foldl (fun (q : Sparse Byte) b => if off ≤ r.2.1 + b.2 ∧ r.2.1 + b.2 < off + n then sins q (r.2.1 + b.2) b.1 else q) m) []
    if got.length = n then .done (got.map (fun p => p.2)) else .waiting s

/-- Asks device c for n bytes from an offset in its shield areas on, 31 granules at a time. The areas lie at the same
addresses at every device (R503, log 19). -/
def State.askArea (s : State) (k : Nat) (j : Job) (d : Nat) (c : Half) : Nat → Nat → Nat → State
  | 0, _, _ => s
  | f + 1, off, n =>
    if n = 0 then s
    else
      let m := min 31 ((n + 63) / 64)
      let r := (((j.replicaMap.drop (d * j.ranks)).take j.ranks).findIdx? (fun x => x = c)).getD 0
      let t := (s.askAt r 0x01 c k (s.reg64 (ctxObj k 0x26) 0x0B + off) (BitVec.ofNat 64 m) [] true (.restore k off)).1
      t.askArea k j d c f (off + 64 * m) (n - 64 * m)

/-- The headers of both areas of every device of replica d are asked for. -/
def State.askHeads (s : State) (k : Nat) (j : Job) (d : Nat) : State :=
  (j.seatsOf d).foldl (fun (t : State) c =>
    (t.askArea k j d c 1 0 64).askArea k j d c 1 (s.reg64 (ctxObj k 0x26) 0x0D) 64) s

/-- How far one device's part has come. -/
inductive Source where
  | bad
  | wait
  | ask (off n : Nat)
  | part (p : Part)
  deriving DecidableEq, Repr

/-- The part of the shield checkpoint of step u at device c. -/
def State.sourceAt (s : State) (k : Nat) (j : Job) (u : DWord) (c : Half) : Source :=
  let len := s.reg64 (ctxObj k 0x26) 0x0D
  match j.areaBytes s c 0 64, j.areaBytes s c len 64 with
  | .waiting _, _ => .wait
  | _, .waiting _ => .wait
  | h0, h1 =>
    let good := fun (h : Reading) =>
      match h with
      | .done bs => if field bs 8 8 = (u + 1).toNat then partLength bs else none
      | _ => none
    let pick := match good h0, good h1 with
      | some n, _ => some (0, n)
      | none, some n => some (len, n)
      | none, none => none
    match pick with
    | none => .bad
    | some (off, n) =>
      match j.areaBytes s c off n with
      | .failed => .bad
      | .done bs =>
        (match parsePart bs with
        | some p => .part p.1
        | none => .bad)
      | .waiting _ =>
        if s.fabric.purposes.any (fun p => p.1 = c && p.2.2 = .restore k (off + 64)) || j.restored.any (fun r => r.1 = c && r.2.1 = off + 64) then .wait
        else .ask (off + 64) (n - 64)

/-- The device's ranks start at step u + 1 from the parts: at a standby that replays, every rank of the job; otherwise the
ranks that the rank map gives this device (R498, R504). -/
def State.restart (s : State) (k : Nat) (j : Job) (u w : DWord) (parts : List Part) : State :=
  let all := j.standby && u ≠ w
  let base := (s.slot k j.j).image.toNat
  let map := if all then List.replicate j.ranks s.coord else j.rankMap
  let held := (upto j.ranks).filter (fun r => map[r]? = some s.coord)
  let lead := all || j.leadCoord = s.coord
  let t := s.clearWork k
  let diag := bit (s.reg (ctxObj k 0) 1) 3
  match t.placeCores k base j.cores held diag (fun _ _ => none) with
  | none => s.faultJob k 0x02 0 0xFFFFFFFF
  | some cores =>
    match t.planMemory k base map (if all then s.coord else j.leadCoord) held with
    | none => s.faultJob k 0x02 0 0xFFFFFFFF
    | some p =>
      let done := u + 1 ≠ j.start
      let j1 : Job := { j with
        lead := lead, leadCoord := if all then s.coord else j.leadCoord, standby := all, held := held, rankMap := map
        coreMap := cores, tensors := p.1, saves := p.2.1, pages := p.2.2, epoch := j.epoch + 1, fromTick := s.clock.tick
        groups := s.groupsOf base, shards := s.shardsOf base (u + 1), nodes := [], gathers := [], undecided := [], holdData := []
        reports := [], reported := none, commit := none, committed := if done then some u else none, scaled := if done then some u else none
        tapped := if done then some u else none, partials := [], watches := s.watchesOf base, watchGot := [], tapGot := [], scalePending := false
        stalls := [], homes := t.homeEntries k held (s.homesOf base) (podOf cores)
        interval := if all then 2 ^ 64 else j.interval, left := if all then upto j.replicas else j.left, forced := []
        agreed := if done then some u else none
        comparisons := if all then 0 else if j.standby then (u + 1 - j.start).toNat / j.interval else j.comparisons + 1
        digests := [], judged := [], rankDigests := [], history := [], restored := [], moves := [], reload := []
        order := if all then some (u, w, 0) else none, ended := [], lastStep := none, ending := false, bound := u + 1
        stop := if all then w else (s.slot k j.j).endStep, replay := all || j.replay }
      let digest := (j.shieldDigests.find? (fun d => d.2.1 = u && d.1 ≠ j.replica)).map (fun d => d.2.2)
      let t := (t.setJob k (some j1)).seatCores k j1
      let t := ((t.writeInitial k j1 base).writeScales k j1).applyParts k parts
      let t := (t.writePlacement k (u + 1)).recordPages k (u + 1)
      let t := if all then t else t.setReg64 (ctxObj k 0x26) 0x0F u.toNat
      let t := if !all && j.jobLead = s.coord then t.commitLedger k s.clock.tick u (digest.getD 0) else t
      ((t.setReg (ctxObj k 0x26) 0x01 (if all then 2 else BitVec.ofNat 32 (16 * j.replica + 1))).startJob k).applyInput k

/-- Goes on with a replay order as far as what has been read allows (R498, R504): the next replica serves when a part cannot
be read; a checkpoint that is not written yet is read again. -/
def State.restoreStep (s : State) (k : Nat) : State :=
  match s.job k with
  | none => s
  | some j =>
    match j.order with
    | none => s
    | some (u, w, d) =>
      let src := (j.seatsOf d).map (fun c => (c, s.sourceAt k j u c))
      if src.any (fun q => q.2 = .bad) then
        (if u = w then (s.setJob k (some { j with restored := [] })).askHeads k j d
         else
          match (upto j.replicas).find? (fun e => decide (d < e) && !(j.left.contains e)) with
          | none => s.faultJob k 0x09 0 0xFFFFFFFF
          | some e =>
            let j1 : Job := { j with restored := [], order := some (u, w, e) }
            (s.setJob k (some j1)).askHeads k j1 e)
      else
        let asks := src.filterMap (fun q => match q.2 with
          | .ask off n => some (q.1, off, n)
          | _ => none)
        if asks ≠ [] then asks.foldl (fun (t : State) a => t.askArea k j d a.1 (a.2.2 / 64 + 1) a.2.1 a.2.2) s
        else if src.any (fun q => q.2 = .wait) then s
        else
          s.restart k j u w (src.filterMap (fun q => match q.2 with
            | .part p => some p
            | _ => none))

/-- A replay order begins: the checkpoint of step u is read, but for the state in which the job started (R504). -/
def State.takeOrder (s : State) (k : Nat) (u w : DWord) (d : Nat) : State :=
  match s.job k with
  | none => s
  | some j =>
    let j1 : Job := { j with order := some (u, w, d), restored := [], lead := false, input := if u = w then j.input else [] }
    let t := s.setJob k (some j1)
    if u + 1 = j.start then t.restart k j1 u w [] else t.askHeads k j1 d

/-- Meaning of REPLAY_ORDER (R504): steps u and w, and the replica whose shield checkpoint to restore. Orders with u = w
restore a device's own ranks at version w + 1 (R498 order 5, log 19). -/
def execReplayOrder (k : Nat) (u v : DWord) (replica : Nat) (s : State) : Host.Outcome State Fault Refusal :=
  onUnit (decide (k < 16))
    (match s.job k with
    | none => s
    | some j => if j.replicaMap = [] || (!j.standby && u ≠ v) then s else s.takeOrder k u v replica)

/-- Bytes of a shield area arrive, or none of them could be read. -/
def State.areaArrive (s : State) (k : Nat) (src : Half) (off : Nat) (bs : List Byte) : State :=
  match s.job k with
  | none => s
  | some j =>
    if j.order.isNone then s
    else (s.setJob k (some { j with restored := j.restored ++ [(src, off, bs)] })).restoreStep k

/-! ## Judging (R498, R499, R501) -/

/-- The digests of a rank in step w: of the standby c, or of a replica rank. -/
def Job.judgedOf (j : Job) (c : Half) (w : DWord) (standby : Bool) (rank : Nat) : Option (DWord × DWord) :=
  (j.judged.find? (fun q => decide (q.1 = c) = standby && q.2.1 = w && q.2.2.1 = rank)).map (fun q => (q.2.2.2.1, q.2.2.2.2))

/-- Replica d agrees with the replay. -/
def Job.agreesWith (j : Job) (c : Half) (w : DWord) (d : Nat) : Bool :=
  (upto j.ranks).all (fun r => j.judgedOf c w false (d * j.ranks + r) = j.judgedOf c w true r)

/-- The ranks of replica d that R499 expels. -/
def Job.expels (j : Job) (c : Half) (w : DWord) (d : Nat) : List Nat :=
  let diff := fun (f : DWord × DWord → DWord) =>
    (upto j.ranks).filter (fun r => (j.judgedOf c w false (d * j.ranks + r)).map f ≠ (j.judgedOf c w true r).map f)
  if diff (fun p => p.1) = [] then diff (fun p => p.2) else diff (fun p => p.1)

/-- What the judgement changes: the whole rank map, expulsions, replicas that leave, expelled devices, free standbys. -/
structure Verdict where
  map : List Half
  out : List (Nat × Nat)
  left : List Nat
  devices : List Half
  free : List (Nat × Half)
  deriving DecidableEq, Repr

/-- Judges a replica that disagrees (R499): more than 4 ranks, or fewer free standbys than expelled devices (log 19), and
the whole replica leaves. -/
def Job.judgeReplica (j : Job) (c : Half) (w : DWord) (v : Verdict) (d : Nat) : Verdict :=
  let ranks := j.expels c w d
  let at_ := fun (r : Nat) => v.map.getD (d * j.ranks + r) 0
  let devs := (ranks.map at_).eraseDups
  if 4 < ranks.length ∨ v.free.length < devs.length then
    { v with
      left := v.left ++ [d], devices := v.devices ++ ((upto j.ranks).map at_).eraseDups
      out := v.out ++ (upto j.ranks).map (fun r => (d * j.ranks + r, 2 ^ 32 - 1)) }
  else
    let swap := fun (x : Half) => (devs.findIdx? (fun y => y = x)).bind (fun i => v.free[i]?)
    { v with
      map := (v.map.zipIdx).map (fun q => if q.2 / max 1 j.ranks = d then ((swap q.1).map (fun p => p.2)).getD q.1 else q.1)
      out := v.out ++ ranks.map (fun r => (d * j.ranks + r, j.replicas * j.ranks + ((swap (at_ r)).map (fun p => p.1)).getD 0))
      devices := v.devices ++ devs, free := v.free.drop devs.length }

/-- Standbys that may take a place: number and coordinate. -/
def State.freeStandbys (s : State) (k : Nat) (j : Job) : List (Nat × Half) :=
  (upto 8).filterMap (fun n =>
    let w := s.reg (ctxObj k 0x26) (2 + n)
    if bit w 16 && !(j.expelled.any (fun e => e.2 = j.replicas * j.ranks + n)) then some (n, BitVec.ofNat 16 (bits w 15 0)) else none)

/-- The expulsion records, the error records and the count (R458, R490, R498, R503). -/
def State.noteExpulsions (s : State) (k : Nat) (j : Job) (v : DWord) (out : List (Nat × Nat)) : State :=
  out.foldl (fun (t : State) e =>
    ((t.record k 0x13 v (leBytes 4 e.1 ++ leBytes 4 e.2)).addError 0x0032 4 (unitField 0 0 s.coord.toNat) (BitVec.ofNat 32 (k * 2 ^ 16 + 2 ^ 15))
      (e.1 / max 1 j.ranks) v (BitVec.ofNat 64 e.1) (BitVec.ofNat 64 e.2)).bump (ctxObj k 0x26) 0x12 1) s

/-- Carries a judgement out (R498 orders 5 and 6, R499): expelled devices are told, every device gets the new rank map, the
replicas that were wrong are restored from replica a, and step v is agreed. -/
def State.carryOut (s : State) (k : Nat) (j : Job) (v : DWord) (a : Nat) (bad : List Nat) (x : Verdict) : State :=
  let t := s.noteExpulsions k j v x.out
  let t := (x.devices.eraseDups).foldl (fun (u : State) c => u.control k j.tag c 0x04 (leBytes 4 0x09 ++ leBytes 4 0)) t
  match t.job k with
  | none => t
  | some j1 =>
    let left := j1.left ++ x.left
    let alone := (upto j.replicas).length = left.length + 1
    let map := if alone then x.map.take j.ranks else x.map
    let j2 : Job := { j1 with
      left := left, expelled := j1.expelled ++ x.out, disputed := none, judged := [], rankMap := (x.map.drop (j.replica * j.ranks)).take j.ranks
      replicaMap := if alone then [] else x.map, replicas := if alone then 0 else j1.replicas }
    let t := (t.setJob k (some j2)).controlEveryone k { j2 with replicaMap := x.map } 0x01 (mapBody map)
    let again := bad.filter (fun d => !(left.contains d))
    let t := again.foldl (fun (u : State) d =>
      ((j2.seatsOf d).filter (fun c => c ≠ s.coord)).foldl (fun (y : State) c => y.control k j.tag c 0x0F (orderBody v v a)) u) t
    let t := (t.agree k v).tryCommit k
    if again.contains j.replica then t.takeOrder k v v a else t

/-- The job lead judges the replicas once every rank's digests are in (R498, R499). -/
def State.judge (s : State) (k : Nat) : State :=
  match s.job k with
  | none => s
  | some j =>
    match j.disputed with
    | some (v, some (w, _, c)) =>
      let full := (upto j.ranks).all (fun r => (j.judgedOf c w true r).isSome &&
        j.inJob.all (fun d => (j.judgedOf c w false (d * j.ranks + r)).isSome))
      if !full then s
      else
        match j.inJob.find? (fun d => j.agreesWith c w d) with
        | none => s.faultJob k 0x09 0x0031 0xFFFFFFFF
        | some a =>
          let bad := j.inJob.filter (fun d => !(j.agreesWith c w d))
          let x := bad.foldl (fun (x : Verdict) d => j.judgeReplica c w x d)
            { map := j.replicaMap, out := [], left := [], devices := [], free := s.freeStandbys k j }
          if x.devices.contains s.coord then s.faultJob k 0x09 0x0032 0xFFFFFFFF else s.carryOut k j v a bad x
    | _ => s

/-- Meaning of REPLAY_DIGESTS (R498, R499). -/
def execReplayDigests (k : Nat) (src : Half) (step : DWord) (ranks : List (Nat × DWord × DWord)) (s : State) : Host.Outcome State Fault Refusal :=
  onUnit (decide (k < 16))
    (match s.job k with
    | none => s
    | some j => if j.jobLead ≠ s.coord then s else (s.setJob k (some (j.addJudged src step ranks))).judge k)

end Sys2Proof.Machine
end

