-- ==== Sys2Proof/Machine/Answers.lean ====
section
/-! DEFINITION. The answers to this device's requests (R245, R246, R251, R258, R278, R303, R320, R340, R411, R435, R498). -/

namespace Sys2Proof.Machine

/-- The bytes that a fetch of logical core i still expects under a tag. -/
def State.awaited (s : State) (i tag : Nat) : Nat :=
  match s.lcore i with
  | none => 0
  | some x => match (x.fetches.flatMap (fun f => f.asks)).find? (fun a => a.tag = tag) with
    | some a => a.length
    | none => 0

/-- What an outstanding packet is for. -/
def State.purpose (s : State) (dest tag : Half) : Option Purpose :=
  (s.fabric.purposes.find? (fun q => q.1 = dest && q.2.1 = tag)).map (fun q => q.2.2)

/-- Meaning of READ_DATA (R245, R340, type 0x10): the argument is the piece's offset (log 28). -/
def execReadData (p : Packet) (s : State) : Host.Outcome State Fault Refusal :=
  .next (s.inbound 0x10 p (fun t =>
    let last := match t.purpose p.src p.tag with
      | some (.fetch i) => decide (t.awaited i p.tag.toNat ≤ p.data.length)
      | _ => true
    t.answered p last (fun u why =>
      match why with
      | .fetch i => u.dataArrive i p.tag.toNat p.arg.toNat p.data
      | .restore k off => u.areaArrive k p.src (off + p.arg.toNat) p.data
      | _ => u)))

/-- What follows when a packet is complete (R246, R258, R411, R435). -/
def State.acknowledged (s : State) (dest tag : Half) (why : Purpose) (refused : Bool) : State :=
  match why with
  | .write i _ _ _ =>
    match s.lcore i with
    | none => s
    | some x => (s.setLcore i (some { x with unacked := x.unacked - 1 })).flushSync i
  | .watch _ => if refused then s.mapPrefetch (fun e => e.watches.contains (dest, tag)) (fun e => { e with forced := true }) else s
  | .scale k => s.scaleWritten k
  | .push k r q n v =>
    if s.fabric.purposes.any (fun w => w.2.2 = .push k r q n v) then s
    else (s.ask 0x2A dest k q 1 (leBytes 4 r) true .other).1
  | .fetch _ => s
  | .restore _ _ => s
  | .barrier _ _ _ => s
  | .frame _ => s
  | .other => s

/-- The answer of a purpose is a completion (R340). -/
def Purpose.acks : Purpose → Bool
  | .fetch _ => false
  | .restore _ _ => false
  | .frame _ => false
  | _ => true

/-- The packets that a completion of n packets covers: those sent to the device up to the one that it answers. -/
def State.covered (s : State) (p : Packet) : List (Half × Half × Purpose) :=
  let l := s.fabric.purposes.filter (fun q => q.1 = p.src && q.2.2.acks)
  match l.findIdx? (fun q => q.2.1 = p.tag) with
  | none => []
  | some i => (l.take (i + 1)).drop (i + 1 - max 1 (bits p.arg 15 0))

/-- Meaning of COMPLETION (R246, R340, type 0x11). -/
def execCompletion (p : Packet) (s : State) : Host.Outcome State Fault Refusal :=
  .next (s.inbound 0x11 p (fun t =>
    let done := t.covered p
    if done = [] then t.discarded p
    else
      let u := { t with fabric := { t.fabric with
        purposes := t.fabric.purposes.filter (fun q => !(done.contains q))
        unanswered := t.fabric.unanswered.filter (fun u => !(u.dest = p.src && done.any (fun q => q.2.1 = u.tag))) } }
      done.foldl (fun (v : State) q => v.acknowledged q.1 q.2.1 q.2.2 (bits p.arg 15 0 = 0)) u))

/-- The descriptor of a move that covers a remote address: index, weights or src, in that order; src otherwise. -/
def LCore.descAt (x : LCore) (h : Held) (a : Nat) : Nat :=
  let y := x.asSent h
  let has := fun (d : Desc) => d.tier = 3 && d.base ≤ a && a < d.stop
  let ix := y.desc h.w 90
  let wts := y.desc h.w 80
  if bit h.w 79 && has ix then ix.num else if bit h.w 78 && has wts then wts.num else (y.desc h.w 100).num

/-- Meaning of ERROR_ANSWER (R251, R278, R303, R320, type 0x13): the requesting core halts. Reason 0 stands for 0x43
(log 37). -/
def execErrorAnswer (p : Packet) (s : State) : Host.Outcome State Fault Refusal :=
  .next (s.inbound 0x13 p (fun t =>
    let reason := if bits p.arg 39 32 = 0 then 0x43 else bits p.arg 39 32
    let detail := bits p.arg 31 0
    t.answered p true (fun u why =>
      match why with
      | .fetch i =>
        match u.lcore i with
        | none => u
        | some x =>
          match x.fetches.find? (fun f => f.asks.any (fun a => a.tag = p.tag.toNat)) with
          | none => u
          | some f =>
            let a := ((f.asks.filter (fun a => a.tag = p.tag.toNat)).map (fun a => a.addr % 2 ^ 64)).headD 0
            u.mistakeOf i f.held.at_ (opcode f.held.w) reason (if reason = 0x10 then x.descAt f.held a else detail)
      | .write i at_ opc dst => u.mistakeOf i at_ opc reason (if reason = 0x10 then dst else detail)
      | .barrier i b at_ => u.mistakeOf i at_ 0x41 0x53 b
      | .scale k => u.scaleWritten k
      | .restore k off => u.areaArrive k p.src off []
      | _ => u)))

end Sys2Proof.Machine
end

