-- ==== Sys2Proof/Machine/Radish.lean ====
section
/-! DEFINITION. The radish test, and cores that are retired (R18 to R22, R450, R473 to R481, R505, R506). -/

namespace Sys2Proof.Machine

/-! ## Reserves (R505) -/

/-- The shipped number of slots of a pod (R18). -/
def State.shipped (s : State) : Nat := if s.ident.grade = 0 then 16 else 15

/-- The sprouts that pod p has left: pod-local cores outside its slots that are not retired (R18). -/
def State.sprouts (s : State) (p : Nat) : List Nat :=
  (upto 18).filter (fun n => !((s.podSlots p).contains n) && !(s.core (18 * p + n)).retired)

/-- Core c is a sprout. -/
def State.isSprout (s : State) (c : Nat) : Bool := (s.sprouts (c / 18)).contains (c % 18)

/-! ## Retirement (R19, R20, R480) -/

/-- Core c goes out of service: the lowest sprout of its pod takes its slot, or the slot is removed. Records, alarms, and a
re-placement of every job at this device follow (R19, R20, R43, R480, R490, R505). -/
def State.retireCore (s : State) (c cause : Nat) : State :=
  let x := s.core c
  if x.retired then s
  else
    let p := c / 18
    let n := c % 18
    let slots := s.podSlots p
    let s := s.abandonTile c
    let s := s.setCore c { s.core c with retired := true, retest := none, overdue := false }
    let s := if x.overdue then s.setReg 0x3100 0x0B (s.reg 0x3100 0x0B - 1) else s
    let spare := (s.sprouts p).head?
    let new := match spare with
      | some q => slots.map (fun m => if m = n then q else m)
      | none => slots.filter (fun m => m ≠ n)
    let t := if slots.contains n then
        (match spare with
        | some q => (s.abandonTile (18 * p + q)).setPod p { s.pod p with slots := some new }
        | none => s.setPod p { s.pod p with slots := some new })
      else s.setPod p { s.pod p with slots := some slots }
    let t := t.addError 0x0005 3 (unitField 1 0 c) noJob cause noStep x.passed (BitVec.ofNat 64 (t.sprouts p).length)
    let t := match slots.contains n, spare with
      | true, some q => t.addError 0x0006 0 (unitField 1 0 (18 * p + q)) noJob 0 noStep (BitVec.ofNat 64 (unitField 1 0 c).toNat) 0
      | _, _ => t
    let t := if (t.sprouts p).isEmpty then t.alarm 0x0200 0x09 0 else t
    let t := if (t.podSlots p).length < t.shipped then t.alarm 0x0200 0x09 1 else t
    if slots.contains n then (upto 16).foldl (fun (u : State) k => if (u.job k).isSome then u.replaceJob k else u) t else t

/-! ## Tiles (R474 to R479) -/

/-- No context on the core keeps it from a tile: there is none, or each waits at its step barrier. -/
def State.idleCore (s : State) (c : Nat) : Bool := [(s.core c).res0, (s.core c).res1].filterMap id = []

def State.atStepBarrier (s : State) (c : Nat) : Bool :=
  ([(s.core c).res0, (s.core c).res1].filterMap id).all (fun i =>
    match s.lcore i with
    | some x => x.status = .atBarrier 255
    | none => false)

/-- Core c is eligible for a tile (R450, R476, R487). -/
def State.tileOk (s : State) (narrow : Bool) (c : Nat) : Bool :=
  let x := s.core c
  !x.retired && !x.tile &&
    (s.isSprout c || ((!narrow || bit (s.reg 0x3100 1) 1) && (s.idleCore c || (s.atStepBarrier c && narrow))))

/-- The partner of test core c: the lowest eligible sprout of another pod, else the lowest eligible core of another pod; not
the core that was its partner in the failure that it now repeats (R478, R480). -/
def State.partner (s : State) (narrow : Bool) (c : Nat) : Option Nat :=
  let other := (upto 1152).filter (fun d => d / 18 ≠ c / 18 && s.tileOk narrow d &&
    (match (s.core c).retest with
    | some q => q.2 ≠ d
    | none => true))
  match other.find? s.isSprout with
  | some d => some d
  | none => other.head?

/-- Core c comes before core d in the order of the visits: a repetition first, then the oldest visit, then the number (R480,
R481). -/
def State.visitedBefore (s : State) (c d : Nat) : Bool :=
  let x := s.core c
  let y := s.core d
  if x.retest.isSome ≠ y.retest.isSome then x.retest.isSome
  else decide (x.visited.toNat < y.visited.toNat) || (x.visited = y.visited && decide (c < d))

/-- The test manager may run tile n, held as q, on core c now: the core's turn has come. -/
def State.turn (s : State) (c n : Nat) (q : TestTile) : Bool :=
  bit (s.reg 0x3100 1) 0 && s.radish.running.isNone && !q.withdrawn && s.tileOk q.narrow c &&
    (match (s.core c).retest with
    | some r => r.1 = n
    | none => true) &&
    (upto 1152).all (fun d => d = c || !(s.tileOk q.narrow d) || s.visitedBefore c d)

/-- The clock of a core's pod runs. -/
def State.clocked (s : State) (c : Nat) : Bool := (s.pod (c / 18)).clocked

/-- Meaning of RADISH_TILE_START (R476, R478, R481): the pair starts when both pods have their clock; a start request for
the clock goes out otherwise (R570). -/
def execRadishTileStart (c tile : Nat) (s : State) : Host.Outcome State Fault Refusal :=
  onUnit (decide (c < 1152))
    (match s.radish.tiles.find? (fun q => q.tile = tile) with
    | none => s
    | some q =>
      if !(s.turn c tile q) then s
      else
        match s.partner q.narrow c with
        | none => s
        | some d =>
          if !(s.clocked c && s.clocked d) then s.startPods [c, d]
          else
            let t := s.setCore c { s.core c with tile := true }
            let t := t.setCore d { t.core d with tile := true }
            { t with radish := { t.radish with running := some (c, d, tile) } }.notePods)

/-- A core passes a tile. A repetition that passes counts as a transient failure, and the third within 2^44 ticks retires the
core (R480). -/
def State.corePasses (s : State) (c : Nat) : State :=
  let x := s.core c
  let now := s.clock.tick
  match x.retest with
  | none => s.setCore c { x with passed := now }
  | some _ =>
    let l := (x.transients.filter (fun t => decide ((now - t).toNat ≤ 2 ^ 44))) ++ [now]
    let t := s.setCore c { x with passed := now, retest := none, transients := l }
    if 3 ≤ l.length then t.retireCore c 0x0002 else t

/-- A core fails a tile with a partner: it repeats the tile, or is retired when it repeats it now (R479, R480). -/
def State.coreFails (s : State) (c partner tile : Nat) (got : Option DWord) (expected : DWord) : State :=
  let x := s.core c
  let t := (s.addError 0x0002 0 (unitField 1 0 c) noJob tile noStep (got.getD noStep) expected).bump64 0x3100 0x07 1
  match x.retest with
  | some _ => t.retireCore c 0x0002
  | none => t.setCore c { x with retest := some (tile, partner) }

/-- A result of a core, passed or failed. -/
def State.judgeCore (s : State) (c partner tile : Nat) (got : Option DWord) (expected : DWord) : State :=
  if got = some expected then s.corePasses c else s.coreFails c partner tile got expected

/-- Both cores agree against E: the tile is withdrawn until a newer package arrives, and no core is charged (R479). -/
def State.withdrawTile (s : State) (c d tile : Nat) (got expected : DWord) : State :=
  let t := s.addError 0x0003 0 (unitField 1 0 c) noJob tile noStep got expected
  let free := fun (u : State) (n : Nat) => match (u.core n).retest with
    | some r => if r.1 = tile then u.setCore n { u.core n with retest := none } else u
    | none => u
  let t := free (free t c) d
  { t with radish := { t.radish with tiles := t.radish.tiles.map (fun q => if q.tile = tile then { q with withdrawn := true } else q) } }

/-- Meaning of RADISH_TILE_END (R479 to R481): the pair is judged; a core without a result has none. -/
def execRadishTileEnd (a b : Option DWord) (s : State) : Host.Outcome State Fault Refusal :=
  .next (match s.radish.running with
    | none => s
    | some (c, d, tile) =>
      match s.radish.tiles.find? (fun q => q.tile = tile) with
      | none => s.abandonTile c
      | some q =>
        let late := (s.core c).overdue
        let t := s.setCore c { s.core c with tile := false, visited := s.clock.tick, overdue := false }
        let t := t.setCore d { t.core d with tile := false }
        let t := { t with radish := { t.radish with running := none } }
        let t := if late then t.setReg 0x3100 0x0B (t.reg 0x3100 0x0B - 1) else t
        let t := t.bump64 0x3100 0x05 1
        let t := match a, b with
          | some x, some y =>
            if x = y && x ≠ q.expected then t.withdrawTile c d tile x q.expected
            else (t.judgeCore c d tile a q.expected).judgeCore d c tile b q.expected
          | _, _ => (t.judgeCore c d tile a q.expected).judgeCore d c tile b q.expected
        t.notePods)

/-- Meaning of CORE_OVERDUE (R481): time goes on to 600 s after the core's last visit. -/
def execCoreOverdue (c : Nat) (s : State) : Host.Outcome State Fault Refusal :=
  onUnit (decide (c < 1152))
    (let x := s.core c
    if x.retired || x.overdue then s
    else
      let t := s.until (x.visited.toNat + 15000000000)
      let t := t.setCore c { t.core c with overdue := true }
      (t.addError 0x0004 0 (unitField 1 0 c) noJob 0 noStep x.visited 0).bump 0x3100 0x0B 1)

/-! ## Control cores (R21, R22) -/

/-- A firmware hand-over or a fall-back runs. -/
def Firmware.moving (f : Firmware) : Bool := f.state = 3 || f.state = 5

/-- Meaning of CONTROL_CORE_RETIRED (R21, R22, R608): the sprout takes the work over; during a hand-over, or without a free
sprout (R506), the other core of the pair works alone. -/
def execControlCoreRetired (n : Nat) (s : State) : Host.Outcome State Fault Refusal :=
  onUnit (decide (n < 9))
    (let f := s.firmware
    match f.roles.getD n none with
    | none => s
    | some role =>
      let spare := f.roles.findIdx? (fun q => q = some 8)
      let rest := f.roles.set n none
      let left := if role ≠ 8 && spare.isSome && f.moving then 1 else 0
      let s := s.addError 0x0005 3 (unitField 2 0 n) noJob 0 noStep 0 (BitVec.ofNat 64 left)
      if role = 8 then { s with firmware := { f with roles := rest } }.alarm 0x0200 0x09 3
      else
        match spare with
        | some m =>
          if f.moving then { s with firmware := { f with roles := rest, alone := f.alone ++ [role / 2], again := true } }
          else
            ({ s with firmware := { f with roles := rest.set m (some role) } }.addError 0x0006 0 (unitField 2 0 m) noJob 0 noStep
              (BitVec.ofNat 64 (unitField 2 0 n).toNat) 0).alarm 0x0200 0x09 3
        | none => { s with firmware := { f with roles := rest, alone := f.alone ++ [role / 2], again := f.moving } })

end Sys2Proof.Machine
end

