-- ==== Sys2Proof/Machine/Masters.lean ====
section
/-! DEFINITION. What a master reaches, and the result that it gets (R541, R542, R546, R552, R559, R587). -/

namespace Sys2Proof.Machine

/-- Index `idx` lies within the table for master m (R542). -/
def reaches (m idx : Nat) : Bool :=
  m ≤ 1 ||
    (let k := m - 1
    idx ≤ 1 || (0x0100 ≤ idx && idx ≤ 0x01FF) || idx = 0x0400 || idx = 0x3020 || idx = 0x0010 + k ||
      (0x2000 + 0x40 * k ≤ idx && idx < 0x2040 + 0x40 * k) || (0x2400 + 64 * k ≤ idx && idx < 0x2440 + 64 * k) ||
      (0xA000 + 0x100 * k ≤ idx && idx < 0xA100 + 0x100 * k))

/-- Indices that the always-on domain serves alone (R587, R642). -/
def alwaysServed (idx : Nat) : Bool :=
  idx ≤ 0x04FF || (0x0800 ≤ idx && idx ≤ 0x17FF) || (0x3000 ≤ idx && idx ≤ 0x31FF)

/-- The device serves an index now: all of them while the control cores run. -/
def State.serves (s : State) (idx : Nat) : Bool := s.power.control || alwaysServed idx

/-- A refused access of function k is recorded (R546). -/
def State.noteRefusal (s : State) (k result idx sub : Nat) : State :=
  let o := 0x0010 + k
  (((s.bump o 0x01 1).setReg o 0x02 (BitVec.ofNat 32 (result * 2 ^ 24 + idx * 2 ^ 8 + sub))).setReg64 o 0x03 s.clock.tick.toNat).alarm o 0x05 0

/-- The result of an operation of master m (R546, R551). -/
def State.give (s : State) (m : Nat) (a : WAnswer) : State :=
  let t := { s with serial := { s.serial with results := (m, a) :: s.serial.results.filter (fun r => r.1 ≠ m) } }
  if a.result ≠ 0 && 1 ≤ m then t.noteRefusal (m - 1) a.result a.index a.sub else t

/-- An answer entry with one member (R551). -/
def answerOf (op idx sub result : Nat) (v : DWord) : WAnswer :=
  { op := op, result := result, index := idx, sub := sub, value := if result = 0 then v else 0, answered := if result = 0 then 1 else 0
    missing := 0 }

/-- Notes an applied write for the contradictions of the window (R559). -/
def State.noteApplied (s : State) (m idx sub : Nat) (v : Word) (result : Nat) (command : Bool) : State :=
  { s with serial := { s.serial with window := s.serial.window ++
      [{ window := s.clock.tick.toNat / 25, m := m, index := idx, sub := sub, value := v, result := result, command := command }] } }

/-- A change that a master orders, and its result. -/
abbrev Rule := State → State × Nat

/-- Master m exists. -/
def masterOk (m : Nat) : Bool := decide (m ≤ 16)

/-- A write by master m, under reach and service: its result (R542, R552, R587). -/
def State.guarded (s : State) (m idx : Nat) (f : Rule) : State × Nat :=
  if !(reaches m idx) then (s, 2) else if !(s.serves idx) then (s, 1) else f s

/-- A command of master m: a write of `v` to a command sub-entry, or to another one. Nothing is applied while the always-on
domain is without supply. -/
def State.command (s : State) (m idx sub : Nat) (v : Word) (command : Bool) (f : Rule) : State :=
  if !s.power.alive then s
  else
    let r := s.guarded m idx f
    (r.1.noteApplied m idx sub v r.2 command).give m (answerOf 3 idx sub r.2 0)

/-- A rule that refuses with 0x05 unless its condition holds (R552). -/
def orRefuse (ok : Bool) (s t : State) : State × Nat := if ok then (t, 0) else (s, 5)

end Sys2Proof.Machine
end

