-- ==== Sys2Proof/Machine/Header.lean ====
section
/-! DEFINITION. Vendor keys and the headers of firmware images (R594 to R601, R616). -/

namespace Sys2Proof.Machine

/-- The public key of vendor key k (R536, R616). -/
def State.vendorKey (s : State) (k : Nat) : List Byte := (upto 24).flatMap (fun i => leBytes 4 (s.reg (0x0110 + k) (2 + i)).toNat)

/-- Vendor key k is valid and not revoked (R599, R616). -/
def State.keyGood (s : State) (k : Nat) : Bool := k < 8 && bit s.firmware.valid k && !(bit s.firmware.revoked k)

/-- n bytes are all 0. -/
def zeros (bs : List Byte) (o n : Nat) : Bool := ((bs.drop o).take n).all (fun b => b = 0)

/-- Version and security version of an image, and its declared length; 0 when the slot is empty (R595, R620). -/
def imageVersion (bs : List Byte) : Nat := field bs 0x010 8
def imageSecurity (bs : List Byte) : Nat := field bs 0x018 4
def imageLength (bs : List Byte) : Nat := 512 + field bs 0x020 8

/-- One entry of the component table (R596): kind, offset and length. -/
def component (bs : List Byte) (i : Nat) : Nat × Nat × Nat :=
  let o := 0x080 + 32 * i
  (field bs o 2, field bs (o + 8) 8, field bs (o + 16) 8)

/-- The component table and the reserved fields (R596, R597, R599 item 6). -/
def componentsOk (bs : List Byte) : Bool :=
  let cs := (upto 8).map (component bs)
  let used := cs.filter (fun c => c.1 ≠ 0)
  let n := field bs 0x020 8
  cs.all (fun c => c.1 ≤ 3) && [1, 2, 3].all (fun k => (cs.filter (fun c => c.1 = k)).length = 1) &&
    used.all (fun c => c.2.1 + c.2.2 ≤ n) &&
    (used.zipIdx).all (fun a => (used.zipIdx).all (fun b =>
      a.2 = b.2 || a.1.2.1 + a.1.2.2 ≤ b.1.2.1 || b.1.2.1 + b.1.2.2 ≤ a.1.2.1)) &&
    (upto 8).all (fun i => zeros bs (0x080 + 32 * i + 2) 6 && zeros bs (0x080 + 32 * i + 24) 8) &&
    zeros bs 0x070 16 && zeros bs 0x180 32 && zeros bs 0x064 4

/-- Check of a header (R599): 1 when it passes, else the check result of R620. An image above 32 MiB is too long. -/
def State.headerCheck (s : State) (bs : List Byte) : Nat :=
  let step := s.ident.stepping.toNat
  if field bs 0 4 ≠ 0x57464845 || field bs 4 2 ≠ 1 then 3
  else if field bs 8 4 ≠ 0x4100 || step < field bs 0xC 2 || field bs 0xE 2 < step || field bs 6 2 ≠ 1 then 4
  else if !(s.keyGood (field bs 0x1C 2)) then 5
  else if imageSecurity bs < s.firmware.security then 6
  else if !(Config.signatureValid (s.vendorKey (field bs 0x1C 2)) (bs.take 0x1A0) ((bs.drop 0x1A0).take 96)) then 7
  else if !(componentsOk bs) then 9
  else if 2 ^ 25 < imageLength bs then 10
  else 1

/-- The body matches the body hash, and all of it is there (R600, R601). -/
def bodyGood (bs : List Byte) : Bool :=
  bs.length = imageLength bs && Config.sha384 (bs.drop 512) = (bs.drop 0x28).take 48

/-- Image of slot A (false) or B (true). -/
def Firmware.image (f : Firmware) (b : Bool) : List Byte := if b then f.slotB.bytes else f.slotA.bytes
def Firmware.setImage (f : Firmware) (b : Bool) (bs : List Byte) : Firmware :=
  if b then { f with slotB := { bytes := bs } } else { f with slotA := { bytes := bs } }

/-- Unit field of the management controller (R489). -/
def mgmt : Word := unitField 9 0 0

/-- Slot number of an image: 0 A, 1 B. -/
def slotNumber (b : Bool) : Nat := if b then 1 else 0

/-- An image is refused (R621). -/
def State.imageRefused (s : State) (result version : Nat) (b : Bool) : State :=
  (s.addError 0x0200 0 mgmt noJob result noStep (BitVec.ofNat 64 version) (BitVec.ofNat 64 (slotNumber b))).alarm 0x3000 0x09 0

/-- Check of an image at start-up (R601). A slot that is empty at manufacture stands for the image that the device was
shipped with (log 3). -/
def State.startCheck (s : State) (b : Bool) : Nat :=
  let bs := s.firmware.image b
  if bs = [] then 1 else if s.headerCheck bs ≠ 1 then s.headerCheck bs else if bodyGood bs then 1 else 8

end Sys2Proof.Machine
end

