-- ==== Sys2Proof/Machine/Power.lean ====
section
/-! DEFINITION. Pod clocks, sags and saves, start-up, and resets (R531, R565 to R593, R601, R614, R624, R641, R642). -/

namespace Sys2Proof.Machine

/-! ## Pod clocks (R570) -/

/-- The activity ramps of a pod's cores begin anew (R130, R570). -/
def State.resetRamps (s : State) (p : Nat) : State :=
  s.cores.foldl (fun (t : State) q => if q.1 / 18 = p then t.setCore q.1 { t.core q.1 with ramp0 := {}, ramp1 := {} } else t) s

/-- Meaning of POD_CLOCK_START (R570): time goes on to 400 ticks after the start request. -/
def execPodClockStart (p : Nat) (s : State) : Host.Outcome State Fault Refusal :=
  onUnit (decide (p < 64))
    (match (s.pod p).startAt with
    | none => s
    | some n =>
      let t := s.until (n.toNat + 400)
      (t.setPod p { t.pod p with clocked := true, startAt := none }).notePods)

/-- Meaning of POD_CLOCK_STOP (R570): time goes on to 400 ticks after the pod's cores became idle. -/
def execPodClockStop (p : Nat) (s : State) : Host.Outcome State Fault Refusal :=
  onUnit (decide (p < 64))
    (match (s.pod p).clocked, (s.pod p).idleSince with
    | true, some n =>
      let t := s.until (n.toNat + 400)
      (t.setPod p { t.pod p with clocked := false, idleSince := none }).resetRamps p
    | _, _ => s)

/-! ## What a reset leaves (R10, R531, R588) -/

/-- Sub-entries without a field of their own that are kept in NOR (R10): throttle duty, EPOCH compensation, radish control and
forward, notices, trial limit, keys and endorsement, and the calibration set. -/
def keptReg (key : Nat) : Bool :=
  let i := key / 256
  let sub := key % 256
  (i = 0x0300 && sub = 0x04) || (i = 0x0410 && sub = 0x04) || (i = 0x0420 && (sub = 0x02 || sub = 0x03)) || (i = 0x3100 && sub = 0x01) || (i = 0x3101 && sub = 0x06) || i = 0x0031 ||
    (i = 0x3000 && sub = 0x08) || (0x0110 ≤ i && i ≤ 0x0121) || (0x0810 ≤ i && i < 0x0AC0)

/-- A core after a reset: what the reserve record and the test manager hold of it. -/
def Core.afterReset (x : Core) : Core :=
  { retired := x.retired, visited := x.visited, passed := x.passed, transients := x.transients, retest := x.retest }

/-- A family with a function applied to every listed member. -/
def mapFamily {α : Type} [DecidableEq α] (d : Nat → α) (f : α → α) (m : Sparse α) : Sparse α :=
  m.foldl (fun (n : Sparse α) p => sput d n p.1 (f p.2)) []

/-- What the firmware's update is after a device reset (R563, R599, R614): staging is lost, a hand-over is staged again, and a
trial goes on; a fall-back that was not complete leaves the trial. -/
def Firmware.afterReset (f : Firmware) : Firmware :=
  let g := { f with staging := none, pairs := 0, switches := 0, reversing := false, since := none, again := false, check := 0 }
  if f.state = 1 then { g with state := f.before }
  else if f.state = 3 then { g with state := 2, twice := false }
  else if f.state = 5 then { g with state := 4 }
  else g

/-- The slots that the journal holds (R521). -/
def journal (m : Sparse Slot) : Sparse Slot := m.filter (fun p => 3 ≤ p.2.state && p.2.state ≤ 6)

/-- Every clock but the always-on clock stops (R588), and what is kept in no NOR, save or journal goes to its reset value
(R10). GDDR7 and the expanders are as after power-on (log 45). -/
def State.stopAll (s : State) : State :=
  { s with
    clock := { ({} : Clock) with tick := s.clock.tick, edge := s.clock.edge, refclk := s.clock.refclk, crystal := s.clock.crystal }
    cores := mapFamily (fun _ => {}) Core.afterReset s.cores
    lcores := [], barriers := [], sems := [], flights := [], mem := [], cxl := [], jobs := [], rankMaps := [], masters := []
    pods := mapFamily (fun _ => {}) (fun (p : Pod) => { slots := p.slots }) s.pods
    ctls := mapFamily (fun _ => {}) (fun (c : Controller) => { state := c.state, channels := c.channels, repairs := c.repairs }) s.ctls
    ports := mapFamily (fun _ => {}) (fun (p : Port) =>
      { txMask := p.txMask, rxMask := p.rxMask, txRetired := p.txRetired, rxRetired := p.rxRetired }) s.ports
    host := { tail := s.host.tail }
    fabric := { shape := s.fabric.shape, anchor := s.fabric.anchor }
    slots := journal s.slots
    radish := { version := s.radish.version, tiles := s.radish.tiles }
    firmware := s.firmware.afterReset
    calib := { live := s.calib.live, commits := s.calib.commits }
    serial := { kept := s.serial.kept, tx := s.serial.tx, results := s.serial.results }
    dict := s.dict.filter (fun p => keptReg p.1)
    power :=
      { alive := s.power.alive, failed := s.power.failed, starts := s.power.starts, cause := s.power.cause, records := s.power.records
        saving := s.power.saving, save := s.power.save, waitSupply := s.power.waitSupply, heldReset := s.power.heldReset } }

/-! ## Start-up: its steps (R582 to R587, R592) -/

/-- The limit of a step (R582) [ticks]. -/
def stepLimit (n : Nat) : Nat :=
  [0, 2500000, 2500000, 250000, 2500000, 250000, 25000000, 2500000, 25000000, 250000, 25000000, 25000000, 75000000, 25000000].getD n 0

/-- The method of the next attempt after step n has failed (R582, R585): 1 alternative, 2 skipped. -/
def methodAfter (n : Nat) : Nat := if [1, 2, 5, 6, 10, 11].contains n then 1 else if n = 8 then 2 else if n = 4 then 1 else 0

def State.stepRec (s : State) (n : Nat) : StepRec := sget (fun _ => ({} : StepRec)) s.power.records n
def State.setRec (s : State) (n : Nat) (r : StepRec) : State :=
  { s with power := { s.power with records := sput (fun _ => {}) s.power.records n r } }

/-- Status word of a step record (R592). -/
def StepRec.word (r : StepRec) : Word := BitVec.ofNat 32 (r.start % 256 * 2 ^ 24 + r.method * 2 ^ 8 + r.status)

/-- A job's slot asks its lead, or takes its state here when this device leads it (R531, R583). -/
def State.askLead (s : State) (k j : Nat) : State :=
  let q := s.slot k j
  if q.leads then s.rerunSlot k j
  else
    let t := s.control k q.tag (s.leadOf q) 0x0D (leBytes 8 q.sequence.toNat)
    { t with power := { t.power with queries := t.power.queries ++ [(k, j, s.clock.tick)] } }

/-- Slot j of context k after a reset (R531). -/
def State.restoreSlot (s : State) (k j : Nat) : State :=
  let q := s.slot k j
  if q.state ≤ 2 then (s.changeSlot k j (fun _ => {})).setRankMap k j []
  else if q.state = 3 then s.rerunSlot k j
  else if q.state = 4 then s.askLead k j
  else s

/-- Each slot takes its state after a device reset. -/
def State.restoreSlots (s : State) : State := s.slots.foldl (fun (t : State) p => t.restoreSlot (p.1 / 8) (p.1 % 8)) s

/-- Step n begins (R582, R584, R624). -/
def State.beginStep (s : State) (n : Nat) : State :=
  let r := s.stepRec n
  let t := s.setRec n { start := s.power.starts, method := r.next, status := 1, begin_ := s.clock.tick, end_ := 0, detail := 0, next := r.next }
  let t := { t with power := { t.power with step := n, stepBegan := some s.clock.tick } }
  if n = 11 then { t with power := { t.power with txIdle := false } }
  else if n = 12 then t.discover else if n = 13 then t.restoreSlots else t

/-- An attempt begins at step 1 (R582, R591). -/
def State.beginAttempt (s : State) (cause : Nat) : State :=
  { s with power := { s.power with cause := cause, starts := s.power.starts + 1, phase := 0, failedAt := none } }.beginStep 1

/-- The slot of the image that step 1 or 4 uses (R582, R594). -/
def State.imageFor (s : State) (n : Nat) : Bool := if (s.stepRec n).method = 1 then !s.firmware.boot else s.firmware.boot

/-- The image of step 1 or 4 runs. In a trial the other image ends the update as a fall-back (R614, R621). -/
def State.runImage (s : State) (b : Bool) : State :=
  let f := s.firmware
  if f.state = 4 && b ≠ f.boot then
    ({ s with firmware := { f with running := b, boot := b, state := 0, twice := false, trialSince := none } }.addError 0x0202 0 mgmt noJob 3
      noStep (BitVec.ofNat 64 (imageVersion (f.image f.boot))) (BitVec.ofNat 64 (imageVersion (f.image b)))).alarm 0x3000 0x09 2
  else { s with firmware := { f with running := b } }

/-- Step 2 reads the newest save (R579, R584, R593): the journal, the ledger tail and the sequences are those of the save, and
step records that are still begun are marked. -/
def State.readSave (s : State) : State :=
  let mark := if s.power.save.isSome then 4 else 3
  let t := ((upto 14).filter (fun n => 3 ≤ n)).foldl (fun (u : State) n =>
    if (u.stepRec n).status = 1 then u.setRec n { u.stepRec n with status := mark } else u) s
  let t := { t with fabric := { t.fabric with anchorUsed := t.fabric.anchor, extents := t.fabric.shape } }
  match s.power.save with
  | none => (t.addError 0x0101 0 mgmt noJob 0 noStep noStep 0).alarm 0x0300 0x08 2
  | some v =>
    { t with
      slots := v.slots, host := { t.host with tail := v.tail }
      nextSequence := max t.nextSequence v.nextSequence
      errors := { t.errors with next := max t.errors.next v.nextError } }

/-- Bytes that a port's decoder covers (R297). -/
def decoderSize (capacity : Nat) : Nat := min capacity (2 ^ 42) / 2 ^ 28 * 2 ^ 28

/-- CXL port n is trained to its expander (R296, R297). -/
def State.trainCxl (s : State) (n : Nat) (e : Expander) : State :=
  if e.present then s.setCxl n { state := 1, speed := e.speed, width := e.width, size := decoderSize e.capacity } else s.setCxl n {}

/-- The host link is up: held MSI-X messages and the ledger tail go out (R628, R630, R576). -/
def State.hostUp (s : State) : State :=
  let free := fun (q : Nat × Nat) => !(s.host.d3.contains q.1)
  { s with host := { s.host with
      state := 2, speed := 6, width := 16, l0p := 16, sent := s.host.sent ++ s.host.msix.filter free
      msix := s.host.msix.filter (fun q => !(free q)) } }.flushTail

/-- What a step that ends leaves (R582, R284, R297, R564, R569, R571, R631, R633, R634, R638). -/
def State.stepWork (s : State) (n : Nat) (f : StepFacts) : State :=
  if n = 1 then
    ({ s with
        clock := { s.clock with refclk := f.refclk, crystal := !f.refclk }
        ident := { s.ident with node := s.pins.mgmtId }
        power := { s.power with refclkSource := f.refclk } }).runImage (s.imageFor 1)
  else if n = 2 then s.readSave
  else if n = 4 then
    let t := { s with clock := { s.clock with cycle := 0 }, power := { s.power with control := true } }.runImage (s.imageFor 4)
    if s.pins.perstN then t else { t with host := { t.host with state := 1 } }
  else if n = 5 then { s with calib := { s.calib with live := s.dict.filter (fun p => 0x081000 ≤ p.1 && p.1 < 0x0AC000) } }
  else if n = 6 then { s with power := { s.power with memory := 2 } }
  else if n = 7 then
    { s with ctls := mapFamily (fun _ => {}) (fun (c : Controller) =>
        { c with repairs := c.repairs.map (fun r => { r with written := false }) }) s.ctls }
  else if n = 8 then
    if (s.stepRec 8).method = 2 then s
    else f.failedCores.foldl (fun (t : State) c => if c < 1152 then t.retireCore c 0x0002 else t) s
  else if n = 9 then (if s.pins.perstN then s else s.hostUp)
  else if n = 10 then
    let t := { s with power := { s.power with cxlReleased := true } }
    (f.expanders.zipIdx).foldl (fun (u : State) e => if e.2 < 2 then u.trainCxl e.2 e.1 else u) t
  else s

/-- The device is ready (R571, R585, R586, R614). -/
def State.becomeReady (s : State) : State :=
  let t := (upto 14).foldl (fun (u : State) n => if (u.stepRec n).next = 0 then u else u.setRec n { u.stepRec n with next := 0 }) s
  { t with
    power := { t.power with phase := 1, step := 0, stepBegan := none, failed := 0, readyTick := s.clock.tick, memoryUsed := s.clock.tick }
    firmware := if t.firmware.state = 4 then { t.firmware with trialSince := some s.clock.tick } else t.firmware }

/-- The record of step n shows its end (R584). -/
def State.endRecord (s : State) (n status : Nat) (detail : Word) : State :=
  s.setRec n { s.stepRec n with status := status, end_ := s.clock.tick, detail := detail, next := if status = 3 then methodAfter n else (s.stepRec n).next }

/-- The device enters the management-only state, or tries again later (R585 to R587). -/
def State.attemptFailed (s : State) : State :=
  let n := s.power.failed + 1
  let t := { s with power := { s.power with failed := min 3 n } }
  if 3 ≤ n then
    { t with power := { t.power with phase := 2 } }.addError 0x0103 0 mgmt noJob (min 3 n) noStep (BitVec.ofNat 64 s.clock.tick.toNat) 0
  else { t with power := { t.power with failedAt := some s.clock.tick } }

/-- Step n fails, and the attempt ends (R585). -/
def State.failStep (s : State) (n : Nat) (unit : Word) : State :=
  let t := (s.endRecord n 3 unit).stopAll
  let r := t.stepRec n
  (t.addError 0x0102 0 mgmt noJob n noStep (BitVec.ofNat 64 r.word.toNat) (BitVec.ofNat 64 r.detail.toNat)).attemptFailed

/-- Step n ends with its work done, and the next one begins. -/
def State.finishStep (s : State) (n : Nat) (f : StepFacts) : State :=
  let t := (s.stepWork n f).endRecord n 2 0
  if n = 13 then t.becomeReady else t.beginStep (n + 1)

/-- Nothing keeps start-up from running. -/
def State.starting (s : State) : Bool :=
  s.power.alive && s.power.saving.isNone && !s.power.waitSupply && !s.power.heldReset && s.power.failedAt.isNone && s.power.phase = 0

/-- Step n may end: discovery has ended, or every lead has answered. -/
def State.stepMayEnd (s : State) (n : Nat) : Bool :=
  if n = 12 then !s.fabric.discovering else if n = 13 then s.power.queries = [] else true

/-- The image that step n is to run fails its check. -/
def State.badImage (s : State) (n : Nat) : Bool := (n = 1 || n = 4) && s.startCheck (s.imageFor n) ≠ 1

/-- Start-up goes on (R582): the step in progress ends and the next begins, or step 1 begins (log 46). -/
def State.goOn (s : State) (f : StepFacts) : State :=
  let n := s.power.step
  if n = 0 then s.beginAttempt s.power.cause
  else if !(s.stepMayEnd n) then s
  else if s.badImage n then
    let b := s.imageFor n
    (s.failStep n mgmt).imageRefused (s.startCheck b) (imageVersion (s.firmware.image b)) b
  else s.finishStep n f

/-- Meaning of START_UP (R582 to R584, R601). -/
def execStartUp (f : StepFacts) (s : State) : Host.Outcome State Fault Refusal := .next (if s.starting then s.goOn f else s)

/-- Start-up begins when nothing keeps it. -/
def State.tryStart (s : State) : State := if s.starting && s.power.step = 0 then s.beginAttempt s.power.cause else s

/-- Meaning of STARTUP_STEP_TIMEOUT (R582, R585): time goes on to the step's limit. Step 12 ends there and does not fail. -/
def execStartupStepTimeout (unit : Word) (s : State) : Host.Outcome State Fault Refusal :=
  .next (match s.starting, s.power.stepBegan with
    | true, some n =>
      let t := s.until (n.toNat + stepLimit s.power.step)
      if s.power.step = 12 then t.finishStep 12 { refclk := false, failedCores := [], expanders := [] } else t.failStep s.power.step unit
    | _, _ => s)

/-- Meaning of STARTUP_RETRY (R585). -/
def execStartupRetry (s : State) : Host.Outcome State Fault Refusal :=
  .next (match s.power.alive, s.power.failedAt with
    | true, some n => if s.power.saving.isSome || s.power.waitSupply || s.power.heldReset then s else (s.until (n.toNat + 250000)).beginAttempt 5
    | _, _ => s)

/-- Meaning of STATUS_QUERY_TIMEOUT (R583). -/
def execStatusQueryTimeout (k j : Nat) (s : State) : Host.Outcome State Fault Refusal :=
  onUnit (slotOk k j)
    (match s.power.queries.find? (fun q => q.1 = k && q.2.1 = j) with
    | none => s
    | some q =>
      let t := (s.until (q.2.2.toNat + 12500000)).rerunSlot k j
      { t with power := { t.power with queries := t.power.queries.filter (fun r => !(r.1 = k && r.2.1 = j)) } })

/-! ## Device resets (R573 to R581, R588, R642) -/

/-- A device reset (R588): every clock but the always-on clock stops, the save begins, and the reset is recorded. -/
def State.deviceReset (s : State) (cause : Nat) : State :=
  let t := s.stopAll
  { t with power := { t.power with cause := cause, saving := some cause } }.addError 0x0104 0 mgmt noJob cause noStep s.clock.tick 0

/-- The device is already stopped by a reset. -/
def State.down (s : State) : Bool := s.power.saving.isSome || s.power.waitSupply || s.power.heldReset

/-- Meaning of SAG (R573, R574, R590, R593). -/
def execSag (millivolts : Nat) (s : State) : Host.Outcome State Fault Refusal :=
  .next (if !s.power.alive then s
    else
      let t := if s.down then s else s.deviceReset 1
      let t := { t with pins := { t.pins with millivolts := millivolts }, power := { t.power with waitSupply := true } }
      (t.addError 0x0100 0 mgmt noJob 0 noStep (BitVec.ofNat 64 millivolts) noStep).alarm 0x0300 0x08 0)

/-- The newest sag record shows when the save completed (R593). -/
def noteSave (tick : DWord) : List ErrorRec → List ErrorRec
  | [] => []
  | r :: t => if r.kind = 0x0100 then { r with detail1 := tick } :: t else r :: noteSave tick t

/-- The save image of the present state (R575 to R578). -/
def State.saveImage (s : State) (cause : Nat) : SaveImage :=
  { cause := cause, tick := s.clock.tick, starts := s.power.starts, slots := journal s.slots, tail := s.host.tail, waiting := s.errors.waiting
    nextSequence := s.nextSequence, nextError := s.errors.next }

/-- Meaning of SAVE_COMPLETE (R578 to R580, R642): start-up begins unless the supply or RESET_N keeps it. -/
def execSaveComplete (s : State) : Host.Outcome State Fault Refusal :=
  .next (match s.power.saving with
    | none => s
    | some c =>
      let t := if c = 1 then { s with errors := { s.errors with records := noteSave s.clock.tick s.errors.records } } else s
      { t with power := { t.power with saving := none, save := some (t.saveImage c) } }.tryStart)

/-- Meaning of SUPPLY_QUALIFIED (R580). -/
def execSupplyQualified (s : State) : Host.Outcome State Fault Refusal :=
  .next (if s.power.alive && s.power.waitSupply && s.power.saving.isNone then
      { s with power := { s.power with waitSupply := false } }.tryStart
    else s)

/-- Meaning of HOLD_UP_BANK_EMPTY (R574): after a save, before the supply returns, the always-on domain stops. -/
def execHoldUpBankEmpty (s : State) : Host.Outcome State Fault Refusal :=
  .next (if s.power.waitSupply && s.power.saving.isNone then { s with power := { s.power with alive := false } } else s)

/-- Error records that neither NOR nor the save holds are lost with the supply (R577, R578). -/
def ErrorLog.afterLoss (l : ErrorLog) (kept : List Nat) : ErrorLog :=
  { l with records := l.records.filter (fun r => !(l.waiting.contains r.seq) || kept.contains r.seq), waiting := kept }

/-- Meaning of POWER_ON_RESET (R581, R587, R588): without a save. The counter goes on from the newest save. -/
def execPowerOnReset (s : State) : Host.Outcome State Fault Refusal :=
  .next (
    let t := s.stopAll
    let kept := match s.power.save with
      | some v => v.waiting
      | none => []
    let t := { t with
      clock := { ({} : Clock) with tick := match s.power.save with
        | some v => v.tick + 1
        | none => 0 }
      host := {}, slots := [], serial := {}, errors := t.errors.afterLoss kept
      power := { t.power with
        alive := true, cause := 0, saving := none, waitSupply := false, heldReset := s.pins.resetN
        failed := if s.power.phase = 2 then 2 else s.power.failed } }
    (t.addError 0x0104 0 mgmt noJob 0 noStep t.clock.tick 0).tryStart)

/-- Meaning of RESET_N_ASSERT (R588, R642). -/
def execResetNAssert (s : State) : Host.Outcome State Fault Refusal :=
  .next (
    let t := { s with pins := { s.pins with resetN := true } }
    if !s.power.alive then t
    else
      let t := if s.down then t else t.deviceReset 2
      { t with power := { t.power with heldReset := true } })

/-- Meaning of RESET_N_DEASSERT (R588, R642). -/
def execResetNDeassert (s : State) : Host.Outcome State Fault Refusal :=
  .next ({ s with pins := { s.pins with resetN := false }, power := { s.power with heldReset := false } }.tryStart)

/-- Command 1 of the start-up object (R588, R591). -/
def resetRule : Rule := fun s => (if s.down then s else s.deviceReset 3, 0)

/-- Meaning of RESET_COMMAND (R588, R591). -/
def execResetCommand (m : Nat) (s : State) : Host.Outcome State Fault Refusal :=
  onUnit (masterOk m) (s.command m 0x0310 0x03 1 true resetRule)

/-- Command 2 of the start-up object (R587, R591). -/
def leaveRule : Rule := fun s =>
  let t := (upto 14).foldl (fun (u : State) n => if (u.stepRec n).next = 0 then u else u.setRec n { u.stepRec n with next := 0 }) s
  orRefuse (s.power.phase = 2) s ({ t with power := { t.power with failed := 0 } }.beginAttempt 6)

/-- Meaning of LEAVE_MANAGEMENT_ONLY (R587). -/
def execLeaveManagementOnly (m : Nat) (s : State) : Host.Outcome State Fault Refusal :=
  onUnit (masterOk m) (s.command m 0x0310 0x03 2 true leaveRule)

/-- Meaning of WATCHDOG (R588): outside start-up. -/
def execWatchdog (s : State) : Host.Outcome State Fault Refusal :=
  .next (if s.power.alive && s.power.phase = 1 && s.power.control && !s.down then s.deviceReset 4 else s)

/-! ## Resets of the host interface (R588, R589, R631, R632, R648) -/

/-- Every outstanding host-memory request is uncorrectable (R302, R588). -/
def State.failHostAsks (s : State) : State := s.host.asks.foldl (fun (t : State) a => if t.host.asks.contains a then t.hostReadFailed a else t) s

/-- Meaning of PERST_N_ASSERT (R588, R642). -/
def execPerstNAssert (s : State) : Host.Outcome State Fault Refusal :=
  .next (
    let t := { s with pins := { s.pins with perstN := true } }
    if s.down || !s.power.alive then t
    else
      let u := t.failHostAsks
      { u with host := { u.host with
          state := 0, speed := 0, width := 0, l0p := 0, d3 := [], bar2 := [], msix := []
          writes := u.host.writes ++ u.host.heldWrites.map (fun w => w.2), heldWrites := [] } })

/-- Meaning of PERST_N_DEASSERT (R631): the link trains from the end of step 4 and is served from the end of step 9. -/
def execPerstNDeassert (s : State) : Host.Outcome State Fault Refusal :=
  .next (
    let t := { s with pins := { s.pins with perstN := false } }
    if !s.power.control then t
    else if s.power.phase = 1 || 9 < s.power.step then t.hostUp
    else { t with host := { t.host with state := 1 } })

/-- The running job of context k is torn down here, and the other devices of the job tear it down with cause 0x0C (R588). -/
def State.resetJob (s : State) (k : Nat) : State :=
  match s.job k with
  | none => s
  | some j =>
    let body := teardownBody 0x0C s.coord
    let t := if (s.slot k j.j).state ≠ 4 then s
      else if j.jobLead = s.coord then s.controlEveryone k j 0x0A body
      else s.control k j.tag j.jobLead 0x0A body
    t.dropJob k

/-- Meaning of FUNCTION_LEVEL_RESET (R531, R588, R589). -/
def execFunctionLevelReset (k : Nat) (s : State) : Host.Outcome State Fault Refusal :=
  onUnit (decide (k < 16)) ((upto 8).foldl (fun (t : State) j => t.restoreSlot k j) ((s.resetJob k).dropFetched k))

/-- Function fn is back in D0: the host-memory requests that were held for it go out (R632). -/
def HostIf.release (h : HostIf) (fn : Nat) : HostIf :=
  { h with
    asks := h.asks.map (fun a => if a.heldFor = some fn then { a with heldFor := none } else a)
    writes := h.writes ++ (h.heldWrites.filter (fun w => w.1 = fn)).map (fun w => w.2)
    heldWrites := h.heldWrites.filter (fun w => w.1 ≠ fn) }

/-- Meaning of POWER_STATE_CHANGE (R632). -/
def execPowerStateChange (fn : Nat) (d3 : Bool) (s : State) : Host.Outcome State Fault Refusal :=
  onUnit (decide (fn < 16))
    (let rest := s.host.d3.filter (fun n => n ≠ fn)
    if d3 then { s with host := { s.host with d3 := rest ++ [fn] } }
    else
      let t := { s with host := { s.host with d3 := rest }.release fn }
      if s.host.state = 2 then
        ({ t with host := { t.host with
            sent := t.host.sent ++ t.host.msix.filter (fun q => q.1 = fn), msix := t.host.msix.filter (fun q => q.1 ≠ fn) } } : State).flushTail
      else t)

/-- Status word of the host interface (R648). -/
def HostIf.word (h : HostIf) : Word := BitVec.ofNat 32 (h.state * 2 ^ 28 + h.speed * 2 ^ 24 + h.width * 2 ^ 16 + h.l0p * 2 ^ 8)

/-- Meaning of PCIE_LINK_DOWN (R648, R649). -/
def execPcieLinkDown (s : State) : Host.Outcome State Fault Refusal :=
  .next (if s.host.state = 0 then s
    else
      let t := { s with host := { s.host with state := 0, speed := 0, width := 0, l0p := 0 } }.bump 0x9900 0x0A 1
      t.addError 0x0305 0 (unitField 6 0 0) noJob 0 noStep (BitVec.ofNat 64 s.host.word.toNat) s.clock.tick)

/-! ## Throttle and temperatures (R566 to R568, R639, R640, R645, R647) -/

/-- The throttle duty d (R567, R590). -/
def State.duty (s : State) : Nat := (s.reg 0x0300 0x04).toNat

/-- Throttle is in force (R567, R642). -/
def State.throttled (s : State) : Bool := s.pins.throttleN || s.power.thermal ≠ 0

/-- Throttle begins (R590, R593). -/
def State.throttleBegins (s : State) (why : Nat) : State :=
  (s.alarm 0x0300 0x08 1).addError 0x0105 0 mgmt noJob why noStep (BitVec.ofNat 64 s.duty) 0

/-- The next tick edge. -/
def State.nextEdge (s : State) : State := s.until (s.clock.tick.toNat + 1)

/-- Meaning of THROTTLE_N_ASSERT (R639). -/
def execThrottleNAssert (s : State) : Host.Outcome State Fault Refusal :=
  .next (if s.pins.throttleN || !s.power.alive then s
    else
      let t := s.nextEdge
      { t with pins := { t.pins with throttleN := true, throttleSince := some s.clock.tick } }.throttleBegins 1)

/-- Meaning of THROTTLE_N_DEASSERT (R639). -/
def execThrottleNDeassert (s : State) : Host.Outcome State Fault Refusal :=
  .next (if !s.pins.throttleN then s
    else
      let t := s.nextEdge
      { t with pins := { t.pins with throttleN := false, throttleSince := none } })

/-- Meaning of THROTTLE_STUCK (R640): time goes on to 10 s after the assertion. -/
def execThrottleStuck (s : State) : Host.Outcome State Fault Refusal :=
  .next (match s.pins.throttleN, s.pins.throttleSince with
    | true, some n =>
      let t := s.until (n.toNat + 250000000)
      ({ t with pins := { t.pins with throttleSince := none } }.alarm 0x0440 0x05 2).addError 0x0303 0 mgmt noJob 0 noStep n 0
    | _, _ => s)

/-- The highest of some temperatures, and where it is. -/
def hottest (l : List Int) : Int := l.tail.foldl max (l.headD 0)
def hottestAt (l : List Int) : Nat := (l.findIdx? (fun t => t = hottest l)).getD 0

/-- What the sensors report (R647). -/
def State.noteTemps (s : State) (pods devices : List Int) : State :=
  let t := if pods = [] then s else s.setReg 0x0280 0x01 (BitVec.ofInt 32 (hottest pods))
  if devices = [] then t else t.setReg 0x0280 0x02 (BitVec.ofInt 32 (hottest devices))

/-- Temperatures in 1/16 °C: some one is at least c °C, or all are at most c °C. -/
def reachesC (c : Nat) (l : List Int) : Bool := l.any (fun t => decide ((16 * c : Nat) ≤ t))
def withinC (c : Nat) (l : List Int) : Bool := l.all (fun t => decide (t ≤ (16 * c : Nat)))

/-- Meaning of THERMAL_LEVEL_1_ENTRY (R645, R647). -/
def execThermalLevel1Entry (pods devices : List Int) (s : State) : Host.Outcome State Fault Refusal :=
  .next (
    let t := s.noteTemps pods devices
    if s.power.thermal = 0 && (reachesC 100 pods || reachesC 95 devices) then
      ({ t with power := { t.power with thermal := 1 } }.alarm 0x0280 0x06 0).throttleBegins 2
    else t)

/-- Meaning of THERMAL_LEVEL_2_ENTRY (R645, R647, R649). -/
def execThermalLevel2Entry (pods : List Int) (inlet : Int) (s : State) : Host.Outcome State Fault Refusal :=
  .next (
    let t := (s.noteTemps pods []).setReg 0x0280 0x03 (BitVec.ofInt 32 inlet)
    if s.power.thermal ≠ 2 && reachesC 105 pods then
      (({ t with power := { t.power with thermal := 2 } }.alarm 0x0280 0x06 1).throttleBegins 2).addError 0x0304 0 mgmt noJob
        (hottestAt pods) noStep (BitVec.ofInt 64 (hottest pods)) (BitVec.ofInt 64 inlet)
    else t)

/-- Meaning of THERMAL_LEVEL_EXIT (R645): the sensors have stayed at or below the leave thresholds for 25,000 ticks, and time
goes on to the end of them. -/
def execThermalLevelExit (pods devices : List Int) (s : State) : Host.Outcome State Fault Refusal :=
  .next (
    let cool1 := withinC 95 pods && withinC 90 devices
    let cool2 := withinC 100 pods
    if (s.power.thermal = 1 && cool1) || (s.power.thermal = 2 && cool2) then
      let t := (s.until (s.clock.tick.toNat + 25000)).noteTemps pods devices
      { t with power := { t.power with thermal := if cool1 then 0 else 1 } }
    else s.noteTemps pods devices)

/-- Meaning of INLET_ABOVE_45_C (R647). -/
def execInletAbove45C (inlet : Int) (s : State) : Host.Outcome State Fault Refusal :=
  .next (
    let t := s.setReg 0x0280 0x03 (BitVec.ofInt 32 inlet)
    if (16 * 45 : Nat) < inlet then t.alarm 0x0280 0x06 2 else t)

/-! ## Time inputs (R383, R634 to R637) -/

/-- Meaning of REFCLK_LOSS (R635): at the next tick edge. -/
def execRefclkLoss (s : State) : Host.Outcome State Fault Refusal :=
  .next (if !s.clock.refclk then s
    else
      let t := s.nextEdge
      let t := { t with clock := { t.clock with refclk := false, crystal := true } }
      (t.alarm 0x0440 0x05 0).addError 0x0300 0 mgmt noJob 0 noStep t.clock.tick 0)

/-- EPOCH holdover begins (R636, R649). -/
def State.holdOver (s : State) (why : Nat) (interval : Nat) : State :=
  if s.clock.holdover then s
  else
    let t := { s with clock := { s.clock with holdover := true, spaced := 0, mode := if s.clock.mode = 2 then 2 else 3 } }
    (t.alarm 0x0440 0x05 1).addError 0x0301 0 mgmt noJob why noStep (BitVec.ofNat 64 interval) 0

/-- How far an EPOCH edge lies from where it should fall [1/64 tick], to the nearest (R383). -/
def State.epochOff (s : State) (phase : Int) : Int :=
  let d := (64 * s.clock.tick.toNat + phase - int32 (s.reg 0x0410 0x04)) % (64 * 25000000)
  if d < 32 * 25000000 then d else d - 64 * 25000000

/-- An EPOCH edge is used (R383): checked, and a device without a parent aligns its tick edges to it. -/
def State.useEpoch (s : State) (phase : Int) : State :=
  let d := s.epochOff phase
  if !s.clock.refclk then s
  else if 16 < d.natAbs then s.alarm 0x0410 0x05 0
  else if s.clock.parent = 0xFF then { s with clock := { s.clock with mode := 1, left := -d } }
  else s

/-- An accepted edge while holdover lasts: the third well-spaced one ends it and is used (R637). -/
def State.spacedEdge (s : State) (interval : Nat) (phase : Int) : State :=
  let n := if 25000000 - 250 ≤ interval && interval ≤ 25000000 + 250 then s.clock.spaced + 1 else 0
  if n < 3 then { s with clock := { s.clock with spaced := n } }
  else
    let t := { s with clock := { s.clock with holdover := false, spaced := 0, mode := if s.clock.mode = 3 then 0 else s.clock.mode } }
    (t.addError 0x0302 0 mgmt noJob 0 noStep s.clock.tick 0).useEpoch phase

/-- Meaning of EPOCH_EDGE (R383, R636, R637): `phase` is the place of the edge after the present tick edge [1/64 tick]. -/
def execEpochEdge (phase : Int) (s : State) : Host.Outcome State Fault Refusal :=
  .next (if !s.power.alive then s
    else
      let t := { s with clock := { s.clock with epochHeard := some s.clock.tick } }
      match s.clock.epochHeard with
      | none => if s.clock.holdover then { t with clock := { t.clock with spaced := 0 } } else t.useEpoch phase
      | some h =>
        let n := (s.clock.tick - h).toNat
        let t := { t with clock := { t.clock with epochInterval := BitVec.ofNat 32 n } }
        if n < 6250000 then
          let u := t.bump 0x0440 0x03 1
          if u.clock.holdover then { u with clock := { u.clock with spaced := 0 } } else u.holdOver 1 n
        else if s.clock.holdover then t.spacedEdge n phase
        else t.useEpoch phase)

/-- Meaning of EPOCH_ABSENT (R636): time goes on to 50,000,000 ticks after the last edge. -/
def execEpochAbsent (s : State) : Host.Outcome State Fault Refusal :=
  .next (if !s.power.alive || s.clock.holdover then s
    else (s.until ((s.clock.epochHeard.getD 0).toNat + 50000000)).holdOver 2 s.clock.epochInterval.toNat)

end Sys2Proof.Machine
end

