-- ==== Sys2Proof/Machine/Packages.lean ====
section
/-! DEFINITION. Test-pattern packages: their checks, their staging, and their way over the fabric (R482 to R487). -/

namespace Sys2Proof.Machine

/-! ## The layout of a package (R482, R483) -/

/-- The length of a package as its header declares it. -/
def packageLength (bs : List Byte) : Nat := 224 + field bs 0x18 8
def packageVersion (bs : List Byte) : Nat := field bs 8 8
def packageBody (bs : List Byte) : List Byte := (bs.drop 128).take (field bs 0x18 8)
/-- The longest package (R482). -/
def packageLimit : Nat := 1048576

/-- Bytes of the tile that begins `bs`. -/
def tileSize (bs : List Byte) : Nat := 64 + 16 * field bs 4 2 + 32 * field bs 7 1

/-- The next n tiles of a body, and what is left of it. -/
def splitTiles : Nat → List Byte → List (List Byte) × List Byte
  | 0, bs => ([], bs)
  | n + 1, bs =>
    let r := splitTiles n (bs.drop (tileSize bs))
    (bs.take (tileSize bs) :: r.1, r.2)

/-- Instruction words and descriptor words of a tile. -/
def tileCode (t : List Byte) : List IWord := (upto (field t 4 2)).map (fun i => BitVec.ofNat 128 (field t (64 + 16 * i) 16))
def tileDescs (t : List Byte) : List DescWord :=
  (upto (field t 7 1)).map (fun i => BitVec.ofNat 256 (field t (64 + 16 * field t 4 2 + 32 * i) 32))
def tileNarrow (t : List Byte) : Bool := field t 6 1 % 2 = 1

/-! ## The checks (R484) -/

/-- A valid opcode that is no synchronisation, `BANKSWAP` or `YIELD` instruction. -/
def tileOpcode (w : IWord) : Bool := definedOpcode (opcode w) && opcode w ≠ 3 && opcode w ≠ 4 && opcode w < 0x40

/-- The test area's SRAM holds bytes [a, b) (R474). -/
def inTestArea (a b : Nat) : Bool := 0x6E000 ≤ a && b ≤ 0x70000

/-- The instruction of a narrow tile names no marrow row but 31, no counter set, no top-k record, no vector marrow register, and
no SRAM through an A register alone (R484). -/
def narrowWord (w : IWord) : Bool :=
  let o := opcode w
  if o = 0x11 then bits w 104 99 = 1 && bits w 98 93 = 31
  else if o = 0x12 then
    bits w 112 107 = 1 && bits w 118 113 = 31 && !(bit w 74) && bits w 73 69 = 0 && bits w 68 65 = 0xF && !(bit w 64)
  else if o = 0x25 || o = 0x26 then !(bit w 56) && bits w 47 40 < 0x40
  else if o = 0x27 then false
  else if 0x20 ≤ o && o ≤ 0x2A then !(bit w 56)
  else if 0x30 ≤ o && o ≤ 0x35 then !(bit w 58)
  else true

/-- One tile passes (R483, R484). -/
def tileGood (t : List Byte) : Bool :=
  let n := tileNarrow t
  let d := tileDescs t
  t.length = tileSize t && 1 ≤ field t 4 2 && field t 4 2 ≤ 1024 && field t 6 1 ≤ 1 && field t 7 1 ≤ 32 && 1 ≤ field t 8 4 &&
    field t 8 4 ≤ (if n then 6000 else 1000000) && field t 0x10 4 % 64 = 0 && zeros t 0x14 4 && zeros t 0x30 16 &&
    (tileCode t).all tileOpcode && d.all (fun w => bits w 3 1 = 0) &&
    (!n || ((tileCode t).all narrowWord && inTestArea (field t 0xC 4) (field t 0xC 4 + field t 0x10 4) &&
      d.all (fun w => inTestArea (Desc.ofWord 0 w 0).base (Desc.ofWord 0 w 0).stop)))

/-- The tile as the test manager holds it. -/
def tileOf (t : List Byte) : TestTile :=
  { tile := field t 0 4, narrow := tileNarrow t, budget := field t 8 4, expected := BitVec.ofNat 64 (field t 0x28 8), withdrawn := false }

/-- Result code of 0x3101.04 for a package, and the number of the refused tile (R484, R485). A body that does not match its hash
counts as a refused header, and a tile that is cut short or followed by more bytes as tile 0xFFFF_FFFF (log 31). -/
def State.packageCheck (s : State) (bs : List Byte) : Nat × Word :=
  let none_ : Word := 0xFFFFFFFF
  let key := field bs 0x50 2
  if packageLimit < bs.length || packageLimit < packageLength bs then (7, none_)
  else if field bs 0 4 ≠ 0x50524845 || field bs 4 2 ≠ 1 || field bs 6 2 ≠ 1 || field bs 0x10 4 < 1 || 4096 < field bs 0x10 4 ||
      !(zeros bs 0x14 4) || !(zeros bs 0x52 46) || bs.length ≠ packageLength bs then (3, none_)
  else if packageVersion bs ≤ s.radish.version then (5, none_)
  else if Config.sha384 (packageBody bs) ≠ (bs.drop 0x20).take 48 then (3, none_)
  else if !(s.keyGood key) ||
      !(Config.signatureValid (s.vendorKey key) (bs.take (bs.length - 96)) (bs.drop (bs.length - 96))) then (4, none_)
  else
    let r := splitTiles (field bs 0x10 4) (packageBody bs)
    match r.1.find? (fun t => !(tileGood t)) with
    | some t => (6, if t.length < 4 then none_ else BitVec.ofNat 32 (field t 0 4))
    | none => if r.2 = [] then (2, none_) else (6, none_)

/-! ## A package is accepted (R484, R486) -/

/-- The slices of a package: offset and bytes (R342, subtype 0x0A). -/
def packageSlices (bs : List Byte) : List (Nat × List Byte) :=
  (upto ((bs.length + 2015) / 2016)).map (fun i => (2016 * i, (bs.drop (2016 * i)).take 2016))

/-- Argument of a slice. -/
def sliceArg (length offset : Nat) : DWord := BitVec.ofNat 64 (length * 2 ^ 32 + offset)

/-- Accepted packages are forwarded (R485). -/
def State.forwards (s : State) : Bool := bit (s.reg 0x3101 0x06) 0

/-- The package takes the place of the one held. A pair that runs ends without a judgement (log 31). -/
def State.installPackage (s : State) (bs : List Byte) : State :=
  let t := match s.radish.running with
    | some (c, d, _) =>
      let u := s.setCore c { s.core c with tile := false }
      u.setCore d { u.core d with tile := false }
    | none => s
  { t with radish := { t.radish with
      version := packageVersion bs, tiles := (splitTiles (field bs 0x10 4) (packageBody bs)).1.map tileOf, running := none } }.notePods

/-- An accepted package goes to every neighbour in service (R486). -/
def State.forwardPackage (s : State) (bs : List Byte) : State :=
  if s.forwards then (packageSlices bs).foldl (fun (t : State) q => t.flood none 0x0A (sliceArg bs.length q.1) q.2) s else s

/-! ## Object 0x3101 (R485) -/

/-- What master m may do with the staging: 0, or the result that refuses it. -/
def State.stagingOf (s : State) (m : Nat) : Nat :=
  match s.radish.staging with
  | none => 5
  | some q => if q.1 = m then 0 else 8

/-- Package control 1. -/
def packageBeginRule (m : Nat) : Rule := fun s =>
  if s.stagingOf m = 8 then (s, 8)
  else ({ s with radish := { s.radish with staging := some (m, []), result := 1, refusedTile := 0xFFFFFFFF } }, 0)

/-- Four bytes are appended; beyond the limit they are refused (log 31). -/
def packageDataRule (m : Nat) (v : Word) : Rule := fun s =>
  match s.radish.staging with
  | none => (s, 5)
  | some (n, bs) =>
    if n ≠ m then (s, 8)
    else if packageLimit < bs.length + 4 then (s, 5)
    else ({ s with radish := { s.radish with staging := some (m, bs ++ leBytes 4 v.toNat) } }, 0)

/-- Package control 2: the write is done, and 0x3101.04 shows the outcome. -/
def packageAcceptRule (m : Nat) : Rule := fun s =>
  match s.radish.staging with
  | none => (s, 5)
  | some (n, bs) =>
    if n ≠ m then (s, 8)
    else
      let r := s.packageCheck bs
      let t := { s with radish := { s.radish with staging := none, result := r.1, refusedTile := r.2 } }
      (if r.1 = 2 then (t.installPackage bs).forwardPackage bs else t, 0)

/-- Package control 3. -/
def packageAbortRule (m : Nat) : Rule := fun s =>
  match s.radish.staging with
  | none => (s, 5)
  | some q => if q.1 ≠ m then (s, 8) else ({ s with radish := { s.radish with staging := none, result := 0 } }, 0)

/-- Meaning of PACKAGE_BEGIN (R485). -/
def execPackageBegin (m : Nat) (s : State) : Host.Outcome State Fault Refusal :=
  onUnit (masterOk m) (s.command m 0x3101 0x01 1 true (packageBeginRule m))

/-- Meaning of PACKAGE_DATA (R485). -/
def execPackageData (m : Nat) (v : Word) (s : State) : Host.Outcome State Fault Refusal :=
  onUnit (masterOk m) (s.command m 0x3101 0x02 v true (packageDataRule m v))

/-- Meaning of PACKAGE_ACCEPT (R484 to R486). -/
def execPackageAccept (m : Nat) (s : State) : Host.Outcome State Fault Refusal :=
  onUnit (masterOk m) (s.command m 0x3101 0x01 2 true (packageAcceptRule m))

/-- Meaning of PACKAGE_ABORT (R485). -/
def execPackageAbort (m : Nat) (s : State) : Host.Outcome State Fault Refusal :=
  onUnit (masterOk m) (s.command m 0x3101 0x01 3 true (packageAbortRule m))

/-! ## Slices from a neighbour (R342, R343, R486) -/

/-- All `length` bytes of a package are there, as one list. -/
def gatherSlices (m : Sparse Byte) (length : Nat) : Option (List Byte) :=
  if m.length = length then some (m.map (fun p => p.2)) else none

/-- The slice belongs to a package that is newer than the one held and the one being received: a first slice begins a newer
package, another one continues the package being received with bytes that it does not hold yet. -/
def State.sliceWanted (s : State) (offset : Nat) (bytes : List Byte) : Bool :=
  if offset = 0 then
    16 ≤ bytes.length && decide (s.radish.version < packageVersion bytes) &&
      (match s.fabric.slices with
      | none => true
      | some q => decide (q.1 < packageVersion bytes))
  else
    match s.fabric.slices with
    | none => false
    | some q => !(q.2.any (fun b => b.1 = offset))

/-- The bytes of a slice among those received. -/
def addSlice (m : Sparse Byte) (offset : Nat) : List Byte → Sparse Byte
  | [] => m
  | b :: t => addSlice (sins m offset b) (offset + 1) t

/-- Meaning of PACKAGE_SLICE (R342, R343, R484, R486): the slice is kept and flooded, and a complete package is checked. One that
is not newer is dropped silently. -/
def execPackageSlice (p length offset : Nat) (bytes : List Byte) (s : State) : Host.Outcome State Fault Refusal :=
  onUnit (decide (p < 8))
    (if !((s.port p).inService) || packageLimit < length || length < offset + bytes.length || bytes = [] || !(s.sliceWanted offset bytes) then s
    else
      let q := if offset = 0 then (packageVersion bytes, []) else s.fabric.slices.getD (0, [])
      let got := addSlice q.2 offset bytes
      let t := { s with fabric := { s.fabric with slices := some (q.1, got) } }
      let t := if t.forwards then t.flood (some p) 0x0A (sliceArg length offset) bytes else t
      match gatherSlices got length with
      | none => t
      | some bs =>
        let u := { t with fabric := { t.fabric with slices := none } }
        if (u.packageCheck bs).1 = 2 then u.installPackage bs else u)

end Sys2Proof.Machine
end

