-- ==== Sys2Proof/Machine/Calibration.lean ====
section
/-! DEFINITION. The calibration set: what it holds, its unlocking, staging and commit (R561 to R564). -/

namespace Sys2Proof.Machine

/-- The sub-entries of a calibration object; 0 where there is none (R561). -/
def calibSubs (idx : Nat) : Nat :=
  if 0x0810 ≤ idx ∧ idx < 0x0820 then 4
  else if 0x0840 ≤ idx ∧ idx < 0x0880 then 3
  else if 0x0900 ≤ idx ∧ idx < 0x0998 then 4
  else if 0x0A00 ≤ idx ∧ idx < 0x0AC0 then 17
  else 0

/-- Every calibration object and sub-index, ascending. -/
def calibEntries : List (Nat × Nat) :=
  (upto 0x2B0).flatMap (fun i => (upto (calibSubs (0x0810 + i))).map (fun n => (0x0810 + i, n + 1)))

/-- CRC-64 over the set in NOR, each value as 4 bytes, little-endian (R562, log 32). -/
def State.calibDigest (s : State) : DWord := crc64 (calibEntries.flatMap (fun e => leBytes 4 (s.reg e.1 e.2).toNat))

/-- The set is unlocked, for another master than m: 8; for none: 5; for m: 0 (R562, R563). -/
def State.calibFor (s : State) (m : Nat) : Nat := if s.calib.state ≠ 1 then 5 else if s.calib.master ≠ m then 8 else 0

/-- What master m reads (R563). -/
def State.calibRead (s : State) (m idx sub : Nat) : Word :=
  match s.calibFor m, sget (fun _ => none) s.calib.staged (dkey idx sub) with
  | 0, some v => v
  | _, _ => s.reg idx sub

/-- The set locks, and its staging is discarded. -/
def State.calibLock (s : State) : State := { s with calib := { s.calib with state := 0, staged := [], written := none } }

/-- A write of a calibration value is staged (R563). -/
def calibWriteRule (m idx sub : Nat) (v : Word) : Rule := fun s =>
  if s.calibFor m ≠ 0 then (s, s.calibFor m)
  else ({ s with calib := { s.calib with
    staged := sput (fun _ => none) s.calib.staged (dkey idx sub) (some v), written := some s.clock.tick } }, 0)

/-- The unlock value. -/
def unlockValue : Word := 0x43414C21

/-- A write to unlock. -/
def calibUnlockRule (m : Nat) (v : Word) : Rule := fun s =>
  orRefuse (v = unlockValue && s.calib.state = 0) s
    { s with calib := { s.calib with state := 1, master := m, staged := [], written := some s.clock.tick } }

/-- A write to commit; to abort. No value is asked for (log 32). -/
def calibCommitRule (m : Nat) : Rule := fun s =>
  if s.calibFor m ≠ 0 then (s, s.calibFor m) else ({ s with calib := { s.calib with state := 2, written := none } }, 0)
def calibAbortRule (m : Nat) : Rule := fun s => if s.calibFor m ≠ 0 then (s, s.calibFor m) else (s.calibLock, 0)

/-- Meaning of CALIBRATION_UNLOCK (R562). -/
def execCalibrationUnlock (m : Nat) (v : Word) (s : State) : Host.Outcome State Fault Refusal :=
  onUnit (masterOk m) (s.command m 0x0800 0x02 v true (calibUnlockRule m v))

/-- Meaning of CALIBRATION_COMMIT (R563). -/
def execCalibrationCommit (m : Nat) (s : State) : Host.Outcome State Fault Refusal :=
  onUnit (masterOk m) (s.command m 0x0800 0x03 1 true (calibCommitRule m))

/-- Meaning of CALIBRATION_ABORT (R563). -/
def execCalibrationAbort (m : Nat) (s : State) : Host.Outcome State Fault Refusal :=
  onUnit (masterOk m) (s.command m 0x0800 0x04 1 true (calibAbortRule m))

/-- Meaning of CALIBRATION_LOCK_TIMEOUT (R563): time goes on to 25,000,000 ticks after the unlocking or the last write. -/
def execCalibrationLockTimeout (s : State) : Host.Outcome State Fault Refusal :=
  .next (match s.power.alive && s.calib.state = 1, s.calib.written with
    | true, some n => (s.until (n.toNat + 25000000)).calibLock
    | _, _ => s)

/-- The staged values take their places in NOR. -/
def State.calibStore (s : State) : State :=
  s.calib.staged.foldl (fun (t : State) p =>
    match p.2 with
    | some v => t.setReg (p.1 / 256) (p.1 % 256) v
    | none => t) s

/-- Meaning of CALIBRATION_COMMIT_DONE (R562, R563). -/
def execCalibrationCommitDone (s : State) : Host.Outcome State Fault Refusal :=
  .next (if s.power.alive && s.calib.state = 2 then
      { s.calibStore with calib := { s.calib with state := 0, staged := [], commits := satAdd (2 ^ 32 - 1) s.calib.commits 1 } }
    else s)

end Sys2Proof.Machine
end

