-- ==== Sys2Proof/Machine/Firmware.lean ====
section
/-! DEFINITION. Firmware update, and attestation (R21, R594 to R621). -/

namespace Sys2Proof.Machine

/-! ## Staging and checking (R599 to R602) -/

/-- The version that runs (R603, R618). -/
def Firmware.version (f : Firmware) : Nat := imageVersion (f.image f.running)

/-- What master m may do with the staging: 0, or the result that refuses it. -/
def Firmware.stagingOf (f : Firmware) (m : Nat) : Nat :=
  match f.staging with
  | none => 5
  | some q => if q.1 = m then 0 else 8

/-- Firmware command 1. -/
def firmwareBeginRule (m : Nat) : Rule := fun s =>
  let f := s.firmware
  if 3 ≤ f.state then (s, 5)
  else if f.stagingOf m = 8 then (s, 8)
  else ({ s with firmware := { f with staging := some (m, []), state := 1, check := 0, before := if f.state = 1 then f.before else f.state } }, 0)

/-- The 512th byte has arrived: the header is checked (R599). -/
def State.headerArrived (s : State) (m : Nat) (bs : List Byte) : State :=
  let f := s.firmware
  let r := s.headerCheck bs
  if r = 1 then { s with firmware := { f.setImage (!f.boot) [] with staging := some (m, bs), check := 1, before := 0 } }
  else { s with firmware := { f with staging := none, state := f.before, check := r } }.imageRefused r (imageVersion bs) (!f.boot)

/-- Four bytes are appended; what lies beyond the declared length is refused, and of a word that reaches past it only the bytes
within it are kept (R599, log 33). -/
def firmwareDataRule (m : Nat) (v : Word) : Rule := fun s =>
  match s.firmware.staging with
  | none => (s, 5)
  | some (n, bs) =>
    if n ≠ m then (s, 8)
    else
      let bs' := bs ++ leBytes 4 v.toNat
      if bs.length < 508 then ({ s with firmware := { s.firmware with staging := some (m, bs') } }, 0)
      else if bs.length < 512 then (s.headerArrived m bs', 0)
      else if imageLength bs ≤ bs.length then (s, 5)
      else ({ s with firmware := { s.firmware with staging := some (m, bs'.take (imageLength bs)) } }, 0)

/-- Firmware command 2 (R600). -/
def firmwareCheckRule (m : Nat) : Rule := fun s =>
  match s.firmware.staging with
  | none => (s, 5)
  | some (n, bs) =>
    let f := { s.firmware with staging := none, before := 0 }
    if n ≠ m then (s, 8)
    else if 512 ≤ bs.length && bodyGood bs then ({ s with firmware := { f.setImage (!f.boot) bs with state := 2, check := 2 } }, 0)
    else ({ s with firmware := { f.setImage (!f.boot) [] with state := 0, check := 8 } }.imageRefused 8 (imageVersion bs) (!f.boot), 0)

/-- Firmware command 3 (R600). -/
def firmwareAbortRule (m : Nat) : Rule := fun s =>
  match s.firmware.staging with
  | none => (s, 5)
  | some (n, _) =>
    let f := { s.firmware with staging := none, before := 0 }
    if n ≠ m then (s, 8) else ({ s with firmware := { f.setImage (!f.boot) [] with state := 0 } }, 0)

/-! ## Hand-over (R603 to R610) -/

/-- The first number of the pair that is handed over after p pairs (R603). -/
def pairFirst (p : Nat) : Nat := [4, 2, 0, 6].getD p 0

/-- The pairs begin to move from the first one. -/
def State.startMove (s : State) (state cause : Nat) : State :=
  { s with firmware := { s.firmware with
    state := state, backCause := cause, pairs := 0, switches := 0, reversing := false, again := false, since := some s.clock.tick } }

/-- Firmware command 4 (R603, R610). -/
def activateRule : Rule := fun s =>
  let f := s.firmware
  if f.state ≠ 2 then (s, 5)
  else if s.power.phase = 2 then
    ({ s with firmware := { f with boot := !f.boot, state := 4, twice := true, trialSince := some s.clock.tick } }, 0)
  else orRefuse (decide (field (f.image (!f.boot)) 0x068 8 ≤ f.version)) s (s.startMove 3 0)

/-- Numbers 8 and n change places: the spare core takes number n, and the core that had it is released (R604). Without a free
sprout, every core keeps its number. -/
def Firmware.swapRole (f : Firmware) (n : Nat) : Firmware :=
  if f.roles.contains (some 8) then
    { f with roles := f.roles.map (fun r => if r = some 8 then some n else if r = some n then some 8 else r) }
  else f

/-- One switch forward (R604, R608). -/
def Firmware.switch (f : Firmware) : Firmware :=
  let g := f.swapRole (pairFirst f.pairs + f.switches)
  if f.switches = 0 then { g with switches := 1, twice := true }
  else if f.again then { g with switches := 0, pairs := 0, again := false }
  else { g with switches := 0, pairs := f.pairs + 1 }

/-- One switch back, in reverse order (R607, log 33). -/
def Firmware.switchBack (f : Firmware) : Firmware :=
  if f.switches = 1 then { f.swapRole (pairFirst f.pairs) with switches := 0 }
  else { f.swapRole (pairFirst (f.pairs - 1) + 1) with pairs := f.pairs - 1, switches := 1 }

/-- A hand-over whose parts are all handed back ends: the state is staged again, or, of a fall-back, trial (R607, log 33). -/
def Firmware.settle (f : Firmware) : Firmware :=
  if f.reversing && f.pairs = 0 && f.switches = 0 then
    if f.state = 3 then { f with state := 2, reversing := false, since := none, twice := false }
    else { f with state := 4, reversing := false, since := none }
  else f

/-- The end of the serialiser window (R557). -/
def State.windowEnd (s : State) : State := s.until (25 * (s.clock.tick.toNat / 25 + 1))

/-- Meaning of HANDOVER_SWITCH (R604, R605). -/
def execHandoverSwitch (s : State) : Host.Outcome State Fault Refusal :=
  .next (if !(s.power.control && s.firmware.moving) then s
    else
      let t := s.windowEnd
      let f := { t.firmware with since := some t.clock.tick }
      if f.reversing then { t with firmware := f.switchBack.settle }
      else if f.pairs < 4 then { t with firmware := f.switch }
      else s)

/-- Both parts run the other image: trial, or the end of a fall-back (R606, R609, R613, R621). -/
def State.movedAll (s : State) : State :=
  let f := s.firmware
  let g := { f with boot := !f.boot, running := !f.boot, since := none }
  if f.state = 3 then { s with firmware := { g with state := 4, trialSince := some s.clock.tick } }
  else
    ({ s with firmware := { g with state := 0, pairs := 0, twice := false, trialSince := none } }.addError 0x0202 0 mgmt noJob f.backCause noStep
      (BitVec.ofNat 64 (imageVersion (f.image f.boot))) (BitVec.ofNat 64 (imageVersion (f.image (!f.boot))))).alarm 0x3000 0x09 2

/-- Meaning of MANAGEMENT_SWITCH (R606, R609, R613): at a tick edge. -/
def execManagementSwitch (s : State) : Host.Outcome State Fault Refusal :=
  .next (if s.power.control && s.firmware.moving && !s.firmware.reversing && s.firmware.pairs = 4 then s.nextEdge.movedAll else s)

/-- Meaning of HANDOVER_TIMEOUT (R607): time goes on to 2,500,000 ticks after the incoming core or bank began. -/
def execHandoverTimeout (s : State) : Host.Outcome State Fault Refusal :=
  .next (match s.power.control && s.firmware.moving && !s.firmware.reversing, s.firmware.since with
    | true, some n =>
      let t := s.until (n.toNat + 2500000)
      let f := t.firmware
      let t := { t with firmware := { f with reversing := true, since := some t.clock.tick }.settle }
      (t.addError 0x0201 0 mgmt noJob f.pairs noStep (BitVec.ofNat 64 (imageVersion (f.image (!f.boot))))
        (BitVec.ofNat 64 f.version)).alarm 0x3000 0x09 1
    | _, _ => s)

/-! ## Confirmation and fall-back (R611 to R614) -/

/-- Firmware command 5. -/
def confirmRule : Rule := fun s =>
  let f := s.firmware
  let bs := f.image f.boot
  let sec := max f.security (imageSecurity bs)
  if f.state ≠ 4 then (s, 5)
  else
    ({ s with firmware := { f with
        state := 0, twice := false, trialSince := none, pairs := 0, security := sec
        revoked := f.revoked ||| BitVec.ofNat 8 (2 ^ min 8 (field bs 0x01E 2) - 1) } }.addError 0x0203 0 mgmt noJob 0 noStep
      (BitVec.ofNat 64 (imageVersion bs)) (BitVec.ofNat 64 sec), 0)

/-- The work goes back to the previous image; at once where no control core runs (R610, R613, log 33). -/
def State.fallBackFor (s : State) (cause : Nat) : State :=
  let t := s.startMove 5 cause
  if s.power.phase = 2 then t.movedAll else t

/-- Firmware command 6. -/
def fallBackRule : Rule := fun s => orRefuse (s.firmware.state = 4) s (s.fallBackFor 1)

/-- Meaning of TRIAL_LIMIT_EXPIRY (R613): time goes on to the trial limit. -/
def execTrialLimitExpiry (s : State) : Host.Outcome State Fault Refusal :=
  .next (
    let limit := (s.reg 0x3000 0x08).toNat
    match s.power.alive && s.firmware.state = 4 && limit ≠ 0, s.firmware.trialSince with
    | true, some n => (s.until (n.toNat + limit * 25000000)).fallBackFor 2
    | _, _ => s)

/-- Meaning of FIRMWARE_BEGIN (R599, R602). -/
def execFirmwareBegin (m : Nat) (s : State) : Host.Outcome State Fault Refusal :=
  onUnit (masterOk m) (s.command m 0x3000 0x02 1 true (firmwareBeginRule m))

/-- Meaning of FIRMWARE_DATA (R599). -/
def execFirmwareData (m : Nat) (v : Word) (s : State) : Host.Outcome State Fault Refusal :=
  onUnit (masterOk m) (s.command m 0x3001 0x01 v true (firmwareDataRule m v))

/-- Meaning of FIRMWARE_CHECK (R600). -/
def execFirmwareCheck (m : Nat) (s : State) : Host.Outcome State Fault Refusal :=
  onUnit (masterOk m) (s.command m 0x3000 0x02 2 true (firmwareCheckRule m))

/-- Meaning of FIRMWARE_ABORT (R600). -/
def execFirmwareAbort (m : Nat) (s : State) : Host.Outcome State Fault Refusal :=
  onUnit (masterOk m) (s.command m 0x3000 0x02 3 true (firmwareAbortRule m))

/-- Meaning of ACTIVATE (R603, R610). -/
def execActivate (m : Nat) (s : State) : Host.Outcome State Fault Refusal :=
  onUnit (masterOk m) (s.command m 0x3000 0x02 4 true activateRule)

/-- Meaning of CONFIRM (R612). -/
def execConfirm (m : Nat) (s : State) : Host.Outcome State Fault Refusal :=
  onUnit (masterOk m) (s.command m 0x3000 0x02 5 true confirmRule)

/-- Meaning of FALL_BACK (R613). -/
def execFallBack (m : Nat) (s : State) : Host.Outcome State Fault Refusal :=
  onUnit (masterOk m) (s.command m 0x3000 0x02 6 true fallBackRule)

/-! ## Attestation (R618, R619) -/

/-- n bytes: those of the list, and zeros after them. -/
def fitBytes (n : Nat) (bs : List Byte) : List Byte := (bs ++ List.replicate n 0).take n

/-- SHA-384 of an image's header; 0 when the slot is empty. -/
def headerHash (bs : List Byte) : List Byte := if bs = [] then List.replicate 48 0 else fitBytes 48 (Config.sha384 (bs.take 512))

/-- Bytes 0x000 to 0x0FF of the report over a nonce. -/
def State.reportBody (s : State) (nonce : List Byte) : List Byte :=
  let f := s.firmware
  let other := f.image (!f.boot)
  leBytes 4 0x54414845 ++ leBytes 2 1 ++ leBytes 2 1 ++ leBytes 8 s.ident.serial.toNat ++ leBytes 4 0x4100 ++ leBytes 2 s.ident.grade ++
    leBytes 2 s.ident.stepping.toNat ++ leBytes 8 s.clock.tick.toNat ++ fitBytes 32 nonce ++
    fitBytes 48 (Config.sha384 ((f.image f.running).take 512)) ++ headerHash other ++ leBytes 8 f.version ++ leBytes 8 (imageVersion other) ++
    leBytes 4 f.security ++ leBytes 1 f.state ++ leBytes 1 (slotNumber f.boot) ++ leBytes 2 f.revoked.toNat ++
    leBytes 8 s.calibDigest.toNat ++ leBytes 4 s.calib.commits ++ leBytes 4 0 ++ leBytes 8 s.radish.version ++ List.replicate 48 0

/-- The bytes of a nonce. -/
def Master.nonceBytes (x : Master) : List Byte := x.nonce.flatMap (fun w => leBytes 4 w.toNat)

/-- A write to the command of 0x3020; while a report is being made it is refused (log 33). -/
def attestRule (m : Nat) (v : Word) : Rule := fun s =>
  orRefuse (v = 1 && (s.master m).aStat ≠ 1) s (s.setMaster m { s.master m with aStat := 1 })

/-- Meaning of ATTESTATION_COMMAND (R619). -/
def execAttestationCommand (m : Nat) (v : Word) (s : State) : Host.Outcome State Fault Refusal :=
  onUnit (masterOk m) (s.command m 0x3020 0x09 v true (attestRule m v))

/-- Meaning of ATTESTATION_REPORT_READY (R618, R619): the report is signed with the device identity key. -/
def execAttestationReportReady (m : Nat) (s : State) : Host.Outcome State Fault Refusal :=
  onUnit (masterOk m)
    (let x := s.master m
    if !s.power.alive || x.aStat ≠ 1 then s
    else
      let body := s.reportBody x.nonceBytes
      s.setMaster m { x with aStat := 2, report := body ++ fitBytes 96 (Config.identitySign body) })

end Sys2Proof.Machine
end

