-- ==== Sys2Proof/Machine/Commands.lean ====
section
/-! DEFINITION. Slot commands and job fields, and the commands of cores, controllers, ports and power (R164, R187, R188, R306,
R307, R355, R385, R451, R511, R517, R518, R572). -/

namespace Sys2Proof.Machine

/-! ## Job slots (R451, R516 to R518) -/

/-- The index of object o of slot j of context k (R516). -/
def slotObj (k j o : Nat) : Nat := 0x2400 + 64 * k + 8 * j + o

/-- A write of 1 by a counter's or a load's start; any other value is refused (log 35). -/
def one (v : Word) (f : Rule) : Rule := fun s => if v = 1 then f s else (s, 5)

/-- The launch tick and the role of a slot may be armed now (R451, R510). -/
def State.armOk (s : State) (k : Nat) (q : Slot) : Bool :=
  bit (s.reg (ctxObj k 0) 1) 0 && q.launchReg.toNat % 96 = 0 && decide (s.clock.tick.toNat + 5000 ≤ q.launchReg.toNat) &&
    decide (q.startStep.toNat ≤ q.endStep.toNat) &&
    (q.leads || (match s.fabric.coord with
      | none => false
      | some c => c ≠ s.leadOf q))

/-- The acceptance of slot j, when it has one, is given up: the slot waits for a new one (R532). -/
def State.giveUp (s : State) (k j : Nat) : State := if (s.acceptedJob k j).isSome then s.dropJob k else s

/-- Slot command 1 (R451, R518, R532). -/
def armRule (k j : Nat) : Rule := fun s =>
  let q := s.slot k j
  if !(s.armOk k q) then (s, 5)
  else if q.state = 1 then (s.changeSlot k j (fun v => { v with state := 2, launch := v.launchReg, armedTick := s.clock.tick }), 0)
  else if q.state = 3 && q.rerun then ((s.giveUp k j).changeSlot k j (fun v => { v with launch := v.launchReg, armedTick := s.clock.tick }), 0)
  else (s, 5)

/-- Slot command 2: an armed slot is written again; an accepted one faults, and the lead is told (R518, R526). -/
def withdrawRule (k j : Nat) : Rule := fun s =>
  let q := s.slot k j
  if q.state = 2 then ((s.changeSlot k j (fun v => { v with state := 1 })).setRankMap k j [], 0)
  else if q.state = 3 then
    match s.job k with
    | some jb => if jb.j = j then (s.faultJob k 0x0A 0 0xFFFFFFFF, 0) else (s.refuseSlot k j 0x0A, 0)
    | none => (s.refuseSlot k j 0x0A, 0)
  else (s, 5)

/-- Slot command 3 (R518, R526). -/
def abortRule (k j : Nat) : Rule := fun s =>
  if (s.slot k j).state ≠ 4 then (s, 5)
  else
    match s.job k with
    | some jb => if jb.j = j then (s.faultJob k 0x0B 0 0xFFFFFFFF, 0) else (s.refuseSlot k j 0x0B, 0)
    | none => (s.refuseSlot k j 0x0B, 0)

/-- Slot command 4: the fields go to their reset values (R518). -/
def clearRule (k j : Nat) : Rule := fun s =>
  let q := s.slot k j
  if q.state = 1 || q.state = 5 || q.state = 6 then ((s.changeSlot k j (fun _ => {})).setRankMap k j [], 0) else (s, 5)

/-- A write to a slot's command sub-entry (R516). -/
def slotCommandRule (k j : Nat) (v : Word) : Rule :=
  if v = 1 then armRule k j else if v = 2 then withdrawRule k j else if v = 3 then abortRule k j else if v = 4 then clearRule k j
  else fun s => (s, 5)

/-- A job field of S + 1 (R517): by its lowest sub-index. -/
def Slot.withField (q : Slot) (sub n : Nat) : Slot :=
  match sub with
  | 1 => { q with image := BitVec.ofNat 64 n }
  | 3 => { q with seed := BitVec.ofNat 64 n }
  | 5 => { q with startStep := BitVec.ofNat 64 n }
  | 7 => { q with endStep := BitVec.ofNat 64 n }
  | 9 => { q with role := BitVec.ofNat 32 n }
  | _ => q

def jobFieldRule (k j sub n : Nat) : Rule := fun s =>
  if 1 < (s.slot k j).state then (s, 5) else (s.changeSlot k j (fun q => { q.withField sub n with state := 1 }), 0)

/-- Meaning of ARM (R451, R518). -/
def execArm (m k j : Nat) (s : State) : Host.Outcome State Fault Refusal :=
  onUnit (masterOk m && slotOk k j) (s.command m (slotObj k j 0) 0x02 1 true (armRule k j))

/-- Meaning of WITHDRAW (R518). -/
def execWithdraw (m k j : Nat) (s : State) : Host.Outcome State Fault Refusal :=
  onUnit (masterOk m && slotOk k j) (s.command m (slotObj k j 0) 0x02 2 true (withdrawRule k j))

/-- Meaning of ABORT (R518). -/
def execAbort (m k j : Nat) (s : State) : Host.Outcome State Fault Refusal :=
  onUnit (masterOk m && slotOk k j) (s.command m (slotObj k j 0) 0x02 3 true (abortRule k j))

/-- Meaning of CLEAR (R518). -/
def execClear (m k j : Nat) (s : State) : Host.Outcome State Fault Refusal :=
  onUnit (masterOk m && slotOk k j) (s.command m (slotObj k j 0) 0x02 4 true (clearRule k j))

/-! ## Partitions (R511) -/

/-- The range that partition u may lie in: 0 GDDR7, 1 and 2 the CXL windows (R266). -/
def partitionRange (u : Nat) : Nat × Nat :=
  if u = 0 then (0, gddrStop) else (cxlBase (u - 1), cxlBase (u - 1) + cxlWindow)

/-- Base and length may be those of partition u of context k. -/
def State.partitionOk (s : State) (k u base len : Nat) : Bool :=
  base % page64 = 0 && len % page64 = 0 &&
    (len = 0 || ((partitionRange u).1 ≤ base && base + len ≤ (partitionRange u).2)) &&
    (upto 16).all (fun i => i = k || len = 0 || (s.partition i u).2 = 0 || base + len ≤ (s.partition i u).1 ||
      (s.partition i u).1 + (s.partition i u).2 ≤ base) &&
    (upto 8).all (fun j => (s.slot k j).state ≠ 3 && (s.slot k j).state ≠ 4)

/-- A write of a whole base or length, at its lowest sub-index `sub` (2 to 12). -/
def partitionRule (k sub n : Nat) : Rule := fun s =>
  let u := (sub - 2) / 4
  let isBase := sub % 4 = 2
  let p := s.partition k u
  orRefuse (s.partitionOk k u (if isBase then n else p.1) (if isBase then p.2 else n)) s (s.setReg64 (ctxObj k 0) sub n)

/-! ## Cores (R164, R181, R187, R188) -/

/-- Bank n of core c is executing (R169, R187): with two residents both are. -/
def State.executes (s : State) (c n : Nat) : Bool :=
  (s.core c).res0.isSome && (s.core c).res1.isSome || (([(s.core c).res0, (s.core c).res1].filterMap id).filterMap s.lcore).any (fun x => x.bank = n)

/-- A write to start of the instruction-load object (R164, R187). A source outside GDDR7 is unreadable. -/
def loadStartRule (c : Nat) : Rule := fun s =>
  let o := coreObj c 4
  let b := bits (s.reg o 1) 0 0
  let src := s.reg64 o 2
  let len := (s.reg o 5).toNat
  if s.executes c b then (s.setReg o 7 3, 5)
  else if len = 0 then (s, 5)
  else if 0x2E80000000 < src + 16 * len then (s.setReg o 7 4, 0)
  else ((s.setCore c ((s.core c).setBank b { (s.core c).bank b with loading := some (s.reg o 4, src, len) })).setReg o 7 1, 0)

/-- A write to the halt word of context slot i: bit 11 clears the record (R181, R186). -/
def haltClearRule (c i : Nat) (v : Word) : Rule := fun s => (if bit v 11 then s.setCore c ((s.core c).setHalt i {}) else s, 0)

/-- Counters go to 0. -/
def clearCountersRule (idx top : Nat) : Rule := fun s => (s.clearRegs idx ((upto top).map (fun i => i + 1)), 0)

/-- Meaning of INSTRUCTION_LOAD_START (R164, R187). -/
def execInstructionLoadStart (m c : Nat) (s : State) : Host.Outcome State Fault Refusal :=
  onUnit (masterOk m && decide (c < 1152)) (s.command m (coreObj c 4) 0x06 1 true (loadStartRule c))

/-- Meaning of HALT_RECORD_CLEAR (R181, R186). -/
def execHaltRecordClear (m c slot : Nat) (s : State) : Host.Outcome State Fault Refusal :=
  onUnit (masterOk m && decide (c < 1152) && decide (slot < 2)) (s.command m (coreObj c (1 + slot)) 0x01 0x800 true (haltClearRule c slot 0x800))

/-- Meaning of CORE_COUNTER_CLEAR (R188). -/
def execCoreCounterClear (m c : Nat) (s : State) : Host.Outcome State Fault Refusal :=
  onUnit (masterOk m && decide (c < 1152)) (s.command m (coreObj c 5) 0x2F 1 true (clearCountersRule (coreObj c 5) 0x2C))

/-- Meaning of CONTROLLER_COUNTER_CLEAR (R306). -/
def execControllerCounterClear (m n : Nat) (s : State) : Host.Outcome State Fault Refusal :=
  onUnit (masterOk m && decide (n < 24)) (s.command m (ctlObj n 2) 0x0E 1 true (clearCountersRule (ctlObj n 2) 0x0D))

/-- Meaning of CXL_COUNTER_CLEAR (R307). -/
def execCxlCounterClear (m n : Nat) (s : State) : Host.Outcome State Fault Refusal :=
  onUnit (masterOk m && decide (n < 2)) (s.command m (cxlObj n 2) 0x0A 1 true (clearCountersRule (cxlObj n 2) 0x09))

/-- Meaning of PORT_COUNTER_CLEAR (R385). -/
def execPortCounterClear (m p : Nat) (s : State) : Host.Outcome State Fault Refusal :=
  onUnit (masterOk m && decide (p < 8)) (s.command m (portObj p 3) 0x0F 1 true (clearCountersRule (portObj p 3) 0x0E))

/-! ## Lanes (R355, R357, R385) -/

/-- A write to the lane action: a receive lane that is in use is replaced, or retired without substitution. -/
def laneRule (p : Nat) (v : Word) : Rule := fun s =>
  let l := bits v 3 0
  if 12 < l || !(s.port p).inService || !(bit (s.port p).rxMask l) then (s, 5)
  else if bit v 7 then (s.dropLane p l, 0)
  else (s.requestLane p (some l), 0)

/-- Meaning of LANE_ACTION (R355, R357). -/
def execLaneAction (m p lane : Nat) (s : State) : Host.Outcome State Fault Refusal :=
  onUnit (masterOk m && decide (p < 8) && decide (lane < 16))
    (s.command m (portObj p 3) 0x10 (BitVec.ofNat 32 lane) true (laneRule p (BitVec.ofNat 32 lane)))

/-- Meaning of LANE_RETIRE (R385). -/
def execLaneRetire (m p lane : Nat) (s : State) : Host.Outcome State Fault Refusal :=
  onUnit (masterOk m && decide (p < 8) && decide (lane < 16))
    (s.command m (portObj p 3) 0x10 (BitVec.ofNat 32 (128 + lane)) true (laneRule p (BitVec.ofNat 32 (128 + lane))))

/-! ## The floor (R572) -/

/-- A write to the floor. -/
def floorRule (v : Word) : Rule := fun s =>
  let tick := s.reg64 0x0300 0x06
  let t := s.setReg 0x0300 0x05 v
  if bit v 0 then
    orRefuse (tick % 96 = 0 && s.clock.tick.toNat + 2400 ≤ tick) s
      { t with power := { t.power with floorNext := some (true, BitVec.ofNat 64 tick) } }
  else if tick ≤ s.clock.tick.toNat then ({ t with power := { t.power with floor := false, floorNext := none } }, 0)
  else ({ t with power := { t.power with floorNext := some (false, BitVec.ofNat 64 tick) } }, 0)

/-- A write with a reserved field that is not 0 is refused whole (R12). -/
def cleanly (mask : Nat) (v : Word) (f : Rule) : Rule := fun s => if v.toNat &&& mask ≠ 0 then (s, 4) else f s

/-- Meaning of FLOOR_WRITE (R572). -/
def execFloorWrite (m : Nat) (v : Word) (s : State) : Host.Outcome State Fault Refusal :=
  onUnit (masterOk m) (s.command m 0x0300 0x05 v false (cleanly 0xFFFFFFFE v (floorRule v)))

end Sys2Proof.Machine
end

