-- ==== Sys2Proof/Machine/Schema.lean ====
section
/-! DEFINITION. The objects of the dictionary and their sub-entries: types, access codes, aggregate kinds, what is kept, and
reserved bits (R9, R52, R535 to R540, and the tables of the objects). -/

namespace Sys2Proof.Machine

/-- A value of an object: its lowest sub-index, the sub-indices that it spans, type code (R536), access code (0 RO, 1 RW, 2 WO,
3 W1C), aggregate kind (0 None, 1 Sum, 2 Max, 3 Min, 4 Any, 5 All), whether it is kept in NOR, and the mask of its reserved
bits. -/
structure Field where
  lo : Nat
  n : Nat
  ty : Nat
  acc : Nat
  agg : Nat
  kept : Bool
  rsv : Nat
  deriving DecidableEq, Repr

/-- Bits 31 to k. -/
def above (k : Nat) : Nat := 2 ^ 32 - 2 ^ k

def fro (sub : Nat) (agg : Nat := 0) (kept : Bool := false) : Field := ⟨sub, 1, 1, 0, agg, kept, 0⟩
def fro64 (sub : Nat) (agg : Nat := 0) (kept : Bool := false) : Field := ⟨sub, 2, 2, 0, agg, kept, 0⟩
def frw (sub : Nat) (rsv : Nat := 0) (kept : Bool := false) : Field := ⟨sub, 1, 1, 1, 0, kept, rsv⟩
def frw64 (sub : Nat) (kept : Bool := false) : Field := ⟨sub, 2, 2, 1, 0, kept, 0⟩
def fwo (sub : Nat) (rsv : Nat := 0) : Field := ⟨sub, 1, 1, 2, 0, false, rsv⟩
def fw1c (sub used : Nat) (agg : Nat := 4) : Field := ⟨sub, 1, 1, 3, agg, false, above used⟩
def fint (sub : Nat) (agg : Nat := 0) : Field := ⟨sub, 1, 3, 0, agg, false, 0⟩
def fintw (sub : Nat) : Field := ⟨sub, 1, 3, 1, 0, true, 0⟩
def foct (sub n acc : Nat) : Field := ⟨sub, n, 5, acc, 0, false, 0⟩

/-- k counters of 64 bits from sub-index `a` on, Sum. -/
def sums64 (a k : Nat) : List Field := (upto k).map (fun i => fro64 (a + 2 * i) 1)
/-- k counters of 32 bits from sub-index `a` on, Sum. -/
def sums (a k : Nat) : List Field := (upto k).map (fun i => fro (a + i) 1)

/-! ## Objects of the device (R505, R539, R546, R556, R559, R560, R562, R590 to R592, R616 to R620, R646 to R648) -/

def keyFields : List Field := [fro 1 0 true, foct 2 24 0]

def deviceFields (idx : Nat) : List Field :=
  match idx with
  | 0x0000 => [fro 1, fro 2, fro 3, fro 4, fro 5 1]
  | 0x0001 => [frw 1 0xFF000000, fro 2]
  | 0x0002 => [frw 1 (above 17), frw 2 0xFFFF, frw 3, frw 4, fwo 5, fro 6, fro64 7, fro 9, fro 0xA]
  | 0x0030 => [fro 1 1, fro64 2, fro 4, fro 5, fro 6, fw1c 7 1]
  | 0x0031 => [frw64 1 true, frw 3 0 true]
  | 0x0100 => [fro 1, fro 2, fro 3, fro 4, fro 5, fro64 6, fro64 8, fro 0xA]
  | 0x0120 => keyFields
  | 0x0121 => [fro 1, foct 2 24 0]
  | 0x0200 => [fro 1 1, fro 2 1, fro 3 1, fro 4 3, fro 5 1, fro 6 1, fro 7 3, fro 8 1, fw1c 9 5]
  | 0x0280 => [fint 1 2, fint 2 2, fint 3 2, fint 4 2, fro 5 2, fw1c 6 3]
  | 0x0300 => [fro 1, fro 2 3, fro 3 1, frw 4 0 true, frw 5 (above 1), frw64 6, fw1c 8 3]
  | 0x0310 => [fro 1, fro 2 0 true, fwo 3, fro64 4 2, fro 6 0 true, fro 7]
  | 0x0400 => [fro64 1 2]
  | 0x0410 => [fro 1, fro 2, fint 3, fintw 4, fw1c 5 2 0]
  | 0x0420 => [fro 1, frw 2 (above 17) true, frw 3 (above 17) true, fro 4, fro 5, fro 6, fro 7]
  | 0x0430 => [frw64 1, frw64 3]
  | 0x0440 => [fro 1, fro 2, fro 3 1, fro 4 1, fw1c 5 3]
  | 0x0800 => [fro 1, fwo 2, fwo 3, fwo 4, fro64 5, fro 7 0 true]
  | 0x1000 => [fro 1, fro 2, fro 3, fw1c 4 4]
  | 0x3000 => [fro 1, fwo 2, fro64 3 3, fro64 5 3, fro 7 0 true, frw 8 0 true, fw1c 9 3]
  | 0x3001 => [fwo 1, fro 2]
  | 0x3020 => [foct 1 8 1, fwo 9, fro 0xA, foct 0xB 88 0]
  | 0x3100 => [frw 1 (above 2) true, fro64 2 3, fro 4 3, fro64 5 1, fro64 7 1, fro64 9 1, fro 0xB 1, fro 0xC 2]
  | 0x3101 => [fwo 1, fwo 2, fro 3, fro 4, fro 5, frw 6 (above 1) true]
  | 0x9900 => [fro 1, fro64 2 1, fro64 4 1, fro64 6 1, fro64 8 1, fro 0xA 1]
  | _ => []

/-- A calibration object (R561): the temperature and voltage offsets are INTEGER32. -/
def calibFields (idx : Nat) : List Field :=
  (upto (calibSubs idx)).map (fun i =>
    ⟨i + 1, 1, if 0x0840 ≤ idx ∧ idx < 0x0880 ∧ i ≠ 1 then 3 else 1, 1, 0, true, 0⟩)

/-! ## Objects of a context (R329, R422, R428, R433, R440, R462, R468, R472, R503, R510, R534) -/

def contextFields (o : Nat) : List Field :=
  match o with
  | 0x00 => [frw 1 (above 4), frw64 2, frw64 4, frw64 6, frw64 8, frw64 0xA, frw64 0xC]
  | 0x01 => [fro 1, fro64 2 2, fro 4 2, fro64 5 1, fro 7 1, fro 8 1, fro 9 1]
  | 0x20 => [fro 1, fro64 2, fro 4]
  | 0x21 => [fro 1, fro 2, fro 3, fro 4]
  | 0x22 => sums64 1 9
  | 0x23 => [fro64 1 1, fro 3, fro64 4 2, fro64 6 3, fro64 8 1]
  | 0x24 => [frw64 1, frw 3, fro64 4, frw64 6, frw64 8, frw 0xA, fro 0xB, fro 0xC]
  | 0x25 => [frw64 1, frw 3 (above 3), frw64 4, frw64 6, fro 8, fro64 9, frw 0xB (above 3), frw64 0xC, frw64 0xE]
  | 0x26 =>
    fro 1 :: (upto 8).map (fun i => frw (2 + i) (above 17)) ++
      [frw 0xA (above 3), frw64 0xB, frw64 0xD, fro64 0xF, fro 0x11 1, fro 0x12 1]
  | _ => []

/-- Objects of a job slot (R516). -/
def slotFields (o : Nat) : List Field :=
  match o with
  | 0 => [fro 1, fwo 2, frw64 3, fro64 5, fro 7]
  | 1 => [frw64 1, frw64 3, frw64 5, frw64 7, frw 9 (above 18)]
  | 2 => [fro64 1, fro64 3, fro64 5]
  | 3 => [fro64 1, fro64 3, fro 5, fro64 6, fro64 8, fro 0xA, fro 0xB]
  | _ => []

def numericsFields (o : Nat) : List Field :=
  if o = 0 then [fro64 1 3, fro 3 2, fw1c 4 4, fro 5 1, fro 6, fro 7]
  else if 0x10 ≤ o then sums64 1 6 ++ [fint 0xD 2]
  else []

/-! ## Objects of cores, ports, controllers and CXL ports (R185 to R188, R306, R307, R385) -/

/-- Object o of a core. Of the halt word, bits [23:12] are reserved. -/
def coreFields (o : Nat) : List Field :=
  match o with
  | 0 => [fro 1]
  | 1 => [frw 1 0x00FFF000, fro64 2, fro 4, fro 5, fro 6]
  | 2 => [frw 1 0x00FFF000, fro64 2, fro 4, fro 5, fro 6]
  | 3 => [fro 1, fro 2, fro 3, fro 4, fro 5]
  | 4 => [frw 1 (above 1), frw64 2, frw 4, frw 5, fwo 6, fro 7]
  | 5 => sums64 1 22 ++ [fwo 0x2F]
  | _ => []

def portFields (o : Nat) : List Field :=
  match o with
  | 0 => [fro 1, fro 2, fro64 3, fro 5 2]
  | 1 => sums64 1 7
  | 2 => sums 1 13
  | 3 => sums64 1 7 ++ [fwo 0xF, fwo 0x10 0xFFFFFF70]
  | _ => []

def ctlFields (o : Nat) : List Field :=
  match o with
  | 0 => [fro 1]
  | 1 => sums64 1 5 ++ [fro64 0xB, fro64 0xD 2]
  | 2 => sums64 1 6 ++ [fro 0xD 2, fwo 0xE]
  | _ => []

def cxlFields (o : Nat) : List Field :=
  match o with
  | 0 => [fro 1]
  | 1 => sums64 1 3
  | 2 => sums64 1 4 ++ [fro 9 2, fwo 0xA]
  | _ => []

/-! ## The whole dictionary (R538) -/

/-- The values of an index, lowest sub-index first; none where no object lies. -/
def fieldsOf (idx : Nat) : List Field :=
  if 0x0010 ≤ idx && idx < 0x0020 then [fro 1, fro 2, fro64 3, fw1c 5 1 0]
  else if 0x0110 ≤ idx && idx < 0x0118 then keyFields
  else if 0x0240 ≤ idx && idx < 0x0280 then [fro 1]
  else if 0x0321 ≤ idx && idx ≤ 0x032D then [fro 1 0 true, fro64 2 0 true, fro64 4 0 true, fro 6 0 true, fro 7 0 true]
  else if 0x0810 ≤ idx && idx < 0x0AC0 then calibFields idx
  else if 0x1400 ≤ idx && idx < 0x1800 then [foct 1 16 0]
  else if 0x2000 ≤ idx && idx < 0x2400 then contextFields (idx % 0x40)
  else if 0x2400 ≤ idx && idx < 0x2800 then slotFields (idx % 8)
  else if 0x4000 ≤ idx && idx < 0x8800 then coreFields (idx % 0x10)
  else if 0x9000 ≤ idx && idx < 0x9200 then portFields (idx % 0x40)
  else if 0x9200 ≤ idx && idx < 0x9800 then ctlFields (idx % 0x40)
  else if 0x9800 ≤ idx && idx < 0x9900 then cxlFields (idx % 0x80)
  else if 0xA000 ≤ idx && idx < 0xB000 then numericsFields (idx % 0x100)
  else deviceFields idx

/-- The highest sub-index of an object (R535). -/
def highest (fs : List Field) : Nat := fs.foldl (fun m f => max m (f.lo + f.n - 1)) 0

/-- The value that a sub-index belongs to. Sub-index 0 is UNSIGNED32, RO (R535). -/
def fieldAt (idx sub : Nat) : Option Field :=
  let fs := fieldsOf idx
  if fs = [] then none
  else if sub = 0 then some (fro 0)
  else fs.find? (fun f => f.lo ≤ sub && sub < f.lo + f.n)

/-- Instance blocks (R538): first index, stride and instances. -/
def instanceBlocks : List (Nat × Nat × Nat) :=
  [(0x2000, 0x40, 16), (0x2400, 8, 128), (0x4000, 0x10, 1152), (0x9000, 0x40, 8), (0x9200, 0x40, 24), (0x9800, 0x80, 2), (0xA000, 0x100, 16)]

/-- The instance block that contains an index. -/
def blockOf (idx : Nat) : Option (Nat × Nat × Nat) := instanceBlocks.find? (fun b => b.1 ≤ idx && idx < b.1 + b.2.1 * b.2.2)

/-- A command sub-entry (R559): one that starts an action, or a W1C alarm. -/
def isCommand (f : Field) : Bool := f.acc = 2 || f.acc = 3

/-- The description word (R540). -/
def Field.describe (f : Field) : Nat := f.ty * 2 ^ 24 + f.acc * 2 ^ 20 + f.agg * 2 ^ 16 + (if f.kept then 2 ^ 15 else 0) + f.n

end Sys2Proof.Machine
end

