-- ==== Sys2Proof/Machine/Values.lean ====
section
/-! DEFINITION. The values that the dictionary's objects show (R8, R42, R185 to R187, R306, R307, R329, R385, R386, R440, R462, R485,
R487, R488, R491, R505, R516, R534, R539, R540, R556, R562, R563, R590 to R592, R594, R616, R619, R620, R646 to R648). -/

namespace Sys2Proof.Machine

/-- The word that packs fields: (value, lowest bit). -/
def packed (fs : List (Nat × Nat)) : Nat := fs.foldl (fun n f => n + f.1 * 2 ^ f.2) 0

def bnat (b : Bool) : Nat := if b then 1 else 0

/-- A value of an optional coordinate: valid in bit 16 (R386). -/
def coordWord (c : Option Half) : Nat :=
  match c with
  | none => 0
  | some x => 2 ^ 16 + x.toNat

/-- The value that the registers of a field hold. -/
def State.regs (s : State) (idx lo n : Nat) : Nat := ((upto n).map (fun i => (s.reg idx (lo + i)).toNat * 2 ^ (32 * i))).sum

/-- The whole description of a target (R540), as master m sees it. -/
def describe (m idx sub : Nat) : Nat :=
  match fieldAt idx sub with
  | none => 0
  | some f => if reaches m idx && (f.lo = sub || sub = 0) then f.describe else 0

/-! ## Records and reserves -/

/-- The 64 bytes of an error record (R488). -/
def ErrorRec.bytes (r : ErrorRec) : List Byte :=
  leBytes 2 r.kind ++ leBytes 1 r.effect ++ leBytes 1 0 ++ leBytes 4 r.seq ++ leBytes 8 r.tick.toNat ++ leBytes 8 r.wall.toNat ++
    leBytes 4 r.unit.toNat ++ leBytes 4 r.job.toNat ++ leBytes 4 r.operation.toNat ++ leBytes 2 r.temperature.toNat ++
    leBytes 2 r.voltage.toNat ++ leBytes 8 r.step.toNat ++ leBytes 8 r.detail0.toNat ++ leBytes 8 r.detail1.toNat

/-- The record that index 0x1400 + n shows, if it is held (R491). -/
def State.recordAt (s : State) (n : Nat) : Option ErrorRec := s.errors.records.find? (fun r => r.seq % 1024 = n)

/-- Directions of the ports: their masks and the lanes retired in them. -/
def State.directions (s : State) : List (BitVec 13 × BitVec 13) :=
  (upto 8).flatMap (fun p => [((s.port p).txMask, (s.port p).txRetired), ((s.port p).rxMask, (s.port p).rxRetired)])

/-- Object 0x0200 (R505). -/
def State.reserveValue (s : State) (lo : Nat) : Nat :=
  let pods := upto 64
  match lo with
  | 1 => (pods.map (fun p => (s.podSlots p).length)).sum
  | 2 => (pods.map (fun p => (s.sprouts p).length)).sum
  | 3 => (s.cores.filter (fun c => c.2.retired)).length
  | 4 => pods.foldl (fun n p => min n (s.podSlots p).length) 16
  | 5 => (s.directions.filter (fun d => (spareLane d.1 d.2).isSome)).length
  | 6 => (s.directions.filter (fun d => lanes d.1 = 11)).length
  | 7 => bnat (s.firmware.roles.contains (some 8))
  | 8 => s.repairsFree
  | _ => s.regs 0x0200 lo 1

/-- Seconds since the oldest visit among cores that are not retired (R487). -/
def State.oldestVisit (s : State) : Nat :=
  ((upto 1152).filter (fun c => !(s.core c).retired)).foldl (fun n c => max n ((s.clock.tick - (s.core c).visited).toNat / 25000000)) 0

/-! ## Contexts and slots -/

/-- Object o of context k. -/
def State.contextValue (s : State) (k o lo n : Nat) : Nat :=
  let raw := s.regs (ctxObj k o) lo n
  match o, s.job k with
  | 0x01, some j =>
    if (s.slot k j.j).state ≠ 4 then raw
    else if lo = 2 then (s.clock.tick - j.launched).toNat
    else if lo = 4 then (s.slot k j.j).slowdown
    else raw
  | 0x21, some j =>
    if lo = 1 then (s.barriers.filter (fun b => ctxOfBkey b.1 = k && b.2.params.isSome)).length
    else if lo = 2 then (s.sems.filter (fun q => ctxOfSkey q.1 = k && q.2.value ≠ 0)).length
    else if lo = 3 then (j.homes.filter (fun h => h.away)).length
    else raw
  | 0x24, some j => if j.lead then raw else 0
  | _, _ => raw

/-- State word of a slot (R516). -/
def Slot.word (q : Slot) : Nat := packed [(q.cause % 256, 24), (bnat q.rerun, 18), (bnat q.preempted, 17), (q.state, 0)]

/-- Ticks for which the job of slot j of context k has been pre-empted. -/
def State.preemptedTicks (s : State) (k j : Nat) : Nat :=
  let q := s.slot k j
  match s.job k with
  | some jb =>
    (match jb.preemptedAt with
    | some n => if jb.j = j && q.preempted then q.preemptedTicks + (s.clock.tick - n).toNat else q.preemptedTicks
    | none => q.preemptedTicks)
  | none => q.preemptedTicks

/-- Object o of slot j of context k (R516). -/
def State.slotValue (s : State) (k j o lo : Nat) : Nat :=
  let q := s.slot k j
  match o, lo with
  | 0, 1 => q.word
  | 0, 3 => q.launchReg.toNat
  | 0, 5 => q.sequence.toNat
  | 0, 7 => q.causeRecord.toNat
  | 1, 1 => q.image.toNat
  | 1, 3 => q.seed.toNat
  | 1, 5 => q.startStep.toNat
  | 1, 7 => q.endStep.toNat
  | 1, 9 => q.role.toNat
  | 2, 1 => q.endTick.toNat
  | 2, 3 => q.lastStep.toNat
  | 2, 5 => q.digest.toNat
  | 3, 1 => q.armedTick.toNat
  | 3, 3 => q.queueWait.toNat
  | 3, 5 => q.preemptions
  | 3, 6 => s.preemptedTicks k j
  | 3, 8 => q.steps
  | 3, 0xA => q.slowdown
  | 3, 0xB => q.lastSlow
  | _, _ => 0

/-- The value of e of watch w, as the scale table of the lowest held rank gives it (R434, R440). -/
def State.scaleValue (s : State) (k w : Nat) : Nat :=
  match s.job k with
  | none => 0
  | some j =>
    if w < (s.reg (numObj k 0) 3).toNat then
      leNat (s.rankBytes k (j.held.headD 0) (j.scaleTable + 2048 * (s.reg64 (numObj k 0) 1 % 2) + 8 * w) 4)
    else 0

/-! ## Units -/

/-- The in-service slot of a core, 0x1F when it has none (R185). -/
def State.slotNumber (s : State) (c : Nat) : Nat := ((s.podSlots (c / 18)).findIdx? (fun n => n = c % 18)).getD 0x1F

/-- Status word of a core (R185). -/
def State.coreWord (s : State) (c : Nat) : Nat :=
  let x := s.core c
  let st := if x.retired then 3 else if s.isSprout c then (if x.tile then 2 else 1) else 0
  let ctx := fun (o : Option Nat) => match o with
    | some i => ctxOfLkey i
    | none => 0
  let diag := ([x.res0, x.res1].filterMap id).any (fun i => match s.lcore i with
    | some l => l.diagnostic
    | none => false)
  packed [(c / 18, 24), (s.slotNumber c, 19), (st, 16), (bnat x.res1.isSome, 11), (bnat x.res0.isSome, 10), (bnat (x.fold ≠ []), 9),
    (bnat diag, 8), (ctx x.res1, 4), (ctx x.res0, 0)]

/-- A halt record's values (R186). -/
def HaltRec.value (r : HaltRec) (lo : Nat) : Nat :=
  match lo with
  | 1 => r.word.toNat
  | 2 => r.tick.toNat
  | 4 => r.block.toNat
  | 5 => packed [(r.context, 16), (r.lcore, 0)]
  | _ => r.detail.toNat

/-- Object o of core c (R185 to R188). -/
def State.coreValue (s : State) (c o lo n : Nat) : Nat :=
  let x := s.core c
  match o, lo with
  | 0, _ => s.coreWord c
  | 1, _ => x.halt0.value lo
  | 2, _ => x.halt1.value lo
  | 3, 1 => x.bank0.block.toNat
  | 3, 2 => x.bank0.words.length
  | 3, 3 => x.bank1.block.toNat
  | 3, 4 => x.bank1.words.length
  | 3, 5 => packed [(bnat (s.executes c 1), 1), (bnat (s.executes c 0), 0)]
  | _, _ => s.regs (coreObj c o) lo n

/-- Object 0 of port p (R385). -/
def Port.value (x : Port) (lo : Nat) : Nat :=
  match lo with
  | 1 => packed [(x.state, 26), (x.txMask.toNat, 13), (x.rxMask.toNat, 0)]
  | 2 => packed [(x.nPort, 16), (x.nCoord.toNat, 0)]
  | 3 => x.nSerial.toNat
  | _ => x.release

/-- Status words of a controller and of a CXL port (R306, R307). -/
def Controller.word (x : Controller) : Nat :=
  packed [(x.state, 24), (bnat (x.double ≠ []), 23), (x.repairs.length, 16), (x.channels.toNat, 8)]
def CxlPort.word (x : CxlPort) : Nat := packed [(x.state, 28), (x.speed, 24), (x.width, 16), (x.size / 2 ^ 30, 0)]

/-! ## The device -/

/-- Present destinations without a route (R386). -/
def State.unreachable (s : State) : Nat :=
  (s.fabric.devices.filter (fun d => d ≠ s.coord.toNat && (s.fabric.route s.coord.toNat d).isNone)).length

/-- Status of the firmware (R620). -/
def Firmware.word (f : Firmware) : Nat := packed [(f.check, 16), (f.pairs, 12), (slotNumber f.boot, 8), (f.state, 0)]

/-- A step record's values (R592). -/
def StepRec.value (r : StepRec) (lo : Nat) : Nat :=
  match lo with
  | 1 => r.word.toNat
  | 2 => r.begin_.toNat
  | 4 => r.end_.toNat
  | 6 => r.detail.toNat
  | _ => r.next

/-- A master's own objects (R539, R556, R619). -/
def Master.value (x : Master) (idx lo : Nat) : Nat :=
  match idx, lo with
  | 0x0001, 1 => x.describe.toNat
  | 0x0002, 1 => x.aTarget.toNat
  | 0x0002, 2 => x.aSpan.toNat
  | 0x0002, 3 => x.aOp.toNat
  | 0x0002, 4 => x.aInstances.toNat
  | 0x0002, 6 => packed [(x.aResult, 8), (x.aState, 0)]
  | 0x0002, 7 => x.aValue.toNat
  | 0x0002, 9 => x.aAnswered.toNat
  | 0x0002, 0xA => x.aMissing.toNat
  | 0x3020, 1 => leNat x.nonceBytes
  | 0x3020, 0xA => x.aStat
  | 0x3020, 0xB => leNat x.report
  | _, _ => 0

/-- Values of the objects of the device that have a field of their own; none for the others. -/
def State.deviceValue (s : State) (m idx lo : Nat) : Option Nat :=
  match idx, lo with
  | 0x0000, 1 => some 1
  | 0x0000, 2 => some m
  | 0x0000, 3 => some 25
  | 0x0000, 4 => some 1024
  | 0x0001, 2 => some (describe m (bits (s.master m).describe 23 8) (bits (s.master m).describe 7 0))
  | 0x0100, 1 => some 0x4548
  | 0x0100, 2 => some 0x4100
  | 0x0100, 3 => some s.ident.grade
  | 0x0100, 4 => some s.ident.stepping.toNat
  | 0x0100, 5 => some 1
  | 0x0100, 6 => some s.ident.serial.toNat
  | 0x0100, 8 => some s.ident.mac.toNat
  | 0x0100, 0xA => some s.ident.node.toNat
  | 0x0280, 5 => some s.power.thermal
  | 0x0300, 1 =>
    some (packed [((s.pods.filter (fun p => p.2.clocked)).length, 16), (s.power.memory, 10), (bnat s.throttled, 9), (bnat s.power.refclkSource, 8)])
  | 0x0300, 2 => some s.pins.millivolts
  | 0x0300, 3 => some (Config.inputPower s.clock.tick).toNat
  | 0x0310, 1 => some (packed [(s.power.step, 8), (s.power.phase, 0)])
  | 0x0310, 2 => some s.power.failed
  | 0x0310, 4 => some s.power.readyTick.toNat
  | 0x0310, 6 => some s.power.starts
  | 0x0310, 7 => some s.power.cause
  | 0x0400, _ => some s.clock.tick.toNat
  | 0x0410, 1 => some s.clock.mode
  | 0x0410, 2 => some s.clock.parent
  | 0x0410, 3 => some (BitVec.ofInt 32 s.clock.theta).toNat
  | 0x0420, 1 => some (coordWord s.fabric.coord)
  | 0x0420, 4 => some (match s.fabric.reference with
    | some r => r.2.2.toNat
    | none => 0)
  | 0x0420, 5 => some s.fabric.devices.length
  | 0x0420, 6 => some s.unreachable
  | 0x0440, 1 =>
    some (packed [(bnat s.clock.refclk, 7), (bnat s.clock.crystal, 6), (bnat s.clock.holdover, 5), (bnat s.pins.throttleN, 4), (bnat s.pins.perstN, 3)])
  | 0x0440, 2 => some s.clock.epochInterval.toNat
  | 0x0800, 1 => some (packed [(s.calib.master, 8), (s.calib.state, 0)])
  | 0x0800, 5 => some s.calibDigest.toNat
  | 0x0800, 7 => some s.calib.commits
  | 0x1000, 1 => some ((s.errors.next + (2 ^ 32 - 1)) % 2 ^ 32)
  | 0x1000, 2 => some ((match s.errors.records.getLast? with
    | some r => r.seq
    | none => 2 ^ 32 - 1) % 2 ^ 32)
  | 0x3000, 1 => some s.firmware.word
  | 0x3000, 3 => some (imageVersion s.firmware.slotA.bytes)
  | 0x3000, 5 => some (imageVersion s.firmware.slotB.bytes)
  | 0x3000, 7 => some s.firmware.security
  | 0x3001, 2 => some (match s.firmware.staging with
    | some q => q.2.length
    | none => 0)
  | 0x3100, 2 => some s.radish.version
  | 0x3100, 4 => some (s.radish.tiles.filter (fun t => !t.withdrawn)).length
  | 0x3100, 0xC => some s.oldestVisit
  | 0x3101, 3 => some (match s.radish.staging with
    | some q => q.2.length
    | none => 0)
  | 0x3101, 4 => some s.radish.result
  | 0x3101, 5 => some s.radish.refusedTile.toNat
  | 0x9900, 1 => some s.host.word.toNat
  | _, _ => none

/-- The present value of a field, as a number (R8), as master m reads it. -/
def State.value (s : State) (m idx : Nat) (f : Field) : Nat :=
  let raw := s.regs idx f.lo f.n
  if f.acc = 2 then 0
  else if 0x0110 ≤ idx && idx < 0x0118 && f.lo = 1 then
    packed [(bnat (bit s.firmware.revoked (idx - 0x0110)), 1), (bnat (bit s.firmware.valid (idx - 0x0110)), 0)]
  else if idx = 0x0200 then s.reserveValue f.lo
  else if 0x0240 ≤ idx && idx < 0x0280 then packed [((s.podSlots (idx - 0x0240)).length, 8), ((s.sprouts (idx - 0x0240)).length, 0)]
  else if 0x0321 ≤ idx && idx ≤ 0x032D then (s.stepRec (idx - 0x0320)).value f.lo
  else if 0x0810 ≤ idx && idx < 0x0AC0 then (s.calibRead m idx f.lo).toNat
  else if 0x1400 ≤ idx && idx < 0x1800 then
    match s.recordAt (idx - 0x1400) with
    | some r => leNat r.bytes
    | none => 0
  else if 0x2000 ≤ idx && idx < 0x2400 then s.contextValue ((idx - 0x2000) / 0x40) (idx % 0x40) f.lo f.n
  else if 0x2400 ≤ idx && idx < 0x2800 then s.slotValue ((idx - 0x2400) / 64) ((idx - 0x2400) / 8 % 8) (idx % 8) f.lo
  else if 0x4000 ≤ idx && idx < 0x8800 then s.coreValue ((idx - 0x4000) / 0x10) (idx % 0x10) f.lo f.n
  else if 0x9000 ≤ idx && idx < 0x9200 && idx % 0x40 = 0 then (s.port ((idx - 0x9000) / 0x40)).value f.lo
  else if 0x9200 ≤ idx && idx < 0x9800 && idx % 0x40 = 0 then (s.ctl ((idx - 0x9200) / 0x40)).word
  else if 0x9800 ≤ idx && idx < 0x9900 && idx % 0x80 = 0 then (s.cxlPort ((idx - 0x9800) / 0x80)).word
  else if 0xA000 ≤ idx && idx < 0xB000 && 0x10 ≤ idx % 0x100 && f.lo = 0xD then s.scaleValue ((idx - 0xA000) / 0x100) (idx % 0x100 - 0x10)
  else if idx = 0x0002 || idx = 0x3020 || (idx = 0x0001 && f.lo = 1) then (s.master m).value idx f.lo
  else (s.deviceValue m idx f.lo).getD raw

/-- Part i of a value: its word on the i-th sub-index from the lowest (R8). -/
def part (v i : Nat) : Word := BitVec.ofNat 32 (v / 2 ^ (32 * i))

/-- The word of a sub-entry that belongs to field f; sub-index 0 shows the highest one (R535). -/
def State.subValue (s : State) (m idx sub : Nat) (f : Field) : Word :=
  if sub = 0 then BitVec.ofNat 32 (highest (fieldsOf idx)) else part (s.value m idx f) (sub - f.lo)

end Sys2Proof.Machine
end

