-- ==== Sys2Proof/Machine/Dictionary.lean ====
section
/-! DEFINITION. Reads and writes of the dictionary: latches, held parts, the objects' own rules, and the operations of R550 on
this device (R12, R52, R53, R535, R543 to R546, R550 to R556). -/

namespace Sys2Proof.Machine

/-! ## Reads (R543) -/

/-- A record of the error log has been read by a master (R491). -/
def State.noteRead (s : State) (idx : Nat) : State :=
  if 0x1400 ≤ idx && idx < 0x1800 then
    match s.recordAt (idx - 0x1400) with
    | some r => { s with errors := { s.errors with read := insertNat r.seq s.errors.read } }
    | none => s
  else s

/-- The latch of master m. -/
def State.setLatch (s : State) (m : Nat) (l : Option Wide) : State := s.setMaster m { s.master m with latch := l }

/-- The latched word of a sub-index, if master m holds one. -/
def State.latched (s : State) (m idx lo sub : Nat) : Option Word :=
  match (s.master m).latch with
  | none => none
  | some w => if w.index = idx && w.sub = lo then (w.parts.find? (fun p => p.1 = sub)).map (fun p => p.2) else none

/-- Master m reads a sub-entry of field f: the state, and the word. Reading a lowest sub-index latches a wider value or ends the
latch of another one; reading the highest one ends the latch. -/
def State.fetchWord (s : State) (m idx sub : Nat) (f : Field) : State × Word :=
  let top := f.lo + f.n - 1
  let v := s.subValue m idx sub f
  let t := s.noteRead idx
  if sub = f.lo then
    let all := s.value m idx f
    (t.setLatch m (if f.n = 1 then none
      else some { index := idx, sub := f.lo, parts := (upto f.n).map (fun i => (f.lo + i, part all i)) }), v)
  else
    match s.latched m idx f.lo sub with
    | some w => (if sub = top then t.setLatch m none else t, w)
    | none => (t, v)

/-- Read of one sub-entry (R550, op 0x01): state, result and word. -/
def State.read32 (s : State) (m idx sub : Nat) : State × Nat × Word :=
  if !(reaches m idx) then (s, 2, 0)
  else if !(s.serves idx) then (s, 1, 0)
  else
    match fieldAt idx sub with
    | none => (s, 1, 0)
    | some f =>
      let r := s.fetchWord m idx sub f
      (r.1, 0, r.2)

/-- Read of two sub-entries in one access (R550, op 0x02). -/
def State.read64 (s : State) (m idx sub : Nat) : State × Nat × DWord :=
  match fieldAt idx sub with
  | none => let r := s.read32 m idx sub; (s, r.2.1, 0)
  | some f =>
    let a := s.read32 m idx sub
    let b := a.1.read32 m idx (sub + 1)
    if a.2.1 ≠ 0 then (s, a.2.1, 0)
    else if f.lo ≠ sub then (s, 3, 0)
    else if b.2.1 ≠ 0 then (s, b.2.1, 0)
    else (b.1, 0, BitVec.ofNat 64 (a.2.2.toNat + 2 ^ 32 * b.2.2.toNat))

/-! ## The objects' own rules -/

/-- A value within a set, or 0x05 (R552). -/
def within (ok : Bool) (f : State → State) : Rule := fun s => if ok then (f s, 0) else (s, 5)

/-- Rules of the ledger, checkpoint and shield objects of context k (R461, R462, R468, R503). -/
def contextRule (k o lo n v : Nat) : Rule :=
  let idx := ctxObj k o
  let store := fun (s : State) => if n = 2 then s.setReg64 idx lo v else s.setReg idx lo (BitVec.ofNat 32 v)
  let tier := [1, 2, 4]
  match o, lo with
  | 0x00, 1 => within true store
  | 0x00, _ => partitionRule k lo v
  | 0x24, 1 => within (v % 64 = 0) store
  | 0x24, 3 => within (v % 4096 = 0) (fun s => (store s).flushTail)
  | 0x24, 6 => within true (fun s => (store s).tryCommit k)
  | 0x25, 1 => within true (fun s => (store s).setReg idx 8 (if v = 2 ^ 64 - 1 then 0 else 1))
  | 0x25, 3 => within (tier.contains v) store
  | 0x25, 4 => within (v % 64 = 0) store
  | 0x25, 0xB => within (v = 0 || tier.contains v) store
  | 0x26, 0xA => within (tier.contains v) store
  | _, _ => within true store

/-- Rules of a slot's objects (R516 to R518). -/
def slotRule (k j o lo v : Nat) : Rule :=
  match o, lo with
  | 0, 2 => slotCommandRule k j (BitVec.ofNat 32 v)
  | 0, _ => within true (fun s => s.changeSlot k j (fun q => { q with launchReg := BitVec.ofNat 64 v }))
  | _, _ => jobFieldRule k j lo v

/-- Rules of a core's objects (R186 to R188). -/
def coreRule (c o lo n v : Nat) : Rule :=
  let idx := coreObj c o
  let w := BitVec.ofNat 32 v
  let store := fun (s : State) => if n = 2 then s.setReg64 idx lo v else s.setReg idx lo w
  match o, lo with
  | 1, _ => haltClearRule c 0 w
  | 2, _ => haltClearRule c 1 w
  | 4, 2 => within (v % 16 = 0) store
  | 4, 5 => within (1 ≤ v && v ≤ 1024) store
  | 4, 6 => one w (loadStartRule c)
  | 5, _ => one w (clearCountersRule idx 0x2C)
  | _, _ => within true store

/-- A command sub-entry whose values name commands (R552). -/
def commandRule (l : List Rule) (v : Nat) : Rule := if v = 0 then fun s => (s, 5) else (l.getD (v - 1) (fun s => (s, 5)))

/-- A nonce is written (R619). -/
def nonceRule (m v : Nat) : Rule := fun s =>
  orRefuse ((s.master m).aStat ≠ 1) s (s.setMaster m { s.master m with nonce := (upto 8).map (part v) })

/-- A write of value v to field f of object idx by master m, reach and reserved fields aside; the start of 0x0002 aside. -/
def deviceRule (m idx : Nat) (f : Field) (v : Nat) : Rule :=
  let w := BitVec.ofNat 32 v
  let store := fun (s : State) => if f.n = 2 then s.setReg64 idx f.lo v else s.setReg idx f.lo w
  match idx, f.lo with
  | 0x0001, _ => within true (fun s => s.setMaster m { s.master m with describe := w })
  | 0x0002, 1 => within true (fun s => s.setMaster m { s.master m with aTarget := w })
  | 0x0002, 2 => within true (fun s => s.setMaster m { s.master m with aSpan := w })
  | 0x0002, 3 => within true (fun s => s.setMaster m { s.master m with aOp := w })
  | 0x0002, 4 => within true (fun s => s.setMaster m { s.master m with aInstances := w })
  | 0x0300, 4 => within (4 ≤ v && v ≤ 15) store
  | 0x0300, 5 => floorRule w
  | 0x0310, 3 => commandRule [resetRule, leaveRule] v
  | 0x0420, 2 => within true (fun s =>
      { store s with fabric := { s.fabric with shape := if bit w 16 then some (BitVec.ofNat 16 v) else none } })
  | 0x0420, 3 => within true (fun s =>
      { store s with fabric := { s.fabric with anchor := if bit w 16 then some (BitVec.ofNat 16 v) else none } })
  | 0x0800, 2 => calibUnlockRule m w
  | 0x0800, 3 => calibCommitRule m
  | 0x0800, 4 => calibAbortRule m
  | 0x3000, 2 => commandRule [firmwareBeginRule m, firmwareCheckRule m, firmwareAbortRule m, activateRule, confirmRule, fallBackRule] v
  | 0x3001, 1 => firmwareDataRule m w
  | 0x3020, 1 => nonceRule m v
  | 0x3020, 9 => attestRule m w
  | 0x3101, 1 => commandRule [packageBeginRule m, packageAcceptRule m, packageAbortRule m] v
  | 0x3101, 2 => packageDataRule m w
  | _, _ => within true store

/-- The rule of field f of object idx for a write of the whole value v (R544). -/
def ruleOf (m idx : Nat) (f : Field) (v : Nat) : Rule :=
  let w := BitVec.ofNat 32 v
  if f.acc = 3 then fun s => (s.setReg idx f.lo (s.reg idx f.lo &&& ~~~w), 0)
  else if 0x0810 ≤ idx && idx < 0x0AC0 then calibWriteRule m idx f.lo w
  else if 0x2000 ≤ idx && idx < 0x2400 then contextRule ((idx - 0x2000) / 0x40) (idx % 0x40) f.lo f.n v
  else if 0x2400 ≤ idx && idx < 0x2800 then slotRule ((idx - 0x2400) / 64) ((idx - 0x2400) / 8 % 8) (idx % 8) f.lo v
  else if 0x4000 ≤ idx && idx < 0x8800 then coreRule ((idx - 0x4000) / 0x10) (idx % 0x10) f.lo f.n v
  else if 0x9000 ≤ idx && idx < 0x9200 then
    (if f.lo = 0xF then one w (clearCountersRule idx 0xE) else laneRule ((idx - 0x9000) / 0x40) w)
  else if 0x9200 ≤ idx && idx < 0x9800 then one w (clearCountersRule idx 0xD)
  else if 0x9800 ≤ idx && idx < 0x9900 then one w (clearCountersRule idx 9)
  else deviceRule m idx f v

/-! ## Aggregate reads on this device (R52, R53, R556) -/

/-- Two values of a field combined by its aggregate kind; `top` is the largest value of the access. -/
def combine (f : Field) (top a b : Nat) : Nat :=
  match f.agg with
  | 1 => min top (a + b)
  | 2 => if f.ty = 3 then (if signed 32 a < signed 32 b then b else a) else max a b
  | 3 => min a b
  | 4 => a ||| b
  | _ => a &&& b

/-- Values combined in their order. -/
def combineAll (f : Field) (top : Nat) : List Nat → Nat
  | [] => 0
  | v :: t => t.foldl (combine f top) v

/-- The largest value of an access of 32 or 64 bits. -/
def accessTop (wide : Bool) : Nat := if wide then 2 ^ 64 - 1 else 2 ^ 32 - 1

/-- The answer of this device to an aggregate read: its members are the instances (R556). -/
def State.aggregate (s : State) (m op idx sub instances : Nat) : WAnswer :=
  let no := fun (r : Nat) => answerOf op idx sub r 0
  match blockOf idx with
  | none => no 5
  | some (base, stride, count) =>
    let i0 := (idx - base) / stride
    if instances = 0 || count < i0 + instances then no 5
    else
      match fieldAt idx sub with
      | none => { no 0 with answered := 0, missing := instances }
      | some f =>
        if f.lo ≠ sub then no 3
        else if f.agg = 0 then no 6
        else
          let top := accessTop (op = 6)
          let ids := ((upto instances).map (fun i => idx + stride * i)).filter (fun i => reaches m i && s.serves i)
          { no 0 with
            value := BitVec.ofNat 64 (combineAll f top (ids.map (fun i => s.value m i f % (top + 1))))
            answered := ids.length, missing := instances - ids.length }

/-! ## The start of an aggregate read through object 0x0002 (R555, R556) -/

/-- A frame of one operation, as master m's object 0x0002 spells it. -/
def Master.aggregateFrame (x : Master) : WFrame :=
  { source := 0, seq := 0, remote := bit x.aTarget 16, target := BitVec.ofNat 16 (bits x.aTarget 15 0), span := BitVec.ofNat 16 (bits x.aSpan 31 16)
    ops := [{ op := bits x.aOp 31 24, index := bits x.aOp 23 8, sub := bits x.aOp 7 0, instances := x.aInstances.toNat, value := 0, clean := true }]
    clean := true }

/-- The device serves a frame alone: it names no other device. -/
def State.isLocal (s : State) (f : WFrame) : Bool := f.span = 0 && (!f.remote || f.target = s.coord)

/-- Describe on this device (R540, R552). -/
def State.describeOp (s : State) (m idx sub : Nat) : WAnswer :=
  match fieldAt idx sub with
  | some f => if s.serves idx && reaches m idx && f.lo ≠ sub then answerOf 7 idx sub 3 0 else answerOf 7 idx sub 0 (BitVec.ofNat 64 (describe m idx sub))
  | none => answerOf 7 idx sub 0 0

/-- The coordinates of a physical block (R47): those that a coordinate can name. -/
def blockCoords (target span : Half) : List Nat :=
  let dim := fun (i : Nat) => (upto (min (2 ^ digit span.toNat i) (16 - digit target.toNat i))).map (fun n => digit target.toNat i + n)
  (dim 0).flatMap (fun w => (dim 1).flatMap (fun x => (dim 2).flatMap (fun y => (dim 3).map (fun z => w * 4096 + x * 256 + y * 16 + z))))

/-- Bytes of a request frame's payload (R549, R550). -/
def frameBytes (f : WFrame) : List Byte :=
  leBytes 1 1 ++ leBytes 1 1 ++ leBytes 2 f.seq.toNat ++ leBytes 4 (bnat f.remote * 2 ^ 16 + f.target.toNat) ++ leBytes 4 (f.span.toNat * 2 ^ 16) ++
    leBytes 1 f.ops.length ++ leBytes 1 0 ++ leBytes 2 0 ++
    f.ops.flatMap (fun o => leBytes 1 o.op ++ leBytes 1 0 ++ leBytes 2 o.index ++ leBytes 1 o.sub ++ leBytes 1 0 ++ leBytes 2 o.instances ++
      leBytes 8 o.value.toNat)

end Sys2Proof.Machine
end

