-- ==== Sys2Proof/Machine/Serialiser.lean ====
section
/-! DEFINITION. Writes of the dictionary, the operations of frames and of BAR0, the serialiser's windows, forwarded frames,
contradictions and notices (R543 to R560). -/

namespace Sys2Proof.Machine

/-! ## Frames to other devices (R555) -/

/-- Devices that a frame is for: its target, or the block that target and span name. -/
def frameDevices (f : WFrame) : List Nat := if f.span = 0 then [f.target.toNat] else blockCoords f.target f.span

/-- An aggregate or describe operation. -/
def forGroup (o : WOp) : Bool := o.op = 5 || o.op = 6 || o.op = 7

/-- This device's answers to the operations of a frame for a group that it is in. -/
def State.groupAnswers (s : State) (m : Nat) (f : WFrame) : List WAnswer :=
  f.ops.map (fun o =>
    if o.op = 7 then s.describeOp m o.index o.sub
    else if o.op = 5 || o.op = 6 then s.aggregate m o.op o.index o.sub o.instances
    else answerOf o.op o.index o.sub 9 0)

/-- The entries of single operations when the target does not answer. -/
def unreached (f : WFrame) : List WAnswer := f.ops.map (fun o => { answerOf o.op o.index o.sub 7 0 with missing := 1 })

/-- One operation over a group: the members' values are combined, and a device without an answer counts all its instances as not
answering (R53). Describe answers for the target alone. -/
def groupEntry (f : WFrame) (answers : List (Half × Nat × List WAnswer)) (i : Nat) (o : WOp) : WAnswer :=
  let es := answers.filterMap (fun a => a.2.2[i]?)
  let no := fun (r : Nat) => answerOf o.op o.index o.sub r 0
  if o.op = 7 then
    match answers.find? (fun a => a.1 = f.target) with
    | some a => (a.2.2[i]?).getD (no 7)
    | none => no 7
  else if !(forGroup o) then no 9
  else
    let ok := es.filter (fun e => e.result = 0 && e.answered ≠ 0)
    let n := (es.map (fun e => e.answered)).sum
    let total := (frameDevices f).length * o.instances
    match es.find? (fun e => e.result ≠ 0), fieldAt o.index o.sub with
    | some e, _ => no e.result
    | none, some fd =>
      { no 0 with value := BitVec.ofNat 64 (combineAll fd (accessTop (o.op = 6)) (ok.map (fun e => e.value.toNat))), answered := n, missing := total - n }
    | none, none => { no 0 with answered := 0, missing := total }

/-- The frame result and the entries of a forwarded frame's answer. -/
def Forwarded.outcome (q : Forwarded) : Nat × List WAnswer :=
  if q.frame.span = 0 then
    match q.answers.head? with
    | some a => (a.2.1, a.2.2)
    | none => (7, unreached q.frame)
  else (0, (q.frame.ops.zipIdx).map (fun o => groupEntry q.frame q.answers o.2 o.1))

/-- An answer goes out on T1S, and is kept for its source (R551, R554). -/
def State.reply (s : State) (f : WFrame) (result : Nat) (es : List WAnswer) : State :=
  let r : WReply := { dest := f.source, kind := 2, seq := f.seq, result := result, entries := es }
  { s with serial := { s.serial with
      tx := s.serial.tx ++ [r]
      kept := ((f.source, f.seq, s.clock.tick, r) :: s.serial.kept.filter (fun k => k.1 ≠ f.source)).take 8 } }

/-- Object 0x0002 of master m shows the outcome (R556). -/
def State.objectDone (s : State) (m : Nat) (es : List WAnswer) : State :=
  match es.head? with
  | none => s
  | some e => s.setMaster m { s.master m with
      aState := 2, aResult := e.result, aValue := e.value, aAnswered := BitVec.ofNat 32 e.answered, aMissing := BitVec.ofNat 32 e.missing }

/-- A forwarded frame is done with the answers that it has. -/
def State.forwardDone (s : State) (q : Forwarded) : State :=
  let t := { s with serial := { s.serial with forwarded := s.serial.forwarded.filter (fun r => r.waiting ≠ q.waiting) } }
  if q.object then t.objectDone q.m q.outcome.2 else t.reply q.frame q.outcome.1 q.outcome.2

/-- A frame goes to its devices as dictionary requests; the master's number is the argument (log 48). A device without a route does
not answer. -/
def State.forwardFrame (s : State) (m : Nat) (f : WFrame) (object : Bool) : State :=
  let own := s.coord.toNat
  let there := (frameDevices f).filter (fun d => d ≠ own && (s.fabric.route own d).isSome)
  let sent := there.foldl (fun (r : State × List (Half × Half)) d =>
    let a := r.1.ask 0x08 (BitVec.ofNat 16 d) 0 0 (BitVec.ofNat 64 m) (frameBytes f) false (.frame m)
    (a.1, r.2 ++ [(BitVec.ofNat 16 d, a.2)])) (s, [])
  let mine := if (frameDevices f).contains own then [(s.coord, 0, s.groupAnswers m f)] else []
  let q : Forwarded := { m := m, frame := f, object := object, tick := s.clock.tick, waiting := sent.2, answers := mine }
  if sent.2 = [] then s.forwardDone q else { sent.1 with serial := { sent.1.serial with forwarded := sent.1.serial.forwarded ++ [q] } }

/-- A write to start of 0x0002 (R556). -/
def aggregateStartRule (m v : Nat) : Rule := fun s =>
  let x := s.master m
  let f := x.aggregateFrame
  if v ≠ 1 || x.aState = 1 || !(f.ops.all forGroup) then (s, 5)
  else if s.isLocal f then (s.objectDone m (s.groupAnswers m f), 0)
  else ((s.setMaster m { x with aState := 1 }).forwardFrame m f true, 0)

/-! ## Writes (R12, R544) -/

/-- The parts that master m holds for the value at `lo` of idx. -/
def State.heldParts (s : State) (m idx lo : Nat) : List (Nat × Word) :=
  match (s.master m).held.find? (fun w => w.index = idx && w.sub = lo) with
  | some w => w.parts
  | none => []

/-- Held parts without those of one value. -/
def withoutValue (l : List Wide) (idx lo : Nat) : List Wide := l.filter (fun w => !(w.index = idx && w.sub = lo))

/-- A part is held for master m. -/
def State.holdPart (s : State) (m idx sub : Nat) (f : Field) (v : Word) : State :=
  let x := s.master m
  let ps := (sub, v) :: (s.heldParts m idx f.lo).filter (fun (p : Nat × Word) => p.1 ≠ sub)
  s.setMaster m { x with held := { index := idx, sub := f.lo, parts := ps } :: withoutValue x.held idx f.lo }

/-- No master holds parts of the value any more. -/
def State.dropParts (s : State) (idx lo : Nat) : State :=
  List.foldl (fun (t : State) (p : Nat × Master) =>
    t.setMaster p.1 { p.2 with held := withoutValue p.2.held idx lo }) s s.masters

/-- The whole value that a write to the highest sub-index makes: a part that the master has not written is the present one. -/
def State.wholeValue (s : State) (m idx : Nat) (f : Field) (v : Word) : Nat :=
  let held := s.heldParts m idx f.lo
  let now := s.value m idx f
  ((upto (f.n - 1)).map (fun i =>
    (match held.find? (fun (p : Nat × Word) => p.1 = f.lo + i) with
    | some p => p.2
    | none => part now i).toNat * 2 ^ (32 * i))).sum + v.toNat * 2 ^ (32 * (f.n - 1))

/-- A whole value is checked and applied. One that is refused leaves the held parts as they are. -/
def writeWhole (m idx : Nat) (f : Field) (v : Nat) : Rule := fun s =>
  if v &&& f.rsv ≠ 0 then (s, 4)
  else
    let r := (if idx = 0x0002 && f.lo = 5 then aggregateStartRule m v else ruleOf m idx f v) s
    if r.2 = 0 && f.n ≠ 1 then (r.1.dropParts idx f.lo, 0) else r

/-- Write of one sub-entry by master m (R544, R550 op 0x03). -/
def writeRule (m idx sub : Nat) (v : Word) : Rule := fun s =>
  if !(reaches m idx) || (1 < m && idx = ctxObj (m - 1) 0) then (s, 2)
  else if !(s.serves idx) then (s, 1)
  else
    match fieldAt idx sub with
    | none => (s, 1)
    | some f =>
      if f.acc = 0 then (s, 3)
      else if sub < f.lo + f.n - 1 then (s.holdPart m idx sub f v, 0)
      else writeWhole m idx f (s.wholeValue m idx f v) s

/-- Write of two sub-entries in one access (R550 op 0x04): a refusal of either changes nothing. -/
def writeRule64 (m idx sub : Nat) (v : DWord) : Rule := fun s =>
  let a := writeRule m idx sub (v.setWidth 32) s
  let b := writeRule m idx (sub + 1) ((v >>> 32).setWidth 32) a.1
  if a.2 ≠ 0 then (s, a.2) else if b.2 ≠ 0 then (s, b.2) else b

/-! ## Operations (R550, R551) -/

/-- A sub-entry is a command sub-entry (R559). -/
def commandAt (idx sub : Nat) : Bool :=
  match fieldAt idx sub with
  | some f => isCommand f
  | none => false

/-- A write operation, noted for the contradictions of its window. -/
def State.writeOp (s : State) (m idx sub : Nat) (v : DWord) (wide : Bool) : State × WAnswer :=
  let lo : Word := v.setWidth 32
  if wide then
    let r := writeRule64 m idx sub v s
    ((r.1.noteApplied m idx sub lo r.2 (commandAt idx sub)).noteApplied m idx (sub + 1) ((v >>> 32).setWidth 32) r.2 (commandAt idx (sub + 1)),
      answerOf 4 idx sub r.2 0)
  else
    let r := writeRule m idx sub lo s
    (r.1.noteApplied m idx sub lo r.2 (commandAt idx sub), answerOf 3 idx sub r.2 0)

/-- A read operation. -/
def State.readOp (s : State) (m idx sub : Nat) (wide : Bool) : State × WAnswer :=
  if wide then
    let r := s.read64 m idx sub
    (r.1, answerOf 2 idx sub r.2.1 r.2.2)
  else
    let r := s.read32 m idx sub
    (r.1, answerOf 1 idx sub r.2.1 (r.2.2.setWidth 64))

/-- One operation of a frame on this device. Another op code is malformed (log 48). -/
def State.apply (s : State) (m : Nat) (o : WOp) : State × WAnswer :=
  match o.op with
  | 1 => s.readOp m o.index o.sub false
  | 2 => s.readOp m o.index o.sub true
  | 3 => s.writeOp m o.index o.sub o.value false
  | 4 => s.writeOp m o.index o.sub o.value true
  | 5 => (s, s.aggregate m 5 o.index o.sub o.instances)
  | 6 => (s, s.aggregate m 6 o.index o.sub o.instances)
  | 7 => (s, s.describeOp m o.index o.sub)
  | n => (s, answerOf n o.index o.sub 9 0)

/-- An operation of master m takes place while the always-on domain has supply, and its result is given to the master. -/
def State.perform (s : State) (m : Nat) (f : State → State × WAnswer) : State :=
  if s.power.alive then (f s).1.give m (f s).2 else s

/-- Meaning of READ_32 (R543, R550). -/
def execRead32 (m index sub : Nat) (s : State) : Host.Outcome State Fault Refusal :=
  onUnit (masterOk m) (s.perform m (fun t => t.readOp m index sub false))

/-- Meaning of READ_64 (R543, R550). -/
def execRead64 (m index sub : Nat) (s : State) : Host.Outcome State Fault Refusal :=
  onUnit (masterOk m) (s.perform m (fun t => t.readOp m index sub true))

/-- Meaning of WRITE_32 (R544, R550). -/
def execWrite32 (m index sub : Nat) (v : Word) (s : State) : Host.Outcome State Fault Refusal :=
  onUnit (masterOk m) (s.perform m (fun t => t.writeOp m index sub (v.setWidth 64) false))

/-- Meaning of WRITE_64 (R544, R550). -/
def execWrite64 (m index sub : Nat) (v : DWord) (s : State) : Host.Outcome State Fault Refusal :=
  onUnit (masterOk m) (s.perform m (fun t => t.writeOp m index sub v true))

/-- Meaning of AGGREGATE_READ_32 (R52, R53, R556). -/
def execAggregateRead32 (m index sub instances : Nat) (s : State) : Host.Outcome State Fault Refusal :=
  onUnit (masterOk m) (s.perform m (fun t => (t, t.aggregate m 5 index sub instances)))

/-- Meaning of AGGREGATE_READ_64 (R52, R53, R556). -/
def execAggregateRead64 (m index sub instances : Nat) (s : State) : Host.Outcome State Fault Refusal :=
  onUnit (masterOk m) (s.perform m (fun t => (t, t.aggregate m 6 index sub instances)))

/-- Meaning of DESCRIBE (R540). -/
def execDescribe (m index sub : Nat) (s : State) : Host.Outcome State Fault Refusal :=
  onUnit (masterOk m) (s.perform m (fun t => (t, t.describeOp m index sub)))

/-- Meaning of REGISTER_WRITE (R544). -/
def execRegisterWrite (m index sub : Nat) (v : Word) (s : State) : Host.Outcome State Fault Refusal :=
  onUnit (masterOk m) (s.perform m (fun t => t.writeOp m index sub (v.setWidth 64) false))

/-- Meaning of AGGREGATE_START (R556). -/
def execAggregateStart (m : Nat) (s : State) : Host.Outcome State Fault Refusal :=
  onUnit (masterOk m) (s.command m 0x0002 0x05 1 true (aggregateStartRule m 1))

/-- Meaning of PARTITION_WRITE (R510, R511, R544). -/
def execPartitionWrite (m k sub : Nat) (v : Word) (s : State) : Host.Outcome State Fault Refusal :=
  onUnit (masterOk m && decide (k < 16) && decide (2 ≤ sub ∧ sub ≤ 0xD)) (s.perform m (fun t => t.writeOp m (ctxObj k 0) sub (v.setWidth 64) false))

/-- Meaning of JOB_FIELD_WRITE (R517, R544). -/
def execJobFieldWrite (m k j sub : Nat) (v : Word) (s : State) : Host.Outcome State Fault Refusal :=
  onUnit (masterOk m && slotOk k j && decide (1 ≤ sub ∧ sub ≤ 9)) (s.perform m (fun t => t.writeOp m (slotObj k j 1) sub (v.setWidth 64) false))

/-! ## Arrivals (R545, R548, R554, R557, R558) -/

/-- Operations of an arrival. -/
def Arrival.size : Arrival → Nat
  | .frame f => f.ops.length
  | .request _ f => f.ops.length
  | .bar _ _ _ _ => 1

/-- The device holds back new operations: 1,024 of those that wait are for a later window (R558). -/
def State.holdsBack (s : State) : Bool := 2048 ≤ (s.serial.arrivals.map (fun a => a.2.2.size)).sum

/-- An arrival joins its window. -/
def State.queueArrival (s : State) (m : Nat) (a : Arrival) : State :=
  { s with serial := { s.serial with arrivals := s.serial.arrivals ++ [(s.clock.tick.toNat / 25, m, a)] } }

/-- A frame is malformed (R552). -/
def badFrame (f : WFrame) : Bool := !f.clean || f.ops = [] || 60 < f.ops.length || f.ops.any (fun o => !o.clean)

/-- The answer kept for a frame's source, when the frame repeats it in time (R554). -/
def State.repeated (s : State) (f : WFrame) : Option WReply :=
  (s.serial.kept.find? (fun k => k.1 = f.source && k.2.1 = f.seq && (s.clock.tick - k.2.2.1).toNat < 25000000)).map (fun k => k.2.2.2)

/-- Meaning of WAIZER_FRAME (R548, R549, R554, R555, R557, R558). -/
def execWaizerFrame (f : WFrame) (s : State) : Host.Outcome State Fault Refusal :=
  .next (if !s.power.alive then s
    else
      match s.repeated f with
      | some r => { s with serial := { s.serial with tx := s.serial.tx ++ [r] } }
      | none =>
        if s.holdsBack then s.bump 0x0000 0x05 1
        else if badFrame f || s.isLocal f then s.queueArrival 0 (.frame f)
        else s.forwardFrame 0 f false)

/-- Meaning of DICTIONARY_REQUEST (R541, R555): the frame of another device's master joins its window. -/
def execDictionaryRequest (p : Packet) (m : Nat) (f : WFrame) (s : State) : Host.Outcome State Fault Refusal :=
  onUnit (decide (m ≤ 1)) (s.inbound 0x08 p (fun t => if t.holdsBack then t else t.queueArrival m (.request p f)))

/-- Meaning of BAR0_READ (R545 to R547, R557, R558): the access joins its window. -/
def execBar0Read (fn offset size : Nat) (s : State) : Host.Outcome State Fault Refusal :=
  onUnit (decide (fn < 16) && decide (offset < 2 ^ 26))
    (if !(s.takesAccess fn) || s.holdsBack then s else s.queueArrival (fn + 1) (.bar false offset size 0))

/-- Meaning of BAR0_WRITE (R545, R546, R557, R558): the access joins its window. -/
def execBar0Write (fn offset size : Nat) (v : DWord) (s : State) : Host.Outcome State Fault Refusal :=
  onUnit (decide (fn < 16) && decide (offset < 2 ^ 26))
    (if !(s.takesAccess fn) || s.holdsBack then s else s.queueArrival (fn + 1) (.bar true offset size v))

/-! ## What an arrival does at its window's end -/

/-- The operations of a frame, one after another (R553). -/
def State.applyOps (s : State) (m : Nat) : List WOp → State × List WAnswer
  | [] => (s, [])
  | o :: t =>
    let a := s.apply m o
    let r := a.1.applyOps m t
    (r.1, a.2 :: r.2)

/-- A frame on this device: its result and its entries. -/
def State.serveFrame (s : State) (m : Nat) (f : WFrame) : State × Nat × List WAnswer :=
  if badFrame f then (s, 9, [])
  else if f.span ≠ 0 then (s, 0, s.groupAnswers m f)
  else
    let r := s.applyOps m f.ops
    (r.1, 0, r.2)

/-- Bytes of an answer's payload (R549, R551). -/
def answerBytes (seq : Half) (result : Nat) (es : List WAnswer) : List Byte :=
  leBytes 1 1 ++ leBytes 1 2 ++ leBytes 2 seq.toNat ++ leBytes 4 0 ++ leBytes 4 0 ++ leBytes 1 es.length ++ leBytes 1 result ++ leBytes 2 0 ++
    es.flatMap (fun e => leBytes 1 e.op ++ leBytes 1 e.result ++ leBytes 2 e.index ++ leBytes 1 e.sub ++ leBytes 3 0 ++ leBytes 8 e.value.toNat ++
      leBytes 4 e.answered ++ leBytes 4 e.missing)

/-- The entries of an answer's payload. -/
def entriesOf (bs : List Byte) : List WAnswer :=
  (upto (field bs 0xC 1)).map (fun i =>
    let o := 16 + 24 * i
    { op := field bs o 1, result := field bs (o + 1) 1, index := field bs (o + 2) 2, sub := field bs (o + 4) 1
      value := BitVec.ofNat 64 (field bs (o + 8) 8), answered := field bs (o + 16) 4, missing := field bs (o + 20) 4 })

/-- A BAR0 access by function m − 1 (R545, R546): a read completes with the value, or 0. -/
def State.barAccess (s : State) (m : Nat) (write : Bool) (offset size : Nat) (v : DWord) : State :=
  let idx := offset / 1024
  let sub := offset % 1024 / 4
  let fits := (size = 4 && offset % 4 = 0) || (size = 8 && offset % 8 = 0)
  let r := if !fits then (s, answerOf (if write then 3 else 1) idx sub 9 0)
    else if write then s.writeOp m idx sub v (size = 8)
    else s.readOp m idx sub (size = 8)
  let t := r.1.give m r.2
  if write then t else t.barAnswer (m - 1) offset 0 (leBytes size r.2.value.toNat)

/-- One arrival is applied whole. -/
def State.applyArrival (s : State) (a : Nat × Nat × Arrival) : State :=
  match a.2.2 with
  | .frame f =>
    let r := s.serveFrame a.2.1 f
    r.1.reply f r.2.1 r.2.2
  | .request p f =>
    let r := s.serveFrame a.2.1 f
    r.1.answer p 0x12 0 (answerBytes f.seq r.2.1 r.2.2)
  | .bar write offset size v => s.barAccess a.2.1 write offset size v

/-- Writes that the arrival applied are noted under the window in which it arrived. -/
def State.applyNoted (s : State) (a : Nat × Nat × Arrival) : State :=
  let n := s.serial.window.length
  let t := s.applyArrival a
  { t with serial := { t.serial with window := (t.serial.window.take n) ++ ((t.serial.window.drop n).map (fun w => { w with window := a.1 })) } }

/-! ## Window ends (R557 to R560) -/

/-- Ascending windows, and masters within a window; arrivals of one master keep their order. -/
def arrivalBefore (a b : Nat × Nat × Arrival) : Bool := a.1 < b.1 || (a.1 = b.1 && a.2.1 ≤ b.2.1)

def insertArrival (a : Nat × Nat × Arrival) : List (Nat × Nat × Arrival) → List (Nat × Nat × Arrival)
  | [] => [a]
  | b :: t => if arrivalBefore a b then a :: b :: t else b :: insertArrival a t

def sortArrivals (l : List (Nat × Nat × Arrival)) : List (Nat × Nat × Arrival) := l.foldr insertArrival []

/-- The arrivals that fit within n operations, whole, and those that wait. -/
def fitArrivals : Nat → List (Nat × Nat × Arrival) → List (Nat × Nat × Arrival) × List (Nat × Nat × Arrival)
  | _, [] => ([], [])
  | n, a :: t =>
    if a.2.2.size ≤ n then
      let r := fitArrivals (n - a.2.2.size) t
      (a :: r.1, r.2)
    else ([], a :: t)

/-- Two writes of one window contradict each other (R559). -/
def Applied.contradicts (a b : Applied) : Bool :=
  a.window = b.window && a.index = b.index && a.sub = b.sub && a.m ≠ b.m && (a.value ≠ b.value || (a.command && b.command))

/-- The contradictions of some writes, one for each window and sub-entry: the first and the last of its accesses. -/
def contradictions (l : List Applied) : List (Applied × Applied) :=
  let hit := l.filter (fun a => l.any (fun b => a.contradicts b))
  let heads := hit.foldl (fun (h : List Applied) a =>
    if h.any (fun b => a.window = b.window && a.index = b.index && a.sub = b.sub) then h else h ++ [a]) []
  heads.filterMap (fun a =>
    ((hit.filter (fun b => a.window = b.window && a.index = b.index && a.sub = b.sub)).getLast?).map (fun b => (a, b)))

/-- A contradiction is recorded in object 0x0030 (R559). -/
def State.noteContradiction (s : State) (c : Applied × Applied) : State :=
  let t := (s.bump 0x0030 1 1).setReg64 0x0030 2 (25 * c.1.window)
  let t := t.setReg 0x0030 4 (BitVec.ofNat 32 (packed [(c.1.index, 8), (c.1.sub, 0)]))
  let t := t.setReg 0x0030 5 (BitVec.ofNat 32 (packed [(c.1.m, 8), (c.2.m, 0)]))
  (t.setReg 0x0030 6 (BitVec.ofNat 32 (packed [(c.1.result, 8), (c.2.result, 0)]))).alarm 0x0030 7 0

/-- The contradictions of the windows that have ended. -/
def State.settleWindows (s : State) : State :=
  let done := fun (a : Applied) => 25 * (a.window + 1) ≤ s.clock.tick.toNat
  (contradictions (s.serial.window.filter done)).foldl State.noteContradiction
    { s with serial := { s.serial with window := s.serial.window.filter (fun a => !(done a)) } }

/-- The notice of a window in which an alarm bit rose (R560). -/
def State.notice (s : State) : State :=
  let late := match s.serial.noticed with
    | some n => 25000 ≤ (s.clock.tick - n).toNat
    | none => true
  let t := { s with serial := { s.serial with risen := [] } }
  if s.serial.risen = [] || !(bit (s.reg 0x0031 3) 0) || !late then t
  else
    let r : WReply :=
      { dest := BitVec.ofNat 48 (s.reg64 0x0031 1), kind := 3, seq := 0, result := 0
        entries := (s.serial.risen.eraseDups).map (fun a => answerOf 2 a.1 a.2 0 ((s.reg a.1 a.2).setWidth 64)) }
    { t with serial := { t.serial with tx := t.serial.tx ++ [r], noticed := some s.clock.tick } }

/-- The window whose end comes next: that of the oldest arrival, or the present one. -/
def State.endingWindow (s : State) : Nat := s.serial.arrivals.foldl (fun n a => min n a.1) (s.clock.tick.toNat / 25)

/-- Arrivals whose window has ended, in their order (R557). -/
def State.dueArrivals (s : State) : List (Nat × Nat × Arrival) :=
  sortArrivals (s.serial.arrivals.filter (fun a => 25 * (a.1 + 1) ≤ s.clock.tick.toNat))

/-- Meaning of SERIALISER_WINDOW_END (R557 to R560): time goes on to the end of the window. -/
def execSerialiserWindowEnd (s : State) : Host.Outcome State Fault Refusal :=
  .next (if !s.power.alive then s
    else
      let t := s.until (25 * (s.endingWindow + 1))
      let r := fitArrivals 1024 t.dueArrivals
      let rest := r.2 ++ t.serial.arrivals.filter (fun a => !(25 * (a.1 + 1) ≤ t.clock.tick.toNat))
      let u := r.1.foldl State.applyNoted { t with serial := { t.serial with arrivals := rest } }
      (u.settleWindows).notice)

/-! ## Answers of other devices (R555) -/

/-- An answer of a device to a forwarded frame. -/
def State.frameAnswer (s : State) (p : Packet) : State :=
  match s.serial.forwarded.find? (fun q => q.waiting.contains (p.src, p.tag)) with
  | none => s.discarded p
  | some q =>
    let r := { q with waiting := q.waiting.erase (p.src, p.tag), answers := q.answers ++ [(p.src, field p.data 0xD 1, entriesOf p.data)] }
    let rest := s.serial.forwarded.filter (fun x => x.waiting ≠ q.waiting)
    let t := { s with serial := { s.serial with forwarded := rest } }
    if r.waiting = [] then t.forwardDone r else { t with serial := { t.serial with forwarded := rest ++ [r] } }

/-- Meaning of DICTIONARY_ANSWER (R555). -/
def execDictionaryAnswer (p : Packet) (s : State) : Host.Outcome State Fault Refusal :=
  .next (s.inbound 0x12 p (fun t => t.answered p true (fun u why =>
    match why with
    | .frame _ => u.frameAnswer p
    | _ => u)))

/-- Meaning of REMOTE_ANSWER_TIMEOUT (R53, R555): time goes on to 1,000 ticks after the frame was forwarded. -/
def execRemoteAnswerTimeout (tag : Half) (s : State) : Host.Outcome State Fault Refusal :=
  .next (match s.serial.forwarded.find? (fun q => q.waiting.any (fun w => w.2 = tag)) with
    | none => s
    | some q => if s.power.alive then (s.until (q.tick.toNat + 1000)).forwardDone q else s)

end Sys2Proof.Machine
end

