-- ==== Sys2Proof/Machine/Dispatch.lean ====
section
/-! DEFINITION. One arm for each row of spec/opcode_table.json: the call of its meaning. -/

namespace Sys2Proof.Machine

def exec (i : Instr) (s : State) : Host.Outcome State Fault Refusal :=
  match i with
  | .loop c w => Sys2Proof.Machine.execLoop c w s
  | .jump c w => Sys2Proof.Machine.execJump c w s
  | .bankswap c w => Sys2Proof.Machine.execBankswap c w s
  | .yield c w => Sys2Proof.Machine.execYield c w s
  | .halt c w => Sys2Proof.Machine.execHalt c w s
  | .mwt c w => Sys2Proof.Machine.execMwt c w s
  | .mstr c w => Sys2Proof.Machine.execMstr c w s
  | .mout c w => Sys2Proof.Machine.execMout c w s
  | .mswap c w => Sys2Proof.Machine.execMswap c w s
  | .tileSwapEffect c => Sys2Proof.Machine.execTileSwapEffect c s
  | .passAdmitted c => Sys2Proof.Machine.execPassAdmitted c s
  | .activityRise c a => Sys2Proof.Machine.execActivityRise c a s
  | .activityFall c a => Sys2Proof.Machine.execActivityFall c a s
  | .moutRowRead c a => Sys2Proof.Machine.execMoutRowRead c a s
  | .bankLoadDone c bank => Sys2Proof.Machine.execBankLoadDone c bank s
  | .tokenWaitEnd c => Sys2Proof.Machine.execTokenWaitEnd c s
  | .vadd c w => Sys2Proof.Machine.execVadd c w s
  | .vaddSubtract c w => Sys2Proof.Machine.execVaddSubtract c w s
  | .vfma c w => Sys2Proof.Machine.execVfma c w s
  | .vfmaMultiply c w => Sys2Proof.Machine.execVfmaMultiply c w s
  | .vfmaSubtract c w => Sys2Proof.Machine.execVfmaSubtract c w s
  | .vdiv c w => Sys2Proof.Machine.execVdiv c w s
  | .vsqrt c w => Sys2Proof.Machine.execVsqrt c w s
  | .vcvt c w => Sys2Proof.Machine.execVcvt c w s
  | .vtab c w => Sys2Proof.Machine.execVtab c w s
  | .vtabd c w => Sys2Proof.Machine.execVtabd c w s
  | .vtabdProduct c w => Sys2Proof.Machine.execVtabdProduct c w s
  | .vred c w => Sys2Proof.Machine.execVred c w s
  | .vredRows c w => Sys2Proof.Machine.execVredRows c w s
  | .vtopk c w => Sys2Proof.Machine.execVtopk c w s
  | .vrngInt c w => Sys2Proof.Machine.execVrngInt c w s
  | .vrngUniform c w => Sys2Proof.Machine.execVrngUniform c w s
  | .vrngThreshold c w => Sys2Proof.Machine.execVrngThreshold c w s
  | .vscale c w => Sys2Proof.Machine.execVscale c w s
  | .dcopy c w => Sys2Proof.Machine.execDcopy c w s
  | .dxpose c w => Sys2Proof.Machine.execDxpose c w s
  | .dgath c w => Sys2Proof.Machine.execDgath c w s
  | .dgathPooledSum c w => Sys2Proof.Machine.execDgathPooledSum c w s
  | .dgathPooledMean c w => Sys2Proof.Machine.execDgathPooledMean c w s
  | .dscat c w => Sys2Proof.Machine.execDscat c w s
  | .dscatAdd c w => Sys2Proof.Machine.execDscatAdd c w s
  | .dpref c w => Sys2Proof.Machine.execDpref c w s
  | .prefetchRefetchDone c => Sys2Proof.Machine.execPrefetchRefetchDone c s
  | .dremBroadcast c w => Sys2Proof.Machine.execDremBroadcast c w s
  | .dremRead c w => Sys2Proof.Machine.execDremRead c w s
  | .dremShardedGather c w => Sys2Proof.Machine.execDremShardedGather c w s
  | .dremFabricPooledGather c w => Sys2Proof.Machine.execDremFabricPooledGather c w s
  | .dremShardedScatterAdd c w => Sys2Proof.Machine.execDremShardedScatterAdd c w s
  | .dremParameterGather c w => Sys2Proof.Machine.execDremParameterGather c w s
  | .sarm c w => Sys2Proof.Machine.execSarm c w s
  | .sarr c w => Sys2Proof.Machine.execSarr c w s
  | .sarrArrive c w => Sys2Proof.Machine.execSarrArrive c w s
  | .sarrWait c w => Sys2Proof.Machine.execSarrWait c w s
  | .ssig c w => Sys2Proof.Machine.execSsig c w s
  | .swait c w => Sys2Proof.Machine.execSwait c w s
  | .sdec c w => Sys2Proof.Machine.execSdec c w s
  | .barrierArrival k r l b => Sys2Proof.Machine.execBarrierArrival k r l b s
  | .barrierRelease k r l => Sys2Proof.Machine.execBarrierRelease k r l s
  | .semaphoreRequest k r q => Sys2Proof.Machine.execSemaphoreRequest k r q s
  | .semaphoreGrant k r l => Sys2Proof.Machine.execSemaphoreGrant k r l s
  | .readyTake k r g => Sys2Proof.Machine.execReadyTake k r g s
  | .memoryRequest q => Sys2Proof.Machine.execMemoryRequest q s
  | .slotFreeNotice unit bank => Sys2Proof.Machine.execSlotFreeNotice unit bank s
  | .refreshWindow h bank errors => Sys2Proof.Machine.execRefreshWindow h bank errors s
  | .refreshRateChange h temperature => Sys2Proof.Machine.execRefreshRateChange h temperature s
  | .cxlLinkDown n => Sys2Proof.Machine.execCxlLinkDown n s
  | .cxlExpanderEvent n first second => Sys2Proof.Machine.execCxlExpanderEvent n first second s
  | .hostCompletionTimeout tag => Sys2Proof.Machine.execHostCompletionTimeout tag s
  | .bar2Access fn offset length data => Sys2Proof.Machine.execBar2Access fn offset length data s
  | .selfRefreshEntry => Sys2Proof.Machine.execSelfRefreshEntry s
  | .memoryGroupWake => Sys2Proof.Machine.execMemoryGroupWake s
  | .floorTick => Sys2Proof.Machine.execFloorTick s
  | .fecBlockReceived p b => Sys2Proof.Machine.execFecBlockReceived p b s
  | .nakRepeat p => Sys2Proof.Machine.execNakRepeat p s
  | .blockRelease p => Sys2Proof.Machine.execBlockRelease p s
  | .laneRequest p weak sprout => Sys2Proof.Machine.execLaneRequest p weak sprout s
  | .equaliserAdapted p => Sys2Proof.Machine.execEqualiserAdapted p s
  | .laneReady p sprout => Sys2Proof.Machine.execLaneReady p sprout s
  | .laneSwitch p n mask => Sys2Proof.Machine.execLaneSwitch p n mask s
  | .laneSwitchApply p => Sys2Proof.Machine.execLaneSwitchApply p s
  | .maskChange p n mask => Sys2Proof.Machine.execMaskChange p n mask s
  | .laneFailure p lane => Sys2Proof.Machine.execLaneFailure p lane s
  | .laneWindowEnd p => Sys2Proof.Machine.execLaneWindowEnd p s
  | .trainingBurst p => Sys2Proof.Machine.execTrainingBurst p s
  | .linkTraining p => Sys2Proof.Machine.execLinkTraining p s
  | .linkInService p latency => Sys2Proof.Machine.execLinkInService p latency s
  | .identity p serial stepping port held anchored coord anchor shape => Sys2Proof.Machine.execIdentity p serial stepping port held anchored coord anchor shape s
  | .referenceCandidate p serial anchored coord => Sys2Proof.Machine.execReferenceCandidate p serial anchored coord s
  | .linkRecord p coord version ends => Sys2Proof.Machine.execLinkRecord p coord version ends s
  | .discoveryEnd => Sys2Proof.Machine.execDiscoveryEnd s
  | .departureOrder m => Sys2Proof.Machine.execDepartureOrder m s
  | .leaveNotice p coord tick => Sys2Proof.Machine.execLeaveNotice p coord tick s
  | .departurePortsIdle => Sys2Proof.Machine.execDeparturePortsIdle s
  | .packageSlice p length offset bytes => Sys2Proof.Machine.execPackageSlice p length offset bytes s
  | .timestampExchange => Sys2Proof.Machine.execTimestampExchange s
  | .timestampRequest p t1 => Sys2Proof.Machine.execTimestampRequest p t1 s
  | .timestampReply p t1 t2 t3 => Sys2Proof.Machine.execTimestampReply p t1 t2 t3 s
  | .tickEdgeCorrection => Sys2Proof.Machine.execTickEdgeCorrection s
  | .packetForward q p => Sys2Proof.Machine.execPacketForward q p s
  | .packetUnanswered dest tag => Sys2Proof.Machine.execPacketUnanswered dest tag s
  | .routeChangeResume dest => Sys2Proof.Machine.execRouteChangeResume dest s
  | .read p => Sys2Proof.Machine.execRead p s
  | .write p => Sys2Proof.Machine.execWrite p s
  | .partialWrite p => Sys2Proof.Machine.execPartialWrite p s
  | .scatterAdd p fmt terms => Sys2Proof.Machine.execScatterAdd p fmt terms s
  | .broadcastDelivery p => Sys2Proof.Machine.execBroadcastDelivery p s
  | .parameterGather p => Sys2Proof.Machine.execParameterGather p s
  | .prefetchWatch p => Sys2Proof.Machine.execPrefetchWatch p s
  | .dictionaryRequest p m f => Sys2Proof.Machine.execDictionaryRequest p m f s
  | .readData p => Sys2Proof.Machine.execReadData p s
  | .completion p => Sys2Proof.Machine.execCompletion p s
  | .dictionaryAnswer p => Sys2Proof.Machine.execDictionaryAnswer p s
  | .errorAnswer p => Sys2Proof.Machine.execErrorAnswer p s
  | .generationNotice p => Sys2Proof.Machine.execGenerationNotice p s
  | .barrierDeviceArrival p => Sys2Proof.Machine.execBarrierDeviceArrival p s
  | .barrierReleaseMessage p => Sys2Proof.Machine.execBarrierReleaseMessage p s
  | .remoteSemaphoreSignal p => Sys2Proof.Machine.execRemoteSemaphoreSignal p s
  | .nodeOperand p n => Sys2Proof.Machine.execNodeOperand p n s
  | .nodeOperandSecondTree p n => Sys2Proof.Machine.execNodeOperandSecondTree p n s
  | .rootOperand p second => Sys2Proof.Machine.execRootOperand p second s
  | .updateSlotFreed k n => Sys2Proof.Machine.execUpdateSlotFreed k n s
  | .readyNotice p => Sys2Proof.Machine.execReadyNotice p s
  | .coordinatorDeadline k g => Sys2Proof.Machine.execCoordinatorDeadline k g s
  | .decision p => Sys2Proof.Machine.execDecision p s
  | .release p => Sys2Proof.Machine.execRelease p s
  | .versionPush p => Sys2Proof.Machine.execVersionPush p s
  | .completionReport p => Sys2Proof.Machine.execCompletionReport p s
  | .commitNotice p => Sys2Proof.Machine.execCommitNotice p s
  | .commitTick k => Sys2Proof.Machine.execCommitTick k s
  | .ratioPartial p => Sys2Proof.Machine.execRatioPartial p s
  | .checkpointWriteDone k ok => Sys2Proof.Machine.execCheckpointWriteDone k ok s
  | .rankMap k j entries => Sys2Proof.Machine.execRankMap k j entries s
  | .acceptanceNotice k j src sequence => Sys2Proof.Machine.execAcceptanceNotice k j src sequence s
  | .launchConfirmation k j tick => Sys2Proof.Machine.execLaunchConfirmation k j tick s
  | .cancel k j cause => Sys2Proof.Machine.execCancel k j cause s
  | .ledgerRecord k src bytes => Sys2Proof.Machine.execLedgerRecord k src bytes s
  | .watchPartials k src step counts => Sys2Proof.Machine.execWatchPartials k src step counts s
  | .tapSums k src step sums => Sys2Proof.Machine.execTapSums k src step sums s
  | .endNotice k src last => Sys2Proof.Machine.execEndNotice k src last s
  | .doneNotice k tick last digest => Sys2Proof.Machine.execDoneNotice k tick last digest s
  | .teardown k cause coord => Sys2Proof.Machine.execTeardown k cause coord s
  | .replicaDigest k replica step digest => Sys2Proof.Machine.execReplicaDigest k replica step digest s
  | .agreement k step agree => Sys2Proof.Machine.execAgreement k step agree s
  | .statusQuery k src sequence => Sys2Proof.Machine.execStatusQuery k src sequence s
  | .statusAnswer k j state tick last digest => Sys2Proof.Machine.execStatusAnswer k j state tick last digest s
  | .replayOrder k u v replica => Sys2Proof.Machine.execReplayOrder k u v replica s
  | .replayDigests k src step ranks => Sys2Proof.Machine.execReplayDigests k src step ranks s
  | .acceptanceBegin k j => Sys2Proof.Machine.execAcceptanceBegin k j s
  | .launchDecision k j => Sys2Proof.Machine.execLaunchDecision k j s
  | .fastClockStart k j => Sys2Proof.Machine.execFastClockStart k j s
  | .launch k j => Sys2Proof.Machine.execLaunch k j s
  | .jobResume k => Sys2Proof.Machine.execJobResume k s
  | .controlCoreRetired n => Sys2Proof.Machine.execControlCoreRetired n s
  | .radishTileStart c tile => Sys2Proof.Machine.execRadishTileStart c tile s
  | .radishTileEnd a b => Sys2Proof.Machine.execRadishTileEnd a b s
  | .coreOverdue c => Sys2Proof.Machine.execCoreOverdue c s
  | .podClockStart p => Sys2Proof.Machine.execPodClockStart p s
  | .podClockStop p => Sys2Proof.Machine.execPodClockStop p s
  | .sag millivolts => Sys2Proof.Machine.execSag millivolts s
  | .saveComplete => Sys2Proof.Machine.execSaveComplete s
  | .supplyQualified => Sys2Proof.Machine.execSupplyQualified s
  | .powerOnReset => Sys2Proof.Machine.execPowerOnReset s
  | .startUp f => Sys2Proof.Machine.execStartUp f s
  | .startupStepTimeout unit => Sys2Proof.Machine.execStartupStepTimeout unit s
  | .startupRetry => Sys2Proof.Machine.execStartupRetry s
  | .statusQueryTimeout k j => Sys2Proof.Machine.execStatusQueryTimeout k j s
  | .resetNAssert => Sys2Proof.Machine.execResetNAssert s
  | .resetNDeassert => Sys2Proof.Machine.execResetNDeassert s
  | .resetCommand m => Sys2Proof.Machine.execResetCommand m s
  | .leaveManagementOnly m => Sys2Proof.Machine.execLeaveManagementOnly m s
  | .watchdog => Sys2Proof.Machine.execWatchdog s
  | .perstNAssert => Sys2Proof.Machine.execPerstNAssert s
  | .perstNDeassert => Sys2Proof.Machine.execPerstNDeassert s
  | .functionLevelReset k => Sys2Proof.Machine.execFunctionLevelReset k s
  | .powerStateChange fn d3 => Sys2Proof.Machine.execPowerStateChange fn d3 s
  | .throttleNAssert => Sys2Proof.Machine.execThrottleNAssert s
  | .throttleNDeassert => Sys2Proof.Machine.execThrottleNDeassert s
  | .throttleStuck => Sys2Proof.Machine.execThrottleStuck s
  | .thermalLevel1Entry pods devices => Sys2Proof.Machine.execThermalLevel1Entry pods devices s
  | .thermalLevel2Entry pods inlet => Sys2Proof.Machine.execThermalLevel2Entry pods inlet s
  | .thermalLevelExit pods devices => Sys2Proof.Machine.execThermalLevelExit pods devices s
  | .refclkLoss => Sys2Proof.Machine.execRefclkLoss s
  | .epochEdge phase => Sys2Proof.Machine.execEpochEdge phase s
  | .epochAbsent => Sys2Proof.Machine.execEpochAbsent s
  | .waizerFrame f => Sys2Proof.Machine.execWaizerFrame f s
  | .remoteAnswerTimeout tag => Sys2Proof.Machine.execRemoteAnswerTimeout tag s
  | .serialiserWindowEnd => Sys2Proof.Machine.execSerialiserWindowEnd s
  | .read32 m index sub => Sys2Proof.Machine.execRead32 m index sub s
  | .read64 m index sub => Sys2Proof.Machine.execRead64 m index sub s
  | .write32 m index sub v => Sys2Proof.Machine.execWrite32 m index sub v s
  | .write64 m index sub v => Sys2Proof.Machine.execWrite64 m index sub v s
  | .aggregateRead32 m index sub instances => Sys2Proof.Machine.execAggregateRead32 m index sub instances s
  | .aggregateRead64 m index sub instances => Sys2Proof.Machine.execAggregateRead64 m index sub instances s
  | .describe m index sub => Sys2Proof.Machine.execDescribe m index sub s
  | .bar0Read fn offset size => Sys2Proof.Machine.execBar0Read fn offset size s
  | .bar0Write fn offset size v => Sys2Proof.Machine.execBar0Write fn offset size v s
  | .registerWrite m index sub v => Sys2Proof.Machine.execRegisterWrite m index sub v s
  | .aggregateStart m => Sys2Proof.Machine.execAggregateStart m s
  | .partitionWrite m k sub v => Sys2Proof.Machine.execPartitionWrite m k sub v s
  | .jobFieldWrite m k j sub v => Sys2Proof.Machine.execJobFieldWrite m k j sub v s
  | .arm m k j => Sys2Proof.Machine.execArm m k j s
  | .withdraw m k j => Sys2Proof.Machine.execWithdraw m k j s
  | .abort m k j => Sys2Proof.Machine.execAbort m k j s
  | .clear m k j => Sys2Proof.Machine.execClear m k j s
  | .instructionLoadStart m c => Sys2Proof.Machine.execInstructionLoadStart m c s
  | .haltRecordClear m c slot => Sys2Proof.Machine.execHaltRecordClear m c slot s
  | .coreCounterClear m c => Sys2Proof.Machine.execCoreCounterClear m c s
  | .controllerCounterClear m n => Sys2Proof.Machine.execControllerCounterClear m n s
  | .cxlCounterClear m n => Sys2Proof.Machine.execCxlCounterClear m n s
  | .portCounterClear m p => Sys2Proof.Machine.execPortCounterClear m p s
  | .laneAction m p lane => Sys2Proof.Machine.execLaneAction m p lane s
  | .laneRetire m p lane => Sys2Proof.Machine.execLaneRetire m p lane s
  | .floorWrite m v => Sys2Proof.Machine.execFloorWrite m v s
  | .packageBegin m => Sys2Proof.Machine.execPackageBegin m s
  | .packageData m v => Sys2Proof.Machine.execPackageData m v s
  | .packageAccept m => Sys2Proof.Machine.execPackageAccept m s
  | .packageAbort m => Sys2Proof.Machine.execPackageAbort m s
  | .calibrationUnlock m v => Sys2Proof.Machine.execCalibrationUnlock m v s
  | .calibrationCommit m => Sys2Proof.Machine.execCalibrationCommit m s
  | .calibrationAbort m => Sys2Proof.Machine.execCalibrationAbort m s
  | .calibrationLockTimeout => Sys2Proof.Machine.execCalibrationLockTimeout s
  | .firmwareBegin m => Sys2Proof.Machine.execFirmwareBegin m s
  | .firmwareData m v => Sys2Proof.Machine.execFirmwareData m v s
  | .firmwareCheck m => Sys2Proof.Machine.execFirmwareCheck m s
  | .firmwareAbort m => Sys2Proof.Machine.execFirmwareAbort m s
  | .activate m => Sys2Proof.Machine.execActivate m s
  | .handoverSwitch => Sys2Proof.Machine.execHandoverSwitch s
  | .managementSwitch => Sys2Proof.Machine.execManagementSwitch s
  | .handoverTimeout => Sys2Proof.Machine.execHandoverTimeout s
  | .confirm m => Sys2Proof.Machine.execConfirm m s
  | .fallBack m => Sys2Proof.Machine.execFallBack m s
  | .trialLimitExpiry => Sys2Proof.Machine.execTrialLimitExpiry s
  | .attestationCommand m v => Sys2Proof.Machine.execAttestationCommand m v s
  | .undefinedOpcode c w => Sys2Proof.Machine.execUndefinedOpcode c w s
  | .armAnswer k r l b => Sys2Proof.Machine.execArmAnswer k r l b s
  | .cxlReadResponse n a => Sys2Proof.Machine.execCxlReadResponse n a s
  | .cxlLinkTrained n speed width => Sys2Proof.Machine.execCxlLinkTrained n speed width s
  | .hostReadCompletion tag a => Sys2Proof.Machine.execHostReadCompletion tag a s
  | .pcieLinkDown => Sys2Proof.Machine.execPcieLinkDown s
  | .holdUpBankEmpty => Sys2Proof.Machine.execHoldUpBankEmpty s
  | .calibrationCommitDone => Sys2Proof.Machine.execCalibrationCommitDone s
  | .attestationReportReady m => Sys2Proof.Machine.execAttestationReportReady m s
  | .inletAbove45C inlet => Sys2Proof.Machine.execInletAbove45C inlet s

end Sys2Proof.Machine
end

