-- ==== Sys2Proof/Safety.lean ====
section
/-! DEFINITION. What a safe run is, and the terms that the statements use: a core that issues, an instruction that nothing
holds back, a command that names an existing unit. -/

namespace Sys2Proof

/-- The outcome is a next state. -/
def completes {σ φ ρ : Type} : Host.Outcome σ φ ρ → Bool
  | .next _ => true
  | _ => false

/-- From `s`, no one of `n` steps stops. -/
def safeRun (n : Nat) (s : Machine.State) : Prop := completes (core.run n s) = true

namespace Machine

/-- Logical core i, whose state is x, holds the issue slot of core c, is ready, and its next instruction lies in its
block (R151, R167). -/
def State.issues (s : State) (c i : Nat) (x : LCore) : Bool :=
  decide (c < 1152) && decide (s.current c = some (i, x)) && decide (x.status = .ready) && decide (x.index < s.blockLen c x)

/-- Word w finds room in its engine's queue, its registers written and a token free, and no instruction of the context is
under way (R152, R154, R156). -/
def State.unhindered (s : State) (c : Nat) (x : LCore) (w : IWord) (regs : List Nat) (u : Uses) : Bool :=
  !s.queueFull c w && !regs.any x.pendingS && !x.tokensFull u && x.held.isEmpty && x.mq.isEmpty && x.fetches.isEmpty && x.prefetches.isEmpty

/-- The other context slot of core c is empty (R173). -/
def State.alone (s : State) (c : Nat) : Bool := decide ((s.core c).res (1 - (s.core c).issuing) = none)

/-- The state once a word that does not branch has left the issue stage: the program counter stands at the next instruction,
and a core in diagnostic mode counts it (R148, R188). -/
def State.issued (s : State) (c i : Nat) (x : LCore) : State := (s.setLcore i (some x.next)).diag c 1 1 x.diagnostic

/-- The instruction as it is sent to its engine (R149, R152). -/
def LCore.sent (x : LCore) (w : IWord) (u : Uses) : Held :=
  { w := w, bank := x.bank, index := x.index, block := x.block, step := x.step, a := x.a, sr := x.sr, uses := u }

/-- No one enters or leaves the core with logical core i, and nothing of it is loaded anew: an instruction-block boundary
changes nothing (R168, R170, R431, R528). -/
def State.stays (s : State) (c i : Nat) (x : LCore) : Bool :=
  decide ((s.core c).entering = []) && decide ((s.core c).fold.length ≤ 1) &&
    match s.job x.k with
    | none => true
    | some j => !(s.slot x.k x.j).preempted && !(j.moves.any (fun m => m.1 = i)) && !(j.reload.contains i)

/-- The one element that a scalar destination gets: the exact result r converted as the word asks (R64, R75, R206). -/
def State.scalarOut (s : State) (x : LCore) (w : IWord) (r : Exact) : ElemW :=
  let v := convert (scalarFmt w 109) (bits w 75 74) (bit w 73) (rand32 (s.seedOf x.k) x.step 0xFFFFFFFF (bits w 72 57) 0 0) r
  { row := 0, col := 0, bits := v.bits, scale := 127, cls := v.cls }

/-- The state after a word has issued and written its scalar destination: the S register and its counter set change in the
logical core, and the program counter (R138, R148, R206). -/
def State.scalarDone (s : State) (c i : Nat) (x : LCore) (w : IWord) (e : ElemW) : State :=
  (s.issued c i x).setLcore i (some ((x.next.countAll (bits w 56 52) [e]).setS (bits w 112 109) (BitVec.ofNat 32 e.bits)))

/-- The elements that a tensor destination of at most one group gets from exact results f n (R64, R75, R206). -/
def State.tensorOut (s : State) (x : LCore) (w : IWord) (f : Nat → Exact) : List ElemW :=
  let d := x.desc w 109
  d.convAll (bits w 75 74) (bit w 73) (fun n => rand32 (s.seedOf x.k) x.step d.tensor (bits w 72 57) 0 (BitVec.ofNat 64 n))
    ((upto d.count).map (fun n => ((d.place n).1, (d.place n).2, f n)))

/-- Nothing of the logical core but its program counter, data SRAM, counter sets and tap sums has changed. -/
def LCore.sameButData (x y : LCore) : Prop :=
  y = { x with index := y.index, sram := y.sram, sets := y.sets, taps := y.taps }

/-- Command i carries out vector word w on core c where `ok` holds: one exact result f n for each destination element, each through one
conversion. A scalar destination gets f 0; a tensor destination of up to 64 elements in data SRAM gets f n in element n, and
its other bytes, every other register and device memory stay. -/
def Delivers (i : Instr) (c : Nat) (w : IWord) (regs : List Nat) (mist : State → LCore → List Mistake) (ok : LCore → Prop)
    (uses : LCore → Uses) (f : State → LCore → Nat → Exact) : Prop :=
  ∀ (s : State) (k : Nat) (x : LCore), s.issues c k x = true → s.alone c = true → lowest (mist s x) = none → ok x →
    s.unhindered c x w regs (uses x) = true →
    (isTensor w 109 = false → exec i s = .next (s.scalarDone c k x w (s.scalarOut x w (f s x 0)))) ∧
    (isTensor w 109 = true → (x.desc w 109).tier = 0 → (x.desc w 109).count ≤ 64 →
      ∃ y, exec i s = .next ((s.issued c k x).setLcore k (some y)) ∧ x.sameButData y ∧ y.index = x.index + 1 ∧
        y.sram = ((x.desc w 109).byteWrites (s.tensorOut x w (f s x))).foldl (fun m p => putByte m p.1 p.2) x.sram)

/-- A job's other work keeps it running: logical core j of the same context, other than i, has not halted. -/
def State.jobGoesOn (s : State) (i : Nat) (x : LCore) : Prop := ∃ j y, j ≠ i ∧ (j, some y) ∈ s.lcores ∧ y.k = x.k ∧ y.status ≠ .halted

/-- Of the work on the device nothing has changed: memory, cores, slots, jobs, barriers and semaphores. -/
def State.sameWork (s t : State) : Prop :=
  t.mem = s.mem ∧ t.lcores = s.lcores ∧ t.cores = s.cores ∧ t.slots = s.slots ∧ t.jobs = s.jobs ∧ t.barriers = s.barriers ∧ t.sems = s.sems

/-- Of the links and the torus nothing has changed. -/
def State.sameFabric (s t : State) : Prop := t.ports = s.ports ∧ t.fabric = s.fabric

/-- One error record has been entered between s and t: kind, effect, unit and details are these, and its sequence is the
next one (R488, R491). -/
def State.entered (s t : State) (kind effect : Nat) (unit : Word) (d0 d1 : DWord) : Prop :=
  t.errors.next = s.errors.next + 1 ∧ ∃ r rest, t.errors.records = r :: rest ∧ r.kind = kind ∧ r.effect = effect ∧
    r.unit = unit ∧ r.detail0 = d0 ∧ r.detail1 = d1 ∧ r.seq = s.errors.next

/-- Packet p, of type ty, is at its destination and its check holds (R340, R341). -/
def State.arrives (s : State) (ty : Nat) (p : Packet) : Bool := decide (p.ptype = ty) && decide (p.dest = s.coord) && p.good

/-- The memory group is active: it serves requests at once (R571). -/
def State.memoryActive (s : State) : Bool := decide (s.power.memory = 2)

/-- The result that master m has got last (R546, R551). -/
def State.resultFor (s : State) (m : Nat) : Option WAnswer := (s.serial.results.find? (fun r => r.1 = m)).map (fun r => r.2)

/-- An order of master m to index idx is heard: the master exists and reaches the index, and the device has supply and serves
it (R542, R587, R642). -/
def State.hears (s : State) (m idx : Nat) : Bool := masterOk m && reaches m idx && s.serves idx && s.power.alive

/-- The write op of master m to sub-entry sub of idx is done: t is u but for the serialiser's record of the write, and the master
has got result 0 (R546, R551, R559). -/
def State.obeyed (u t : State) (m op idx sub : Nat) : Prop :=
  t = { u with
    serial := { u.serial with
      window := t.serial.window
      results := t.serial.results } } ∧
  t.resultFor m = some (answerOf op idx sub 0 0)

/-- The operation op of master m on sub-entry sub of idx is refused with result r: nothing but the record of the refusal, with its
alarm bit, has changed (R546, R552). -/
def State.declined (s t : State) (m op idx sub r : Nat) : Prop :=
  t = { s with
    serial := t.serial
    dict := t.dict
    host := t.host } ∧
  (∀ i j, j < 256 → i ≠ 0x0010 + (m - 1) → t.reg i j = s.reg i j) ∧ t.resultFor m = some (answerOf op idx sub r 0)

/-- Every clock but the always-on clock has stopped: of the work nothing is left but what the journal holds (R10, R588). -/
def State.stopped (s t : State) : Prop :=
  t.lcores = [] ∧ t.mem = [] ∧ t.jobs = [] ∧ t.barriers = [] ∧ t.sems = [] ∧ t.slots = journal s.slots ∧ t.power.control = false ∧
    t.clock.tick = s.clock.tick

/-- Bit i of an alarm sub-entry is set (R542). -/
def State.alarmed (s : State) (idx sub i : Nat) : Prop := bit (s.reg idx sub) i = true

end Machine

end Sys2Proof
end

