-- ==== Sys2Proof/Certificates/Slice0/Obligations.lean ====
section
/-! DEFINITION. The statements for the provers, each in terms of Host.Core's step, the meanings that exec calls and the
operations that they share. -/

open Sys2Proof Sys2Proof.Machine

/-- For every command i, queue rest and state s, step of s with i at the front of its queue is exec of i on s with the
queue's rest. -/
def Obligations.StepRunsFrontCommand : Prop :=
  ∀ (i : Instr) (rest : List Instr) (s : State), step { s with pending := i :: rest } = exec i { s with pending := rest }

/-- With nothing pending, a step answers a next state in which, while the always-on domain has supply, the global
clock is one arithmetic cycle (1/60 tick) further, and without supply nothing changes. Memory, logical cores, ports,
slots and the queue stay. That an empty queue lets one cycle pass is the model's choice (log 14). -/
def Obligations.IdleStepPassesOneCycle : Prop :=
  ∀ s : State, s.pending = [] →
    ∃ t, step s = .next t ∧ t.pending = [] ∧ t.mem = s.mem ∧ t.lcores = s.lcores ∧ t.ports = s.ports ∧ t.slots = s.slots ∧
      (s.power.alive = true → t.now % (60 * 2 ^ 64) = (s.now + 1) % (60 * 2 ^ 64)) ∧ (s.power.alive = false → t = s)

/-- For every state and every well-formed command (its unit numbers exist), exec answers a next state, never a fault
or a refusal; a memory request must name an address of GDDR7 or of a CXL window (R266). No command is refused in any
state. -/
def Obligations.EveryWellFormedCommandCompletes : Prop :=
  (∀ (i : Instr) (s : State), i.wellFormed = true → (∀ q, i = .memoryRequest q → (requestUnit q.addr.toNat).isSome = true) →
    ∃ t, exec i s = .next t) ∧
  (∀ (i : Instr) (s : State) (r : Refusal), exec i s ≠ .refused r)

/-- Whatever the command and the state, when exec answers a next state its queue is the one that was there: only step
takes a command from the queue, and nothing the device does puts one in. -/
def Obligations.CommandsLeaveTheQueue : Prop :=
  ∀ (i : Instr) (s t : State), exec i s = .next t → t.pending = s.pending

/-- In every state whose memory lists strictly rising addresses and no byte equal to what an unlisted address reads
as, a step that answers a next state leaves a memory of that form: equal contents stay equal data. -/
def Obligations.EveryStepKeepsMemoryCanonical : Prop :=
  ∀ s t : State, Memory.wf s.mem = true → step s = .next t → Memory.wf t.mem = true

/-- The reset state's memory is in canonical form, lists no byte, and every address reads as the fill byte, which is
the model's choice (log 5); no job, no logical core and no pending command exists. The throttle duty reads 8 eighths,
core-test control reads 3, and for every context the running slot reads 0xFF, the newest checkpoint step all ones and
the last agreed step all ones. -/
def Obligations.ResetStateIsCanonicalAndShowsStatedValues : Prop :=
  Memory.wf State.reset.mem = true ∧ (∀ a, getByte State.reset.mem a = memFill a) ∧ State.reset.pending = [] ∧
    (∀ i, State.reset.lcore i = none) ∧ (∀ k, State.reset.job k = none) ∧
    State.reset.reg 0x0300 0x04 = 8 ∧ State.reset.reg 0x3100 0x01 = 3 ∧
    ∀ k < 16, State.reset.reg (ctxObj k 0x01) 0x01 = 0xFF ∧ State.reset.reg64 (ctxObj k 0x25) 0x01 = 2 ^ 64 - 1 ∧
      State.reset.reg64 (ctxObj k 0x26) 0x0F = 2 ^ 64 - 1

/-- In every state, a step that answers a next state leaves the manufactured identity (serial number, MAC address,
stepping, grade) as it was. -/
def Obligations.IdentityNeverChanges : Prop :=
  ∀ s t : State, step s = .next t →
    t.ident.serial = s.ident.serial ∧ t.ident.mac = s.ident.mac ∧ t.ident.stepping = s.ident.stepping ∧ t.ident.grade = s.ident.grade

/-- After a write of bytes bs at device-local address a, the bytes from a on read as bs, every other byte reads as
before, a memory in canonical form stays so, and every live prefetch entry whose tier-1 or tier-2 source the write
touches is one generation further, saturating. -/
def Obligations.DeviceWriteReadsBack : Prop :=
  ∀ (s : State) (a : Nat) (bs : List Byte),
    getBytes (s.devWrite a bs).mem a bs.length = bs ∧
    (∀ b, b < a ∨ a + bs.length ≤ b → getByte (s.devWrite a bs).mem b = getByte s.mem b) ∧
    (Memory.wf s.mem = true → Memory.wf (s.devWrite a bs).mem = true) ∧
    (swf (fun _ => (none : Option LCore)) s.lcores = true → ∀ i x, s.lcore i = some x → ∃ y, (s.devWrite a bs).lcore i = some y ∧
      y.prefetches = x.prefetches.map (fun p => p.bump (granules a bs.length)))

/-- Adding the same terms to an entry in any order gives the same entry, flags included; and while the exact sum of
finite terms of at least 2^-300 stays within the 640-bit finite part, the finite part is that sum. -/
def Obligations.ExactSumIgnoresOrder : Prop :=
  (∀ (e : Entry) (vs ws : List Val), vs.Perm ws → e.addAll vs = e.addAll ws) ∧
  (∀ (e : Entry) (vs : List Val), (∀ v ∈ vs, ∃ s m x, v = .fin s m x) →
    -(2 ^ 639) ≤ e.m.toInt + (vs.map Val.scaled).sum → e.m.toInt + (vs.map Val.scaled).sum < 2 ^ 639 →
    (e.addAll vs).m.toInt = e.m.toInt + (vs.map Val.scaled).sum)

/-- For every 64 data bytes and every error confined to one data symbol the decoder names that symbol as the corrected
one and the delivered data are the written data; without an error the read is clean. -/
def Obligations.MemoryCodeCorrectsOneSymbol : Prop :=
  (∀ (i : Nat) (e : Byte), i < 64 → e ≠ 0 → eccDecode [(i, e)] = .corrected i ∧
    ∀ data : List Byte, data.length = 64 → eccData data [(i, e)] = data) ∧
  (∀ data : List Byte, eccDecode [] = .clean ∧ eccData data [] = data)

/-- Counting n events on a 64-bit counter leaves min(2^64 - 1, old + n) there, and on a 32-bit counter min(2^32 - 1,
old + n); no other dictionary register and no other state changes. -/
def Obligations.CountersSaturate : Prop :=
  ∀ (s : State) (idx sub n : Nat), sub < 255 →
    (s.bump64 idx sub n).reg64 idx sub = min (2 ^ 64 - 1) (s.reg64 idx sub + n) ∧
    ((s.bump idx sub n).reg idx sub).toNat = min (2 ^ 32 - 1) ((s.reg idx sub).toNat + n) ∧
    (∀ i j, dkey i j ≠ dkey idx sub → (s.bump idx sub n).reg i j = s.reg i j) ∧
    (∀ i j, dkey i j ≠ dkey idx sub → dkey i j ≠ dkey idx (sub + 1) → (s.bump64 idx sub n).reg i j = s.reg i j) ∧
    (s.bump64 idx sub n) = { s with dict := (s.bump64 idx sub n).dict } ∧ (s.bump idx sub n) = { s with dict := (s.bump idx sub n).dict }

/-- For a core that issues the word without mistakes and whose S register is not pending. LOOP with latched or fresh
count n and counter l: while l + 1 < n it counts, holds the counter, adds the steps to its A registers and goes to its
target; else it frees the counter at 0, takes l steps back and goes on. JUMP goes to its target when its condition on
the signed S register holds (0 always, 1 zero, 2 not zero, 3 negative, 4 positive), else on. S registers, data SRAM
and device memory stay. -/
def Obligations.LoopAndJumpMoveTheProgramCounter : Prop :=
  (∀ (s : State) (c i : Nat) (x : LCore) (w : IWord), s.issues c i x = true → opcode w = 0x01 → lowest (loopMistakes s c w x) = none →
    (bit w 107 = true → x.pendingS (bits w 106 103) = false) →
    ∃ y, exec (.loop c w) s = .next ((s.setLcore i (some y)).diag c 1 1 x.diagnostic) ∧
      y = { x with index := y.index, a := y.a, lc := y.lc, loops := y.loops } ∧
      (∀ n, n = ((x.loop (bits w 119 118)).elim (loopCount w x) (fun h => h.2)) →
        ((x.getL (bits w 119 118)).toNat + 1 < n → y.index = bits w 117 108 ∧ y.getL (bits w 119 118) = x.getL (bits w 119 118) + 1 ∧
          y.loop (bits w 119 118) = some (x.index, n) ∧ y.a = (loopStep w (fun d => d) x).a) ∧
        (n ≤ (x.getL (bits w 119 118)).toNat + 1 → y.index = x.index + 1 ∧ y.getL (bits w 119 118) = 0 ∧
          y.loop (bits w 119 118) = none ∧ y.a = (loopStep w (fun d => 0 - d * (x.getL (bits w 119 118)).setWidth 64) x).a)) ∧
      (∀ n, n ≠ bits w 119 118 → y.getL n = x.getL n ∧ y.loop n = x.loop n)) ∧
  (∀ (s : State) (c i : Nat) (x : LCore) (w : IWord), s.issues c i x = true → opcode w = 0x02 → lowest (jumpMistakes s c w x) = none →
    (bits w 109 107 ≠ 0 → x.pendingS (bits w 106 103) = false) →
    ∀ v : Int, v = int32 (x.getS (bits w 106 103)) →
    exec (.jump c w) s = .next ((s.setLcore i (some { x with
      index := if bits w 109 107 = 0 ∨ (bits w 109 107 = 1 ∧ v = 0) ∨ (bits w 109 107 = 2 ∧ v ≠ 0) ∨ (bits w 109 107 = 3 ∧ v < 0) ∨
        (bits w 109 107 = 4 ∧ 0 < v) then bits w 119 110 else x.index + 1 })).diag c 1 1 x.diagnostic))

/-- On a core that the context has for itself and that no boundary changes, BANKSWAP to block b held whole by the
inactive bank goes on at its instruction 0 with every loop counter free and 0. YIELD of a lone context goes on and
keeps the issue slot; with a ready context in the other slot it gives the issue slot to it and stays ready. HALT of a
lone context whose job has other work records reason 0x00 with address, tick and names in the core's halt record
unless one is valid, enters no error record, and the logical core is halted at its instruction. BANK_LOAD_DONE puts
the loaded words and the block number into the bank when no context waits for the block. -/
def Obligations.BoundariesHaltsAndBankLoads : Prop :=
  (∀ (s : State) (c i : Nat) (x : LCore) (w : IWord), s.issues c i x = true → opcode w = 0x03 → lowest (bankswapMistakes s c w x) = none →
    s.alone c = true → s.stays c i x = true → x.bank < 2 →
    ((s.core c).bank (1 - x.bank)).block = BitVec.ofNat 32 (bits w 119 88) → ((s.core c).bank (1 - x.bank)).words ≠ [] →
    ((s.core c).bank (1 - x.bank)).loading = none →
    ∃ t, exec (.bankswap c w) s = .next t ∧ t.lcore i = some { x with
      bank := 1 - x.bank, index := 0, block := BitVec.ofNat 32 (bits w 119 88), loops := [], lc := [] } ∧ t.mem = s.mem ∧ t.errors = s.errors) ∧
  (∀ (s : State) (c i : Nat) (x : LCore) (w : IWord), s.issues c i x = true → opcode w = 0x04 → lowest (reservedBits w []) = none →
    s.alone c = true → s.stays c i x = true →
    ∃ t, exec (.yield c w) s = .next t ∧ t.lcore i = some x.next ∧ (t.core c).issuing = (s.core c).issuing ∧ t.mem = s.mem) ∧
  (∀ (s : State) (c i j : Nat) (x y : LCore) (w : IWord), s.issues c i x = true → opcode w = 0x04 → lowest (reservedBits w []) = none →
    s.stays c i x = true → (s.core c).issuing < 2 → (s.core c).res (1 - (s.core c).issuing) = some j → j ≠ i → s.lcore j = some y → y.status = .ready →
    ∃ t, exec (.yield c w) s = .next t ∧ t.lcore i = some x.next ∧ t.lcore j = some y ∧ (t.core c).issuing = 1 - (s.core c).issuing ∧
      t.mem = s.mem) ∧
  (∀ (s : State) (c i : Nat) (x : LCore) (w : IWord), s.issues c i x = true → opcode w = 0x05 → lowest (reservedBits w []) = none →
    s.alone c = true → (s.core c).fold.length ≤ 1 → s.jobGoesOn i x →
    ∃ t, exec (.halt c w) s = .next t ∧ t.lcore i = some { x with status := .halted } ∧ t.errors = s.errors ∧ t.mem = s.mem ∧
      (((s.core c).halt ((s.core c).slotOf i)).valid = false → (t.core c).halt ((s.core c).slotOf i) =
        { valid := true, reason := 0, bank := x.bank, index := x.index, tick := s.clock.tick, block := x.block, context := x.k, lcore := x.l, detail := 0 }) ∧
      (((s.core c).halt ((s.core c).slotOf i)).valid = true → (t.core c).halt ((s.core c).slotOf i) = (s.core c).halt ((s.core c).slotOf i))) ∧
  (∀ (s : State) (c bank n a : Nat) (b : Word), c < 1152 → bank < 2 → ((s.core c).bank bank).loading = some (b, a, n) →
    (∀ i x, ((s.core c).res0 = some i ∨ (s.core c).res1 = some i) → s.lcore i = some x → x.status ≠ .atBank b) →
    ∃ t, exec (.bankLoadDone c bank) s = .next t ∧ (t.core c).bank bank = { block := b, words := s.wordsAt a n } ∧
      (t.core c).bank (1 - bank) = (s.core c).bank (1 - bank) ∧ t.lcores = s.lcores ∧ t.mem = s.mem)

/-- When a core's next word has mistakes, the command is the halt with the lowest reason code and its detail, at the
instruction's address; an undefined opcode is such a mistake with reason 0x02 and the opcode as detail; a program
counter beyond the block is one with reason 0x06. Shown for one word of each engine and for the undefined opcodes. -/
def Obligations.MistakenWordsHaltTheCore : Prop :=
  (∀ (s : State) (c i : Nat) (x : LCore) (w : IWord), s.issues c i x = true → definedOpcode (opcode w) = false →
    exec (.undefinedOpcode c w) s = .next (s.mistake c i x.here (opcode w) 0x02 (opcode w))) ∧
  (∀ (s : State) (c i : Nat) (x : LCore) (w : IWord) (m : Mistake), s.issues c i x = true →
    (opcode w = 0x01 → lowest (loopMistakes s c w x) = some m → exec (.loop c w) s = .next (s.mistake c i x.here 0x01 m.1 m.2)) ∧
    (opcode w = 0x11 → lowest (mstrMistakes w x) = some m → exec (.mstr c w) s = .next (s.mistake c i x.here 0x11 m.1 m.2)) ∧
    (opcode w = 0x22 → lowest (elemMistakes (s.sharing c) w x [98, 87] [] 0) = some m →
      exec (.vdiv c w) s = .next (s.mistake c i x.here 0x22 m.1 m.2)) ∧
    (opcode w = 0x30 → lowest (s.dcopyMistakes c w x) = some m → exec (.dcopy c w) s = .next (s.mistake c i x.here 0x30 m.1 m.2)) ∧
    (opcode w = 0x40 → lowest (s.sarmMistakes w x) = some m → exec (.sarm c w) s = .next (s.mistake c i x.here 0x40 m.1 m.2))) ∧
  (∀ (s : State) (c i : Nat) (x : LCore) (w : IWord), c < 1152 → s.current c = some (i, x) → x.status = .ready → s.blockLen c x ≤ x.index →
    opcode w = 0x05 → exec (.halt c w) s = .next (s.mistake c i { bank := x.bank, index := s.blockLen c x - 1, block := x.block }
      (opcode (((s.core c).bank x.bank).words.getD (s.blockLen c x - 1) 0)) 0x06 (s.blockLen c x))) ∧
  (∀ l : List Mistake, ∀ m, lowest l = some m → m ∈ l ∧ ∀ n ∈ l, m.1 ≤ n.1)

/-- A matrix word without mistakes that nothing holds back leaves the issue stage. MWT's tile is loaded into its
array's shadow side; MSTR's passes, row by row and slice by slice, MOUT's rows and MSWAP's swap join the engine's
order. Device memory and all other registers stay. -/
def Obligations.MatrixWordsJoinTheirOrder : Prop :=
  (∀ (s : State) (c i : Nat) (x : LCore) (w : IWord), s.issues c i x = true → opcode w = 0x10 → lowest (mwtMistakes w x) = none →
    s.unhindered c x w [] (mwtUses w x) = true →
    ∃ t y, exec (.mwt c w) s = .next t ∧ t.lcore i = some y ∧ y.tile (bits w 119 119) true = some (x.readTile (x.sent w (mwtUses w x))) ∧
      y.tile (bits w 119 119) false = x.tile (bits w 119 119) false ∧ y.mq = [] ∧ y.index = x.index + 1 ∧
      y = { x with index := y.index, tiles := y.tiles, loads := y.loads } ∧ t.mem = s.mem) ∧
  (∀ (s : State) (c i : Nat) (x : LCore) (w : IWord), s.issues c i x = true → opcode w = 0x11 → lowest (mstrMistakes w x) = none →
    s.unhindered c x w [] (mstrUses w x) = true →
    exec (.mstr c w) s = .next ((s.issued c i x).setLcore i (some { x.next with
      mq := (upto (bits w 104 99)).flatMap (fun j =>
        ((slicePasses (x.desc w 105).fmt (((arraysOf w).filterMap (fun a => (x.tile a false).map (fun t => t.fmt))).headD 0)).zipIdx).map
          (fun p => MItem.pass (x.sent w (mstrUses w x)) (bits w 98 93 + j) p.1.1 p.1.2 (p.2 = 0))) }))) ∧
  (∀ (s : State) (c i : Nat) (x : LCore) (w : IWord), s.issues c i x = true → opcode w = 0x12 → lowest (moutMistakes (s.sharing c) w x) = none →
    s.unhindered c x w (if bits w 76 75 = 0 then [] else [bits w 55 52]) (moutUses w x) = true →
    exec (.mout c w) s = .next ((s.issued c i x).setLcore i (some { x.next with
      mq := (upto (bits w 112 107)).map (fun j => MItem.out (x.sent w (moutUses w x)) (bits w 118 113 + j)
        ((x.tile (bits w 119 119) false).elim 64 (fun t => (shapeDims t.shape).2))) }))) ∧
  (∀ (s : State) (c i : Nat) (x : LCore) (w : IWord), s.issues c i x = true → opcode w = 0x13 → lowest (mswapMistakes w) = none →
    s.unhindered c x w [] {} = true →
    exec (.mswap c w) s = .next ((s.issued c i x).setLcore i (some { x.next with mq := [.swap (bits w 119 118)] })))

/-- Whether a pass takes the fast path or the wide one, and whatever it moves to spill slots or the drain area, each
entry of its row below the tile's width has afterwards the value of the old entry with the pass's terms added, and
every other entry keeps its value. -/
def Obligations.PassAddsExactTerms : Prop :=
  ∀ (x : LCore) (other : List (Nat × Nat)) (a row fmt sa sb : Nat) (t : Tile), x.tile a false = some t → a < 2 → row < 32 →
    (∀ col, col < (shapeDims t.shape).2 → ((x.passArray other a row fmt sa sb).core.entry (ekey a row col)).value =
      ((x.entry (ekey a row col)).addAll (passTerms fmt x.streamed t sa sb col)).value) ∧
    (∀ n, (∀ col, col < (shapeDims t.shape).2 → n ≠ ekey a row col) →
      ((x.passArray other a row fmt sa sb).core.entry n).value = (x.entry n).value)

/-- With the matrix engine of a lone logical core: a swap whose arrays nothing earlier names exchanges the active and
shadow tiles of its arrays once their loads are complete; a first pass whose rows no prefetch covers is admitted when
the credits reach 8; the ramp of an array rises by one while a pass waits and falls by one while none does, after the
cycles that R132 asks; a readable MOUT row is converted and written, the clock going on to the cycle that allows it.
-/
def Obligations.MatrixEventsRun : Prop :=
  (∀ (s : State) (c i arr : Nat) (x : LCore), c < 1152 → matrixOwner s (s.core c) = some i → s.lcore i = some x → x.mq = [.swap arr] →
    exec (.tileSwapEffect c) s = .next (State.doSwap (s.passCycles (((upto 2).filter (fun a => arr.testBit a)).foldl (fun m a => max m (x.loadsOf a).1) 0 - s.now)) c i x 0 arr) ∧
    ∀ a < 2, (((upto 2).filter (fun a => arr.testBit a)).foldl LCore.swapTiles x).tile a false = (if arr.testBit a then x.tile a true else x.tile a false) ∧
      (((upto 2).filter (fun a => arr.testBit a)).foldl LCore.swapTiles x).tile a true = (if arr.testBit a then x.tile a false else x.tile a true)) ∧
  (∀ (s : State) (c i row sa sb : Nat) (x : LCore) (h : Held) (first : Bool), c < 1152 → matrixOwner s (s.core c) = some i → s.lcore i = some x →
    x.mq.head? = some (.pass h row sa sb first) → x.prefetches = [] →
    ((arraysOf h.w).any (fun a => ((s.core c).ramp a).lam = 0 && ((s.core c).ramp a).credit < 8)) = false →
    exec (.passAdmitted c) s = .next (((s.setLcore i (some x)).passCycles ((arraysOf h.w).foldl (fun m a => max m ((s.core c).ramp a).until) (s.core c).stall)).admitRow
      c i x h row sa sb first)) ∧
  (∀ (s : State) (c a : Nat), c < 1152 → a < 2 → passWaits s (s.core c) a = true → ((s.core c).ramp a).lam < 8 →
    ∃ t, exec (.activityRise c a) s = .next t ∧ ∀ u, u = s.passCycles (4 - ((s.core c).ramp a).still) →
      ((t.core c).ramp a).lam = ((u.core c).ramp a).lam + 1 ∧ ((t.core c).ramp a).still = 0 ∧ t.mem = u.mem) ∧
  (∀ (s : State) (c a : Nat), c < 1152 → a < 2 → passWaits s (s.core c) a = false → 0 < ((s.core c).ramp a).lam →
    ∃ t, exec (.activityFall c a) s = .next t ∧ ∀ u, u = s.passCycles (max (32 - ((s.core c).ramp a).idle) (4 - ((s.core c).ramp a).still)) →
      ((t.core c).ramp a).lam = ((u.core c).ramp a).lam - 1 ∧ ((t.core c).ramp a).still = 0 ∧ t.mem = u.mem) ∧
  (∀ (s : State) (c a i row n : Nat) (x : LCore) (h : Held), c < 1152 → a < 2 → matrixOwner s (s.core c) = some i → s.lcore i = some x →
    x.mq = [.out h row n] → bits h.w 119 119 = a → (row = bits h.w 118 113 → lowest (moutLate x h) = none) →
    exec (.moutRowRead c a) s = .next ((s.passCycles (max ((s.core c).conv a) (sget (fun _ => 0) x.rowAt (a * 32 + row) - s.now))).outRow c i x 0 h a row n))

/-- VADD delivers a + b, its op 1 a - b, VFMA a × b + c, its op 1 a × b and op 2 a × b - c, VDIV a / b, VSQRT the root
of a, VSCALE a × 2^b, VRNG the generator's word as INT32, as a fraction or compared with a threshold, and VCVT between
two formats the value: each exact result through one conversion, to an S register or to up to 64 elements of a tensor
in data SRAM, everything else unchanged. -/
def Obligations.VectorWordsDeliverOneConversion : Prop :=
  ∀ (c : Nat) (w : IWord),
    (opcode w = 0x20 → vecOp w ≠ 1 → Delivers (.vadd c w) c w (vecRegs w [109, 98, 87]) (fun s x => elemMistakes (s.sharing c) w x [98, 87] [] 1) (fun _ => True)
      (fun x => elemUses w x [98, 87]) (fun _ x n => addOp (x.valOf w 98 n) (x.valOf w 87 n))) ∧
    (opcode w = 0x20 → vecOp w = 1 → Delivers (.vaddSubtract c w) c w (vecRegs w [109, 98, 87]) (fun s x => elemMistakes (s.sharing c) w x [98, 87] [] 1) (fun _ => True)
      (fun x => elemUses w x [98, 87]) (fun _ x n => addOp (x.valOf w 98 n) (x.valOf w 87 n).negate)) ∧
    (opcode w = 0x21 → vecOp w ≠ 1 → vecOp w ≠ 2 → Delivers (.vfma c w) c w (vecRegs w [109, 98, 87, 76])
      (fun s x => elemMistakes (s.sharing c) w x [98, 87, 76] [] 2) (fun _ => True) (fun x => elemUses w x [98, 87, 76])
      (fun _ x n => fmaOp (x.valOf w 98 n) (x.valOf w 87 n) (x.valOf w 76 n))) ∧
    (opcode w = 0x21 → vecOp w = 1 → Delivers (.vfmaMultiply c w) c w (vecRegs w [109, 98, 87]) (fun s x => elemMistakes (s.sharing c) w x [98, 87] [] 2) (fun _ => True)
      (fun x => elemUses w x [98, 87]) (fun _ x n => mulOp (x.valOf w 98 n) (x.valOf w 87 n))) ∧
    (opcode w = 0x21 → vecOp w = 2 → Delivers (.vfmaSubtract c w) c w (vecRegs w [109, 98, 87, 76])
      (fun s x => elemMistakes (s.sharing c) w x [98, 87, 76] [] 2) (fun _ => True) (fun x => elemUses w x [98, 87, 76])
      (fun _ x n => fmaOp (x.valOf w 98 n) (x.valOf w 87 n) (x.valOf w 76 n).negate)) ∧
    (opcode w = 0x22 → Delivers (.vdiv c w) c w (vecRegs w [109, 98, 87]) (fun s x => elemMistakes (s.sharing c) w x [98, 87] [] 0) (fun _ => True)
      (fun x => elemUses w x [98, 87]) (fun _ x n => divOp (x.valOf w 98 n) (x.valOf w 87 n))) ∧
    (opcode w = 0x23 → Delivers (.vsqrt c w) c w (vecRegs w [109, 98]) (fun s x => elemMistakes (s.sharing c) w x [98] [] 0) (fun _ => True)
      (fun x => elemUses w x [98]) (fun _ x n => sqrtOp (x.valOf w 98 n))) ∧
    (opcode w = 0x2A → Delivers (.vscale c w) c w (vecRegs w [109, 98, 87]) (fun s x => elemMistakes (s.sharing c) w x [98, 87] [] 0) (fun _ => True)
      (fun x => elemUses w x [98, 87])
      (fun _ x n => scaleOp (x.valOf w 98 n) (signed 32 (convInt 7 1 true 0 (x.valOf w 87 n).exact).bits))) ∧
    (opcode w = 0x29 → vecOp w ≠ 1 → vecOp w ≠ 2 → Delivers (.vrngInt c w) c w (vecRegs w [109]) (fun s x => elemMistakes (s.sharing c) w x [] [] 2) (fun _ => True)
      (fun x => elemUses w x []) (fun s x n => (Val.ofInt (int32 (s.drawWord x (x.sent w (elemUses w x [])) n)) 0).exact)) ∧
    (opcode w = 0x29 → vecOp w = 1 → Delivers (.vrngUniform c w) c w (vecRegs w [109]) (fun s x => elemMistakes (s.sharing c) w x [] [] 2) (fun _ => True)
      (fun x => elemUses w x []) (fun s x n => .fin false (s.drawWord x (x.sent w (elemUses w x [])) n).toNat 1 (-32))) ∧
    (opcode w = 0x29 → vecOp w = 2 → Delivers (.vrngThreshold c w) c w (vecRegs w [109, 98]) (fun s x => elemMistakes (s.sharing c) w x [98] [] 2) (fun _ => True)
      (fun x => elemUses w x [98])
      (fun s x n => .fin false (if (s.drawWord x (x.sent w (elemUses w x [98])) n).toNat < x.bitsOf w 98 n then 1 else 0) 1 0)) ∧
    (opcode w = 0x24 → Delivers (.vcvt c w) c w (vecRegs w [109, 98])
      (fun s x => elemMistakes (s.sharing c) w x [98] [] 0) (fun x => x.fmtOf w 98 ≠ x.fmtOf w 109)
      (fun x => elemUses w x [98]) (fun _ x n => (x.valOf w 98 n).exact))

/-- A VCVT of a scalar into an S register of the same format copies the 32 bits, whatever they encode; other
registers, data SRAM and device memory stay. -/
def Obligations.ConversionWithinAFormatCopies : Prop :=
  ∀ (s : State) (c i : Nat) (x : LCore) (w : IWord), s.issues c i x = true → s.alone c = true → opcode w = 0x24 →
    lowest (elemMistakes (s.sharing c) w x [98] [] 0) = none → s.unhindered c x w (vecRegs w [109, 98]) (elemUses w x [98]) = true →
    isTensor w 109 = false → isTensor w 98 = false → x.fmtOf w 98 = x.fmtOf w 109 →
    ∃ y, exec (.vcvt c w) s = .next ((s.issued c i x).setLcore i (some y)) ∧
      y.getS (bits w 112 109) = x.getS (bits w 101 98) ∧ (∀ n, n ≠ bits w 112 109 → y.getS n = x.getS n) ∧
      y = { x with index := x.index + 1, sr := y.sr, sets := y.sets }

/-- VTAB delivers f(x) and VTABD f'(x) of the table that the word names, and VTABD op 1 f'(x) × g, the first NaN
operand first: operand a as binary32, each result through one conversion, when the table's bytes are valid. The ROM
tables' bytes are free values (log 9); the statement holds for every value of them. -/
def Obligations.TableWordsDeliverTheTable : Prop :=
  ∀ (c : Nat) (w : IWord),
    (opcode w = 0x25 → Delivers (.vtab c w) c w (vecRegs w [109, 98]) (fun s x => tabMistakes (s.sharing c) w x [98] 0) (fun x => lowest (tabLate x w) = none)
      (fun x => tabUses w x [98]) (fun _ x n => (tableVal (x.table w) (toB32 (x.valOf w 98 n).exact)).exact)) ∧
    (opcode w = 0x26 → vecOp w ≠ 1 → Delivers (.vtabd c w) c w (vecRegs w [109, 98]) (fun s x => tabMistakes (s.sharing c) w x [98] 1) (fun x => lowest (tabLate x w) = none)
      (fun x => tabUses w x [98]) (fun _ x n => (tableVal (x.table w) (toB32 (x.valOf w 98 n).exact)).exact)) ∧
    (opcode w = 0x26 → vecOp w = 1 → Delivers (.vtabdProduct c w) c w (vecRegs w [109, 98, 87])
      (fun s x => tabMistakes (s.sharing c) w x [98, 87] 1) (fun x => lowest (tabLate x w) = none)
      (fun x => tabUses w x [98, 87])
      (fun _ x n => match firstNan [b32 (toB32 (x.valOf w 98 n).exact), x.valOf w 87 n] with
        | some t => .nan t
        | none => mulOp (tableVal (x.table w) (toB32 (x.valOf w 98 n).exact)) (x.valOf w 87 n)))

/-- VRED in whole mode adds its operand's elements to its marrow register, cleared first when start is 1; with finish
1 and a scalar destination the S register gets the one conversion of the register's result. VRED in row mode and VTOPK
run over the rows of their operand. -/
def Obligations.ReductionsAndTopKRun : Prop :=
  (∀ (s : State) (c i : Nat) (x : LCore) (w : IWord), s.issues c i x = true → s.alone c = true → opcode w = 0x27 → redRows w = false →
    lowest (redMistakes (s.sharing c) w x) = none →
    s.unhindered c x w (vecRegs w (if bit w 44 then [109, 98] else [98])) (redUses w x) = true →
    ∀ r : VReg × Nat, r = (if bit w 45 then ({} : VReg) else x.vreg (bits w 47 46)).addAll (bits w 51 48) ((upto (x.countOf w 98)).map (x.valOf w 98)) →
    (bit w 44 = false → ∃ t, exec (.vred c w) s = .next t ∧ t.lcore i = some (x.next.setVreg (bits w 47 46) r.1) ∧ t.mem = s.mem) ∧
    (bit w 44 = true → isTensor w 109 = false → ∃ t y, exec (.vred c w) s = .next t ∧ t.lcore i = some y ∧
      y.vreg (bits w 47 46) = r.1 ∧ y.index = x.index + 1 ∧
      y.getS (bits w 112 109) = BitVec.ofNat 32 (s.scalarOut x w (r.1.result (bits w 51 48))).bits ∧
      y.sram = x.sram ∧ y.a = x.a ∧ t.mem = s.mem)) ∧
  (∀ (s : State) (c i : Nat) (x : LCore) (w : IWord), s.issues c i x = true → opcode w = 0x27 → redRows w = true →
    lowest (redRowMistakes (s.sharing c) w x) = none → s.unhindered c x w (vecRegs w [109, 98]) (redUses w x) = true →
    exec (.vredRows c w) s = .next (redRowRun (s.issued c i x) c i (x.sent w (redUses w x)))) ∧
  (∀ (s : State) (c i : Nat) (x : LCore) (w : IWord), s.issues c i x = true → s.alone c = true → opcode w = 0x28 → lowest (topkMistakes w x) = none →
    s.unhindered c x w [] (elemUses w x [98]) = true → (x.desc w 98).rows = 1 → (x.desc w 109).tier = 0 →
    ∃ y, exec (.vtopk c w) s = .next ((s.issued c i x).setLcore i (some y)) ∧ y.index = x.index + 1 ∧ x.sameButData y ∧
      y.sram = ((x.desc w 109).byteWrites ((upto (bits w 47 44 + 1)).flatMap (fun n =>
        [({ row := 0, col := 2 * n, bits := ((x.topRow (x.desc w 98) 0 (bits w 47 44 + 1)).getD n (0, 0xFFFFFFFF)).1.toNat, scale := 127, cls := 0 } : ElemW),
         { row := 0, col := 2 * n + 1, bits := ((x.topRow (x.desc w 98) 0 (bits w 47 44 + 1)).getD n (0, 0xFFFFFFFF)).2.toNat, scale := 127, cls := 0 }]))).foldl
          (fun m p => putByte m p.1 p.2) x.sram)

/-- A move without mistakes that nothing holds back and whose data lie on this device, in granules that can be read, takes effect at once: DCOPY
writes its source's elements, DXPOSE their transpose, DGATH the named rows or the pooled bags when no index is bad,
DSCAT the rows to their places or their exact sums, DPREF opens its entry and lands its data. A DCOPY or a DXPOSE
that reads a lost granule ends in the uncorrectable read of that granule. -/
def Obligations.LocalMovesTakeEffect : Prop :=
  (∀ (s : State) (c i : Nat) (x : LCore) (w : IWord) (h : Held) (a : Nat), s.issues c i x = true → h = x.sent w (moveUses w x) →
    s.unhindered c x w [] (moveUses w x) = true → (s.issued c i x).needs x.next h [] [] = [] →
    (s.issued c i x).moveLost x.next h [] = some a →
    (opcode w = 0x30 → lowest (s.dcopyMistakes c w x) = none →
      exec (.dcopy c w) s = .next (((s.issued c i x).lostRead c i x.next h a).settled c i)) ∧
    (opcode w = 0x35 → lowest (s.dxposeMistakes c w x) = none →
      exec (.dxpose c w) s = .next (((s.issued c i x).lostRead c i x.next h a).settled c i))) ∧
  ∀ (s : State) (c i : Nat) (x : LCore) (w : IWord) (h : Held) (d : Desc), s.issues c i x = true → h = x.sent w (moveUses w x) →
    s.unhindered c x w [] (moveUses w x) = true → (s.issued c i x).needs x.next h [] [] = [] →
    (s.issued c i x).moveLost x.next h [] = none → d = x.desc w 110 →
    (opcode w = 0x30 → lowest (s.dcopyMistakes c w x) = none →
      exec (.dcopy c w) s = .next (((s.issued c i x).copyAll c i x.next h (bits w 58 54) [] (x.desc w 100) d).settled c i)) ∧
    (opcode w = 0x35 → lowest (s.dxposeMistakes c w x) = none →
      exec (.dxpose c w) s = .next (((s.issued c i x).put i h (bits w 58 54) d ((s.issued c i x).transposed x.next h [] (x.desc w 100) d)).settled c i)) ∧
    (∀ q, (s.issued c i x).indexed x.next h = some q → lowest (s.dgathMistakes c w x) = none → opcode w = 0x31 →
      ((s.issued c i x).gathered x.next h [] q d).2 = none →
      ∀ t, t = ((s.issued c i x).put i h (bits w 58 54) d ((s.issued c i x).gathered x.next h [] q d).1).settled c i →
      (moveOp w ≠ 1 → moveOp w ≠ 2 → exec (.dgath c w) s = .next t) ∧ (moveOp w = 1 → exec (.dgathPooledSum c w) s = .next t) ∧
        (moveOp w = 2 → exec (.dgathPooledMean c w) s = .next t)) ∧
    (∀ q, (s.issued c i x).indexed x.next h = some q → lowest (s.dscatMistakes c w x) = none → opcode w = 0x32 →
      ∀ g, g = (goodIndices q.table.size ((s.issued c i x).indices x.next h [])).1 →
      (goodIndices q.table.size ((s.issued c i x).indices x.next h [])).2 = none →
      (moveOp w ≠ 1 → exec (.dscat c w) s = .next (((s.issued c i x).put i h (bits w 58 54) d
        ((lastOf g).flatMap (fun p => (s.issued c i x).moveRow x.next h [] d p.1 (x.desc w 100) p.2))).settled c i)) ∧
      (moveOp w = 1 → exec (.dscatAdd c w) s = .next (((s.issued c i x).scatterAdd i x.next h [] q d g).settled c i))) ∧
    (opcode w = 0x33 → lowest (s.dprefMistakes c w x) = none →
      exec (.dpref c w) s = .next ((((s.issued c i x).openEntry i h false).moveNow c i h []).settled c i))

/-- A DREM word of op 0 to 5 without mistakes that nothing holds back leaves the issue stage: where what it needs lies
on this device it takes effect at once; otherwise it asks the holding devices and its fetch stays open until they
answer; op 5 asks the owner for the shard version. -/
def Obligations.RemoteMovesAskAndRun : Prop :=
  ∀ (s : State) (c i : Nat) (x : LCore) (w : IWord) (u : Uses) (h : Held), s.issues c i x = true → opcode w = 0x34 → h = x.sent w u →
    s.unhindered c x w (dremRegs w) u = true →
    ∀ t, t = (if h.kind = .version then (s.issued c i x).askVersion i x.next x.next h
      else if (s.issued c i x).needs x.next h [] [] = [] then ((s.issued c i x).moveNow c i h []).settled c i
      else (s.issued c i x).openFetch i h ((s.issued c i x).needs x.next h [] [])) →
    (moveOp w = 0 → lowest (s.broadcastMistakes c w x) = none → u = { reads := (x.desc w 100).range } → exec (.dremBroadcast c w) s = .next t) ∧
    (moveOp w = 1 → lowest (s.readOneMistakes c w x) = none → u = { writes := (x.desc w 110).range } → exec (.dremRead c w) s = .next t) ∧
    (moveOp w = 2 → lowest (s.shardGatherMistakes c w x) = none → u = shardGatherUses w x → exec (.dremShardedGather c w) s = .next t) ∧
    (moveOp w = 3 → lowest (s.shardGatherMistakes c w x) = none → u = shardGatherUses w x → exec (.dremFabricPooledGather c w) s = .next t) ∧
    (moveOp w = 4 → lowest (s.shardScatterMistakes c w x) = none →
      u = { reads := (x.desc w 100).range ++ (x.desc w 90).range ++ (if bit w 78 then (x.desc w 80).range else []) } →
      exec (.dremShardedScatterAdd c w) s = .next t) ∧
    (moveOp w = 5 → lowest (s.versionMistakes c w x) = none → u = { writes := (x.desc w 110).range } → exec (.dremParameterGather c w) s = .next t)

/-- On a lone logical core whose first held instruction nothing holds back and no prefetch covers, TOKEN_WAIT_END runs
it and takes it from the queue. A refetched copy that is at hand lands in its destination, its entry retires, and the
held instruction that waits for it is tried again. -/
def Obligations.WaitsInEnginesEnd : Prop :=
  (∀ (s : State) (c i : Nat) (x y : LCore) (h : Held) (l : List Held), c < 1152 → s.residents c = [i] → s.lcore i = some x → x.held = h :: l →
    x.blocked [] h.uses = false → x.prefetches = [] → (runHeld (s.setLcore i (some x)) c i h).lcore i = some y →
    exec (.tokenWaitEnd c) s = .next (((runHeld (s.setLcore i (some x)) c i h).setLcore i (some { y with held := y.held.erase h })).settled c i)) ∧
  (∀ (s : State) (c i : Nat) (x : LCore) (e : Prefetch) (bs : Sparse Byte), c < 1152 → s.residents c = [i] → s.lcore i = some x →
    x.refetched = some (e, bs) → s.refetchLost x e = none →
    exec (.prefetchRefetchDone c) s = .next ((((s.landRefetch i x e bs).loadNow c i).resume c i).1) ∧
    (∃ y, (s.landRefetch i x e bs).lcore i = some y ∧ y.prefetches = x.prefetches.erase e))

/-- SARM with a count sends its parameters to the home and the core has the barrier armed; with count 0 a core that is
not waiting leaves it. SARR of an answered barrier, with no earlier write open, sends its arrival with the core's
sense, flips the sense, and holds the core until the release; the arrive form goes on; the wait form holds the core
only while its phase is pending. -/
def Obligations.BarrierWordsIssue : Prop :=
  (∀ (s : State) (c i b : Nat) (x : LCore) (w : IWord), s.issues c i x = true → opcode w = 0x40 → lowest (s.sarmMistakes w x) = none →
    x.pendingS (bits w 111 108) = false → x.pendingS (bits w 107 104) = false → b = bits w 119 112 → (x.bar b).disarming = false →
    (bits w 97 71 ≠ 0 → exec (.sarm c w) s = .next { ((s.diag c 1 1 x.diagnostic).setLcore i (some (x.next.setBar b { x.bar b with armed := true }))) with
      flights := s.flights ++ [.arm x.k x.r x.l b (armParams w x) x.here] }) ∧
    (bits w 97 71 = 0 → (x.bar b).armed = true → (x.bar b).waiting = none →
      exec (.sarm c w) s = .next (((s.diag c 1 1 x.diagnostic).setLcore i (some x.next)).disarm x.k x.r x.l b)) ∧
    (bits w 97 71 = 0 → (x.bar b).armed = false → exec (.sarm c w) s = .next ((s.diag c 1 1 x.diagnostic).setLcore i (some x.next)))) ∧
  (∀ (s : State) (c i b : Nat) (x : LCore) (w : IWord), s.issues c i x = true → opcode w = 0x41 → lowest (sarrMistakes w x) = none →
    b = bits w 119 112 → (x.bar b).answered = true → (x.bar b).disarming = false → x.syncOut = [] → x.openWrites = [] → x.unacked = 0 →
    (sarrOp w = 0 → s.alone c = true → (s.core c).fold.length ≤ 1 → ∃ t, exec (.sarr c w) s = .next t ∧ t.lcore i = some { (x.next.setBar b { x.bar b with
        waiting := some (x.bar b).sense, sense := !(x.bar b).sense }) with status := .atBarrier b } ∧
      t.flights = s.flights ++ [.arrive x.k x.r x.l b (x.bar b).sense x.here] ∧ t.mem = s.mem) ∧
    (sarrOp w = 1 → ∃ t, exec (.sarrArrive c w) s = .next t ∧ t.lcore i = some (x.next.setBar b { x.bar b with
        waiting := some (x.bar b).sense, sense := !(x.bar b).sense }) ∧
      t.flights = s.flights ++ [.arrive x.k x.r x.l b (x.bar b).sense x.here] ∧ t.mem = s.mem) ∧
    (sarrOp w = 2 → (x.bar b).waiting = none → exec (.sarrWait c w) s = .next ((s.diag c 1 1 x.diagnostic).setLcore i (some x.next))) ∧
    (sarrOp w = 2 → (x.bar b).waiting ≠ none → s.alone c = true → (s.core c).fold.length ≤ 1 → ∃ t, exec (.sarrWait c w) s = .next t ∧
      t.lcore i = some { x.next with status := .atBarrier b } ∧ t.flights = s.flights))

/-- The answer to the first arming of a free entry records its parameters and tells the core the phase; an arrival in
the entry's phase that is not the last is noted; a release of the phase that the core waits for (not the step
barrier's) ends its wait and makes it ready again, its registers as before. -/
def Obligations.BarrierMessagesReachHomeAndCore : Prop :=
  (∀ (s : State) (k r l b : Nat) (p : BarrierParams) (at_ : Address) (rest : List Flight) (x : LCore), s.flights = .arm k r l b p at_ :: rest →
    (s.barrier (bkey k r b)).params = none → s.lcore (lkey k r l) = some x →
    ∃ t, exec (.armAnswer k r l b) s = .next t ∧ t.flights = rest ∧
      t.barrier (bkey k r b) = { s.barrier (bkey k r b) with params := some p, armed := [l] } ∧
      t.lcore (lkey k r l) = some (x.setBar b { x.bar b with answered := true, sense := (s.barrier (bkey k r b)).phase }) ∧ t.mem = s.mem) ∧
  (∀ (s : State) (k r l b : Nat) (p : BarrierParams) (at_ : Address) (rest : List Flight) (j : Job), s.flushAll k = s →
    s.flights = .arrive k r l b (s.barrier (bkey k r b)).phase at_ :: rest → (s.barrier (bkey k r b)).params = some p → s.job k = some j →
    (∃ n ∈ groupCores j.cores p.unit p.span, n ∉ (s.barrier (bkey k r b)).arrived ++ [l]) →
    ∃ t, exec (.barrierArrival k r l b) s = .next t ∧ t.flights = rest ∧
      t.barrier (bkey k r b) = { s.barrier (bkey k r b) with arrived := (s.barrier (bkey k r b)).arrived ++ [l] } ∧ t.lcores = s.lcores ∧ t.mem = s.mem) ∧
  (∀ (s : State) (k r l b : Nat) (sense : Bool) (rest : List Flight) (x : LCore), b ≠ 255 → s.flights = .release k r l b sense :: rest →
    s.lcore (lkey k r l) = some x → (x.bar b).waiting = some sense → (x.bar b).disarming = false → x.status = .atBarrier b →
    s.physOf (lkey k r l) = none →
    ∃ t, exec (.barrierRelease k r l) s = .next t ∧ t.flights = rest ∧
      t.lcore (lkey k r l) = some { (x.setBar b { x.bar b with waiting := none }) with status := .ready } ∧ t.mem = s.mem)

/-- A local SSIG with no earlier write open, an SWAIT and an SDEC each append their request with k to the home of
their semaphore and leave its value; the core of an SWAIT does not issue until the grant, the other two go on. -/
def Obligations.SemaphoreWordsReachTheHome : Prop :=
  (∀ (s : State) (c i q : Nat) (x : LCore) (w : IWord) (j : Job), s.issues c i x = true → opcode w = 0x43 → lowest (s.ssigMistakes w x) = none →
    bit w 93 = false → q = bits w 119 110 → s.job x.k = some j → j.held.contains x.r = true → x.syncOut = [] → x.openWrites = [] → x.unacked = 0 →
    ∃ t, exec (.ssig c w) s = .next t ∧ t.lcore i = some x.next ∧
      t.sem (skey x.k x.r q) = { s.sem (skey x.k x.r q) with requests := (s.sem (skey x.k x.r q)).requests ++
        [{ ask := .signal, k := bits w 109 94, cycle := s.now, input := s.semInput i x.k x.r q }] } ∧
      (∀ n, n ≠ skey x.k x.r q → t.sem n = s.sem n) ∧ t.mem = s.mem) ∧
  (∀ (s : State) (c i q : Nat) (x : LCore) (w : IWord), s.issues c i x = true → lowest (semMistakes w [(119, 94)]) = none → q = bits w 119 110 →
    (opcode w = 0x42 → ∃ t, exec (.swait c w) s = .next t ∧ t.lcore i = some { x.next with status := .atSemaphore q } ∧
      t.sem (skey x.k x.r q) = { s.sem (skey x.k x.r q) with requests := (s.sem (skey x.k x.r q)).requests ++
        [{ ask := .take (.core x.l), k := bits w 109 94, cycle := s.now, input := s.semInput i x.k x.r q }] } ∧ t.mem = s.mem) ∧
    (opcode w = 0x44 → ∃ t, exec (.sdec c w) s = .next t ∧ t.lcore i = some x.next ∧
      t.sem (skey x.k x.r q) = { s.sem (skey x.k x.r q) with requests := (s.sem (skey x.k x.r q)).requests ++
        [{ ask := .dec x.l x.here, k := bits w 109 94, cycle := s.now, input := s.semInput i x.k x.r q }] } ∧ t.mem = s.mem))

/-- The home applies a lone request that it may apply now: a signal without waiters adds k, saturating at 2^32 - 1; a
take of a core that the value covers takes k and sends the grant; a decrement that the value covers subtracts k. A
grant makes the waiting core ready. A granted ready take of a rank moves that rank's take to the next step. -/
def Obligations.SemaphoreHomesServe : Prop :=
  (∀ (s : State) (k r q : Nat) (a : SemReq), s.flushAll k = s → (s.sem (skey k r q)).requests = [a] → (s.sem (skey k r q)).free ≤ s.now →
    (s.sem (skey k r q)).waiters = [] →
    (a.ask = .signal → (s.sem (skey k r q)).value + a.k < 2 ^ 32 → ∃ t, exec (.semaphoreRequest k r q) s = .next t ∧
      t.sem (skey k r q) = { value := (s.sem (skey k r q)).value + a.k, requests := [], waiters := [], free := s.now + 1 } ∧
      t.flights = s.flights ∧ t.mem = s.mem) ∧
    (a.ask = .signal → 2 ^ 32 ≤ (s.sem (skey k r q)).value + a.k → ∃ t, exec (.semaphoreRequest k r q) s = .next t ∧
      (t.sem (skey k r q)).value = 2 ^ 32 - 1 ∧ t.flights = s.flights ∧ t.mem = s.mem) ∧
    (∀ l, a.ask = .take (.core l) → a.k ≤ (s.sem (skey k r q)).value → ∃ t, exec (.semaphoreRequest k r q) s = .next t ∧
      t.sem (skey k r q) = { value := (s.sem (skey k r q)).value - a.k, requests := [], waiters := [], free := s.now + 1 } ∧
      t.flights = s.flights ++ [.grant k r l q] ∧ t.mem = s.mem) ∧
    (∀ l at_, a.ask = .dec l at_ → a.k ≤ (s.sem (skey k r q)).value → ∃ t, exec (.semaphoreRequest k r q) s = .next t ∧
      t.sem (skey k r q) = { value := (s.sem (skey k r q)).value - a.k, requests := [], waiters := [], free := s.now + 1 } ∧
      t.flights = s.flights ∧ t.mem = s.mem)) ∧
  (∀ (s : State) (k r l q : Nat) (rest : List Flight) (x : LCore), s.flights = .grant k r l q :: rest → s.lcore (lkey k r l) = some x →
    x.status = .atSemaphore q → s.physOf (lkey k r l) = none →
    exec (.semaphoreGrant k r l) s = .next ({ s with flights := rest }.setLcore (lkey k r l) (some { x with status := .ready }))) ∧
  (∀ (s : State) (k r g : Nat) (rest : List Flight), s.flights = .granted k r g :: rest →
    exec (.readyTake k r g) s = .next (({ s with flights := rest } : State).readyTaken k r g))

/-- With the memory group active, a request for GDDR7 whose bank has a free slot (fewer than 64 used, fewer than 5,440
in all) takes a slot. A read whose symbols decode changes no memory; a write stores its 64 bytes into the granule and
every other byte stays; a partial write of a clean granule stores the bytes that its mask selects. With 64 slots of
the bank used it is refused: the requester is noted in the bank's map and no memory changes. A freed slot leaves the
map of its bank empty. -/
def Obligations.MemoryRequestsServe : Prop :=
  (∀ (s : State) (q : MemReq) (n bank g : Nat), q.addr.toNat < gddrEnd → s.memoryActive = true → n = (gddrDecode q.addr.toNat).1 / 8 →
    bank = (gddrDecode q.addr.toNat).1 % 8 * 16 + (gddrDecode q.addr.toNat).2.1 → g = q.addr.toNat / 64 →
    (((s.ctl n).slots.filter (fun u => u.bank = bank)).length < 64 → (s.ctl n).slots.length < 5440 →
      (q.op = .read → s.readGranule n g q.errors ≠ .uncorrectable →
        ∃ t, exec (.memoryRequest q) s = .next t ∧ t.mem = s.mem ∧ t.lcores = s.lcores ∧ t.errors = s.errors ∧
          (t.ctl n).slots = (s.ctl n).slots ++ [{ bank := bank, who := q.who, context := q.context, addr := q.addr.toNat }]) ∧
      (∀ data, q.op = .write data → ∃ t, exec (.memoryRequest q) s = .next t ∧ t.mem = putBytes s.mem (64 * g) (data.take 64) ∧
        t.errors = s.errors) ∧
      (∀ mask data, q.op = .partialWrite mask data → s.readGranule n g q.errors = .clean →
        ∃ t, exec (.memoryRequest q) s = .next t ∧ t.errors = s.errors ∧
          t.mem = putBytes s.mem (64 * g) (maskBytes (getBytes s.mem (64 * g) 64) data mask.toNat))) ∧
    (64 ≤ ((s.ctl n).slots.filter (fun u => u.bank = bank)).length →
      ∃ t, exec (.memoryRequest q) s = .next t ∧ s.sameWork t ∧ t.errors = s.errors ∧ (t.ctl n).slots = (s.ctl n).slots ∧
        (bank, q.who) ∈ (t.ctl n).refused)) ∧
  (∀ (s : State) (n bank : Nat), n < 24 → (∃ u ∈ (s.ctl n).slots, u.bank = bank) →
    ∃ t, exec (.slotFreeNotice n bank) s = .next t ∧ s.sameWork t ∧ s.sameFabric t ∧
      (t.ctl n).slots.length + 1 = (s.ctl n).slots.length ∧ (∀ who, (bank, who) ∉ (t.ctl n).refused) ∧
      (∀ b who, b ≠ bank → ((b, who) ∈ (t.ctl n).refused ↔ (b, who) ∈ (s.ctl n).refused)) ∧ (∀ m, m ≠ n → t.ctl m = s.ctl m)) ∧
  (∀ (s : State) (n bank : Nat), (n = 24 ∨ n = 25) → (s.cxlPort (n - 24)).slots ≠ [] →
    ∃ t, exec (.slotFreeNotice n bank) s = .next t ∧ s.sameWork t ∧ s.sameFabric t ∧
      (t.cxlPort (n - 24)).slots.length + 1 = (s.cxlPort (n - 24)).slots.length ∧ (t.cxlPort (n - 24)).refused = [] ∧ t.ctls = s.ctls)

/-- With no job accepted or running and no floor, an active group of a ready device enters self-refresh at the first
multiple of 96 at which the conditions have held for 25,000,000 ticks. A waking group is active at the first multiple
of 96 at least 2,400 ticks after the wake cause. A floor write with bit 0 and a tick that is a multiple of 96 and at
least 2,400 ahead takes effect at that tick, at which the group is active; device memory stays. Time that lies ahead
passes (log 14). -/
def Obligations.MemoryGroupSleepsAndWakes : Prop :=
  (∀ s : State, s.memoryActive = true → s.power.phase = 1 → s.noJobs = true → s.power.floor = false →
    ∃ t, exec .selfRefreshEntry s = .next t ∧ t.power.memory = 0 ∧ t.mem = s.mem ∧ t.lcores = s.lcores ∧ t.errors = s.errors ∧
      t.clock = (s.until (next96 (s.power.memoryUsed.toNat + 25000000))).clock) ∧
  (∀ (s : State) (w : DWord), s.power.wakeAt = some w →
    ∃ t, exec .memoryGroupWake s = .next t ∧ t.power.memory = 2 ∧ t.power.wakeAt = none ∧ t.mem = s.mem ∧ t.lcores = s.lcores ∧
      t.clock = (s.until (next96 (w.toNat + 2400))).clock ∧ t.power.memoryUsed = t.clock.tick) ∧
  (∀ (s : State) (on : Bool) (tick : DWord), s.power.floorNext = some (on, tick) →
    ∃ t, exec .floorTick s = .next t ∧ t.power.floor = on ∧ t.power.floorNext = none ∧ t.mem = s.mem ∧ t.lcores = s.lcores ∧
      (on = true → t.power.memory = 2) ∧ t.clock = (s.until tick.toNat).clock) ∧
  (∀ (s : State) (m tick : Nat), m ≤ 1 → s.power.alive = true → tick = s.reg64 0x0300 0x06 → tick % 96 = 0 → s.clock.tick.toNat + 2400 ≤ tick →
    ∃ t, exec (.floorWrite m 1) s = .next t ∧ t.power = { s.power with floorNext := some (true, BitVec.ofNat 64 tick) } ∧ s.sameWork t ∧
      s.sameFabric t ∧ t.reg 0x0300 0x05 = 1) ∧
  (∀ (s : State) (T : Nat), s.clock.tick.toNat < T → T < 2 ^ 64 → s.clock.cycle < 60 →
    (s.until T).clock.tick.toNat = T ∧ (s.until T).clock.cycle = 0 ∧ (s.until T).mem = s.mem ∧ (s.until T).lcores = s.lcores ∧
    (s.until T).ports = s.ports ∧ (s.until T).slots = s.slots)

/-- With the group active the window of a bank closes the bank's row at the window's tick. When the write-back list
holds a granule of that channel and bank, it leaves the list; otherwise one row whose granules read clean is scrubbed:
the bank's row pointer goes on by one modulo 32,768. Above 85 °C a channel joins the double refresh rate, at 80 °C or
below it leaves it. No byte of memory and no error record changes. -/
def Obligations.RefreshWindowsWork : Prop :=
  (∀ (s : State) (h bank : Nat) (errors : List (Nat × Nat × Byte)), h < 192 → bank < 16 → s.memoryActive = true →
    (∀ w, (s.ctl (h / 8)).writeBacks.find? (fun w => w.1 = h && (gddrDecode (64 * w.2)).2.1 = bank) = some w →
      ∃ t, exec (.refreshWindow h bank errors) s = .next t ∧ t.clock = (s.until (s.windowTick h bank)).clock ∧ t.mem = s.mem ∧
        t.errors = s.errors ∧ t.ctl (h / 8) = { s.ctl (h / 8) with
          rows := sput (fun _ => none) (s.ctl (h / 8)).rows (h % 8 * 16 + bank) none
          writeBacks := (s.ctl (h / 8)).writeBacks.erase w }) ∧
    ((s.ctl (h / 8)).writeBacks.find? (fun w => w.1 = h && (gddrDecode (64 * w.2)).2.1 = bank) = none → errors = [] → (s.ctl (h / 8)).repairs = [] →
      ∃ t, exec (.refreshWindow h bank errors) s = .next t ∧ t.clock = (s.until (s.windowTick h bank)).clock ∧ t.mem = s.mem ∧
        t.errors = s.errors ∧ sget (fun _ => none) (t.ctl (h / 8)).rows (h % 8 * 16 + bank) = none ∧
        sget (fun _ => 0) (t.ctl (h / 8)).scrubRow (h % 8 * 16 + bank) = (sget (fun _ => 0) (s.ctl (h / 8)).scrubRow (h % 8 * 16 + bank) + 1) % 32768 ∧
        (t.ctl (h / 8)).writeBacks = (s.ctl (h / 8)).writeBacks)) ∧
  (∀ (s : State) (h : Nat) (temperature : Int), h < 192 →
    ∃ t, exec (.refreshRateChange h temperature) s = .next t ∧ t.mem = s.mem ∧ t.lcores = s.lcores ∧ t.errors = s.errors ∧
      (85 * 16 < temperature → h ∈ (t.ctl (h / 8)).double) ∧ (temperature ≤ 80 * 16 → h ∉ (t.ctl (h / 8)).double) ∧
      (80 * 16 < temperature → temperature ≤ 85 * 16 → t.ctl (h / 8) = s.ctl (h / 8)) ∧
      (∀ d, d ≠ h → (d ∈ (t.ctl (h / 8)).double ↔ d ∈ (s.ctl (h / 8)).double)) ∧
      (t.ctl (h / 8)).slots = (s.ctl (h / 8)).slots ∧ (t.ctl (h / 8)).rows = (s.ctl (h / 8)).rows)

/-- A CXL link that trains again is in service with its speed and width; one that goes down without requests in flight
and without a job is unavailable. A clean read response frees its request's slot and clears the refusals. An expander
event enters record 0x0012 with the event's two words. A host read answered with data, or timed out for the job
manager, no longer waits; timeouts count in 0x9900.06. A BAR2 write in the partition stores its bytes, a read answers
them, and outside the partition a read gets Unsupported Request. -/
def Obligations.CxlPortsAndHostMemory : Prop :=
  (∀ (s : State) (n speed width : Nat), n < 2 → (s.cxlPort n).state = 2 →
    ∃ t, exec (.cxlLinkTrained n speed width) s = .next t ∧ s.sameWork t ∧ s.sameFabric t ∧
      t.cxlPort n = { s.cxlPort n with state := 1, speed := speed, width := width } ∧ (∀ m, m ≠ n → t.cxlPort m = s.cxlPort m)) ∧
  (∀ (s : State) (n : Nat), n < 2 → (s.cxlPort n).slots = [] → s.jobs = [] →
    ∃ t, exec (.cxlLinkDown n) s = .next t ∧ s.sameWork t ∧ s.sameFabric t ∧
      t.cxlPort n = { s.cxlPort n with state := 2, slots := [], refused := [] } ∧ (∀ m, m ≠ n → t.cxlPort m = s.cxlPort m)) ∧
  (∀ (s : State) (n : Nat) (a : CxlAnswer) (u : SlotUse), n < 2 → a.poisoned = false →
    (s.cxlPort n).slots.find? (fun v => v.addr = a.addr.toNat) = some u →
    ∃ t, exec (.cxlReadResponse n a) s = .next t ∧ s.sameWork t ∧ t.errors = s.errors ∧
      t.cxlPort n = { s.cxlPort n with slots := (s.cxlPort n).slots.erase u, refused := [] } ∧
      t.reg64 (cxlObj n 1) 0x05 = (if a.overload then min (2 ^ 64 - 1) (s.reg64 (cxlObj n 1) 0x05 + 1) else s.reg64 (cxlObj n 1) 0x05)) ∧
  (∀ (s : State) (n : Nat) (first second : DWord), n < 2 →
    ∃ t, exec (.cxlExpanderEvent n first second) s = .next t ∧ s.sameWork t ∧ s.sameFabric t ∧
      s.entered t 0x0012 0 (unitField 5 0 n) first second ∧ bit (t.reg 0x1000 0x04) 0 = true) ∧
  (∀ (s : State) (tag : Nat) (a : HostAsk), s.host.sentAsk tag = some a → managerAsk ≤ a.core →
    (∃ t, exec (.hostCompletionTimeout tag) s = .next t ∧ s.sameWork t ∧ t.host.asks = s.host.asks.filter (fun b => b.tag ≠ a.tag) ∧
      t.reg64 0x9900 0x06 = min (2 ^ 64 - 1) (s.reg64 0x9900 0x06 + 1) ∧
      s.entered t 0x0010 0 (unitField 6 0 0) (BitVec.ofNat 64 a.addr) (BitVec.ofNat 64 (readDetail 4 0))) ∧
    (∀ bs : List Byte, a.length ≤ bs.length → ∃ t, exec (.hostReadCompletion tag (.data bs)) s = .next t ∧ s.sameWork t ∧
      t.host.asks = s.host.asks.filter (fun b => b.tag ≠ a.tag) ∧
      t.host.fetched = s.host.fetched ++ [(a.core - managerAsk, a.addr, bs.take a.length)] ∧ t.errors = s.errors)) ∧
  (∀ (s : State) (fn o n : Nat), fn < 16 → s.takesAccess fn = true → o < 2 ^ s.host.bar2Size fn → s.memoryActive = true →
    (0 < n → o + n ≤ (s.partition fn 0).2 →
      (∀ bs : List Byte, bs.length = n → ∃ t, exec (.bar2Access fn o n (some bs)) s = .next t ∧
        t.mem = putBytes s.mem ((s.partition fn 0).1 + o) bs ∧ t.errors = s.errors) ∧
      (s.unreadable ((s.partition fn 0).1 + o) n = none → ∃ t, exec (.bar2Access fn o n none) s = .next t ∧ s.sameWork t ∧
        t.host.completions = s.host.completions ++ [(fn, o, 0, getBytes s.mem ((s.partition fn 0).1 + o) n)])) ∧
    ((s.partition fn 0).2 < o + n → exec (.bar2Access fn o n none) s = .next (s.barAnswer fn o 1 []) ∧
      ∀ bs : List Byte, bs.length = n → exec (.bar2Access fn o n (some bs)) s = .next s))

/-- A port in service that gets a decodable block without NAK drops the blocks it acknowledges from its retry buffer.
In sequence it expects the next one, ends its NAK, and the packets wait until cycle S + L or now if later; out of
sequence it asks for a retry, if it has not yet, and takes nothing. An undecodable block is counted and only asks for
a retry. A repeat asks again. The oldest waiting block is released at its cycle, and another port and the work on the
device stay. -/
def Obligations.LinkBlocksInSequenceAreAccepted : Prop :=
  (∀ (s : State) (p : Nat) (b : FecBlock), p < 8 → (s.port p).inService = true →
    (b.correctable = true → b.nak = false → b.seq = (s.port p).expect →
      ∃ t, exec (.fecBlockReceived p b) s = .next t ∧ s.sameWork t ∧ t.errors = s.errors ∧ (t.port p).expect = (s.port p).expect + 1 ∧
        (t.port p).nakking = false ∧ (t.port p).naks = 0 ∧ (t.port p).retry = dropAcked b.ack (s.port p).retry ∧
        (t.port p).waiting = (s.port p).waiting ++
          [{ at_ := max s.now (extendStamp s.now b.stamp.toNat + (s.port p).release), packets := b.packets }] ∧
        (∀ q, q ≠ p → t.port q = s.port q)) ∧
    (b.correctable = true → b.nak = false → b.seq ≠ (s.port p).expect →
      ∃ t, exec (.fecBlockReceived p b) s = .next t ∧ s.sameWork t ∧ t.errors = s.errors ∧ (t.port p).expect = (s.port p).expect ∧
        (t.port p).nakking = true ∧ (t.port p).waiting = (s.port p).waiting ∧ (t.port p).retry = dropAcked b.ack (s.port p).retry ∧
        (t.port p).naksSent = (s.port p).naksSent + (if (s.port p).nakking then 0 else 1) ∧ (∀ q, q ≠ p → t.port q = s.port q)) ∧
    (b.correctable = false →
      ∃ t, exec (.fecBlockReceived p b) s = .next t ∧ s.sameWork t ∧ t.errors = s.errors ∧ (t.port p).expect = (s.port p).expect ∧
        (t.port p).nakking = true ∧ (t.port p).waiting = (s.port p).waiting ∧ (t.port p).retry = (s.port p).retry ∧
        t.reg64 (portObj p 1) 0x03 = min (2 ^ 64 - 1) (s.reg64 (portObj p 1) 0x03 + 1) ∧ (∀ q, q ≠ p → t.port q = s.port q)) ∧
    ((s.port p).nakking = true → exec (.nakRepeat p) s = .next (s.setPort p { s.port p with naksSent := (s.port p).naksSent + 1 }))) ∧
  (∀ (s : State) (p : Nat) (w : Waiting) (rest : List Waiting), p < 8 → (s.port p).waiting = w :: rest →
    ∃ t, exec (.blockRelease p) s = .next t ∧ t.clock = (s.untilCycle w.at_).clock ∧ t.mem = s.mem ∧ t.lcores = s.lcores ∧
      (t.port p).waiting = rest ∧ (t.port p).expect = (s.port p).expect ∧ (t.port p).retry = (s.port p).retry ∧
      (∀ q, w.packets = [q] → q.cls < 3 → sget (fun _ => 0) (t.port p).due (4 * q.cls + q.channel) =
        sget (fun _ => 0) (s.port p).due (4 * q.cls + q.channel) + flits q) ∧ (∀ q, q ≠ p → t.port q = s.port q))

/-- A packet of a known request, response or reduction type that enters on another port leaves on the output that its
route names: its flits are taken from the credits of its class and channel there, its blocks take the next sequence
numbers and stay in the retry buffer, and nothing else on the device changes but counters. Without credits nothing
changes. A packet of a reserved type is discarded and counted on its input. -/
def Obligations.PacketsLeaveOnTheirRoute : Prop :=
  (∀ (s : State) (q o : Nat) (p p1 : Packet), q < 8 → reservedType p.ptype = false → p.cls < 3 → hop s.fabric s.coord.toNat q p = some (o, p1) →
    q ≠ o → (s.port o).inService = true →
    (flits p ≤ (s.port o).credit (4 * p1.cls + p1.channel) → (s.port o).retry.length + (flits p + 59) / 60 ≤ 512 →
      ∃ t, exec (.packetForward q p) s = .next t ∧ s.sameWork t ∧ t.errors = s.errors ∧ t.fabric = { s.fabric with sent := (o, p1) :: s.fabric.sent } ∧
        (t.port o).credit (4 * p1.cls + p1.channel) = (s.port o).credit (4 * p1.cls + p1.channel) - flits p ∧
        (t.port o).nextSeq = (s.port o).nextSeq + BitVec.ofNat 14 ((flits p + 59) / 60) ∧
        (t.port o).retry.length = (s.port o).retry.length + (flits p + 59) / 60 ∧ (∀ n, n ≠ o → t.port n = s.port n)) ∧
    ((s.port o).credit (4 * p1.cls + p1.channel) < flits p → exec (.packetForward q p) s = .next s)) ∧
  (∀ (s : State) (q : Nat) (p : Packet), q < 8 → reservedType p.ptype = true →
    exec (.packetForward q p) s = .next (s.bump64 (portObj q 1) 0x0B 1))

/-- On a port in service: a lane request starts the pattern on the sprout; the receiver that has adapted sends lane
ready; the sender then names the block 64 ahead from which the new mask, sprout in and weak lane out, applies, and
sends lane switch; the receiver notes it; when that block is reached the mask applies and the weak lane is retired. A
mask change applies at once to the sender. A lane failure or a retire order leaves the receive mask without the lane
and sends a mask change; a lane action, or a window with over 65,536 corrected symbols on a lane, asks for a
substitution. Links keep at least 11 lanes in these statements, and device memory stays. -/
def Obligations.LaneSubstitutionKeepsTheLink : Prop :=
  (∀ (s : State) (p weak sprout : Nat), p < 8 → sprout < 13 → weak < 13 → (s.port p).inService = true → bit (s.port p).txMask sprout = false →
    bit (s.port p).txRetired sprout = false →
    ∃ t y, exec (.laneRequest p weak sprout) s = .next t ∧ s.sameWork t ∧ t.port p = { s.port p with txSwap := some y } ∧ y.sprout = sprout ∧
      y.weak = (if bit (s.port p).txMask weak && lanes (s.port p).txMask = 12 then some weak else none) ∧ (∀ q, q ≠ p → t.port q = s.port q)) ∧
  (∀ (s : State) (p : Nat) (y : LaneSwap), p < 8 → (s.port p).rxSwap = some y →
    (∃ t, exec (.equaliserAdapted p) s = .next t ∧ s.sameWork t ∧
      (t.port p).control = (s.port p).control ++ [(0x02, BitVec.ofNat 64 y.sprout, [])] ∧ (t.port p).rxSwap = some { y with stage := 3 }) ∧
    (∀ n mask, ∃ t, exec (.laneSwitch p n mask) s = .next t ∧ s.sameWork t ∧ (t.port p).rxNext = some (n, mask) ∧
      (t.port p).rxMask = (s.port p).rxMask)) ∧
  (∀ (s : State) (p : Nat) (y : LaneSwap), p < 8 → (s.port p).txSwap = some y →
    ∃ t, exec (.laneReady p y.sprout) s = .next t ∧ s.sameWork t ∧
      (t.port p).txNext = some ((s.port p).nextSeq + 64, y.newMask (s.port p).txMask) ∧ (t.port p).txMask = (s.port p).txMask ∧
      (t.port p).control = (s.port p).control ++ [(0x03, BitVec.ofNat 64 (((s.port p).nextSeq + 64).toNat * 2 ^ 50 +
        (y.newMask (s.port p).txMask).toNat * 2 ^ 32), [])]) ∧
  (∀ (s : State) (p : Nat) (n : BitVec 14) (m : BitVec 13), p < 8 → (s.port p).inService = true → (s.port p).rxNext = none →
    (s.port p).txNext = some (n, m) → seqReached n (s.port p).nextSeq = true → 11 ≤ lanes m → 11 ≤ lanes (s.port p).rxMask →
    ∃ t, exec (.laneSwitchApply p) s = .next t ∧ s.sameWork t ∧ (t.port p).txMask = m ∧ (t.port p).rxMask = (s.port p).rxMask ∧
      (t.port p).txRetired = (s.port p).txRetired ||| ((s.port p).txMask &&& ~~~m) ∧ (t.port p).txNext = none ∧ (t.port p).txSwap = none) ∧
  (∀ (s : State) (p : Nat) (n : BitVec 14) (m : BitVec 13), p < 8 → (s.port p).inService = true → 11 ≤ lanes m → 11 ≤ lanes (s.port p).rxMask →
    ∃ t, exec (.maskChange p n m) s = .next t ∧ s.sameWork t ∧ (t.port p).txMask = m ∧ (t.port p).rxMask = (s.port p).rxMask ∧
      (t.port p).txRetired = (s.port p).txRetired ||| ((s.port p).txMask &&& ~~~m) ∧ (t.port p).txNext = none ∧ (t.port p).txSwap = none) ∧
  (∀ (s : State) (p l : Nat) (m : BitVec 13), p < 8 → l < 13 → (s.port p).inService = true → bit (s.port p).rxMask l = true →
    m = (s.port p).rxMask &&& ~~~(lane l) → 11 ≤ lanes m → 11 ≤ lanes (s.port p).txMask →
    (∃ t, exec (.laneFailure p l) s = .next t ∧ s.sameWork t ∧ (t.port p).rxMask = m ∧ (t.port p).txMask = (s.port p).txMask ∧
      (t.port p).rxRetired = (s.port p).rxRetired ||| lane l ∧ (t.port p).nakking = true ∧
      (0x04, BitVec.ofNat 64 ((s.port p).expect.toNat * 2 ^ 50 + m.toNat * 2 ^ 32), []) ∈ (t.port p).control) ∧
    (∀ n, n ≤ 1 → s.power.alive = true → s.power.control = true → ∃ t, exec (.laneRetire n p l) s = .next t ∧ s.sameWork t ∧ (t.port p).rxMask = m ∧
      (t.port p).txMask = (s.port p).txMask ∧ (t.port p).rxRetired = (s.port p).rxRetired ||| lane l)) ∧
  (∀ (s : State) (p l sp : Nat), p < 8 → l < 13 → (s.port p).inService = true → bit (s.port p).rxMask l = true → (s.port p).rxSwap = none →
    spareLane (s.port p).rxMask (s.port p).rxRetired = some sp →
    (∀ n, n ≤ 1 → s.power.alive = true → s.power.control = true → ∃ t y, exec (.laneAction n p l) s = .next t ∧ s.sameWork t ∧
      (t.port p).rxSwap = some y ∧ y.weak = some l ∧ y.sprout = sp ∧ (t.port p).rxMask = (s.port p).rxMask ∧
      (t.port p).control = (s.port p).control ++ [(0x01, BitVec.ofNat 64 (l * 2 ^ 12 + sp), [])]) ∧
    ((upto 13).find? (fun i => bit (s.port p).rxMask i && 65536 < (s.port p).laneErrors.getD i 0) = some l →
      ∃ t y, exec (.laneWindowEnd p) s = .next t ∧ s.sameWork t ∧ (t.port p).rxSwap = some y ∧ y.weak = some l ∧ y.sprout = sp ∧
        (t.port p).laneErrors = [] ∧ (t.port p).windowBlocks = 0)) ∧
  (∀ (s : State) (p i : Nat), p < 8 → i < 13 → ∃ t, exec (.laneWindowEnd p) s = .next t ∧
    (t.reg (portObj p 2) (i + 1)).toNat = min (2 ^ 32 - 1) ((s.port p).laneErrors.getD i 0))

/-- A port without a link whose transmitters are not idle sends a training burst, and trains unless its dimension has
extent 1. A trained link with at least 11 lanes in each direction comes into service in the state of its masks, with
release latency rounded up to a multiple of 60 cycles past one tick, sequence numbers 0, full credits, nothing to
retry, and sends identity; discovery begins. The work on the device stays. -/
def Obligations.LinksTrainAndComeUp : Prop :=
  (∀ (s : State) (p : Nat), p < 8 → ((s.port p).state = 0 ∨ (s.port p).state = 6) → s.power.txIdle = false →
    (∃ t, exec (.trainingBurst p) s = .next t ∧ s.sameWork t ∧ t.fabric = s.fabric ∧ t.port p = { s.port p with burst := some s.clock.tick } ∧
      (∀ q, q ≠ p → t.port q = s.port q)) ∧
    ((∀ e, s.fabric.extents = some e → digit e.toNat (p / 2) ≠ 0) →
      ∃ t, exec (.linkTraining p) s = .next t ∧ s.sameWork t ∧ t.fabric = s.fabric ∧ t.port p = { s.port p with state := 1, burst := none } ∧
        (∀ q, q ≠ p → t.port q = s.port q))) ∧
  (∀ (s : State) (p latency : Nat), p < 8 → (s.port p).state = 1 → 11 ≤ lanes (s.port p).txMask → 11 ≤ lanes (s.port p).rxMask →
    ∃ t, exec (.linkInService p latency) s = .next t ∧ s.sameWork t ∧ t.errors = s.errors ∧
      (t.port p).state = serviceState (s.port p).txMask (s.port p).rxMask ∧ (t.port p).release = (latency + 119) / 60 * 60 ∧
      (t.port p).nextSeq = 0 ∧ (t.port p).expect = 0 ∧ (t.port p).retry = [] ∧ (∀ key, (t.port p).credit key = creditFull key) ∧
      t.fabric.discovering = true ∧ (0x05, 0, s.identityBody p) ∈ (t.port p).control)

/-- An identity whose port is the opposite one is noted on the port; one of another port marks the port miscabled. A
better reference candidate becomes the device's. A record of another coordinate that is newer than the known one is
taken into the map, an older or equal one changes nothing. When nothing has changed for 25,000 ticks, the reference
device without a coordinate takes its anchor, or 0; a device with a coordinate ends discovery. Device memory stays. -/
def Obligations.DiscoverySpreadsCoordinatesAndRecords : Prop :=
  (∀ (s : State) (p : Nat) (serial : DWord) (st : Half) (port : Nat) (held anchored : Bool) (c a : Half) (shape : Word),
    p < 8 → (s.port p).inService = true →
    (port = opposite p → s.fabric.coord = none → held = false → s.heldPorts.erase p = [] →
      ∃ t, exec (.identity p serial st port held anchored c a shape) s = .next t ∧ s.sameWork t ∧ (t.port p).nPort = port ∧
        (t.port p).nSerial = serial ∧ (t.port p).nHeld = false ∧ (t.port p).state = (s.port p).state ∧ t.fabric.coord = none) ∧
    (port ≠ opposite p → ∃ t, exec (.identity p serial st port held anchored c a shape) s = .next t ∧ s.sameWork t ∧
      (t.port p).state = 4 ∧ (t.port p).nSerial = serial ∧ (t.port p).nPort = port ∧ t.fabric.coord = s.fabric.coord)) ∧
  (∀ (s : State) (p : Nat) (serial : DWord) (anchored : Bool) (c : Half), p < 8 →
    ((∀ r, s.fabric.reference = some r → betterRef (anchored, serial, c) r = true) →
      ∃ t, exec (.referenceCandidate p serial anchored c) s = .next t ∧ s.sameWork t ∧ t.fabric = { s.fabric with
        reference := some (anchored, serial, c) }) ∧
    (∀ r, s.fabric.reference = some r → betterRef (anchored, serial, c) r = false → exec (.referenceCandidate p serial anchored c) s = .next s)) ∧
  (∀ (s : State) (p : Nat) (c : Half) (v : Word) (ends : List LinkEnd), p < 8 → s.fabric.coord ≠ some c →
    ((∀ r, s.fabric.record c.toNat = some r → r.version.toNat < v.toNat) →
      ∃ t, exec (.linkRecord p c v ends) s = .next t ∧ s.sameWork t ∧ t.fabric.record c.toNat = some { version := v, ends := ends } ∧
        (∀ d, d ≠ c.toNat → t.fabric.record d = s.fabric.record d)) ∧
    (∀ r, s.fabric.record c.toNat = some r → v.toNat ≤ r.version.toNat → exec (.linkRecord p c v ends) s = .next s)) ∧
  (∀ (s : State) (n : DWord), s.fabric.discovering = true → s.fabric.changed = some n → s.fabric.extents.isSome = true →
    (s.fabric.coord = none → (∀ r, s.fabric.reference = some r → r.2.1 = s.ident.serial) →
      ∃ t, exec .discoveryEnd s = .next t ∧ t.fabric.coord = some (s.fabric.anchorUsed.getD 0) ∧ t.mem = s.mem ∧ t.lcores = s.lcores) ∧
    (s.fabric.coord.isSome = true →
      ∃ t, exec .discoveryEnd s = .next t ∧ t.fabric = { s.fabric with discovering := false } ∧ t.mem = s.mem ∧ t.lcores = s.lcores ∧
        t.ports = s.ports))

/-- A departing device names the tick 2,500,000 ticks ahead up to which it forwards; at that tick its ports in service
go idle. A leave notice takes the device's links out of the map. A packet without an answer for 250,000 ticks enters
record 0x0021 and no longer waits; without a job nothing else is faulted. A held destination with nothing unanswered
is released and its waiting packets take the route in force. -/
def Obligations.DevicesLeaveAndRoutesResume : Prop :=
  (∀ (s : State) (m : Nat) (c : Half), s.fabric.coord = some c → s.fabric.leaving = none →
    ∃ t, exec (.departureOrder m) s = .next t ∧ s.sameWork t ∧ t.clock = s.clock ∧ t.fabric = { s.fabric with
      leaving := some (s.clock.tick + 2500000), leaves := s.fabric.leaves ++ [c] }) ∧
  (∀ (s : State) (p : Nat) (c : Half) (tick : DWord), p < 8 → s.fabric.leaves.contains c = false →
    ∃ t r, exec (.leaveNotice p c tick) s = .next t ∧ s.sameWork t ∧ t.fabric.record c.toNat = some r ∧ r.ends = [] ∧
      c ∈ t.fabric.leaves ∧ (∀ d, d ≠ c.toNat → t.fabric.record d = s.fabric.record d)) ∧
  (∀ (s : State) (tick : DWord), s.fabric.leaving = some tick →
    ∃ t, exec .departurePortsIdle s = .next t ∧ t.fabric.leaving = none ∧ t.mem = s.mem ∧ t.lcores = s.lcores ∧ t.errors = s.errors ∧
      (∀ p, p < 8 → (s.port p).inService = true → (t.port p).state = 0 ∧ (t.port p).retry = [])) ∧
  (∀ (s : State) (u : Unanswered), u ∈ s.fabric.unanswered → u.job = false →
    s.fabric.unanswered.find? (fun v => v.dest = u.dest && v.tag = u.tag) = some u →
    ∃ t, exec (.packetUnanswered u.dest u.tag) s = .next t ∧ t.mem = s.mem ∧ t.lcores = s.lcores ∧
      s.entered t 0x0021 0 (unitField 0 0 s.coord.toNat) (BitVec.ofNat 64 u.dest.toNat) (BitVec.ofNat 64 u.tag.toNat) ∧
      (∀ v ∈ t.fabric.unanswered, v.dest ≠ u.dest) ∧ t.clock = (s.until (u.tick.toNat + 250000)).clock) ∧
  (∀ (s : State) (dest : Half), s.fabric.holds.contains dest = true → (∀ u ∈ s.fabric.unanswered, u.dest ≠ dest) →
    exec (.routeChangeResume dest) s = .next { s with fabric := { s.fabric with
      holds := s.fabric.holds.filter (fun d => d ≠ dest)
      tx := s.fabric.tx.map (fun p => if p.dest = dest then s.reroute p else p) } })

/-- A device with a time parent asks it at most every 65,536 ticks, naming its count; a port in service answers with
its own count twice. The first reply sets the counter by the offset theta and makes it synchronised; a later one
leaves the counter and notes theta as the offset still to be corrected, which a correction brings one 1/64 tick nearer
to 0. Loss of REFCLK moves the clock to the crystal with record 0x0300; a missing EPOCH begins holdover with record
0x0301; an EPOCH edge within 16/64 tick aligns a device without parent. Device memory stays. -/
def Obligations.CounterFollowsItsParent : Prop :=
  (∀ (s u : State), s.clock.parent ≠ 0xFF → u = s.clock.askedAt.elim s (fun n => s.until (n.toNat + 65536)) →
    ∃ t, exec .timestampExchange s = .next t ∧ t.clock = { u.clock with asked := some (BitVec.ofNat 64 u.stamp), askedAt := some u.clock.tick } ∧
      t.mem = s.mem ∧ (t.port s.clock.parent).control = (s.port s.clock.parent).control ++ [(0x06, 0x4000000000000000, stampBody u.stamp 0 0)]) ∧
  (∀ (s : State) (p : Nat) (t1 : DWord), p < 8 → (s.port p).inService = true →
    ∃ t, exec (.timestampRequest p t1) s = .next t ∧ s.sameWork t ∧ t.clock = s.clock ∧ (t.port p).control = (s.port p).control ++
      [(0x06, 0x8000000000000000, stampBody t1.toNat s.stamp s.stamp)]) ∧
  (∀ (s : State) (p : Nat) (t1 t2 t3 : DWord) (d : Int), p < 8 → s.clock.parent = p → s.clock.asked = some t1 →
    d = theta t1.toNat t2.toNat t3.toNat s.stamp →
    (s.clock.exchanged = true → ∃ t, exec (.timestampReply p t1 t2 t3) s = .next t ∧ s.sameWork t ∧
      t.clock = { s.clock with asked := none, theta := d, left := d, mode := 2 }) ∧
    (s.clock.exchanged = false → ∃ t, exec (.timestampReply p t1 t2 t3) s = .next t ∧ s.sameWork t ∧
      t.clock.tick = BitVec.ofInt 64 ((s.stamp + d) / 64) ∧ t.clock.theta = d ∧ t.clock.synced = true ∧ t.clock.mode = 2 ∧
      (s.anyArmed = false → t.errors = s.errors) ∧
      (s.anyArmed = true → t.clock.tick ≠ s.clock.tick → s.entered t 0x0023 0 (unitField 0 0 s.coord.toNat) s.clock.tick t.clock.tick))) ∧
  (∀ s : State, s.clock.left ≠ 0 → ∃ t, exec .tickEdgeCorrection s = .next t ∧ t.mem = s.mem ∧ t.lcores = s.lcores ∧
    t.clock.edge = s.clock.edge - (if 0 < s.clock.left then 1 else -1) ∧ t.clock.left = s.clock.left - (if 0 < s.clock.left then 1 else -1) ∧
    t.clock.left.natAbs + 1 = s.clock.left.natAbs ∧ t.clock.corrected = some t.clock.tick) ∧
  (∀ s : State, s.clock.refclk = true → ∃ t, exec .refclkLoss s = .next t ∧ t.mem = s.mem ∧ t.lcores = s.lcores ∧
    t.clock = { s.nextEdge.clock with refclk := false, crystal := true } ∧ s.entered t 0x0300 0 mgmt t.clock.tick 0) ∧
  (∀ s : State, s.power.alive = true → s.clock.holdover = false → ∃ t, exec .epochAbsent s = .next t ∧ t.mem = s.mem ∧ t.lcores = s.lcores ∧
    t.clock.holdover = true ∧ t.clock.tick = (s.until ((s.clock.epochHeard.getD 0).toNat + 50000000)).clock.tick ∧
    s.entered t 0x0301 0 mgmt (BitVec.ofNat 64 s.clock.epochInterval.toNat) 0) ∧
  (∀ (s : State) (phase : Int), s.power.alive = true → s.clock.holdover = false → s.clock.epochHeard = none → s.clock.refclk = true →
    s.clock.parent = 0xFF → (s.epochOff phase).natAbs ≤ 16 →
    exec (.epochEdge phase) s = .next { s with clock := { s.clock with
      epochHeard := some s.clock.tick, mode := 1, left := 0 - s.epochOff phase } })

/-- With the memory group active, a request whose bytes the addressed rank may use and that can be read: READ answers
the bytes in pieces and changes no memory; WRITE stores its bytes at its address and completes; PARTIAL_WRITE stores
the granule's selected bytes; SCATTER_ADD stores each element's prior value plus its terms, summed exactly and
converted once; a broadcast delivery or a version push below the core windows is a write, a broadcast into a core
window writes the member core's data SRAM; a watch is noted. A parameter gather gets the committed version's bytes, or
waits for its commit. With one rank held, a write changes exactly its bytes. Outside the partition a read and a write
are answered with reason 0x10 and change no memory. -/
def Obligations.RemoteRequestsAreServed : Prop :=
  (∀ (s : State) (p : Packet) (k r a n : Nat), s.memoryActive = true → k = p.context → r = s.rankFor p → a = p.addr.toNat →
    (s.arrives 0x01 p = true → n = 64 * bits p.arg 4 0 → s.localOk k r a (a + n) = true → s.lostGranule k r a n = none →
      exec (.read p) s = .next (s.useMemory.sendData k p.src p.tag (s.rankBytes k r a n))) ∧
    (s.arrives 0x02 p = true → s.localOk k r a (a + p.data.length) = true →
      exec (.write p) s = .next ((s.useMemory.rankWrite k r a p.data).complete p) ∧
      ((∀ b, s.view k r b = some b) → (s.useMemory.rankWrite k r a p.data).mem = putBytes s.mem a p.data)) ∧
    (s.arrives 0x03 p = true → s.localOk k r (a / 64 * 64) (a / 64 * 64 + 64) = true → s.lostGranule k r (a / 64 * 64) 64 = none →
      exec (.partialWrite p) s = .next ((s.useMemory.rankWrite k r (a / 64 * 64)
        (maskBytes (s.rankBytes k r (a / 64 * 64) 64) p.data p.arg.toNat)).complete p)) ∧
    (s.arrives 0x05 p = true → a < coreBase → s.localOk k r a (a + p.data.length) = true →
      exec (.broadcastDelivery p) s = .next ((s.useMemory.rankWrite k r a p.data).complete p)) ∧
    (s.arrives 0x25 p = true → s.localOk k r a (a + p.data.length) = true →
      exec (.versionPush p) s = .next ((s.useMemory.rankWrite k r a p.data).complete p)) ∧
    (s.arrives 0x02 p = true → s.localOk k r a (a + p.data.length) = false → exec (.write p) s = .next (s.sendError k p.src p.tag 0x10 0)) ∧
    (s.arrives 0x01 p = true → s.localOk k r a (a + 64 * bits p.arg 4 0) = false → exec (.read p) s = .next (s.sendError k p.src p.tag 0x10 0))) ∧
  (∀ (s : State) (p : Packet) (fmt : Nat) (terms : List ScatterTerm) (d : Desc) (n : Nat), s.memoryActive = true → s.arrives 0x04 p = true →
    d = scatterDesc fmt terms → n = (if fmt = 5 then d.stop - d.base else d.rowBytes) →
    s.localOk p.context (s.rankFor p) d.base (d.base + n) = true → s.lostGranule p.context (s.rankFor p) d.base n = none →
    ∃ t : State, exec (.scatterAdd p fmt terms) s = .next (t.complete p) ∧
      ((∀ b, s.view p.context (s.rankFor p) b = some b) →
        t.mem = (d.byteWrites (scatterSums (getByte s.mem) d p.arg terms)).foldl (fun m q => putByte m q.1 q.2) s.mem)) ∧
  (∀ (s : State) (p : Packet) (i o : Nat) (x : LCore), s.arrives 0x05 p = true → coreBase ≤ p.addr.toNat →
    i = lkey p.context (s.rankFor p) ((p.addr.toNat - coreBase) / 0x100000) → o = (p.addr.toNat - coreBase) % 0x100000 → s.lcore i = some x →
    o + p.data.length ≤ x.footprint →
    exec (.broadcastDelivery p) s = .next ((s.setLcore i (some { x with sram := putBytes x.sram o p.data })).complete p)) ∧
  (∀ (s : State) (p : Packet) (n : Nat), s.memoryActive = true → s.arrives 0x07 p = true → n = 64 * p.arg.toNat →
    s.localOk p.context (s.rankFor p) p.addr.toNat (p.addr.toNat + n) = true → s.fabric.watches.length < 4096 →
    ∃ t w, exec (.prefetchWatch p) s = .next t ∧ t.mem = s.mem ∧ t.lcores = s.lcores ∧ w ∈ t.fabric.watches ∧ w.src = p.src ∧ w.tag = p.tag ∧
      w.granules = (s.viewGranules p.context (s.rankFor p) p.addr.toNat n).map (fun b => b / 64) ∧
      t.fabric.tx = s.fabric.tx ++ [s.packet 0x11 p.src p.context p.tag 0 1 []]) ∧
  (∀ (s : State) (p : Packet) (j : Job) (d : Shard) (v : Version) (a n : Nat), s.arrives 0x06 p = true → s.job p.context = some j →
    n = field p.data 4 8 → a = p.addr.toNat + p.arg.toNat % 4 * d.slotSize →
    j.shards.find? (fun e => e.shard = field p.data 0 4 && j.owns e && e.copies = p.addr.toNat && n ≤ e.slotSize) = some d →
    j.shards.find? (fun e => e.shard = field p.data 0 4 && j.owns e) = some d → s.localOk p.context d.owner a (a + n) = true →
    d.versions.find? (fun w => w.v = p.arg) = some v →
    (v.committed = true → v.retiredAt = none → s.memoryActive = true → s.lostGranule p.context d.owner a n = none →
      exec (.parameterGather p) s = .next (s.useMemory.sendData p.context p.src p.tag (s.rankBytes p.context d.owner a n))) ∧
    (v.committed = false → exec (.parameterGather p) s = .next (s.setJob p.context (some { j with gathers := j.gathers ++
      [{ src := p.src, tag := p.tag, shard := field p.data 0 4, version := p.arg, addr := p.addr.toNat, length := n }] }))))

/-- Read data for a fetch of a logical core are taken by that fetch, and the packet waits no longer once its last
piece is here. A completion ends the packets that it covers, and for a write the core has one write less
unacknowledged. An error answer halts the requesting instruction with the reason and detail that it carries. A
generation notice makes every prefetch entry with that watch one generation further, saturating. An answer that
nothing waits for, or whose check fails, changes no memory and no core. -/
def Obligations.AnswersReachTheirWork : Prop :=
  (∀ (s u : State) (p : Packet) (why : Purpose), (∃ q, s.fabric.purposes.find? (fun q => q.1 = p.src && q.2.1 = p.tag) = some q ∧ q.2.2 = why) →
    u = { s with fabric := { s.fabric with
      purposes := s.fabric.purposes.filter (fun r => !(r.1 = p.src && r.2.1 = p.tag))
      unanswered := s.fabric.unanswered.filter (fun r => !(r.dest = p.src && r.tag = p.tag)) } } →
    (∀ i, s.arrives 0x10 p = true → why = .fetch i →
      (s.awaited i p.tag.toNat ≤ p.data.length → exec (.readData p) s = .next (u.dataArrive i p.tag.toNat p.arg.toNat p.data)) ∧
      (∀ x f a, p.data.length < s.awaited i p.tag.toNat → s.lcore i = some x → x.fetches.find? (fun g => g.asks.any (fun b => b.tag = p.tag.toNat)) = some f →
        f.asks = [a] → a.tag = p.tag.toNat → exec (.readData p) s = .next (s.setLcore i (some { x with
          fetches := x.fetches.map (fun e => if e = f then f.take p.tag.toNat p.arg.toNat p.data else e) })))) ∧
    (∀ i x f, s.arrives 0x13 p = true → why = .fetch i → s.lcore i = some x → bits p.arg 39 32 ≠ 0 → bits p.arg 39 32 ≠ 0x10 →
      x.fetches.find? (fun g => g.asks.any (fun b => b.tag = p.tag.toNat)) = some f →
      exec (.errorAnswer p) s = .next (u.mistakeOf i f.held.at_ (opcode f.held.w) (bits p.arg 39 32) (bits p.arg 31 0)))) ∧
  (∀ (s : State) (p : Packet) (q : Half × Half × Purpose), s.arrives 0x11 p = true → s.covered p = [q] → bits p.arg 15 0 ≠ 0 →
    (q.2.2 = .other → ∃ t, exec (.completion p) s = .next t ∧ s.sameWork t ∧ t.ports = s.ports ∧
      t.fabric.purposes = s.fabric.purposes.filter (fun r => r ≠ q)) ∧
    (∀ i at_ o d x, q.2.2 = .write i at_ o d → s.lcore i = some x → x.syncOut = [] →
      ∃ t, exec (.completion p) s = .next t ∧ t.lcore i = some { x with unacked := x.unacked - 1 } ∧ t.mem = s.mem ∧
        t.fabric.purposes = s.fabric.purposes.filter (fun r => r ≠ q))) ∧
  (∀ (s : State) (p : Packet), s.arrives 0x14 p = true → swf (fun _ => (none : Option LCore)) s.lcores = true →
    ∃ t, exec (.generationNotice p) s = .next t ∧ t.mem = s.mem ∧ t.fabric = s.fabric ∧
      ∀ i x, s.lcore i = some x → t.lcore i = some { x with prefetches := x.prefetches.map (fun e =>
        if e.watches.contains (p.src, p.tag) then { e with generation := min (2 ^ 32 - 1) (e.generation + 1) } else e) }) ∧
  (∀ (s : State) (p : Packet), p.dest = s.coord → (p.good = false ∨ s.fabric.purposes.find? (fun q => q.1 = p.src && q.2.1 = p.tag) = none) →
    p.ptype = 0x10 → ∃ t, exec (.readData p) s = .next t ∧ s.sameWork t ∧ t.ports = s.ports)

/-- At the root of a barrier a device arrival whose parameters agree is noted with its number and completed while the
sum of the numbers is below the count; one whose parameters differ is answered with reason 0x53 and the barrier's
number. A release message for the present phase releases the phase at the named held rank. A remote signal joins the
semaphore's requests through the router's edge input. Device memory stays. -/
def Obligations.FabricBarriersAndSignals : Prop :=
  (∀ (s : State) (p : Packet) (j : Job) (q : BarrierParams) (root : Nat) (rest : List Nat) (e : Barrier), s.arrives 0x28 p = true →
    s.job p.context = some j → q = { unit := BitVec.ofNat 32 (field p.data 4 4), span := BitVec.ofNat 32 (field p.data 8 4)
                                     depth := field p.data 12 4, count := field p.data 16 4 } →
    groupRanks j.shape j.ranks q.unit q.span = root :: rest → j.held.contains root = true → e = s.barrier (bkey p.context root p.addr.toNat) →
    ((e.root = none ∨ e.root = some q) → (e.devices.foldl (fun n d => n + d.2) 0) + bits p.arg 31 0 < q.count →
      exec (.barrierDeviceArrival p) s = .next ((s.setBarrier (bkey p.context root p.addr.toNat) { e with
        root := some q, devices := e.devices ++ [(field p.data 0 4, bits p.arg 31 0)] }).complete p)) ∧
    (∀ q', e.root = some q' → q' ≠ q → exec (.barrierDeviceArrival p) s =
      .next (s.answer p 0x13 (BitVec.ofNat 64 (0x53 * 2 ^ 32 + p.addr.toNat % 2 ^ 32)) []))) ∧
  (∀ (s : State) (p : Packet) (j : Job) (r b : Nat), s.arrives 0x29 p = true → s.job p.context = some j → r = field p.data 0 4 → b = p.addr.toNat →
    j.held.contains r = true → (s.barrier (bkey p.context r b)).phase = bit p.arg 0 →
    ∃ t, exec (.barrierReleaseMessage p) s = .next t ∧ t.mem = s.mem ∧ t.lcores = s.lcores ∧
      (t.barrier (bkey p.context r b)).phase = !(s.barrier (bkey p.context r b)).phase ∧ (t.barrier (bkey p.context r b)).arrived = [] ∧
      t.flights = s.flights ++ (s.barrier (bkey p.context r b)).armed.map (fun l => Flight.release p.context r l b (bit p.arg 0)) ∧
      (∀ i, i ≠ bkey p.context r b → t.barrier i = s.barrier i)) ∧
  (∀ (s : State) (p : Packet) (j : Job) (i : Nat), s.arrives 0x2A p = true → s.job p.context = some j → j.held.contains (field p.data 0 4) = true →
    i = skey p.context (field p.data 0 4) (p.addr.toNat % 1024) →
    ∃ t, exec (.remoteSemaphoreSignal p) s = .next t ∧ t.mem = s.mem ∧ t.lcores = s.lcores ∧
      t.sem i = { s.sem i with requests := (s.sem i).requests ++ [{ ask := .signal, k := bits p.arg 31 0, cycle := s.now, input := 22 }] } ∧
      (∀ n, n ≠ i → t.sem n = s.sem n) ∧ t.fabric.tx = s.fabric.tx ++ [s.packet 0x11 p.src p.context p.tag 0 1 []])

/-- At a device that owns no shard of the job: an operand of a step without a decision waits; at a node's site with
the decision known and the sibling absent from the store its values wait for their partner; when the sibling's values
for the same elements wait, the binary32 sums, left operand first, rise from the parent. A root operand is kept at the
owner, then every update that has become possible runs. A freed slot lets exactly the ready update of its shard run.
Every operand is completed. -/
def Obligations.OperandsRiseToTheRoot : Prop :=
  (∀ (s : State) (p : Packet) (i k : Nat) (second : Bool) (j : Job) (d : Shard) (g : Group) (step : DWord) (level : Nat),
    k = p.context → s.job k = some j → (∀ e ∈ j.shards, j.owns e = false) → j.shards.find? (fun e => e.shard = bits p.arg 31 0) = some d →
    j.group d.group = some g → step = fullStep j.earliest (bits p.arg 63 40) → level = bits p.arg 39 32 →
    (second = false → s.arrives 0x20 p = true) → (second = true → s.arrives 0x27 p = true) →
    (g.decision step = none →
      exec (if second then .nodeOperandSecondTree p i else .nodeOperand p i) s =
        .next ((s.setJob k (some { j with undecided := j.undecided ++ [(p, i, second)] })).complete p)) ∧
    (∀ es ps vals site sib, g.decision step = some es → ps = j.positions g es → level + 1 < treeHeight ps → sib = (if i % 2 = 0 then i + 1 else i - 1) →
      nodePresent ps level sib = true → site = (ps.getD (nodeSite ps second (level + 1) (i / 2)) { rank := 0, present := false, origin := none }).rank →
      j.held.contains site = true → vals = operandValues p (d.cfmt = 2 && nodeSingle ps level i) → vals ≠ [] →
      (j.partner second d.shard step level sib vals = ([], j) →
        exec (if second then .nodeOperandSecondTree p i else .nodeOperand p i) s = .next ((s.setJob k (some (j.stash
          { second := second, shard := d.shard, step := step, level := level, node := i, values := vals }))).complete p)) ∧
      (∀ wait j1, j.partner second d.shard step level sib vals = (wait, j1) → (∀ v ∈ vals, wait.any (fun w => w.1 = v.1) = true) →
        exec (if second then .nodeOperandSecondTree p i else .nodeOperand p i) s = .next (((State.rise k d second step ps 31 (level + 1) (i / 2)
          (vals.map (fun v => (v.1, if i % 2 = 0 then add32 v.2 (valAt wait v.1) else add32 (valAt wait v.1) v.2)))
          (s.setJob k (some j1))).tryUpdates k).complete p)))) ∧
  (∀ (s : State) (p : Packet) (k : Nat) (second right : Bool) (j : Job) (d : Shard) (g : Group) (step : DWord) (es : List DecisionEntry) (ps : List Pos),
    k = p.context → s.arrives 0x21 p = true → s.job k = some j → j.shards.find? (fun e => e.shard = bits p.arg 31 0) = some d → j.owns d = true →
    j.group d.group = some g → step = fullStep j.earliest (bits p.arg 63 40) → g.decision step = some es → ps = j.positions g es →
    0 < treeHeight ps → right = decide (bits p.arg 39 32 = 0xFE) →
    exec (.rootOperand p second) s = .next (((s.setJob k (some (j.stash { second := second, shard := d.shard, step := step, level := 0xFF
                                                                          node := if right then 1 else 0
                                                                          values := operandValues p (d.cfmt = 2 &&
        nodeSingle ps (treeHeight ps - 1) (if right then 1 else 0)) }))).tryUpdates k).complete p)) ∧
  (∀ (s : State) (k n : Nat) (j : Job) (d : Shard), s.job k = some j → j.shards.find? (fun e => e.shard = n) = some d →
    (∀ ps, s.updateReady k j d = true → d.slotFree (d.newest + 1) = true → j.stepPositions d = some ps →
      exec (.updateSlotFreed k n) s = .next (s.updateShard k j d ps)) ∧
    ((s.updateReady k j d = false ∨ d.slotFree (d.newest + 1) = false) → exec (.updateSlotFreed k n) s = .next s))

/-- The first ready notice for a step opens its readiness with the notice's tick; further ones join it; when the
coordinator has the decision it announces it, and a decided step is not decided again. A deadline makes the group's
first undecided step be decided at the tick of its first notice plus the deadline. A decision packet is noted for its
step at the device before its contributions start, and the updates that it makes possible run. Each packet is
completed. -/
def Obligations.ReadinessIsDecidedOnce : Prop :=
  (∀ (s : State) (p : Packet) (k r : Nat) (j : Job) (g : Group) (step : DWord), s.arrives 0x22 p = true → k = p.context → s.job k = some j →
    j.group (bits p.arg 31 0) = some g → step = fullStep j.earliest (bits p.arg 63 40) → r = field p.data 0 4 →
    (g.ready.find? (fun q => q.step = step) = none →
      exec (.readyNotice p) s = .next (((s.setJob k (some (j.setGroup { g with ready := g.ready ++ [{ step := step, first := s.clock.tick
                                                                                                      members := if bit p.arg 32 then [] else [r]
                                                                                                      backups := if bit p.arg 32 then [r] else []
                                                                                                      decided := false }] }))).tryDecide k
        (bits p.arg 31 0) step).complete p)) ∧
    (∀ q, g.ready.find? (fun q => q.step = step) = some q → q.decided = false → g.ready.any (fun q => q.step = step && g.lateAt q s.clock.tick) = false →
      exec (.readyNotice p) s = .next (((s.setJob k (some (j.setGroup { g with ready := g.ready.map (fun e => if e.step = step then
        (if bit p.arg 32 then { q with backups := q.backups ++ [r] } else { q with members := q.members ++ [r] }) else e) }))).tryDecide k
        (bits p.arg 31 0) step).complete p))) ∧
  (∀ (s : State) (k n : Nat) (j : Job) (g : Group) (q : Readiness) (es : List DecisionEntry), s.job k = some j → j.group n = some g → j.follows = false →
    g.ready.find? (fun e => e.step = q.step) = some q →
    (q.decided = true → s.tryDecide k n q.step = s) ∧
    (q.decided = false → j.decisionFor g q (g.lateAt q s.clock.tick) = none → s.tryDecide k n q.step = s) ∧
    (q.decided = false → j.decisionFor g q (g.lateAt q s.clock.tick) = some es → s.tryDecide k n q.step = s.announce k g q.step es)) ∧
  (∀ (s : State) (k n : Nat) (j : Job) (g : Group) (q : Readiness), s.job k = some j → j.group n = some g → g.awaited = some q →
    exec (.coordinatorDeadline k n) s = .next ((s.until (q.first.toNat + g.deadline)).tryDecide k n q.step)) ∧
  (∀ (s : State) (p : Packet) (k n : Nat) (j : Job) (g : Group) (step : DWord), s.arrives 0x23 p = true → k = p.context → s.job k = some j →
    n = bits p.arg 31 0 → j.group n = some g → step = fullStep j.earliest (bits p.arg 63 40) → g.decision step = none →
    exec (.decision p) s = .next (((s.decided k n step (decisionEntries p.data)).tryUpdates k).complete p) ∧
    ∃ j1 g1, (s.decided k n step (decisionEntries p.data)).job k = some j1 ∧ j1.group n = some g1 ∧ g1.decision step = some (decisionEntries p.data))

/-- A release counts the rank for version e - delta of each shard owned here whose consumers hold the rank, and
retires what is released and superseded. A first completion report of a device for a step is noted at the lead; when
everything for the next commit is there the commit tick is 2,500 ticks ahead. A commit notice sets the tick and step,
and at that tick the step commits: the next version of every shard is committed. A ratio partial is taken. A
checkpoint part whose write ends well lies at its destination, in host memory or in device memory, with state 3 and
its length shown; a write to host memory is held while the context's function is in D3hot. -/
def Obligations.VersionsCommitAndRetire : Prop :=
  (∀ (s : State) (p : Packet) (k r : Nat) (j : Job), k = p.context → r = field p.data 0 4 → s.arrives 0x24 p = true → s.job k = some j →
    ∃ t, exec (.release p) s = .next t ∧ t.mem = s.mem ∧ t.lcores = s.lcores ∧ t.job k = some { j with shards := j.shards.map (fun d =>
      if j.owns d && inBlock j.shape d.consumerUnit d.consumerSpan r && d.lag ≤ p.arg.toNat then
        (d.release r (p.arg - BitVec.ofNat 64 d.lag)).retireAll s.clock.tick else d) }) ∧
  (∀ (s : State) (p : Packet) (k : Nat) (j : Job), k = p.context → s.arrives 0x26 p = true → s.job k = some j →
    (j.reports.any (fun r => r.1 = p.arg && r.2.1 = p.src) = false → exec (.completionReport p) s = .next (((s.setJob k (some { j with
      reports := j.reports ++ [(p.arg, p.src, reportPairs p.data)] })).tryCommit k).complete p)) ∧
    (j.reports.any (fun r => r.1 = p.arg && r.2.1 = p.src) = true → exec (.completionReport p) s = .next (s.complete p)) ∧
    (∃ t, exec (.commitNotice p) s = .next t ∧ t.mem = s.mem ∧ t.lcores = s.lcores ∧
      t.job k = some { j with commit := some (BitVec.ofNat 64 (field p.data 0 8), p.arg) })) ∧
  (∀ (s : State) (k : Nat) (j : Job), s.job k = some j → j.replicas = 0 → j.forced = [] → s.commitReady k j j.nextCommit = true →
    (s.tryCommit k).job k = some { j with commit := some (s.clock.tick + 2500, j.nextCommit) }) ∧
  (∀ (s : State) (k : Nat) (j : Job) (tick v : DWord), s.job k = some j → j.commit = some (tick, v) →
    exec (.commitTick k) s = .next ((s.until tick.toNat).commitStep k tick v)) ∧
  (∀ (s : State) (k : Nat) (j : Job) (v : DWord) (d : Shard) (w : Version), s.job k = some j → d ∈ j.shards → w ∈ d.versions → w.v = v + 1 →
    ∃ j1 d1 w1, (s.commitVersions k v).job k = some j1 ∧ d1 ∈ j1.shards ∧ d1.shard = d.shard ∧ w1 ∈ d1.versions ∧ w1.v = v + 1 ∧
      w1.committed = true ∧ w1.released = w.released ∧ (s.commitVersions k v).mem = s.mem) ∧
  (∀ (s : State) (p : Packet), s.arrives 0x2B p = true → exec (.ratioPartial p) s =
    .next ((s.ratioArrive p.context (bits p.arg 31 0) (BitVec.ofNat 32 (field p.data 0 4)) (BitVec.ofNat 32 (field p.data 4 4))).complete p)) ∧
  (∀ (s : State) (k layer : Nat) (j : Job) (a b : Word), s.job k = some j → (j.partials.filter (fun q => q.1 = layer)).length + 1 <
    (j.shards.filter (fun d => d.layer = layer)).length →
    s.ratioArrive k layer a b = s.setJob k (some { j with partials := j.partials ++ [(layer, a, b)] })) ∧
  (∀ (s : State) (k tier a : Nat) (j : Job) (bs : List Byte) (rest : List (Bool × Nat × Nat × List Byte)), k < 16 → s.job k = some j →
    j.parts = (false, tier, a, bs) :: rest → (∀ d ∈ j.shards, j.owns d = false) →
    (tier = 4 ∨ s.inPartition k a (a + bs.length) = true) → bs.length < 2 ^ 64 →
    ∃ t, exec (.checkpointWriteDone k true) s = .next t ∧ t.job k = some { j with parts := rest } ∧ (t.reg (ctxObj k 0x25) 0x08).toNat = 3 ∧
      t.reg64 (ctxObj k 0x25) 0x09 = bs.length ∧ (tier = 4 → t.mem = s.mem ∧
        (s.host.d3.contains k = false → t.host.writes = s.host.writes ++ [(a, bs)]) ∧
        (s.host.d3.contains k = true → t.host.writes = s.host.writes ∧ t.host.heldWrites = s.host.heldWrites ++ [(k, a, bs)])) ∧
      (tier ≠ 4 → t.mem = putBytes s.mem a bs ∧ t.host.writes = s.host.writes))

/-- A rank map of present devices is kept for the waiting slot. An eligible slot's acceptance begins 500,000 ticks
before its launch; a bad image faults the slot with cause 1; a slot that has a seat, cores and memory is accepted:
state 3 with a new sequence number. A notice of another device is noted at the lead; a confirmation sets the tick; the
lead confirms when every device has accepted, else the slot faults with cause 0x0D. The confirmed device starts its
pod clocks 400 ticks before the launch and, at the launch, runs the slot: state 4 and the running-slot register. A
cancel faults the slot with its cause. -/
def Obligations.AcceptanceAndLaunchMoveTheSlot : Prop :=
  (∀ (s : State) (k j : Nat) (m : List Half), k < 16 → j < 8 → s.job k = none → s.waits k j = true → (s.slot k j).leads = false → s.mapPresent m = true →
    s.clock.tick.toNat + 500000 < (s.slot k j).launch.toNat → exec (.rankMap k j m) s = .next (s.setRankMap k j m)) ∧
  (∀ (s u : State) (k j : Nat), k < 16 → j < 8 → s.eligible k j = true →
    u = (s.until ((s.slot k j).launch.toNat - 500000)).wakeMemory.useMemory →
    exec (.acceptanceBegin k j) s = .next ((s.until ((s.slot k j).launch.toNat - 500000)).beginAcceptance k j) ∧
    (u.imageGood k j = false → ∃ t, exec (.acceptanceBegin k j) s = .next t ∧ (t.slot k j).state = 6 ∧ (t.slot k j).cause = 1 ∧ t.mem = s.mem ∧
      t.lcores = s.lcores)) ∧
  (∀ (s : State) (k j : Nat) (whole : List Half) (parts : List Part) (input : List Byte) (seat : Seat) (cores : List PlacedCore)
    (p : List Placed × List (Nat × Nat × Nat) × List (Nat × Nat × Nat)),
    seat = s.seat (s.slot k j) (s.img (s.slot k j).image.toNat 8 4) (s.shieldOf (s.slot k j).image.toNat).1 whole →
    (seat.held ≠ [] ∨ (s.slot k j).stands = true) →
    s.findRoom k (fun t => t.placeCores k (s.slot k j).image.toNat (s.img (s.slot k j).image.toNat 0x0E 2) seat.held
      (bit (s.reg (ctxObj k 0) 1) 3) (fun _ _ => none)) = .fits cores →
    s.planMemory k (s.slot k j).image.toNat seat.map seat.lead seat.held = some p →
    s.placeSlot k j whole parts input =
      s.acceptSlot k j whole { held := seat.held, cores := cores, tensors := p.1, saves := p.2.1, pages := p.2.2 } parts input) ∧
  (∀ (s : State) (k j : Nat) (whole : List Half) (plan : Plan) (parts : List Part) (input : List Byte),
    (s.acceptSlot k j whole plan parts input).slot k j = { s.slot k j with
      state := 3
      sequence := if (s.slot k j).rerun then (s.slot k j).sequence else BitVec.ofNat 64 s.nextSequence
      imageDigest := BitVec.ofNat 64 (s.img (s.slot k j).image.toNat 0x30 8) }) ∧
  (∀ (s : State) (k j : Nat) (jb : Job), k < 16 → j < 8 → s.acceptedJob k j = some jb →
    (∀ src q, jb.jobLead = s.coord → jb.accepted.contains src = false →
      exec (.acceptanceNotice k j src q) s = .next (s.setJob k (some { jb with accepted := jb.accepted ++ [src] }))) ∧
    (∀ tick, exec (.launchConfirmation k j tick) s = .next (s.setJob k (some { jb with confirmed := some tick }))) ∧
    (jb.jobLead = s.coord → jb.confirmed = none → (∀ c ∈ s.coord :: s.everyone k jb, jb.accepted.contains c = true) →
      ∃ t, exec (.launchDecision k j) s = .next t ∧ t.slot k j = s.slot k j ∧ t.mem = s.mem ∧ t.lcores = s.lcores ∧
        ∃ j1, t.job k = some j1 ∧ j1.confirmed = some (s.slot k j).launch) ∧
    (jb.confirmed = some (s.slot k j).launch → s.waits k j = false →
      exec (.fastClockStart k j) s = .next ((s.until ((s.slot k j).launch.toNat - 400)).startPods (jb.coreMap.map (fun e => e.phys))) ∧
      ∃ t, exec (.launch k j) s = .next t ∧ t.mem = s.mem ∧ (t.slot k j).state = 4 ∧ (t.slot k j).rerun = false ∧
        (t.slot k j).steps = 0 ∧ (t.reg (ctxObj k 1) 1).toNat = j ∧ (t.job k).isSome = true)) ∧
  (∀ (s : State) (k j cause : Nat), k < 16 → j < 8 → 2 ≤ (s.slot k j).state → (s.slot k j).state ≤ 4 → s.job k = none →
    ∃ t, exec (.cancel k j cause) s = .next t ∧ (t.slot k j).state = 6 ∧ (t.slot k j).cause = cause ∧ t.mem = s.mem ∧ t.lcores = s.lcores ∧
      (∀ i, i < 8 → i ≠ j → t.slot k i = s.slot k i) ∧ (t.reg (ctxObj k 1) 9).toNat = min (2 ^ 32 - 1) ((s.reg (ctxObj k 1) 9).toNat + 1))

/-- At the lead, a ledger record of its own devices is kept for its step; watch counts and tap sums of a device that
is not the last are added to the step's; an end notice is noted and may end the job. A done notice ends the job here:
state 5 with its tick, last step and digest, and the context has no job. A teardown ends it with state 6 and cause
0x0C. A pre-empted job for which cores are free and no other goes before takes its new places, is no longer pre-
empted, and its placement epoch goes on. -/
def Obligations.JobsEndAndResume : Prop :=
  (∀ (s : State) (k kind : Nat) (j : Job) (src : Half) (step : DWord) (bytes body : List Byte), s.job k = some j → j.lead = true →
    j.rankMap.contains src = true → (j.replica ≠ 0 ∨ j.replicas = 0) → parseRecords 1 bytes = [(kind, step, body)] → kind ≠ 0x10 →
    exec (.ledgerRecord k src bytes) s = .next (s.setJob k (some { j with ledger := j.ledger ++ [(kind, field body 0 4, step, body)] }))) ∧
  (∀ (s : State) (k : Nat) (j : Job) (src : Half) (bytes : List Byte), s.job k = some j → j.lead = false →
    exec (.ledgerRecord k src bytes) s = .next ((s.setJob k (some { j with
      input := j.input ++ bytes, replay := j.replay || j.replica = 0 })).applyInput k)) ∧
  (∀ (s : State) (k : Nat) (j : Job) (src d : Half) (step : DWord), s.job k = some j → j.lead = true → d ∈ j.devices → d ≠ src →
    (∀ cs : List Counts, j.watches.isEmpty = false → j.watchGot.find? (fun g => g.1 = step) = none → s.holds k 255 = true →
      ∃ t, exec (.watchPartials k src step cs) s = .next t ∧ t.mem = s.mem ∧ t.lcores = s.lcores ∧ t.job k = some { j with
        watchGot := j.watchGot.filter (fun g => g.1 ≠ step) ++ [(step, [src], addCounts (List.replicate j.watches.length Counts.zero) cs)] }) ∧
    (∀ sums : List (DWord × DWord), j.taps.isEmpty = false → j.tapGot.find? (fun g => g.1 = step) = none →
      exec (.tapSums k src step sums) s = .next (s.setJob k (some { j with
        tapGot := j.tapGot.filter (fun g => g.1 ≠ step) ++ [(step, [src], addSums (List.replicate j.taps.length (0, 0)) sums)] })))) ∧
  (∀ (s : State) (k : Nat) (j : Job) (src : Half) (last : DWord), s.job k = some j → j.lead = true →
    exec (.endNotice k src last) s = .next (((s.setJob k (some { j with
      ended := if j.ended.contains src then j.ended else j.ended ++ [src] })).tryCommit k).tryDone k)) ∧
  (∀ (s : State) (k : Nat) (j : Job) (tick last digest : DWord), s.job k = some j →
    ∃ t, exec (.doneNotice k tick last digest) s = .next t ∧ t.job k = none ∧ t.mem = s.mem ∧ t.errors = s.errors ∧
      t.slot k j.j = { s.slot k j.j with state := 5, endTick := tick, lastStep := last, digest := digest, preempted := false } ∧
      t.reg (ctxObj k 1) 1 = 0xFF) ∧
  (∀ (s : State) (k cause : Nat) (j : Job) (c : Half), s.job k = some j →
    ∃ t, exec (.teardown k cause c) s = .next t ∧ t.job k = none ∧ t.mem = s.mem ∧ t.errors = s.errors ∧
      t.slot k j.j = { s.slot k j.j with state := 6, cause := 0x0C, causeRecord := 0xFFFFFFFF, preempted := false }) ∧
  (∀ (s : State) (k : Nat) (j : Job) (cores : List PlacedCore), k < 16 → s.job k = some j → s.newPlaces k j = some cores → s.resumable k = true →
    (∀ i, i < 16 → s.precedes i k = false) →
    ∃ t j1, exec (.jobResume k) s = .next t ∧ (t.slot k j.j).preempted = false ∧ (t.slot k j.j).state = (s.slot k j.j).state ∧
      t.job k = some j1 ∧ j1.coreMap = cores ∧ j1.epoch = j.epoch + 1 ∧ j1.preemptedAt = none)

/-- At the job lead a replica's first digest for a compared step is noted and compared; equal digests of every replica
are agreed, and while one is missing nothing follows. A replica lead that hears of agreement has the step cleared for
its commit; one that hears of a difference makes the step a compared one and, when it is no lead, sends its ranks'
digests. A replay order makes a device of the shielded job take the order, and replay digests are noted for the
judgement. -/
def Obligations.ReplicasAreCompared : Prop :=
  (∀ (s : State) (k r : Nat) (j : Job) (step digest : DWord), k < 16 → s.job k = some j → j.lead = true → j.replicas ≠ 0 → j.jobLead = s.coord →
    r ≠ j.replica → (j.comparison step = true ∨ j.disputed.isSome = true) → j.digestBy r step = none →
    exec (.replicaDigest k r step digest) s = .next (((s.setJob k (some { j with
      shieldDigests := j.shieldDigests ++ [(r, step, digest)] })).compareDigests k step).tryCommit k)) ∧
  (∀ (s : State) (k : Nat) (j : Job) (v : DWord), s.job k = some j → j.disputed = none →
    (j.differs v = none → s.compareDigests k v = s) ∧ (j.differs v = some false → s.compareDigests k v = s.agree k v)) ∧
  (∀ (s : State) (k : Nat) (j : Job) (step : DWord), k < 16 → s.job k = some j → j.replicas ≠ 0 →
    (j.lead = true → exec (.agreement k step true) s = .next ((s.setJob k (some { j with cleared := some step })).tryCommit k)) ∧
    (j.lead = false → exec (.agreement k step false) s = .next ((s.setJob k (some { j with
      forced := if j.forced.contains step then j.forced else j.forced ++ [step] })).sendDigests k j))) ∧
  (∀ (s : State) (k r : Nat) (j : Job) (u v : DWord), k < 16 → s.job k = some j → j.replicaMap ≠ [] → (j.standby = true ∨ u = v) →
    u + 1 ≠ j.start →
    exec (.replayOrder k u v r) s = .next ((s.setJob k (some { j with
      order := some (u, v, r), restored := [], lead := false, input := if u = v then j.input else [] })).askHeads k { j with
      order := some (u, v, r), restored := [], lead := false, input := if u = v then j.input else [] } r)) ∧
  (∀ (s : State) (k : Nat) (j : Job) (src : Half) (step : DWord) (ranks : List (Nat × DWord × DWord)), k < 16 → s.job k = some j → j.jobLead = s.coord →
    exec (.replayDigests k src step ranks) s = .next ((s.setJob k (some (j.addJudged src step ranks))).judge k) ∧
    (j.disputed = none → exec (.replayDigests k src step ranks) s = .next (s.setJob k (some (j.addJudged src step ranks)))))

/-- The lead of a context's job answers a query with its slot's state, end tick, last step and digest, and changes
nothing else of its work. The answer state 5 makes an interrupted slot done with those values; any other answer, and
12,500,000 ticks without one, make it accepted for a rerun with launch tick 0. The query waits no longer. -/
def Obligations.StatusQueriesSettleSlots : Prop :=
  (∀ (s : State) (k : Nat) (q : Slot) (src : Half) (n : DWord), k < 16 → s.leadSlot k = some q →
    ∃ t, exec (.statusQuery k src n) s = .next t ∧ s.sameWork t ∧ t.power = s.power ∧ t.errors = s.errors ∧ t = s.control k q.tag src 0x0E
      (leBytes 4 q.state ++ leBytes 4 0 ++ leBytes 8 q.endTick.toNat ++ leBytes 8 q.lastStep.toNat ++ leBytes 8 q.digest.toNat)) ∧
  (∀ (s : State) (k j n : Nat) (tick last digest : DWord), k < 16 → j < 8 → s.interrupted k j = true →
    ∃ t, exec (.statusAnswer k j n tick last digest) s = .next t ∧ t.mem = s.mem ∧ t.jobs = s.jobs ∧ (∀ q ∈ t.power.queries, q.1 ≠ k ∨ q.2.1 ≠ j) ∧
      (n = 5 → t.slot k j = { s.slot k j with state := 5, endTick := tick, lastStep := last, digest := digest, preempted := false }) ∧
      (n ≠ 5 → t.slot k j = { s.slot k j with state := 3, rerun := true, launchReg := 0, launch := 0, preempted := false })) ∧
  (∀ (s : State) (k j : Nat) (q : Nat × Nat × DWord), k < 16 → j < 8 → s.power.queries.find? (fun q => q.1 = k && q.2.1 = j) = some q →
    ∃ t, exec (.statusQueryTimeout k j) s = .next t ∧ t.mem = s.mem ∧ (∀ q ∈ t.power.queries, q.1 ≠ k ∨ q.2.1 ≠ j) ∧
      t.slot k j = { s.slot k j with state := 3, rerun := true, launchReg := 0, launch := 0, preempted := false } ∧
      t.clock = (s.until (q.2.2.toNat + 12500000)).clock)

/-- A core whose turn has come starts its tile with its partner when both pods have clocks, else it asks for them. Two
right results mark the visit; one wrong result enters record 0x0002 and marks the repetition; two equal wrong results
withdraw the tile and charge no core; a core that fails its repetition is retired and the lowest sprout of its pod
takes its slot. A core without a visit for 600 s is overdue with record 0x0004. A control core that retires gives its
role to the spare one. A pod's clock starts and stops 400 ticks after its cause. Device memory and the logical cores
stay. -/
def Obligations.RadishTestsRetireCores : Prop :=
  (∀ (s : State) (p : Nat) (n : DWord), p < 64 →
    ((s.pod p).startAt = some n → ∃ t u : State, exec (.podClockStart p) s = .next t ∧ t = u.notePods ∧ (u.pod p).clocked = true ∧ (u.pod p).startAt = none ∧
      t.clock = (s.until (n.toNat + 400)).clock ∧ t.mem = s.mem ∧ t.lcores = s.lcores) ∧
    ((s.pod p).clocked = true → (s.pod p).idleSince = some n → ∃ t, exec (.podClockStop p) s = .next t ∧ (t.pod p).clocked = false ∧
      (t.pod p).idleSince = none ∧ t.clock = (s.until (n.toNat + 400)).clock ∧ t.mem = s.mem ∧ t.lcores = s.lcores)) ∧
  (∀ (s : State) (c d tile : Nat) (q : TestTile), c < 1152 → s.radish.tiles.find? (fun q => q.tile = tile) = some q → s.turn c tile q = true →
    s.partner q.narrow c = some d →
    (s.clocked c = true → s.clocked d = true → ∃ t, exec (.radishTileStart c tile) s = .next t ∧ t.radish.running = some (c, d, tile) ∧
      (t.core c).tile = true ∧ (t.core d).tile = true ∧ t.mem = s.mem ∧ t.lcores = s.lcores ∧ t.errors = s.errors) ∧
    (s.clocked d = false → exec (.radishTileStart c tile) s = .next (s.startPods [c, d]))) ∧
  (∀ (s : State) (c d tile : Nat) (q : TestTile), c ≠ d → s.radish.running = some (c, d, tile) →
    s.radish.tiles.find? (fun q => q.tile = tile) = some q → (s.core d).retest = none →
    ((s.core c).retest = none → ∃ t, exec (.radishTileEnd (some q.expected) (some q.expected)) s = .next t ∧ t.radish.running = none ∧
      (t.core c).tile = false ∧ (t.core d).tile = false ∧ (t.core c).visited = s.clock.tick ∧ (t.core c).passed = s.clock.tick ∧
      (t.core d).passed = s.clock.tick ∧ t.errors = s.errors ∧ t.mem = s.mem ∧ t.lcores = s.lcores) ∧
    (∀ a, a ≠ some q.expected → (s.core c).retest = none → ∃ t, exec (.radishTileEnd a (some q.expected)) s = .next t ∧
      s.entered t 0x0002 0 (unitField 1 0 c) (a.getD noStep) q.expected ∧ (t.core c).retest = some (tile, d) ∧ t.radish.running = none ∧
      t.radish.tiles = s.radish.tiles ∧ t.mem = s.mem ∧ t.lcores = s.lcores) ∧
    (∀ x, x ≠ q.expected → ∃ t, exec (.radishTileEnd (some x) (some x)) s = .next t ∧ s.entered t 0x0003 0 (unitField 1 0 c) x q.expected ∧
      t.radish.tiles = s.radish.tiles.map (fun e => if e.tile = tile then { e with withdrawn := true } else e) ∧
      (∀ n, (t.core n).retired = (s.core n).retired) ∧ t.mem = s.mem ∧ t.lcores = s.lcores) ∧
    (∀ a r n l, a ≠ some q.expected → (s.core c).retest = some r → (s.core c).retired = false → (∀ i, i < 16 → s.job i = none) →
      (s.podSlots (c / 18)).contains (c % 18) = true → s.sprouts (c / 18) = n :: l →
      ∃ t, exec (.radishTileEnd a (some q.expected)) s = .next t ∧ (t.core c).retired = true ∧ t.mem = s.mem ∧ t.lcores = s.lcores ∧
        (t.pod (c / 18)).slots = some ((s.podSlots (c / 18)).map (fun m => if m = c % 18 then n else m)) ∧ t.errors.next = s.errors.next + 3)) ∧
  (∀ (s : State) (c : Nat), c < 1152 → (s.core c).retired = false → (s.core c).overdue = false →
    ∃ t, exec (.coreOverdue c) s = .next t ∧ s.entered t 0x0004 0 (unitField 1 0 c) (s.core c).visited 0 ∧ (t.core c).overdue = true ∧
      t.clock = (s.until ((s.core c).visited.toNat + 15000000000)).clock ∧ t.mem = s.mem ∧ t.lcores = s.lcores) ∧
  (∀ (s : State) (n role : Nat), n < 9 → s.firmware.roles.getD n none = some role →
    (∀ m, role ≠ 8 → s.firmware.moving = false → s.firmware.roles.findIdx? (fun q => q = some 8) = some m →
      ∃ t, exec (.controlCoreRetired n) s = .next t ∧ t.firmware = { s.firmware with roles := (s.firmware.roles.set n none).set m (some role) } ∧
        t.errors.next = s.errors.next + 2 ∧ s.sameWork t) ∧
    (role = 8 → ∃ t, exec (.controlCoreRetired n) s = .next t ∧ t.firmware = { s.firmware with roles := s.firmware.roles.set n none } ∧
      t.errors.next = s.errors.next + 1 ∧ s.sameWork t) ∧
    (role ≠ 8 → s.firmware.roles.findIdx? (fun q => q = some 8) = none ∨ s.firmware.moving = true → ∃ t, exec (.controlCoreRetired n) s = .next t ∧
      t.firmware.roles = s.firmware.roles.set n none ∧ t.firmware.alone = s.firmware.alone ++ [role / 2] ∧ s.sameWork t ∧
      s.entered t 0x0005 3 (unitField 2 0 n) 0 (if (s.firmware.roles.findIdx? (fun q => q = some 8)).isSome then 1 else 0)))

/-- A THROTTLE_N assertion puts throttle in force at the next tick edge with alarm bit 1 of 0x0300.08 and record
0x0105, and a deassertion ends it; 10 s of it enter record 0x0303. A temperature at or above a threshold raises the
thermal level to 1 or 2 with its alarm and records, a temperature below changes no level; cooling for 25,000 ticks
lowers it. The inlet above 45 degrees sets its alarm bit alone. None of them changes memory, logical cores, slots or
jobs. -/
def Obligations.ThrottleAndHeat : Prop :=
  (∀ s : State,
    (s.power.alive = true → s.pins.throttleN = false → ∃ t, exec .throttleNAssert s = .next t ∧ t.throttled = true ∧
      t.pins = { s.pins with
        throttleN := true
        throttleSince := some s.clock.tick } ∧ t.clock = s.nextEdge.clock ∧
      t.alarmed 0x0300 0x08 1 ∧ s.entered t 0x0105 0 mgmt (BitVec.ofNat 64 s.duty) 0 ∧ t.mem = s.mem ∧ t.lcores = s.lcores ∧ t.slots = s.slots) ∧
    (s.pins.throttleN = true → ∃ t, exec .throttleNDeassert s = .next t ∧ t.throttled = decide (s.power.thermal ≠ 0) ∧
      t.clock = s.nextEdge.clock ∧ t.errors = s.errors ∧ t.mem = s.mem ∧ t.lcores = s.lcores ∧ t.slots = s.slots) ∧
    (∀ n : DWord, s.pins.throttleN = true → s.pins.throttleSince = some n → ∃ t, exec .throttleStuck s = .next t ∧ t.throttled = true ∧
      t.pins.throttleSince = none ∧ t.clock = (s.until (n.toNat + 250000000)).clock ∧ t.alarmed 0x0440 0x05 2 ∧ s.entered t 0x0303 0 mgmt n 0 ∧
      t.mem = s.mem ∧ t.lcores = s.lcores ∧ t.slots = s.slots)) ∧
  (∀ (s : State) (pods devices : List Int),
    (s.power.thermal = 0 → (reachesC 100 pods || reachesC 95 devices) = true → ∃ t, exec (.thermalLevel1Entry pods devices) s = .next t ∧
      t.power = { s.power with thermal := 1 } ∧ t.alarmed 0x0280 0x06 0 ∧ s.entered t 0x0105 0 mgmt (BitVec.ofNat 64 s.duty) 0 ∧
      s.sameWork t ∧ t.clock = s.clock) ∧
    ((reachesC 100 pods || reachesC 95 devices) = false → ∃ t, exec (.thermalLevel1Entry pods devices) s = .next t ∧ t = { s with dict := t.dict } ∧
      (∀ i j, (i ≠ 0x0280 ∨ 2 < j) → j < 256 → t.reg i j = s.reg i j) ∧ (pods ≠ [] → t.reg 0x0280 0x01 = BitVec.ofInt 32 (hottest pods))) ∧
    (s.power.thermal ≠ 0 → withinC 95 pods = true → withinC 90 devices = true → s.power.thermal ≤ 2 →
      ∃ t, exec (.thermalLevelExit pods devices) s = .next t ∧ t.power = { s.power with thermal := 0 } ∧
        t.clock = (s.until (s.clock.tick.toNat + 25000)).clock ∧ t.errors = s.errors ∧ t.mem = s.mem ∧ t.lcores = s.lcores) ∧
    (s.power.thermal = 2 → withinC 100 pods = true → (withinC 95 pods && withinC 90 devices) = false →
      ∃ t, exec (.thermalLevelExit pods devices) s = .next t ∧ t.power = { s.power with thermal := 1 } ∧ t.errors = s.errors ∧ t.mem = s.mem ∧
        t.lcores = s.lcores)) ∧
  (∀ (s : State) (pods : List Int) (inlet : Int),
    (s.power.thermal ≠ 2 → reachesC 105 pods = true → ∃ t, exec (.thermalLevel2Entry pods inlet) s = .next t ∧
      t.power = { s.power with thermal := 2 } ∧ t.alarmed 0x0280 0x06 1 ∧ t.errors.next = s.errors.next + 2 ∧
      t.reg 0x0280 0x03 = BitVec.ofInt 32 inlet ∧ s.sameWork t ∧ t.clock = s.clock ∧
      ∃ r l, t.errors.records = r :: l ∧ r.kind = 0x0304 ∧ r.detail0 = BitVec.ofInt 64 (hottest pods) ∧ r.detail1 = BitVec.ofInt 64 inlet) ∧
    ((s.power.thermal = 2 ∨ reachesC 105 pods = false) → ∃ t, exec (.thermalLevel2Entry pods inlet) s = .next t ∧ t.power = s.power ∧
      t.errors = s.errors ∧ s.sameWork t ∧ t.reg 0x0280 0x03 = BitVec.ofInt 32 inlet) ∧
    (∃ t, exec (.inletAbove45C inlet) s = .next t ∧ t.reg 0x0280 0x03 = BitVec.ofInt 32 inlet ∧ (720 < inlet → t.alarmed 0x0280 0x06 2) ∧
      s.sameWork t ∧ t.power = s.power ∧ t.errors = s.errors ∧ t.pins = s.pins))

/-- A sag, a RESET_N assertion, a reset command and the watchdog each stop every clock but the always-on clock: no
logical core, job or device memory is left, the slots are those of the journal, the save begins with the cause, and
each is recorded; a sag waits for the supply, RESET_N holds the device. A completed save keeps journal, ledger tail
and sequence, and start-up begins when neither supply nor RESET_N holds it back; so do the qualified supply and the
released RESET_N. Without supply the always-on domain stops. Power-on starts without slots, its counter one past the
newest save's. -/
def Obligations.ResetsStopTheDevice : Prop :=
  (∀ (s : State) (mv : Nat), s.power.alive = true →
    (s.down = false → ∃ t, exec (.sag mv) s = .next t ∧ s.stopped t ∧ t.power.saving = some 1 ∧ t.power.cause = 1 ∧ t.power.waitSupply = true ∧
      t.errors.next = s.errors.next + 2 ∧ t.alarmed 0x0300 0x08 0 ∧ t.pins.millivolts = mv ∧
      ∃ r l, t.errors.records = r :: l ∧ r.kind = 0x0100 ∧ r.detail0 = BitVec.ofNat 64 mv) ∧
    (s.down = true → ∃ t, exec (.sag mv) s = .next t ∧ s.sameWork t ∧ t.power = { s.power with waitSupply := true } ∧
      s.entered t 0x0100 0 mgmt (BitVec.ofNat 64 mv) noStep)) ∧
  (∀ s : State, s.power.alive = true → s.down = false →
    (∃ t, exec .resetNAssert s = .next t ∧ s.stopped t ∧ t.power.saving = some 2 ∧ t.power.cause = 2 ∧ t.power.heldReset = true ∧
      t.pins = { s.pins with resetN := true } ∧ s.entered t 0x0104 0 mgmt s.clock.tick 0) ∧
    (s.power.phase = 1 → s.power.control = true → ∃ t, exec .watchdog s = .next t ∧ s.stopped t ∧ t.power.saving = some 4 ∧ t.power.cause = 4 ∧
      s.entered t 0x0104 0 mgmt s.clock.tick 0) ∧
    (∀ m, m ≤ 1 → ∃ t, exec (.resetCommand m) s = .next t ∧ s.stopped t ∧ t.power.saving = some 3 ∧ t.power.cause = 3 ∧
      s.entered t 0x0104 0 mgmt s.clock.tick 0 ∧ t.resultFor m = some (answerOf 3 0x0310 3 0 0))) ∧
  (∀ (s : State) (m : Nat), 2 ≤ m → m ≤ 16 → s.power.alive = true →
    ∃ t, exec (.resetCommand m) s = .next t ∧ s.declined t m 3 0x0310 3 2) ∧
  (∀ (s : State) (c : Nat), s.power.saving = some c →
    ∃ t v, exec .saveComplete s = .next t ∧ t.power.saving = none ∧ t.power.save = some v ∧ v.cause = c ∧ v.tick = s.clock.tick ∧
      v.slots = journal s.slots ∧ v.tail = s.host.tail ∧ v.nextSequence = s.nextSequence ∧ t.mem = s.mem ∧ t.slots = s.slots ∧
      (s.power.alive = true → s.power.waitSupply = false → s.power.heldReset = false → s.power.failedAt = none → s.power.phase = 0 →
        s.power.step = 0 → t.power.step = 1 ∧ t.power.starts = s.power.starts + 1) ∧
      ((s.power.waitSupply = true ∨ s.power.heldReset = true) → t.power.step = s.power.step)) ∧
  (∀ s : State, s.power.waitSupply = true → s.power.saving = none →
    (s.power.alive = true → ∃ t, exec .supplyQualified s = .next t ∧ t.power.waitSupply = false ∧ t.mem = s.mem ∧ t.slots = s.slots ∧
      (s.power.heldReset = false → s.power.failedAt = none → s.power.phase = 0 → s.power.step = 0 → t.power.step = 1)) ∧
    (∃ t, exec .holdUpBankEmpty s = .next t ∧ t = { s with power := { s.power with alive := false } })) ∧
  (∀ s : State, ∃ t, exec .resetNDeassert s = .next t ∧ t.pins = { s.pins with resetN := false } ∧ t.power.heldReset = false ∧ t.mem = s.mem ∧
    t.slots = s.slots ∧
    (s.power.alive = true → s.power.saving = none → s.power.waitSupply = false → s.power.failedAt = none → s.power.phase = 0 → s.power.step = 0 →
      t.power.step = 1) ∧
    ((s.power.alive = false ∨ s.power.saving.isSome = true ∨ s.power.step ≠ 0) → t.power.step = s.power.step)) ∧
  (∀ s : State, ∃ t, exec .powerOnReset s = .next t ∧ t.power.alive = true ∧ t.slots = [] ∧ t.mem = [] ∧ t.lcores = [] ∧ t.jobs = [] ∧
    t.power.saving = none ∧ t.errors.next = s.errors.next + 1 ∧ (s.power.save = none → t.clock.tick = 0) ∧
    (∀ v, s.power.save = some v → t.clock.tick = v.tick + 1) ∧ (s.pins.resetN = false → t.power.step = 1) ∧ (s.pins.resetN = true → t.power.step = 0))

/-- START_UP begins step 1, or ends the step in progress with its record and begins the next; an image that fails its
check, and a step's time limit, fail the attempt: the device stops and the failures count, at three into management-
only. A retry begins an attempt with cause 5, a leave command one with cause 6. PERST_N takes the host link down, its
release trains it or brings it up; a link that goes down is recorded. A function entering D3hot holds its messages;
leaving it, with no ledger record waiting, sends them and releases the host-memory requests held for it. A function-level reset clears, reruns or asks for each of the context's slots. Memory and
logical cores stay. -/
def Obligations.StartUpAndHostInterface : Prop :=
  (∀ (s : State) (f : StepFacts), s.starting = true →
    (s.power.step = 0 → ∃ t, exec (.startUp f) s = .next t ∧ t.power.step = 1 ∧ t.power.starts = s.power.starts + 1 ∧ (t.stepRec 1).status = 1 ∧
      t.mem = s.mem ∧ t.lcores = s.lcores ∧ t.slots = s.slots) ∧
    (∀ n, s.power.step = n → n ≠ 0 → s.stepMayEnd n = true → s.badImage n = false → exec (.startUp f) s = .next (s.finishStep n f) ∧
      (n ≤ 10 → (s.finishStep n f).power.step = n + 1 ∧ ((s.finishStep n f).stepRec n).status = 2 ∧ ((s.finishStep n f).stepRec (n + 1)).status = 1) ∧
      (n = 13 → (s.finishStep n f).power.phase = 1 ∧ (s.finishStep n f).power.failed = 0 ∧ (s.finishStep n f).power.readyTick = s.clock.tick)) ∧
    (∀ n, s.power.step = n → n ≠ 0 → s.stepMayEnd n = false → exec (.startUp f) s = .next s) ∧
    (∀ n, s.power.step = n → n ≠ 0 → s.badImage n = true → ∃ t, exec (.startUp f) s = .next t ∧ s.stopped t ∧
      t.power.failed = min 3 (s.power.failed + 1) ∧ t.power.phase = (if 3 ≤ s.power.failed + 1 then 2 else 0) ∧ t.alarmed 0x3000 0x09 0)) ∧
  (∀ (s : State) (unit : Word) (n : DWord), s.starting = true → s.power.stepBegan = some n →
    (s.power.step ≠ 12 → ∃ t, exec (.startupStepTimeout unit) s = .next t ∧ (s.until (n.toNat + stepLimit s.power.step)).stopped t ∧
      t.power.failed = min 3 (s.power.failed + 1) ∧ t.power.phase = (if 3 ≤ s.power.failed + 1 then 2 else 0) ∧
      (s.power.failed < 2 → t.power.failedAt = some t.clock.tick ∧ t.errors.next = s.errors.next + 1)) ∧
    (s.power.step = 12 → ∃ t, exec (.startupStepTimeout unit) s = .next t ∧ t.power.step = 13 ∧ t.mem = s.mem)) ∧
  (∀ (s : State) (n : DWord), s.power.alive = true → s.power.failedAt = some n → s.power.saving = none → s.power.waitSupply = false →
    s.power.heldReset = false → ∃ t, exec .startupRetry s = .next t ∧ t.power.step = 1 ∧ t.power.cause = 5 ∧ t.power.failedAt = none ∧
      t.power.starts = s.power.starts + 1 ∧ t.clock = (s.until (n.toNat + 250000)).clock ∧ t.mem = s.mem ∧ t.errors = s.errors) ∧
  (∀ (s : State) (m : Nat), m ≤ 1 → s.power.alive = true →
    (s.power.phase = 2 → ∃ t, exec (.leaveManagementOnly m) s = .next t ∧ t.power.phase = 0 ∧ t.power.step = 1 ∧ t.power.cause = 6 ∧
      t.power.failed = 0 ∧ t.resultFor m = some (answerOf 3 0x0310 3 0 0) ∧ t.mem = s.mem ∧ t.slots = s.slots) ∧
    (s.power.phase ≠ 2 → ∃ t, exec (.leaveManagementOnly m) s = .next t ∧ t.power = s.power ∧ s.sameWork t ∧
      t.resultFor m = some (answerOf 3 0x0310 3 5 0))) ∧
  (∀ s : State,
    (s.down = false → s.power.alive = true → s.host.asks = [] → ∃ t, exec .perstNAssert s = .next t ∧ t.pins = { s.pins with perstN := true } ∧
      t.host = { s.host with
        state := 0
        speed := 0
        width := 0
        l0p := 0
        d3 := []
        bar2 := []
        msix := []
        writes := s.host.writes ++ s.host.heldWrites.map (fun w => w.2)
        heldWrites := [] } ∧ s.sameWork t ∧ t.power = s.power) ∧
    (s.down = false → s.power.alive = true → ∃ t, exec .perstNAssert s = .next t ∧ t.host.state = 0 ∧ t.host.d3 = [] ∧ t.host.msix = []) ∧
    ((s.down = true ∨ s.power.alive = false) → exec .perstNAssert s = .next { s with pins := { s.pins with perstN := true } }) ∧
    (s.power.control = false → exec .perstNDeassert s = .next { s with pins := { s.pins with perstN := false } }) ∧
    (s.power.control = true → ∃ t, exec .perstNDeassert s = .next t ∧ t.pins = { s.pins with perstN := false } ∧ t.mem = s.mem ∧
      ((s.power.phase = 1 ∨ 9 < s.power.step) → t.host.state = 2 ∧ t.host.speed = 6 ∧ t.host.width = 16) ∧
      (s.power.phase ≠ 1 → s.power.step ≤ 9 → t.host = { s.host with state := 1 })) ∧
    (s.host.state ≠ 0 → ∃ t, exec .pcieLinkDown s = .next t ∧ t.host.state = 0 ∧ t.host.width = 0 ∧
      s.entered t 0x0305 0 (unitField 6 0 0) (BitVec.ofNat 64 s.host.word.toNat) s.clock.tick ∧ s.sameWork t ∧ t.power = s.power)) ∧
  (∀ (s : State) (fn : Nat), fn < 16 →
    (∃ t, exec (.powerStateChange fn true) s = .next t ∧ t.host.d3.contains fn = true ∧ t.host.msix = s.host.msix ∧ t = { s with host := t.host }) ∧
    (s.host.tail = [] → ∃ t, exec (.powerStateChange fn false) s = .next t ∧ t.host.d3.contains fn = false ∧ t = { s with host := t.host } ∧
      (∀ g, g ≠ fn → t.host.d3.contains g = s.host.d3.contains g) ∧
      (s.host.state = 2 → t.host.sent = s.host.sent ++ s.host.msix.filter (fun q => q.1 = fn) ∧ ∀ q ∈ t.host.msix, q.1 ≠ fn) ∧
      t.host.writes = s.host.writes ++ (s.host.heldWrites.filter (fun w => w.1 = fn)).map (fun w => w.2) ∧
      (∀ w ∈ t.host.heldWrites, w.1 ≠ fn) ∧ (∀ a ∈ t.host.asks, a.heldFor ≠ some fn) ∧ t.host.asks.length = s.host.asks.length)) ∧
  (∀ (s : State) (k : Nat), k < 16 → s.job k = none → ∃ t, exec (.functionLevelReset k) s = .next t ∧ t.mem = s.mem ∧ t.lcores = s.lcores ∧
    t.jobs = s.jobs ∧ (∀ i j, i < 16 → j < 8 → i ≠ k → t.slot i j = s.slot i j) ∧ ∀ j, j < 8 →
      ((s.slot k j).state ≤ 2 → t.slot k j = {}) ∧ ((s.slot k j).state = 5 ∨ (s.slot k j).state = 6 → t.slot k j = s.slot k j) ∧
      (((s.slot k j).state = 3 ∨ ((s.slot k j).state = 4 ∧ (s.slot k j).leads = true)) → t.slot k j = { s.slot k j with
        state := 3
        rerun := true
        launchReg := 0
        launch := 0
        preempted := false }))

/-- A master reads a sub-entry that it reaches with result 0 and its value; reading the lowest sub-index of a wider
value latches all its parts, and its other parts then come from the latch. An index outside the master's reach gives
result 2, one that is not served or has no such sub-entry result 1, recorded for a function. A 64-bit read gives the
whole 64-bit value at once, and result 3 at a sub-index inside a value. Aggregate reads and describe give the device's
answer, answered and missing instances sum to those asked for. No read changes memory, cores, slots, jobs, links,
power or the clock. -/
def Obligations.ReadsAnswerTheWholeValue : Prop :=
  (∀ (s : State) (m idx sub : Nat) (f : Field), s.hears m idx = true → fieldAt idx sub = some f →
    (∃ t, exec (.read32 m idx sub) s = .next t ∧ s.sameWork t ∧ s.sameFabric t ∧ t.power = s.power ∧ t.clock = s.clock ∧ t.dict = s.dict ∧
      (sub = f.lo ∨ s.latched m idx f.lo sub = none → t.resultFor m = some (answerOf 1 idx sub 0 ((s.subValue m idx sub f).setWidth 64))) ∧
      (∀ w, sub ≠ f.lo → s.latched m idx f.lo sub = some w → t.resultFor m = some (answerOf 1 idx sub 0 (w.setWidth 64))) ∧
      (sub = f.lo → f.n ≠ 1 → ∀ i, i < f.n → t.latched m idx f.lo (f.lo + i) = some (part (s.value m idx f) i)) ∧
      (sub = f.lo + f.n - 1 → sub ≠ f.lo → s.latched m idx f.lo sub ≠ none → (t.master m).latch = none)) ∧
    (f.lo = sub → f.n = 2 → fieldAt idx (sub + 1) = some f → ∃ t, exec (.read64 m idx sub) s = .next t ∧ s.sameWork t ∧ s.sameFabric t ∧
      t.power = s.power ∧ t.clock = s.clock ∧ t.resultFor m = some (answerOf 2 idx sub 0 (BitVec.ofNat 64 (s.value m idx f)))) ∧
    (f.lo ≠ sub → ∃ t, exec (.read64 m idx sub) s = .next t ∧ s.declined t m 2 idx sub 3)) ∧
  (∀ (s : State) (m idx sub : Nat), m ≤ 16 → s.power.alive = true →
    (reaches m idx = false → ∃ t, exec (.read32 m idx sub) s = .next t ∧ s.declined t m 1 idx sub 2 ∧ (t.reg (0x0010 + (m - 1)) 2) = BitVec.ofNat 32 (2 * 2 ^ 24 + idx * 2 ^ 8 + sub) ∧
      t.alarmed (0x0010 + (m - 1)) 5 0) ∧
    (reaches m idx = true → (s.serves idx = false ∨ fieldAt idx sub = none) → ∃ t, exec (.read32 m idx sub) s = .next t ∧ s.declined t m 1 idx sub 1) ∧
    (∃ t, exec (.describe m idx sub) s = .next t ∧ s.sameWork t ∧ s.sameFabric t ∧ t.masters = s.masters ∧ t.power = s.power ∧
      t.resultFor m = some (s.describeOp m idx sub)) ∧
    (∀ n, (∃ t, exec (.aggregateRead32 m idx sub n) s = .next t ∧ s.sameWork t ∧ s.sameFabric t ∧ t.masters = s.masters ∧ t.power = s.power ∧
        t.resultFor m = some (s.aggregate m 5 idx sub n)) ∧
      (∃ t, exec (.aggregateRead64 m idx sub n) s = .next t ∧ s.sameWork t ∧ s.sameFabric t ∧ t.masters = s.masters ∧ t.power = s.power ∧
        t.resultFor m = some (s.aggregate m 6 idx sub n)))) ∧
  (∀ (s : State) (m op idx sub n base stride count : Nat) (f : Field), blockOf idx = some (base, stride, count) → n ≠ 0 →
    (idx - base) / stride + n ≤ count → fieldAt idx sub = some f → f.lo = sub → f.agg ≠ 0 →
    (s.aggregate m op idx sub n).result = 0 ∧ (s.aggregate m op idx sub n).answered + (s.aggregate m op idx sub n).missing = n ∧
    (f.agg = 2 → f.ty ≠ 3 → op = 5 → ∀ i, i < n → reaches m (idx + stride * i) = true → s.serves (idx + stride * i) = true →
      s.value m (idx + stride * i) f % 2 ^ 32 ≤ (s.aggregate m op idx sub n).value.toNat))

/-- A BAR0 access, a frame for this device and a frame of another device's master join the present window and change
nothing else, while fewer than 2,048 operations wait; otherwise they are held back, a frame counted. A repeated frame
gets the kept answer again. The arrivals of ended windows come in the order of windows, then masters, and one master's
in their own order; a window end applies them in that order, then settles contradictions and sends the notice. An
answer, or 1,000 ticks without it, ends a forwarded frame with what has been answered: without any, result 7 with one
missing. -/
def Obligations.FramesWaitForTheirWindow : Prop :=
  (∀ (s : State) (fn offset size : Nat) (v : DWord), fn < 16 → offset < 2 ^ 26 →
    (s.takesAccess fn = true → s.holdsBack = false →
      exec (.bar0Read fn offset size) s = .next (s.queueArrival (fn + 1) (.bar false offset size 0)) ∧
      exec (.bar0Write fn offset size v) s = .next (s.queueArrival (fn + 1) (.bar true offset size v))) ∧
    ((s.takesAccess fn = false ∨ s.holdsBack = true) → exec (.bar0Read fn offset size) s = .next s ∧ exec (.bar0Write fn offset size v) s = .next s)) ∧
  (∀ (s : State) (m : Nat) (a : Arrival), (s.queueArrival m a).serial.arrivals = s.serial.arrivals ++ [(s.clock.tick.toNat / 25, m, a)] ∧
    s.queueArrival m a = { s with serial := { s.serial with arrivals := (s.queueArrival m a).serial.arrivals } }) ∧
  (∀ (s : State) (f : WFrame), s.power.alive = true →
    (∀ r, s.repeated f = some r → exec (.waizerFrame f) s = .next { s with serial := { s.serial with tx := s.serial.tx ++ [r] } }) ∧
    (s.repeated f = none → s.holdsBack = true → ∃ t, exec (.waizerFrame f) s = .next t ∧ t = { s with dict := t.dict } ∧
      (t.reg 0x0000 5).toNat = min (2 ^ 32 - 1) ((s.reg 0x0000 5).toNat + 1)) ∧
    (s.repeated f = none → s.holdsBack = false → (badFrame f || s.isLocal f) = true →
      exec (.waizerFrame f) s = .next (s.queueArrival 0 (.frame f))) ∧
    (s.repeated f = none → s.holdsBack = false → (badFrame f || s.isLocal f) = false → ∃ t, exec (.waizerFrame f) s = .next t ∧
      t.mem = s.mem ∧ t.lcores = s.lcores ∧ t.slots = s.slots ∧ t.jobs = s.jobs ∧ t.serial.arrivals = s.serial.arrivals)) ∧
  (∀ (s : State) (p : Packet) (m : Nat) (f : WFrame), m ≤ 1 → s.arrives 0x08 p = true →
    exec (.dictionaryRequest p m f) s = .next (if s.holdsBack then s else s.queueArrival m (.request p f))) ∧
  (∀ s : State, (s.dueArrivals.Pairwise (fun a b => a.1 < b.1 ∨ (a.1 = b.1 ∧ a.2.1 ≤ b.2.1))) ∧
    (∀ w m, s.dueArrivals.filter (fun a => a.1 = w && a.2.1 = m) =
      (s.serial.arrivals.filter (fun a => 25 * (a.1 + 1) ≤ s.clock.tick.toNat)).filter (fun a => a.1 = w && a.2.1 = m)) ∧
    (s.power.alive = true → s.serial.arrivals = [] → ∃ t, exec .serialiserWindowEnd s = .next t ∧ t.serial.arrivals = [] ∧ t.serial.risen = [] ∧
      t.clock = (s.until (25 * (s.endingWindow + 1))).clock ∧ t.mem = s.mem ∧ t.lcores = s.lcores ∧ t.slots = s.slots) ∧
    (s.power.alive = true → ((s.until (25 * (s.endingWindow + 1))).dueArrivals.map (fun a => a.2.2.size)).sum ≤ 1024 →
      ∃ u, exec .serialiserWindowEnd s = .next u ∧ u = (((s.until (25 * (s.endingWindow + 1))).dueArrivals.foldl State.applyNoted
        { s.until (25 * (s.endingWindow + 1)) with
          serial := { (s.until (25 * (s.endingWindow + 1))).serial with
            arrivals := (s.until (25 * (s.endingWindow + 1))).serial.arrivals.filter
              (fun a => !(25 * (a.1 + 1) ≤ (s.until (25 * (s.endingWindow + 1))).clock.tick.toNat)) } }).settleWindows).notice)) ∧
  (∀ (s : State) (p : Packet) (q : Forwarded) (m : Nat), s.arrives 0x12 p = true →
    s.fabric.purposes.find? (fun r => r.1 = p.src && r.2.1 = p.tag) = some (p.src, p.tag, .frame m) →
    s.serial.forwarded.find? (fun q => q.waiting.contains (p.src, p.tag)) = some q → q.object = false → q.waiting = [(p.src, p.tag)] →
    ∃ t, exec (.dictionaryAnswer p) s = .next t ∧ s.sameWork t ∧ t.ports = s.ports ∧ t.fabric.purposes =
      s.fabric.purposes.filter (fun r => !(r.1 = p.src && r.2.1 = p.tag)) ∧ t.serial.tx.length = s.serial.tx.length + 1 ∧
      (q.frame.span = 0 → q.answers = [] → t.serial.tx.getLast? = some { dest := q.frame.source, kind := 2, seq := q.frame.seq, result := field p.data 0xD 1, entries := entriesOf p.data })) ∧
  (∀ (s : State) (tag : Half) (q : Forwarded), s.power.alive = true →
    s.serial.forwarded.find? (fun q => q.waiting.any (fun w => w.2 = tag)) = some q → q.frame.span = 0 → q.answers = [] →
    (q.object = false → ∃ t, exec (.remoteAnswerTimeout tag) s = .next t ∧ t.mem = s.mem ∧ t.lcores = s.lcores ∧
      t.clock = (s.until (q.tick.toNat + 1000)).clock ∧ t.serial.tx = s.serial.tx ++ [{ dest := q.frame.source, kind := 2, seq := q.frame.seq, result := 7, entries := unreached q.frame }]) ∧
    (∀ o, q.object = true → q.frame.ops = [o] → ∃ t, exec (.remoteAnswerTimeout tag) s = .next t ∧ t.mem = s.mem ∧ t.lcores = s.lcores ∧
      (t.master q.m).aState = 2 ∧ (t.master q.m).aResult = 7 ∧ (t.master q.m).aAnswered = 0 ∧ (t.master q.m).aMissing = 1))

/-- A write to a lower sub-index of a wider value is held for its master and changes nothing else; the write to the
highest sub-index applies the whole value, made of that master's held parts and, for parts it has not written, the
present ones, and all masters' held parts of the value are then discarded. A whole value with a reserved field that is
not 0 is refused with result 4, and nothing but the record of the refusal changes. A 64-bit write is both at once.
Read-only, absent and unreached sub-entries refuse with 3, 1 and 2. REGISTER_WRITE and an aligned 4-byte BAR0 write
act as WRITE_32. -/
def Obligations.WritesTakeEffectWhole : Prop :=
  (∀ (s : State) (m idx sub : Nat) (v : Word), exec (.registerWrite m idx sub v) s = exec (.write32 m idx sub v) s) ∧
  (∀ (s : State) (m offset : Nat) (v : DWord), m ≤ 16 → s.power.alive = true → offset % 4 = 0 →
    exec (.write32 m (offset / 1024) (offset % 1024 / 4) (v.setWidth 32)) s = .next (s.barAccess m true offset 4 v)) ∧
  (∀ (s : State) (m idx sub : Nat) (v : Word) (f : Field), s.hears m idx = true → (1 < m → idx ≠ ctxObj (m - 1) 0) → fieldAt idx sub = some f →
    (f.acc = 0 → ∃ t, exec (.write32 m idx sub v) s = .next t ∧ s.declined t m 3 idx sub 3) ∧
    (f.acc ≠ 0 → sub < f.lo + f.n - 1 → ∃ t, exec (.write32 m idx sub v) s = .next t ∧ (s.holdPart m idx sub f v).obeyed t m 3 idx sub ∧
      t.masters = (s.holdPart m idx sub f v).masters ∧ t.dict = s.dict ∧ s.sameWork t ∧
      (t.heldParts m idx f.lo).find? (fun p => p.1 = sub) = some (sub, v) ∧
      (∀ n, n ≠ sub → (t.heldParts m idx f.lo).find? (fun p => p.1 = n) = (s.heldParts m idx f.lo).find? (fun p => p.1 = n)) ∧
      (∀ n, n ≠ m → t.master n = s.master n)) ∧
    (f.acc ≠ 0 → sub = f.lo + f.n - 1 → s.wholeValue m idx f v &&& f.rsv ≠ 0 →
      ∃ t, exec (.write32 m idx sub v) s = .next t ∧ s.declined t m 3 idx sub 4) ∧
    (f.acc ≠ 0 → sub = f.lo + f.n - 1 → s.wholeValue m idx f v &&& f.rsv = 0 → (idx ≠ 2 ∨ f.lo ≠ 5) →
      (ruleOf m idx f (s.wholeValue m idx f v) s).2 = 0 → ∃ t, exec (.write32 m idx sub v) s = .next t ∧
        (f.n = 1 → (ruleOf m idx f (s.wholeValue m idx f v) s).1.obeyed t m 3 idx sub) ∧
        (f.n ≠ 1 → ((ruleOf m idx f (s.wholeValue m idx f v) s).1.dropParts idx f.lo).obeyed t m 3 idx sub ∧ ∀ n, t.heldParts n idx f.lo = []))) ∧
  (∀ (s : State) (m idx : Nat) (f : Field) (v : Word), 1 ≤ f.n → part (s.wholeValue m idx f v) (f.n - 1) = v ∧
    ∀ i, i < f.n - 1 → part (s.wholeValue m idx f v) i =
      (((s.heldParts m idx f.lo).find? (fun p => p.1 = f.lo + i)).map (fun p => p.2)).getD (part (s.value m idx f) i)) ∧
  (∀ (s : State) (m idx sub : Nat) (v : DWord) (f : Field), s.hears m idx = true → (1 < m → idx ≠ ctxObj (m - 1) 0) → fieldAt idx sub = some f →
    fieldAt idx (sub + 1) = some f → f.acc ≠ 0 → f.lo = sub → f.n = 2 →
    (v.toNat &&& f.rsv ≠ 0 → ∃ t, exec (.write64 m idx sub v) s = .next t ∧ s.declined t m 4 idx sub 4) ∧
    (v.toNat &&& f.rsv = 0 → (idx ≠ 2 ∨ f.lo ≠ 5) → (ruleOf m idx f v.toNat (s.holdPart m idx sub f (v.setWidth 32))).2 = 0 →
      ∃ t, exec (.write64 m idx sub v) s = .next t ∧
        ((ruleOf m idx f v.toNat (s.holdPart m idx sub f (v.setWidth 32))).1.dropParts idx f.lo).obeyed t m 4 idx sub)) ∧
  (∀ (s : State) (m idx sub : Nat) (v : Word), m ≤ 16 → s.power.alive = true →
    (reaches m idx = false → ∃ t, exec (.write32 m idx sub v) s = .next t ∧ s.declined t m 3 idx sub 2) ∧
    (reaches m idx = true → (1 < m → idx ≠ ctxObj (m - 1) 0) → (s.serves idx = false ∨ fieldAt idx sub = none) →
      ∃ t, exec (.write32 m idx sub v) s = .next t ∧ s.declined t m 3 idx sub 1))

/-- In the states that allow them, arm moves a written slot to armed with its launch tick and arming tick, or arms a
rerun again; withdraw returns an armed slot to written and faults an accepted one with cause 0x0A; abort faults a
running one with cause 0x0B; clear empties a written, done or faulted slot; otherwise each is refused with result 5
and the slots stay. A job field is written in a slot that is empty or written, and the slot is then written. A
partition field that keeps partitions aligned, in range and disjoint is stored, another is refused. An aggregate read
on this device is done at once. Every other slot and device memory stay. -/
def Obligations.SlotCommandsAndFields : Prop :=
  (∀ (s : State) (m k j : Nat), k < 16 → j < 8 → s.hears m (slotObj k j 0) = true →
    (s.armOk k (s.slot k j) = true → (s.slot k j).state = 1 → ∃ t, exec (.arm m k j) s = .next t ∧ t.resultFor m = some (answerOf 3 (slotObj k j 0) 2 0 0) ∧
      t.slot k j = { s.slot k j with
        state := 2
        launch := (s.slot k j).launchReg
        armedTick := s.clock.tick } ∧
      (∀ i n, i < 16 → n < 8 → (i ≠ k ∨ n ≠ j) → t.slot i n = s.slot i n) ∧ t.mem = s.mem ∧ t.lcores = s.lcores ∧ t.jobs = s.jobs ∧ t.dict = s.dict) ∧
    (s.armOk k (s.slot k j) = true → (s.slot k j).state = 3 → (s.slot k j).rerun = true → s.acceptedJob k j = none →
      ∃ t, exec (.arm m k j) s = .next t ∧ t.slot k j = { s.slot k j with
        launch := (s.slot k j).launchReg
        armedTick := s.clock.tick } ∧ t.mem = s.mem ∧ t.lcores = s.lcores ∧ t.jobs = s.jobs ∧ t.dict = s.dict) ∧
    ((s.armOk k (s.slot k j) = false ∨ ((s.slot k j).state ≠ 1 ∧ ((s.slot k j).state ≠ 3 ∨ (s.slot k j).rerun = false))) →
      ∃ t, exec (.arm m k j) s = .next t ∧ s.declined t m 3 (slotObj k j 0) 2 5)) ∧
  (∀ (s : State) (m k j : Nat), k < 16 → j < 8 → s.hears m (slotObj k j 0) = true →
    ((s.slot k j).state = 2 → ∃ t, exec (.withdraw m k j) s = .next t ∧ t.slot k j = { s.slot k j with state := 1 } ∧ t.mem = s.mem ∧
      t.lcores = s.lcores ∧ t.jobs = s.jobs ∧ t.dict = s.dict ∧ (∀ i n, i < 16 → n < 8 → (i ≠ k ∨ n ≠ j) → t.slot i n = s.slot i n)) ∧
    ((s.slot k j).state = 3 → ∃ t, exec (.withdraw m k j) s = .next t ∧ (t.slot k j).state = 6 ∧ (t.slot k j).cause = 0x0A ∧ t.mem = s.mem) ∧
    ((s.slot k j).state ≠ 2 → (s.slot k j).state ≠ 3 → ∃ t, exec (.withdraw m k j) s = .next t ∧ s.declined t m 3 (slotObj k j 0) 2 5) ∧
    ((s.slot k j).state = 4 → ∃ t, exec (.abort m k j) s = .next t ∧ (t.slot k j).state = 6 ∧ (t.slot k j).cause = 0x0B ∧ t.mem = s.mem) ∧
    ((s.slot k j).state ≠ 4 → ∃ t, exec (.abort m k j) s = .next t ∧ s.declined t m 3 (slotObj k j 0) 2 5) ∧
    (((s.slot k j).state = 1 ∨ (s.slot k j).state = 5 ∨ (s.slot k j).state = 6) → ∃ t, exec (.clear m k j) s = .next t ∧ t.slot k j = {} ∧
      t.mem = s.mem ∧ t.lcores = s.lcores ∧ t.jobs = s.jobs ∧ t.dict = s.dict ∧ (∀ i n, i < 16 → n < 8 → (i ≠ k ∨ n ≠ j) → t.slot i n = s.slot i n)) ∧
    ((s.slot k j).state ≠ 1 → (s.slot k j).state ≠ 5 → (s.slot k j).state ≠ 6 →
      ∃ t, exec (.clear m k j) s = .next t ∧ s.declined t m 3 (slotObj k j 0) 2 5)) ∧
  (∀ (s : State) (m k j sub : Nat) (v : Word) (f : Field), k < 16 → j < 8 → 1 ≤ sub → sub ≤ 9 → s.hears m (slotObj k j 1) = true →
    fieldAt (slotObj k j 1) sub = some f → sub = f.lo + f.n - 1 → s.wholeValue m (slotObj k j 1) f v &&& f.rsv = 0 →
    ((s.slot k j).state ≤ 1 → ∃ t, exec (.jobFieldWrite m k j sub v) s = .next t ∧ t.mem = s.mem ∧ t.lcores = s.lcores ∧
      t.slot k j = { (s.slot k j).withField f.lo (s.wholeValue m (slotObj k j 1) f v) with state := 1 } ∧
      t.resultFor m = some (answerOf 3 (slotObj k j 1) sub 0 0)) ∧
    (1 < (s.slot k j).state → ∃ t, exec (.jobFieldWrite m k j sub v) s = .next t ∧ s.declined t m 3 (slotObj k j 1) sub 5)) ∧
  (∀ (s : State) (m k sub n : Nat) (v : Word) (f : Field), m ≤ 1 → k < 16 → sub ≤ 0xD → s.hears m (ctxObj k 0) = true →
    fieldAt (ctxObj k 0) sub = some f → 2 ≤ f.lo → sub = f.lo + 1 → n = s.wholeValue m (ctxObj k 0) f v → f.rsv = 0 →
    (s.partitionOk k ((f.lo - 2) / 4) (if f.lo % 4 = 2 then n else (s.partition k ((f.lo - 2) / 4)).1)
        (if f.lo % 4 = 2 then (s.partition k ((f.lo - 2) / 4)).2 else n) = true →
      ∃ t, exec (.partitionWrite m k sub v) s = .next t ∧ t.reg64 (ctxObj k 0) f.lo = n ∧ t.mem = s.mem ∧ t.slots = s.slots ∧ t.jobs = s.jobs ∧
        (∀ i, i < 256 → i ≠ f.lo → i ≠ sub → t.reg (ctxObj k 0) i = s.reg (ctxObj k 0) i)) ∧
    (s.partitionOk k ((f.lo - 2) / 4) (if f.lo % 4 = 2 then n else (s.partition k ((f.lo - 2) / 4)).1)
        (if f.lo % 4 = 2 then (s.partition k ((f.lo - 2) / 4)).2 else n) = false →
      ∃ t, exec (.partitionWrite m k sub v) s = .next t ∧ s.declined t m 3 (ctxObj k 0) sub 5)) ∧
  (∀ (s : State) (m : Nat), m ≤ 1 → s.power.alive = true →
    ((s.master m).aState = 1 → ∃ t, exec (.aggregateStart m) s = .next t ∧ s.declined t m 3 2 5 5) ∧
    (∀ o, (s.master m).aggregateFrame.ops = [o] → (o.op = 5 ∨ o.op = 6) → (s.master m).aState ≠ 1 → s.isLocal (s.master m).aggregateFrame = true →
      ∃ t, exec (.aggregateStart m) s = .next t ∧ s.sameWork t ∧ t.dict = s.dict ∧ (t.master m).aState = 2 ∧
        (t.master m).aResult = (s.aggregate m o.op o.index o.sub o.instances).result ∧
        (t.master m).aValue = (s.aggregate m o.op o.index o.sub o.instances).value ∧ (∀ n, n ≠ m → t.master n = s.master n)))

/-- A load start into a bank that is not executing, with a source in GDDR7, begins the load and shows state 1; into an
executing bank it is refused and shows state 3. A halt record clear empties that context slot's record and no other. A
counter clear sets every counter of its object to 0 and changes no other register. Memory, logical cores, slots and
jobs stay. -/
def Obligations.CoreCommandsAndCounterClears : Prop :=
  (∀ (s : State) (m c : Nat), c < 1152 → s.hears m (coreObj c 4) = true →
    (∀ b src len, b = bits (s.reg (coreObj c 4) 1) 0 0 → src = s.reg64 (coreObj c 4) 2 → len = (s.reg (coreObj c 4) 5).toNat →
      (s.executes c b = false → len ≠ 0 → src + 16 * len ≤ 0x2E80000000 → ∃ t, exec (.instructionLoadStart m c) s = .next t ∧ s.lcores = t.lcores ∧
        t.mem = s.mem ∧ t.slots = s.slots ∧ t.jobs = s.jobs ∧ t.core c = (s.core c).setBank b { (s.core c).bank b with
          loading := some (s.reg (coreObj c 4) 4, src, len) } ∧ t.reg (coreObj c 4) 7 = 1 ∧ (∀ d, d ≠ c → t.core d = s.core d)) ∧
      (s.executes c b = false → len ≠ 0 → 0x2E80000000 < src + 16 * len → ∃ t, exec (.instructionLoadStart m c) s = .next t ∧ s.sameWork t ∧
        t.reg (coreObj c 4) 7 = 4) ∧
      (s.executes c b = true → ∃ t, exec (.instructionLoadStart m c) s = .next t ∧ s.sameWork t ∧ t.reg (coreObj c 4) 7 = 3 ∧
        t.resultFor m = some (answerOf 3 (coreObj c 4) 6 5 0)))) ∧
  (∀ (s : State) (m c n : Nat), c < 1152 → n < 2 → s.hears m (coreObj c (1 + n)) = true →
    ∃ t, exec (.haltRecordClear m c n) s = .next t ∧ (t.core c).halt n = {} ∧ (t.core c).halt (1 - n) = (s.core c).halt (1 - n) ∧
      t.core c = (s.core c).setHalt n {} ∧ (∀ d, d ≠ c → t.core d = s.core d) ∧ t.mem = s.mem ∧ t.lcores = s.lcores ∧ t.dict = s.dict) ∧
  (∀ (s : State) (m n idx top sub : Nat) (i : Instr), s.hears m idx = true →
    ((i = .coreCounterClear m n ∧ n < 1152 ∧ idx = coreObj n 5 ∧ top = 0x2C ∧ sub = 0x2F) ∨
      (i = .controllerCounterClear m n ∧ n < 24 ∧ idx = ctlObj n 2 ∧ top = 0x0D ∧ sub = 0x0E) ∨
      (i = .cxlCounterClear m n ∧ n < 2 ∧ idx = cxlObj n 2 ∧ top = 0x09 ∧ sub = 0x0A) ∨
      (i = .portCounterClear m n ∧ n < 8 ∧ idx = portObj n 3 ∧ top = 0x0E ∧ sub = 0x0F)) →
    ∃ t, exec i s = .next t ∧ (∀ a, 1 ≤ a → a ≤ top → t.reg idx a = 0) ∧
      (∀ o a, a < 256 → (o ≠ idx ∨ a = 0 ∨ top < a) → t.reg o a = s.reg o a) ∧
      t = { s with
        dict := t.dict
        serial := t.serial } ∧ t.resultFor m = some (answerOf 3 idx sub 0 0))

/-- A package is begun, extended by 4 bytes and given up by the master that stages it; another master gets result 8,
and without staging result 5. Accepting ends the staging and shows the result of the checks: a good package takes the
place of the one held, an older or equal one never does. A wanted slice from a neighbour is kept, and a complete good
package is installed. Calibration is unlocked with its value alone; its master's writes are staged and visible to it
alone; a commit that is done stores each staged value and no other and locks; an abort and 25,000,000 ticks lock
without storing. Device memory and logical cores stay. -/
def Obligations.PackagesAndCalibrationAreStaged : Prop :=
  (∀ (s : State) (m : Nat), m ≤ 1 → s.power.alive = true →
    (s.stagingOf m ≠ 8 → ∃ t, exec (.packageBegin m) s = .next t ∧ { s with radish := { s.radish with
      staging := some (m, [])
      result := 1
      refusedTile := 0xFFFFFFFF } }.obeyed t m 3 0x3101 1) ∧
    (s.stagingOf m = 8 → ∃ t, exec (.packageBegin m) s = .next t ∧ s.declined t m 3 0x3101 1 8) ∧
    (s.stagingOf m ≠ 0 → (∃ t, exec (.packageAccept m) s = .next t ∧ s.declined t m 3 0x3101 1 (s.stagingOf m)) ∧
      (∃ t, exec (.packageAbort m) s = .next t ∧ s.declined t m 3 0x3101 1 (s.stagingOf m)) ∧
      ∀ v, ∃ t, exec (.packageData m v) s = .next t ∧ s.declined t m 3 0x3101 2 (s.stagingOf m)) ∧
    (∀ bs, s.radish.staging = some (m, bs) →
      (∀ v, bs.length + 4 ≤ packageLimit → ∃ t, exec (.packageData m v) s = .next t ∧
        { s with radish := { s.radish with staging := some (m, bs ++ leBytes 4 v.toNat) } }.obeyed t m 3 0x3101 2) ∧
      (∀ v, packageLimit < bs.length + 4 → ∃ t, exec (.packageData m v) s = .next t ∧ s.declined t m 3 0x3101 2 5) ∧
      (∃ t, exec (.packageAbort m) s = .next t ∧ { s with radish := { s.radish with
        staging := none
        result := 0 } }.obeyed t m 3 0x3101 1) ∧
      ((s.packageCheck bs).1 ≠ 2 → ∃ t, exec (.packageAccept m) s = .next t ∧ { s with radish := { s.radish with
        staging := none
        result := (s.packageCheck bs).1
        refusedTile := (s.packageCheck bs).2 } }.obeyed t m 3 0x3101 1) ∧
      ((s.packageCheck bs).1 = 2 → ∃ t, exec (.packageAccept m) s = .next t ∧ t.radish.version = packageVersion bs ∧ t.radish.staging = none ∧
        t.radish.result = 2 ∧ t.radish.running = none ∧ t.radish.tiles = (splitTiles (field bs 0x10 4) (packageBody bs)).1.map tileOf ∧
        t.mem = s.mem ∧ t.lcores = s.lcores) ∧
      (packageVersion bs ≤ s.radish.version → (s.packageCheck bs).1 ≠ 2))) ∧
  (∀ (s : State) (p length offset : Nat) (bytes : List Byte), p < 8 → (s.port p).inService = true → length ≤ packageLimit →
    offset + bytes.length ≤ length → bytes ≠ [] →
    (s.sliceWanted offset bytes = false → exec (.packageSlice p length offset bytes) s = .next s) ∧
    (∀ q got, s.sliceWanted offset bytes = true → q = (if offset = 0 then (packageVersion bytes, []) else s.fabric.slices.getD (0, [])) →
      got = addSlice q.2 offset bytes →
      (gatherSlices got length = none → ∃ t, exec (.packageSlice p length offset bytes) s = .next t ∧ t.fabric.slices = some (q.1, got) ∧
        t.radish = s.radish ∧ t.mem = s.mem ∧ t.lcores = s.lcores) ∧
      (∀ bs, gatherSlices got length = some bs → ∃ t, exec (.packageSlice p length offset bytes) s = .next t ∧ t.fabric.slices = none ∧
        t.mem = s.mem ∧ t.lcores = s.lcores ∧ ((s.packageCheck bs).1 = 2 → t.radish.version = packageVersion bs) ∧
        ((s.packageCheck bs).1 ≠ 2 → t.radish = s.radish)))) ∧
  (∀ (s : State) (m : Nat), m ≤ 1 → s.power.alive = true →
    (s.calib.state = 0 → ∃ t, exec (.calibrationUnlock m unlockValue) s = .next t ∧ { s with calib := { s.calib with
      state := 1
      master := m
      staged := []
      written := some s.clock.tick } }.obeyed t m 3 0x0800 2) ∧
    (∀ v, (v ≠ unlockValue ∨ s.calib.state ≠ 0) → ∃ t, exec (.calibrationUnlock m v) s = .next t ∧ s.declined t m 3 0x0800 2 5) ∧
    (s.calibFor m = 0 → (∃ t, exec (.calibrationAbort m) s = .next t ∧ s.calibLock.obeyed t m 3 0x0800 4) ∧
      (∃ t, exec (.calibrationCommit m) s = .next t ∧ { s with calib := { s.calib with
        state := 2
        written := none } }.obeyed t m 3 0x0800 3) ∧
      ∀ idx sub v, 0x0810 ≤ idx → idx < 0x0AC0 → 1 ≤ sub → sub ≤ calibSubs idx → ∃ t, exec (.write32 m idx sub v) s = .next t ∧ t.dict = s.dict ∧
        t.resultFor m = some (answerOf 3 idx sub 0 0) ∧ t.calibRead m idx sub = v ∧ (∀ n, n ≠ m → t.calibRead n idx sub = s.reg idx sub) ∧
        t.calib.written = some s.clock.tick ∧ s.sameWork t) ∧
    (s.calibFor m ≠ 0 → (∃ t, exec (.calibrationAbort m) s = .next t ∧ s.declined t m 3 0x0800 4 (s.calibFor m)) ∧
      ∃ t, exec (.calibrationCommit m) s = .next t ∧ s.declined t m 3 0x0800 3 (s.calibFor m))) ∧
  (∀ s : State, s.power.alive = true →
    (∀ n : DWord, s.calib.state = 1 → s.calib.written = some n → ∃ t, exec .calibrationLockTimeout s = .next t ∧
      t.calib = { s.calib with
        state := 0
        staged := []
        written := none } ∧ t.clock = (s.until (n.toNat + 25000000)).clock ∧ t.mem = s.mem ∧ t.lcores = s.lcores) ∧
    (s.calib.state = 2 → swf (fun _ => (none : Option Word)) s.calib.staged = true → ∃ t, exec .calibrationCommitDone s = .next t ∧
      t.calib = { s.calib with
        state := 0
        staged := []
        commits := min (2 ^ 32 - 1) (s.calib.commits + 1) } ∧
      (∀ i j v, j < 256 → sget (fun _ => (none : Option Word)) s.calib.staged (dkey i j) = some v → t.reg i j = v) ∧
      (∀ i j, j < 256 → sget (fun _ => (none : Option Word)) s.calib.staged (dkey i j) = none → t.reg i j = s.reg i j) ∧ s.sameWork t))

/-- An update is begun, fed, checked and aborted by the master that stages it; the 512th byte has the header checked,
a refused header or body shows its code, sets the alarm and enters record 0x0200. A staged image is activated in its
state alone; switches count through the pairs, the last moves the management controller into the trial; a timeout
hands back with record 0x0201. Confirming ends a trial with record 0x0203, a fall-back and the trial limit hand the
work back, ending with record 0x0202. Anything else is refused with result 5 or 8. An attestation command is busy
until the report of 352 bytes is ready. Device memory and logical cores stay. -/
def Obligations.FirmwareUpdatesAndAttestation : Prop :=
  (∀ (s : State) (m : Nat), m ≤ 1 → s.power.alive = true →
    (s.firmware.state < 3 → s.firmware.stagingOf m ≠ 8 → ∃ t, exec (.firmwareBegin m) s = .next t ∧
      t.firmware = { s.firmware with
        staging := some (m, [])
        state := 1
        check := 0
        before := if s.firmware.state = 1 then s.firmware.before else s.firmware.state } ∧
      { s with firmware := t.firmware }.obeyed t m 3 0x3000 2) ∧
    (3 ≤ s.firmware.state → ∃ t, exec (.firmwareBegin m) s = .next t ∧ s.declined t m 3 0x3000 2 5) ∧
    (s.firmware.state < 3 → s.firmware.stagingOf m = 8 → ∃ t, exec (.firmwareBegin m) s = .next t ∧ s.declined t m 3 0x3000 2 8) ∧
    (s.firmware.stagingOf m ≠ 0 → (∃ t, exec (.firmwareCheck m) s = .next t ∧ s.declined t m 3 0x3000 2 (s.firmware.stagingOf m)) ∧
      (∃ t, exec (.firmwareAbort m) s = .next t ∧ s.declined t m 3 0x3000 2 (s.firmware.stagingOf m)) ∧
      ∀ v, ∃ t, exec (.firmwareData m v) s = .next t ∧ s.declined t m 3 0x3001 1 (s.firmware.stagingOf m)) ∧
    (∀ bs, s.firmware.staging = some (m, bs) →
      (∀ v, bs.length < 508 → ∃ t, exec (.firmwareData m v) s = .next t ∧
        { s with firmware := { s.firmware with staging := some (m, bs ++ leBytes 4 v.toNat) } }.obeyed t m 3 0x3001 1) ∧
      (∀ v, 508 ≤ bs.length → bs.length < 512 →
        (s.headerCheck (bs ++ leBytes 4 v.toNat) = 1 → ∃ t, exec (.firmwareData m v) s = .next t ∧ t.firmware.check = 1 ∧
          t.firmware.staging = some (m, bs ++ leBytes 4 v.toNat) ∧ t.firmware.image (!s.firmware.boot) = [] ∧
          t.firmware.image s.firmware.boot = s.firmware.image s.firmware.boot ∧ s.sameWork t) ∧
        (∀ r, s.headerCheck (bs ++ leBytes 4 v.toNat) = r → r ≠ 1 → ∃ t, exec (.firmwareData m v) s = .next t ∧
          t.firmware = { s.firmware with
            staging := none
            state := s.firmware.before
            check := r } ∧ t.alarmed 0x3000 9 0 ∧ s.sameWork t ∧
          s.entered t 0x0200 0 mgmt (BitVec.ofNat 64 (imageVersion (bs ++ leBytes 4 v.toNat))) (BitVec.ofNat 64 (slotNumber (!s.firmware.boot))))) ∧
      (∀ v, 512 ≤ bs.length → imageLength bs ≤ bs.length → ∃ t, exec (.firmwareData m v) s = .next t ∧ s.declined t m 3 0x3001 1 5) ∧
      (∀ v, 512 ≤ bs.length → bs.length < imageLength bs → ∃ t, exec (.firmwareData m v) s = .next t ∧ { s with firmware := { s.firmware with
        staging := some (m, (bs ++ leBytes 4 v.toNat).take (imageLength bs)) } }.obeyed t m 3 0x3001 1) ∧
      (512 ≤ bs.length → bodyGood bs = true → ∃ t, exec (.firmwareCheck m) s = .next t ∧ t.firmware.state = 2 ∧ t.firmware.check = 2 ∧
        t.firmware.staging = none ∧ t.firmware.image (!s.firmware.boot) = bs ∧ s.sameWork t ∧ t.errors = s.errors) ∧
      ((bs.length < 512 ∨ bodyGood bs = false) → ∃ t, exec (.firmwareCheck m) s = .next t ∧ t.firmware.state = 0 ∧ t.firmware.check = 8 ∧
        t.firmware.image (!s.firmware.boot) = [] ∧ s.sameWork t ∧ t.alarmed 0x3000 9 0 ∧
        s.entered t 0x0200 0 mgmt (BitVec.ofNat 64 (imageVersion bs)) (BitVec.ofNat 64 (slotNumber (!s.firmware.boot)))) ∧
      (∃ t, exec (.firmwareAbort m) s = .next t ∧ t.firmware.state = 0 ∧ t.firmware.staging = none ∧ t.firmware.image (!s.firmware.boot) = [] ∧
        t.firmware.image s.firmware.boot = s.firmware.image s.firmware.boot ∧ s.sameWork t ∧ t.errors = s.errors))) ∧
  (∀ (s : State) (m : Nat), m ≤ 1 → s.power.alive = true →
    (s.firmware.state = 2 → s.power.phase ≠ 2 → field (s.firmware.image (!s.firmware.boot)) 0x068 8 ≤ s.firmware.version →
      ∃ t, exec (.activate m) s = .next t ∧ t.firmware.state = 3 ∧ t.firmware.pairs = 0 ∧ t.firmware.switches = 0 ∧
        t.firmware.since = some s.clock.tick ∧ t.firmware.boot = s.firmware.boot ∧ s.sameWork t ∧ t.errors = s.errors) ∧
    (s.firmware.state = 2 → s.power.phase = 2 → ∃ t, exec (.activate m) s = .next t ∧ t.firmware.state = 4 ∧ t.firmware.boot = !s.firmware.boot ∧
      s.sameWork t) ∧
    ((s.firmware.state ≠ 2 ∨ (s.power.phase ≠ 2 ∧ s.firmware.version < field (s.firmware.image (!s.firmware.boot)) 0x068 8)) →
      ∃ t, exec (.activate m) s = .next t ∧ s.declined t m 3 0x3000 2 5) ∧
    (s.firmware.state = 4 → (∃ t, exec (.confirm m) s = .next t ∧ t.firmware.state = 0 ∧ t.firmware.boot = s.firmware.boot ∧
        t.firmware.security = max s.firmware.security (imageSecurity (s.firmware.image s.firmware.boot)) ∧
        t.firmware.revoked = (s.firmware.revoked ||| BitVec.ofNat 8 (2 ^ min 8 (field (s.firmware.image s.firmware.boot) 0x01E 2) - 1)) ∧
        s.entered t 0x0203 0 mgmt (BitVec.ofNat 64 (imageVersion (s.firmware.image s.firmware.boot))) (BitVec.ofNat 64 t.firmware.security) ∧
        s.sameWork t) ∧
      (s.power.phase ≠ 2 → ∃ t, exec (.fallBack m) s = .next t ∧ t.firmware.state = 5 ∧ t.firmware.backCause = 1 ∧ t.firmware.pairs = 0 ∧
        t.firmware.boot = s.firmware.boot ∧ t.errors = s.errors ∧ s.sameWork t) ∧
      (s.power.phase = 2 → ∃ t, exec (.fallBack m) s = .next t ∧ t.firmware.state = 0 ∧ t.firmware.boot = !s.firmware.boot ∧ s.sameWork t ∧
        t.alarmed 0x3000 9 2)) ∧
    (s.firmware.state ≠ 4 → (∃ t, exec (.confirm m) s = .next t ∧ s.declined t m 3 0x3000 2 5) ∧
      ∃ t, exec (.fallBack m) s = .next t ∧ s.declined t m 3 0x3000 2 5)) ∧
  (∀ s : State, s.power.control = true → s.firmware.moving = true → s.firmware.reversing = false →
    (s.firmware.pairs < 4 → ∃ t, exec .handoverSwitch s = .next t ∧ t.clock = s.windowEnd.clock ∧ t.mem = s.mem ∧ t.lcores = s.lcores ∧
      t.firmware.state = s.firmware.state ∧ t.firmware.boot = s.firmware.boot ∧ t.firmware.since = some t.clock.tick ∧
      t.firmware.roles = (s.firmware.swapRole (pairFirst s.firmware.pairs + s.firmware.switches)).roles ∧
      (s.firmware.switches = 0 → t.firmware.switches = 1 ∧ t.firmware.pairs = s.firmware.pairs) ∧
      (s.firmware.switches ≠ 0 → s.firmware.again = false → t.firmware.switches = 0 ∧ t.firmware.pairs = s.firmware.pairs + 1)) ∧
    (s.firmware.pairs = 4 → ∃ t, exec .managementSwitch s = .next t ∧ t.firmware.boot = !s.firmware.boot ∧ t.firmware.running = !s.firmware.boot ∧
      t.clock = s.nextEdge.clock ∧ t.mem = s.mem ∧ t.lcores = s.lcores ∧
      (s.firmware.state = 3 → t.firmware.state = 4 ∧ t.firmware.trialSince = some t.clock.tick ∧ t.errors = s.errors) ∧
      (s.firmware.state = 5 → t.firmware.state = 0 ∧ t.alarmed 0x3000 9 2 ∧ s.entered t 0x0202 0 mgmt
        (BitVec.ofNat 64 (imageVersion (s.firmware.image s.firmware.boot))) (BitVec.ofNat 64 (imageVersion (s.firmware.image (!s.firmware.boot)))))) ∧
    (∀ n : DWord, s.firmware.since = some n → ∃ t, exec .handoverTimeout s = .next t ∧ t.clock = (s.until (n.toNat + 2500000)).clock ∧
      t.mem = s.mem ∧ t.lcores = s.lcores ∧ t.alarmed 0x3000 9 1 ∧ s.entered t 0x0201 0 mgmt
        (BitVec.ofNat 64 (imageVersion (s.firmware.image (!s.firmware.boot)))) (BitVec.ofNat 64 s.firmware.version) ∧
      ((s.firmware.pairs ≠ 0 ∨ s.firmware.switches ≠ 0) → t.firmware.reversing = true ∧ t.firmware.state = s.firmware.state) ∧
      (s.firmware.pairs = 0 → s.firmware.switches = 0 → t.firmware.reversing = false ∧
        t.firmware.state = (if s.firmware.state = 3 then 2 else 4)))) ∧
  (∀ (s : State) (n : DWord), s.power.alive = true → s.firmware.state = 4 → s.reg 0x3000 8 ≠ 0 → s.firmware.trialSince = some n → s.power.phase ≠ 2 →
    ∃ t, exec .trialLimitExpiry s = .next t ∧ t.firmware.state = 5 ∧ t.firmware.backCause = 2 ∧
      t.clock = (s.until (n.toNat + (s.reg 0x3000 8).toNat * 25000000)).clock ∧ t.mem = s.mem ∧ t.lcores = s.lcores) ∧
  (∀ (s : State) (m : Nat), m ≤ 16 → s.power.alive = true →
    ((s.master m).aStat ≠ 1 → ∃ t, exec (.attestationCommand m 1) s = .next t ∧
      (s.setMaster m { s.master m with aStat := 1 }).obeyed t m 3 0x3020 9) ∧
    (∀ v, (v ≠ 1 ∨ (s.master m).aStat = 1) → ∃ t, exec (.attestationCommand m v) s = .next t ∧ s.declined t m 3 0x3020 9 5) ∧
    ((s.master m).aStat = 1 → ∃ t, exec (.attestationReportReady m) s = .next t ∧ (t.master m).aStat = 2 ∧ (t.master m).report.length = 352 ∧
      (t.master m).report.take 256 = s.reportBody (s.master m).nonceBytes ∧ (∀ n, n ≠ m → t.master n = s.master n) ∧
      t = { s with masters := t.masters }))
end

