-- ==== Sys2Proof/Laws/Sparse.lean ====
section
/-! SUPPORT. Sparse families: reading after writing, and that writing keeps the canonical form. -/

namespace Sys2Proof.Machine

variable {α : Type}

theorem sget_sins_same (d : Nat → α) (m : Sparse α) (k : Nat) (v : α) : sget d (sins m k v) k = v := by
  induction m with
  | nil => simp [sins, sget]
  | cons p t ih =>
    obtain ⟨i, x⟩ := p
    unfold sins
    split
    · simp [sget]
    · split
      · simp [sget]
      · rename_i h
        simp [sget, Ne.symm h, ih]

theorem sget_sins_other (d : Nat → α) (m : Sparse α) {k j : Nat} (v : α) (h : j ≠ k) : sget d (sins m k v) j = sget d m j := by
  induction m with
  | nil => simp [sins, sget, Ne.symm h]
  | cons p t ih =>
    obtain ⟨i, x⟩ := p
    unfold sins
    split
    · simp [sget, Ne.symm h]
    · split
      · rename_i e
        simp [sget, ← e, Ne.symm h]
      · simp [sget, ih]

theorem sget_filter_same (d : Nat → α) (m : Sparse α) (k : Nat) : sget d (m.filter (fun p => p.1 ≠ k)) k = d k := by
  induction m with
  | nil => rfl
  | cons p t ih =>
    obtain ⟨i, x⟩ := p
    by_cases h : i = k
    · simpa [h] using ih
    · simpa [h, sget] using ih

theorem sget_filter_other (d : Nat → α) (m : Sparse α) {k j : Nat} (h : j ≠ k) :
    sget d (m.filter (fun p => p.1 ≠ k)) j = sget d m j := by
  induction m with
  | nil => rfl
  | cons p t ih =>
    obtain ⟨i, x⟩ := p
    by_cases e : i = k
    · simpa [e, sget, Ne.symm h] using ih
    · simp only [ne_eq, decide_not] at ih
      simp [e, sget, ih]

theorem mem_sins (m : Sparse α) (k : Nat) (v : α) (p : Nat × α) (h : p ∈ sins m k v) : p = (k, v) ∨ p ∈ m := by
  induction m with
  | nil => simpa [sins] using h
  | cons q t ih =>
    obtain ⟨i, x⟩ := q
    unfold sins at h
    split at h
    · simpa only [List.mem_cons] using h
    · split at h
      · simp only [List.mem_cons] at h ⊢
        exact h.imp id .inr
      · simp only [List.mem_cons] at h ⊢
        rcases h with h | h
        · exact .inr (.inl h)
        · rcases ih h with e | e
          · exact .inl e
          · exact .inr (.inr e)

variable [DecidableEq α]

@[simp] theorem sget_sput_same (d : Nat → α) (m : Sparse α) (k : Nat) (v : α) : sget d (sput d m k v) k = v := by
  unfold sput
  split
  · rename_i h
    rw [sget_filter_same, h]
  · exact sget_sins_same d m k v

@[simp] theorem sget_sput_other (d : Nat → α) (m : Sparse α) {k j : Nat} (v : α) (h : j ≠ k) :
    sget d (sput d m k v) j = sget d m j := by
  unfold sput
  split
  · exact sget_filter_other d m h
  · exact sget_sins_other d m v h

/-- The value of every key after a write. -/
theorem sget_sput (d : Nat → α) (m : Sparse α) (k j : Nat) (v : α) :
    sget d (sput d m k v) j = if j = k then v else sget d m j := by
  by_cases h : j = k
  · simp [h]
  · simp [h]

theorem swf_cons (d : Nat → α) (k : Nat) (v : α) (t : Sparse α) :
    swf d ((k, v) :: t) = true ↔ v ≠ d k ∧ (∀ p ∈ t, k < p.1) ∧ swf d t = true := by
  simp [swf, and_assoc]

theorem swf_sins (d : Nat → α) (m : Sparse α) (k : Nat) (v : α) (hv : v ≠ d k) (h : swf d m = true) : swf d (sins m k v) = true := by
  induction m with
  | nil => simp [sins, swf, hv]
  | cons q t ih =>
    obtain ⟨i, x⟩ := q
    obtain ⟨hx, hk, ht⟩ := (swf_cons d i x t).1 h
    unfold sins
    split
    · rename_i lt
      refine (swf_cons ..).2 ⟨hv, ?_, h⟩
      intro p hp
      simp only [List.mem_cons] at hp
      rcases hp with rfl | hp
      · exact lt
      · exact Nat.lt_trans lt (hk p hp)
    · split
      · rename_i e
        subst e
        exact (swf_cons ..).2 ⟨hv, hk, ht⟩
      · rename_i nlt ne
        refine (swf_cons ..).2 ⟨hx, ?_, ih ht⟩
        intro p hp
        rcases mem_sins t k v p hp with e | e
        · rw [e]; exact Nat.lt_of_le_of_ne (Nat.le_of_not_lt nlt) (Ne.symm ne)
        · exact hk p e

theorem swf_filter (d : Nat → α) (m : Sparse α) (f : Nat × α → Bool) (h : swf d m = true) : swf d (m.filter f) = true := by
  induction m with
  | nil => rfl
  | cons q t ih =>
    obtain ⟨i, x⟩ := q
    obtain ⟨hx, hk, ht⟩ := (swf_cons d i x t).1 h
    rw [List.filter_cons]
    split
    · exact (swf_cons ..).2 ⟨hx, fun p hp => hk p (List.mem_filter.1 hp).1, ih ht⟩
    · exact ih ht

/-- A write keeps the canonical form. -/
theorem swf_sput (d : Nat → α) (m : Sparse α) (k : Nat) (v : α) (h : swf d m = true) : swf d (sput d m k v) = true := by
  unfold sput
  split
  · exact swf_filter d m _ h
  · rename_i hv
    exact swf_sins d m k v hv h

/-- In canonical form the values at all keys decide the family. -/
theorem swf_ext (d : Nat → α) (m n : Sparse α) (hm : swf d m = true) (hn : swf d n = true)
    (h : ∀ k, sget d m k = sget d n k) : m = n := by
  have lower : ∀ (t : Sparse α) (k : Nat), (∀ p ∈ t, k < p.1) → sget d t k = d k := by
    intro t
    induction t with
    | nil => intros; rfl
    | cons q t ih =>
      intro k hk
      have := hk q (by simp)
      simp only [sget]
      rw [if_neg (by omega)]
      exact ih k (fun p hp => hk p (by simp [hp]))
  induction m generalizing n with
  | nil =>
    cases n with
    | nil => rfl
    | cons q t =>
      obtain ⟨hx, -, -⟩ := (swf_cons d q.1 q.2 t).1 hn
      exact absurd (by simpa [sget] using (h q.1).symm) hx
  | cons p s ih =>
    obtain ⟨px, pk, ps⟩ := (swf_cons d p.1 p.2 s).1 hm
    cases n with
    | nil => exact absurd (by simpa [sget] using h p.1) px
    | cons q t =>
      obtain ⟨qx, qk, qt⟩ := (swf_cons d q.1 q.2 t).1 hn
      have key : p.1 = q.1 := by
        rcases Nat.lt_trichotomy p.1 q.1 with lt | e | lt
        · have := h p.1
          rw [lower (q :: t) p.1 (by
            intro r hr
            simp only [List.mem_cons] at hr
            rcases hr with rfl | hr
            · exact lt
            · exact Nat.lt_trans lt (qk r hr))] at this
          exact absurd (by simpa [sget] using this) px
        · exact e
        · have := h q.1
          rw [lower (p :: s) q.1 (by
            intro r hr
            simp only [List.mem_cons] at hr
            rcases hr with rfl | hr
            · exact lt
            · exact Nat.lt_trans lt (pk r hr))] at this
          exact absurd (by simpa [sget] using this.symm) qx
      have val : p.2 = q.2 := by simpa [sget, key] using h p.1
      have rest : s = t := by
        refine ih t ps qt fun k => ?_
        by_cases e : k = p.1
        · subst e
          rw [lower s _ pk, lower t _ (by rw [key]; exact qk)]
        · have := h k
          have e' : q.1 ≠ k := by rw [← key]; exact Ne.symm e
          simpa [sget, Ne.symm e, e'] using this
      rw [rest]
      congr 1
      exact Prod.ext key val

/-- Of two writes at one key the later one stands. -/
theorem sput_sput (d : Nat → α) (m : Sparse α) (k : Nat) (v w : α) (h : swf d m = true) :
    sput d (sput d m k v) k w = sput d m k w :=
  swf_ext d _ _ (swf_sput d _ k w (swf_sput d m k v h)) (swf_sput d m k w h) fun j => by
    simp only [sget_sput]
    split <;> rfl

end Sys2Proof.Machine
end

