-- ==== Sys2Proof/Laws/State.lean ====
section
/-! SUPPORT. One lemma for each field and each update of State, and for each accessor and each update: what a write of one
instance or register leaves as it is, and what it writes. -/

namespace Sys2Proof.Machine

variable (s : State)

@[simp] theorem setCore_pending (c : Nat) (v : Core) : (s.setCore c v).pending = s.pending := rfl
@[simp] theorem setCore_clock (c : Nat) (v : Core) : (s.setCore c v).clock = s.clock := rfl
@[simp] theorem setCore_pins (c : Nat) (v : Core) : (s.setCore c v).pins = s.pins := rfl
@[simp] theorem setCore_ident (c : Nat) (v : Core) : (s.setCore c v).ident = s.ident := rfl
@[simp] theorem setCore_lcores (c : Nat) (v : Core) : (s.setCore c v).lcores = s.lcores := rfl
@[simp] theorem setCore_pods (c : Nat) (v : Core) : (s.setCore c v).pods = s.pods := rfl
@[simp] theorem setCore_barriers (c : Nat) (v : Core) : (s.setCore c v).barriers = s.barriers := rfl
@[simp] theorem setCore_sems (c : Nat) (v : Core) : (s.setCore c v).sems = s.sems := rfl
@[simp] theorem setCore_flights (c : Nat) (v : Core) : (s.setCore c v).flights = s.flights := rfl
@[simp] theorem setCore_mem (c : Nat) (v : Core) : (s.setCore c v).mem = s.mem := rfl
@[simp] theorem setCore_ctls (c : Nat) (v : Core) : (s.setCore c v).ctls = s.ctls := rfl
@[simp] theorem setCore_cxl (c : Nat) (v : Core) : (s.setCore c v).cxl = s.cxl := rfl
@[simp] theorem setCore_host (c : Nat) (v : Core) : (s.setCore c v).host = s.host := rfl
@[simp] theorem setCore_ports (c : Nat) (v : Core) : (s.setCore c v).ports = s.ports := rfl
@[simp] theorem setCore_fabric (c : Nat) (v : Core) : (s.setCore c v).fabric = s.fabric := rfl
@[simp] theorem setCore_slots (c : Nat) (v : Core) : (s.setCore c v).slots = s.slots := rfl
@[simp] theorem setCore_rankMaps (c : Nat) (v : Core) : (s.setCore c v).rankMaps = s.rankMaps := rfl
@[simp] theorem setCore_jobs (c : Nat) (v : Core) : (s.setCore c v).jobs = s.jobs := rfl
@[simp] theorem setCore_nextSequence (c : Nat) (v : Core) : (s.setCore c v).nextSequence = s.nextSequence := rfl
@[simp] theorem setCore_radish (c : Nat) (v : Core) : (s.setCore c v).radish = s.radish := rfl
@[simp] theorem setCore_power (c : Nat) (v : Core) : (s.setCore c v).power = s.power := rfl
@[simp] theorem setCore_firmware (c : Nat) (v : Core) : (s.setCore c v).firmware = s.firmware := rfl
@[simp] theorem setCore_calib (c : Nat) (v : Core) : (s.setCore c v).calib = s.calib := rfl
@[simp] theorem setCore_errors (c : Nat) (v : Core) : (s.setCore c v).errors = s.errors := rfl
@[simp] theorem setCore_masters (c : Nat) (v : Core) : (s.setCore c v).masters = s.masters := rfl
@[simp] theorem setCore_serial (c : Nat) (v : Core) : (s.setCore c v).serial = s.serial := rfl
@[simp] theorem setCore_dict (c : Nat) (v : Core) : (s.setCore c v).dict = s.dict := rfl

@[simp] theorem setLcore_pending (i : Nat) (v : Option LCore) : (s.setLcore i v).pending = s.pending := rfl
@[simp] theorem setLcore_clock (i : Nat) (v : Option LCore) : (s.setLcore i v).clock = s.clock := rfl
@[simp] theorem setLcore_pins (i : Nat) (v : Option LCore) : (s.setLcore i v).pins = s.pins := rfl
@[simp] theorem setLcore_ident (i : Nat) (v : Option LCore) : (s.setLcore i v).ident = s.ident := rfl
@[simp] theorem setLcore_cores (i : Nat) (v : Option LCore) : (s.setLcore i v).cores = s.cores := rfl
@[simp] theorem setLcore_pods (i : Nat) (v : Option LCore) : (s.setLcore i v).pods = s.pods := rfl
@[simp] theorem setLcore_barriers (i : Nat) (v : Option LCore) : (s.setLcore i v).barriers = s.barriers := rfl
@[simp] theorem setLcore_sems (i : Nat) (v : Option LCore) : (s.setLcore i v).sems = s.sems := rfl
@[simp] theorem setLcore_flights (i : Nat) (v : Option LCore) : (s.setLcore i v).flights = s.flights := rfl
@[simp] theorem setLcore_mem (i : Nat) (v : Option LCore) : (s.setLcore i v).mem = s.mem := rfl
@[simp] theorem setLcore_ctls (i : Nat) (v : Option LCore) : (s.setLcore i v).ctls = s.ctls := rfl
@[simp] theorem setLcore_cxl (i : Nat) (v : Option LCore) : (s.setLcore i v).cxl = s.cxl := rfl
@[simp] theorem setLcore_host (i : Nat) (v : Option LCore) : (s.setLcore i v).host = s.host := rfl
@[simp] theorem setLcore_ports (i : Nat) (v : Option LCore) : (s.setLcore i v).ports = s.ports := rfl
@[simp] theorem setLcore_fabric (i : Nat) (v : Option LCore) : (s.setLcore i v).fabric = s.fabric := rfl
@[simp] theorem setLcore_slots (i : Nat) (v : Option LCore) : (s.setLcore i v).slots = s.slots := rfl
@[simp] theorem setLcore_rankMaps (i : Nat) (v : Option LCore) : (s.setLcore i v).rankMaps = s.rankMaps := rfl
@[simp] theorem setLcore_jobs (i : Nat) (v : Option LCore) : (s.setLcore i v).jobs = s.jobs := rfl
@[simp] theorem setLcore_nextSequence (i : Nat) (v : Option LCore) : (s.setLcore i v).nextSequence = s.nextSequence := rfl
@[simp] theorem setLcore_radish (i : Nat) (v : Option LCore) : (s.setLcore i v).radish = s.radish := rfl
@[simp] theorem setLcore_power (i : Nat) (v : Option LCore) : (s.setLcore i v).power = s.power := rfl
@[simp] theorem setLcore_firmware (i : Nat) (v : Option LCore) : (s.setLcore i v).firmware = s.firmware := rfl
@[simp] theorem setLcore_calib (i : Nat) (v : Option LCore) : (s.setLcore i v).calib = s.calib := rfl
@[simp] theorem setLcore_errors (i : Nat) (v : Option LCore) : (s.setLcore i v).errors = s.errors := rfl
@[simp] theorem setLcore_masters (i : Nat) (v : Option LCore) : (s.setLcore i v).masters = s.masters := rfl
@[simp] theorem setLcore_serial (i : Nat) (v : Option LCore) : (s.setLcore i v).serial = s.serial := rfl
@[simp] theorem setLcore_dict (i : Nat) (v : Option LCore) : (s.setLcore i v).dict = s.dict := rfl

@[simp] theorem setPod_pending (p : Nat) (v : Pod) : (s.setPod p v).pending = s.pending := rfl
@[simp] theorem setPod_clock (p : Nat) (v : Pod) : (s.setPod p v).clock = s.clock := rfl
@[simp] theorem setPod_pins (p : Nat) (v : Pod) : (s.setPod p v).pins = s.pins := rfl
@[simp] theorem setPod_ident (p : Nat) (v : Pod) : (s.setPod p v).ident = s.ident := rfl
@[simp] theorem setPod_cores (p : Nat) (v : Pod) : (s.setPod p v).cores = s.cores := rfl
@[simp] theorem setPod_lcores (p : Nat) (v : Pod) : (s.setPod p v).lcores = s.lcores := rfl
@[simp] theorem setPod_barriers (p : Nat) (v : Pod) : (s.setPod p v).barriers = s.barriers := rfl
@[simp] theorem setPod_sems (p : Nat) (v : Pod) : (s.setPod p v).sems = s.sems := rfl
@[simp] theorem setPod_flights (p : Nat) (v : Pod) : (s.setPod p v).flights = s.flights := rfl
@[simp] theorem setPod_mem (p : Nat) (v : Pod) : (s.setPod p v).mem = s.mem := rfl
@[simp] theorem setPod_ctls (p : Nat) (v : Pod) : (s.setPod p v).ctls = s.ctls := rfl
@[simp] theorem setPod_cxl (p : Nat) (v : Pod) : (s.setPod p v).cxl = s.cxl := rfl
@[simp] theorem setPod_host (p : Nat) (v : Pod) : (s.setPod p v).host = s.host := rfl
@[simp] theorem setPod_ports (p : Nat) (v : Pod) : (s.setPod p v).ports = s.ports := rfl
@[simp] theorem setPod_fabric (p : Nat) (v : Pod) : (s.setPod p v).fabric = s.fabric := rfl
@[simp] theorem setPod_slots (p : Nat) (v : Pod) : (s.setPod p v).slots = s.slots := rfl
@[simp] theorem setPod_rankMaps (p : Nat) (v : Pod) : (s.setPod p v).rankMaps = s.rankMaps := rfl
@[simp] theorem setPod_jobs (p : Nat) (v : Pod) : (s.setPod p v).jobs = s.jobs := rfl
@[simp] theorem setPod_nextSequence (p : Nat) (v : Pod) : (s.setPod p v).nextSequence = s.nextSequence := rfl
@[simp] theorem setPod_radish (p : Nat) (v : Pod) : (s.setPod p v).radish = s.radish := rfl
@[simp] theorem setPod_power (p : Nat) (v : Pod) : (s.setPod p v).power = s.power := rfl
@[simp] theorem setPod_firmware (p : Nat) (v : Pod) : (s.setPod p v).firmware = s.firmware := rfl
@[simp] theorem setPod_calib (p : Nat) (v : Pod) : (s.setPod p v).calib = s.calib := rfl
@[simp] theorem setPod_errors (p : Nat) (v : Pod) : (s.setPod p v).errors = s.errors := rfl
@[simp] theorem setPod_masters (p : Nat) (v : Pod) : (s.setPod p v).masters = s.masters := rfl
@[simp] theorem setPod_serial (p : Nat) (v : Pod) : (s.setPod p v).serial = s.serial := rfl
@[simp] theorem setPod_dict (p : Nat) (v : Pod) : (s.setPod p v).dict = s.dict := rfl

@[simp] theorem setBarrier_pending (i : Nat) (v : Barrier) : (s.setBarrier i v).pending = s.pending := rfl
@[simp] theorem setBarrier_clock (i : Nat) (v : Barrier) : (s.setBarrier i v).clock = s.clock := rfl
@[simp] theorem setBarrier_pins (i : Nat) (v : Barrier) : (s.setBarrier i v).pins = s.pins := rfl
@[simp] theorem setBarrier_ident (i : Nat) (v : Barrier) : (s.setBarrier i v).ident = s.ident := rfl
@[simp] theorem setBarrier_cores (i : Nat) (v : Barrier) : (s.setBarrier i v).cores = s.cores := rfl
@[simp] theorem setBarrier_lcores (i : Nat) (v : Barrier) : (s.setBarrier i v).lcores = s.lcores := rfl
@[simp] theorem setBarrier_pods (i : Nat) (v : Barrier) : (s.setBarrier i v).pods = s.pods := rfl
@[simp] theorem setBarrier_sems (i : Nat) (v : Barrier) : (s.setBarrier i v).sems = s.sems := rfl
@[simp] theorem setBarrier_flights (i : Nat) (v : Barrier) : (s.setBarrier i v).flights = s.flights := rfl
@[simp] theorem setBarrier_mem (i : Nat) (v : Barrier) : (s.setBarrier i v).mem = s.mem := rfl
@[simp] theorem setBarrier_ctls (i : Nat) (v : Barrier) : (s.setBarrier i v).ctls = s.ctls := rfl
@[simp] theorem setBarrier_cxl (i : Nat) (v : Barrier) : (s.setBarrier i v).cxl = s.cxl := rfl
@[simp] theorem setBarrier_host (i : Nat) (v : Barrier) : (s.setBarrier i v).host = s.host := rfl
@[simp] theorem setBarrier_ports (i : Nat) (v : Barrier) : (s.setBarrier i v).ports = s.ports := rfl
@[simp] theorem setBarrier_fabric (i : Nat) (v : Barrier) : (s.setBarrier i v).fabric = s.fabric := rfl
@[simp] theorem setBarrier_slots (i : Nat) (v : Barrier) : (s.setBarrier i v).slots = s.slots := rfl
@[simp] theorem setBarrier_rankMaps (i : Nat) (v : Barrier) : (s.setBarrier i v).rankMaps = s.rankMaps := rfl
@[simp] theorem setBarrier_jobs (i : Nat) (v : Barrier) : (s.setBarrier i v).jobs = s.jobs := rfl
@[simp] theorem setBarrier_nextSequence (i : Nat) (v : Barrier) : (s.setBarrier i v).nextSequence = s.nextSequence := rfl
@[simp] theorem setBarrier_radish (i : Nat) (v : Barrier) : (s.setBarrier i v).radish = s.radish := rfl
@[simp] theorem setBarrier_power (i : Nat) (v : Barrier) : (s.setBarrier i v).power = s.power := rfl
@[simp] theorem setBarrier_firmware (i : Nat) (v : Barrier) : (s.setBarrier i v).firmware = s.firmware := rfl
@[simp] theorem setBarrier_calib (i : Nat) (v : Barrier) : (s.setBarrier i v).calib = s.calib := rfl
@[simp] theorem setBarrier_errors (i : Nat) (v : Barrier) : (s.setBarrier i v).errors = s.errors := rfl
@[simp] theorem setBarrier_masters (i : Nat) (v : Barrier) : (s.setBarrier i v).masters = s.masters := rfl
@[simp] theorem setBarrier_serial (i : Nat) (v : Barrier) : (s.setBarrier i v).serial = s.serial := rfl
@[simp] theorem setBarrier_dict (i : Nat) (v : Barrier) : (s.setBarrier i v).dict = s.dict := rfl

@[simp] theorem setSem_pending (i : Nat) (v : Sem) : (s.setSem i v).pending = s.pending := rfl
@[simp] theorem setSem_clock (i : Nat) (v : Sem) : (s.setSem i v).clock = s.clock := rfl
@[simp] theorem setSem_pins (i : Nat) (v : Sem) : (s.setSem i v).pins = s.pins := rfl
@[simp] theorem setSem_ident (i : Nat) (v : Sem) : (s.setSem i v).ident = s.ident := rfl
@[simp] theorem setSem_cores (i : Nat) (v : Sem) : (s.setSem i v).cores = s.cores := rfl
@[simp] theorem setSem_lcores (i : Nat) (v : Sem) : (s.setSem i v).lcores = s.lcores := rfl
@[simp] theorem setSem_pods (i : Nat) (v : Sem) : (s.setSem i v).pods = s.pods := rfl
@[simp] theorem setSem_barriers (i : Nat) (v : Sem) : (s.setSem i v).barriers = s.barriers := rfl
@[simp] theorem setSem_flights (i : Nat) (v : Sem) : (s.setSem i v).flights = s.flights := rfl
@[simp] theorem setSem_mem (i : Nat) (v : Sem) : (s.setSem i v).mem = s.mem := rfl
@[simp] theorem setSem_ctls (i : Nat) (v : Sem) : (s.setSem i v).ctls = s.ctls := rfl
@[simp] theorem setSem_cxl (i : Nat) (v : Sem) : (s.setSem i v).cxl = s.cxl := rfl
@[simp] theorem setSem_host (i : Nat) (v : Sem) : (s.setSem i v).host = s.host := rfl
@[simp] theorem setSem_ports (i : Nat) (v : Sem) : (s.setSem i v).ports = s.ports := rfl
@[simp] theorem setSem_fabric (i : Nat) (v : Sem) : (s.setSem i v).fabric = s.fabric := rfl
@[simp] theorem setSem_slots (i : Nat) (v : Sem) : (s.setSem i v).slots = s.slots := rfl
@[simp] theorem setSem_rankMaps (i : Nat) (v : Sem) : (s.setSem i v).rankMaps = s.rankMaps := rfl
@[simp] theorem setSem_jobs (i : Nat) (v : Sem) : (s.setSem i v).jobs = s.jobs := rfl
@[simp] theorem setSem_nextSequence (i : Nat) (v : Sem) : (s.setSem i v).nextSequence = s.nextSequence := rfl
@[simp] theorem setSem_radish (i : Nat) (v : Sem) : (s.setSem i v).radish = s.radish := rfl
@[simp] theorem setSem_power (i : Nat) (v : Sem) : (s.setSem i v).power = s.power := rfl
@[simp] theorem setSem_firmware (i : Nat) (v : Sem) : (s.setSem i v).firmware = s.firmware := rfl
@[simp] theorem setSem_calib (i : Nat) (v : Sem) : (s.setSem i v).calib = s.calib := rfl
@[simp] theorem setSem_errors (i : Nat) (v : Sem) : (s.setSem i v).errors = s.errors := rfl
@[simp] theorem setSem_masters (i : Nat) (v : Sem) : (s.setSem i v).masters = s.masters := rfl
@[simp] theorem setSem_serial (i : Nat) (v : Sem) : (s.setSem i v).serial = s.serial := rfl
@[simp] theorem setSem_dict (i : Nat) (v : Sem) : (s.setSem i v).dict = s.dict := rfl

@[simp] theorem setCtl_pending (i : Nat) (v : Controller) : (s.setCtl i v).pending = s.pending := rfl
@[simp] theorem setCtl_clock (i : Nat) (v : Controller) : (s.setCtl i v).clock = s.clock := rfl
@[simp] theorem setCtl_pins (i : Nat) (v : Controller) : (s.setCtl i v).pins = s.pins := rfl
@[simp] theorem setCtl_ident (i : Nat) (v : Controller) : (s.setCtl i v).ident = s.ident := rfl
@[simp] theorem setCtl_cores (i : Nat) (v : Controller) : (s.setCtl i v).cores = s.cores := rfl
@[simp] theorem setCtl_lcores (i : Nat) (v : Controller) : (s.setCtl i v).lcores = s.lcores := rfl
@[simp] theorem setCtl_pods (i : Nat) (v : Controller) : (s.setCtl i v).pods = s.pods := rfl
@[simp] theorem setCtl_barriers (i : Nat) (v : Controller) : (s.setCtl i v).barriers = s.barriers := rfl
@[simp] theorem setCtl_sems (i : Nat) (v : Controller) : (s.setCtl i v).sems = s.sems := rfl
@[simp] theorem setCtl_flights (i : Nat) (v : Controller) : (s.setCtl i v).flights = s.flights := rfl
@[simp] theorem setCtl_mem (i : Nat) (v : Controller) : (s.setCtl i v).mem = s.mem := rfl
@[simp] theorem setCtl_cxl (i : Nat) (v : Controller) : (s.setCtl i v).cxl = s.cxl := rfl
@[simp] theorem setCtl_host (i : Nat) (v : Controller) : (s.setCtl i v).host = s.host := rfl
@[simp] theorem setCtl_ports (i : Nat) (v : Controller) : (s.setCtl i v).ports = s.ports := rfl
@[simp] theorem setCtl_fabric (i : Nat) (v : Controller) : (s.setCtl i v).fabric = s.fabric := rfl
@[simp] theorem setCtl_slots (i : Nat) (v : Controller) : (s.setCtl i v).slots = s.slots := rfl
@[simp] theorem setCtl_rankMaps (i : Nat) (v : Controller) : (s.setCtl i v).rankMaps = s.rankMaps := rfl
@[simp] theorem setCtl_jobs (i : Nat) (v : Controller) : (s.setCtl i v).jobs = s.jobs := rfl
@[simp] theorem setCtl_nextSequence (i : Nat) (v : Controller) : (s.setCtl i v).nextSequence = s.nextSequence := rfl
@[simp] theorem setCtl_radish (i : Nat) (v : Controller) : (s.setCtl i v).radish = s.radish := rfl
@[simp] theorem setCtl_power (i : Nat) (v : Controller) : (s.setCtl i v).power = s.power := rfl
@[simp] theorem setCtl_firmware (i : Nat) (v : Controller) : (s.setCtl i v).firmware = s.firmware := rfl
@[simp] theorem setCtl_calib (i : Nat) (v : Controller) : (s.setCtl i v).calib = s.calib := rfl
@[simp] theorem setCtl_errors (i : Nat) (v : Controller) : (s.setCtl i v).errors = s.errors := rfl
@[simp] theorem setCtl_masters (i : Nat) (v : Controller) : (s.setCtl i v).masters = s.masters := rfl
@[simp] theorem setCtl_serial (i : Nat) (v : Controller) : (s.setCtl i v).serial = s.serial := rfl
@[simp] theorem setCtl_dict (i : Nat) (v : Controller) : (s.setCtl i v).dict = s.dict := rfl

@[simp] theorem setCxl_pending (i : Nat) (v : CxlPort) : (s.setCxl i v).pending = s.pending := rfl
@[simp] theorem setCxl_clock (i : Nat) (v : CxlPort) : (s.setCxl i v).clock = s.clock := rfl
@[simp] theorem setCxl_pins (i : Nat) (v : CxlPort) : (s.setCxl i v).pins = s.pins := rfl
@[simp] theorem setCxl_ident (i : Nat) (v : CxlPort) : (s.setCxl i v).ident = s.ident := rfl
@[simp] theorem setCxl_cores (i : Nat) (v : CxlPort) : (s.setCxl i v).cores = s.cores := rfl
@[simp] theorem setCxl_lcores (i : Nat) (v : CxlPort) : (s.setCxl i v).lcores = s.lcores := rfl
@[simp] theorem setCxl_pods (i : Nat) (v : CxlPort) : (s.setCxl i v).pods = s.pods := rfl
@[simp] theorem setCxl_barriers (i : Nat) (v : CxlPort) : (s.setCxl i v).barriers = s.barriers := rfl
@[simp] theorem setCxl_sems (i : Nat) (v : CxlPort) : (s.setCxl i v).sems = s.sems := rfl
@[simp] theorem setCxl_flights (i : Nat) (v : CxlPort) : (s.setCxl i v).flights = s.flights := rfl
@[simp] theorem setCxl_mem (i : Nat) (v : CxlPort) : (s.setCxl i v).mem = s.mem := rfl
@[simp] theorem setCxl_ctls (i : Nat) (v : CxlPort) : (s.setCxl i v).ctls = s.ctls := rfl
@[simp] theorem setCxl_host (i : Nat) (v : CxlPort) : (s.setCxl i v).host = s.host := rfl
@[simp] theorem setCxl_ports (i : Nat) (v : CxlPort) : (s.setCxl i v).ports = s.ports := rfl
@[simp] theorem setCxl_fabric (i : Nat) (v : CxlPort) : (s.setCxl i v).fabric = s.fabric := rfl
@[simp] theorem setCxl_slots (i : Nat) (v : CxlPort) : (s.setCxl i v).slots = s.slots := rfl
@[simp] theorem setCxl_rankMaps (i : Nat) (v : CxlPort) : (s.setCxl i v).rankMaps = s.rankMaps := rfl
@[simp] theorem setCxl_jobs (i : Nat) (v : CxlPort) : (s.setCxl i v).jobs = s.jobs := rfl
@[simp] theorem setCxl_nextSequence (i : Nat) (v : CxlPort) : (s.setCxl i v).nextSequence = s.nextSequence := rfl
@[simp] theorem setCxl_radish (i : Nat) (v : CxlPort) : (s.setCxl i v).radish = s.radish := rfl
@[simp] theorem setCxl_power (i : Nat) (v : CxlPort) : (s.setCxl i v).power = s.power := rfl
@[simp] theorem setCxl_firmware (i : Nat) (v : CxlPort) : (s.setCxl i v).firmware = s.firmware := rfl
@[simp] theorem setCxl_calib (i : Nat) (v : CxlPort) : (s.setCxl i v).calib = s.calib := rfl
@[simp] theorem setCxl_errors (i : Nat) (v : CxlPort) : (s.setCxl i v).errors = s.errors := rfl
@[simp] theorem setCxl_masters (i : Nat) (v : CxlPort) : (s.setCxl i v).masters = s.masters := rfl
@[simp] theorem setCxl_serial (i : Nat) (v : CxlPort) : (s.setCxl i v).serial = s.serial := rfl
@[simp] theorem setCxl_dict (i : Nat) (v : CxlPort) : (s.setCxl i v).dict = s.dict := rfl

@[simp] theorem setPort_pending (i : Nat) (v : Port) : (s.setPort i v).pending = s.pending := rfl
@[simp] theorem setPort_clock (i : Nat) (v : Port) : (s.setPort i v).clock = s.clock := rfl
@[simp] theorem setPort_pins (i : Nat) (v : Port) : (s.setPort i v).pins = s.pins := rfl
@[simp] theorem setPort_ident (i : Nat) (v : Port) : (s.setPort i v).ident = s.ident := rfl
@[simp] theorem setPort_cores (i : Nat) (v : Port) : (s.setPort i v).cores = s.cores := rfl
@[simp] theorem setPort_lcores (i : Nat) (v : Port) : (s.setPort i v).lcores = s.lcores := rfl
@[simp] theorem setPort_pods (i : Nat) (v : Port) : (s.setPort i v).pods = s.pods := rfl
@[simp] theorem setPort_barriers (i : Nat) (v : Port) : (s.setPort i v).barriers = s.barriers := rfl
@[simp] theorem setPort_sems (i : Nat) (v : Port) : (s.setPort i v).sems = s.sems := rfl
@[simp] theorem setPort_flights (i : Nat) (v : Port) : (s.setPort i v).flights = s.flights := rfl
@[simp] theorem setPort_mem (i : Nat) (v : Port) : (s.setPort i v).mem = s.mem := rfl
@[simp] theorem setPort_ctls (i : Nat) (v : Port) : (s.setPort i v).ctls = s.ctls := rfl
@[simp] theorem setPort_cxl (i : Nat) (v : Port) : (s.setPort i v).cxl = s.cxl := rfl
@[simp] theorem setPort_host (i : Nat) (v : Port) : (s.setPort i v).host = s.host := rfl
@[simp] theorem setPort_fabric (i : Nat) (v : Port) : (s.setPort i v).fabric = s.fabric := rfl
@[simp] theorem setPort_slots (i : Nat) (v : Port) : (s.setPort i v).slots = s.slots := rfl
@[simp] theorem setPort_rankMaps (i : Nat) (v : Port) : (s.setPort i v).rankMaps = s.rankMaps := rfl
@[simp] theorem setPort_jobs (i : Nat) (v : Port) : (s.setPort i v).jobs = s.jobs := rfl
@[simp] theorem setPort_nextSequence (i : Nat) (v : Port) : (s.setPort i v).nextSequence = s.nextSequence := rfl
@[simp] theorem setPort_radish (i : Nat) (v : Port) : (s.setPort i v).radish = s.radish := rfl
@[simp] theorem setPort_power (i : Nat) (v : Port) : (s.setPort i v).power = s.power := rfl
@[simp] theorem setPort_firmware (i : Nat) (v : Port) : (s.setPort i v).firmware = s.firmware := rfl
@[simp] theorem setPort_calib (i : Nat) (v : Port) : (s.setPort i v).calib = s.calib := rfl
@[simp] theorem setPort_errors (i : Nat) (v : Port) : (s.setPort i v).errors = s.errors := rfl
@[simp] theorem setPort_masters (i : Nat) (v : Port) : (s.setPort i v).masters = s.masters := rfl
@[simp] theorem setPort_serial (i : Nat) (v : Port) : (s.setPort i v).serial = s.serial := rfl
@[simp] theorem setPort_dict (i : Nat) (v : Port) : (s.setPort i v).dict = s.dict := rfl

@[simp] theorem setSlot_pending (k j : Nat) (v : Slot) : (s.setSlot k j v).pending = s.pending := rfl
@[simp] theorem setSlot_clock (k j : Nat) (v : Slot) : (s.setSlot k j v).clock = s.clock := rfl
@[simp] theorem setSlot_pins (k j : Nat) (v : Slot) : (s.setSlot k j v).pins = s.pins := rfl
@[simp] theorem setSlot_ident (k j : Nat) (v : Slot) : (s.setSlot k j v).ident = s.ident := rfl
@[simp] theorem setSlot_cores (k j : Nat) (v : Slot) : (s.setSlot k j v).cores = s.cores := rfl
@[simp] theorem setSlot_lcores (k j : Nat) (v : Slot) : (s.setSlot k j v).lcores = s.lcores := rfl
@[simp] theorem setSlot_pods (k j : Nat) (v : Slot) : (s.setSlot k j v).pods = s.pods := rfl
@[simp] theorem setSlot_barriers (k j : Nat) (v : Slot) : (s.setSlot k j v).barriers = s.barriers := rfl
@[simp] theorem setSlot_sems (k j : Nat) (v : Slot) : (s.setSlot k j v).sems = s.sems := rfl
@[simp] theorem setSlot_flights (k j : Nat) (v : Slot) : (s.setSlot k j v).flights = s.flights := rfl
@[simp] theorem setSlot_mem (k j : Nat) (v : Slot) : (s.setSlot k j v).mem = s.mem := rfl
@[simp] theorem setSlot_ctls (k j : Nat) (v : Slot) : (s.setSlot k j v).ctls = s.ctls := rfl
@[simp] theorem setSlot_cxl (k j : Nat) (v : Slot) : (s.setSlot k j v).cxl = s.cxl := rfl
@[simp] theorem setSlot_host (k j : Nat) (v : Slot) : (s.setSlot k j v).host = s.host := rfl
@[simp] theorem setSlot_ports (k j : Nat) (v : Slot) : (s.setSlot k j v).ports = s.ports := rfl
@[simp] theorem setSlot_fabric (k j : Nat) (v : Slot) : (s.setSlot k j v).fabric = s.fabric := rfl
@[simp] theorem setSlot_rankMaps (k j : Nat) (v : Slot) : (s.setSlot k j v).rankMaps = s.rankMaps := rfl
@[simp] theorem setSlot_jobs (k j : Nat) (v : Slot) : (s.setSlot k j v).jobs = s.jobs := rfl
@[simp] theorem setSlot_nextSequence (k j : Nat) (v : Slot) : (s.setSlot k j v).nextSequence = s.nextSequence := rfl
@[simp] theorem setSlot_radish (k j : Nat) (v : Slot) : (s.setSlot k j v).radish = s.radish := rfl
@[simp] theorem setSlot_power (k j : Nat) (v : Slot) : (s.setSlot k j v).power = s.power := rfl
@[simp] theorem setSlot_firmware (k j : Nat) (v : Slot) : (s.setSlot k j v).firmware = s.firmware := rfl
@[simp] theorem setSlot_calib (k j : Nat) (v : Slot) : (s.setSlot k j v).calib = s.calib := rfl
@[simp] theorem setSlot_errors (k j : Nat) (v : Slot) : (s.setSlot k j v).errors = s.errors := rfl
@[simp] theorem setSlot_masters (k j : Nat) (v : Slot) : (s.setSlot k j v).masters = s.masters := rfl
@[simp] theorem setSlot_serial (k j : Nat) (v : Slot) : (s.setSlot k j v).serial = s.serial := rfl
@[simp] theorem setSlot_dict (k j : Nat) (v : Slot) : (s.setSlot k j v).dict = s.dict := rfl

@[simp] theorem setJob_pending (k : Nat) (v : Option Job) : (s.setJob k v).pending = s.pending := rfl
@[simp] theorem setJob_clock (k : Nat) (v : Option Job) : (s.setJob k v).clock = s.clock := rfl
@[simp] theorem setJob_pins (k : Nat) (v : Option Job) : (s.setJob k v).pins = s.pins := rfl
@[simp] theorem setJob_ident (k : Nat) (v : Option Job) : (s.setJob k v).ident = s.ident := rfl
@[simp] theorem setJob_cores (k : Nat) (v : Option Job) : (s.setJob k v).cores = s.cores := rfl
@[simp] theorem setJob_lcores (k : Nat) (v : Option Job) : (s.setJob k v).lcores = s.lcores := rfl
@[simp] theorem setJob_pods (k : Nat) (v : Option Job) : (s.setJob k v).pods = s.pods := rfl
@[simp] theorem setJob_barriers (k : Nat) (v : Option Job) : (s.setJob k v).barriers = s.barriers := rfl
@[simp] theorem setJob_sems (k : Nat) (v : Option Job) : (s.setJob k v).sems = s.sems := rfl
@[simp] theorem setJob_flights (k : Nat) (v : Option Job) : (s.setJob k v).flights = s.flights := rfl
@[simp] theorem setJob_mem (k : Nat) (v : Option Job) : (s.setJob k v).mem = s.mem := rfl
@[simp] theorem setJob_ctls (k : Nat) (v : Option Job) : (s.setJob k v).ctls = s.ctls := rfl
@[simp] theorem setJob_cxl (k : Nat) (v : Option Job) : (s.setJob k v).cxl = s.cxl := rfl
@[simp] theorem setJob_host (k : Nat) (v : Option Job) : (s.setJob k v).host = s.host := rfl
@[simp] theorem setJob_ports (k : Nat) (v : Option Job) : (s.setJob k v).ports = s.ports := rfl
@[simp] theorem setJob_fabric (k : Nat) (v : Option Job) : (s.setJob k v).fabric = s.fabric := rfl
@[simp] theorem setJob_slots (k : Nat) (v : Option Job) : (s.setJob k v).slots = s.slots := rfl
@[simp] theorem setJob_rankMaps (k : Nat) (v : Option Job) : (s.setJob k v).rankMaps = s.rankMaps := rfl
@[simp] theorem setJob_nextSequence (k : Nat) (v : Option Job) : (s.setJob k v).nextSequence = s.nextSequence := rfl
@[simp] theorem setJob_radish (k : Nat) (v : Option Job) : (s.setJob k v).radish = s.radish := rfl
@[simp] theorem setJob_power (k : Nat) (v : Option Job) : (s.setJob k v).power = s.power := rfl
@[simp] theorem setJob_firmware (k : Nat) (v : Option Job) : (s.setJob k v).firmware = s.firmware := rfl
@[simp] theorem setJob_calib (k : Nat) (v : Option Job) : (s.setJob k v).calib = s.calib := rfl
@[simp] theorem setJob_errors (k : Nat) (v : Option Job) : (s.setJob k v).errors = s.errors := rfl
@[simp] theorem setJob_masters (k : Nat) (v : Option Job) : (s.setJob k v).masters = s.masters := rfl
@[simp] theorem setJob_serial (k : Nat) (v : Option Job) : (s.setJob k v).serial = s.serial := rfl
@[simp] theorem setJob_dict (k : Nat) (v : Option Job) : (s.setJob k v).dict = s.dict := rfl

@[simp] theorem setMaster_pending (m : Nat) (v : Master) : (s.setMaster m v).pending = s.pending := rfl
@[simp] theorem setMaster_clock (m : Nat) (v : Master) : (s.setMaster m v).clock = s.clock := rfl
@[simp] theorem setMaster_pins (m : Nat) (v : Master) : (s.setMaster m v).pins = s.pins := rfl
@[simp] theorem setMaster_ident (m : Nat) (v : Master) : (s.setMaster m v).ident = s.ident := rfl
@[simp] theorem setMaster_cores (m : Nat) (v : Master) : (s.setMaster m v).cores = s.cores := rfl
@[simp] theorem setMaster_lcores (m : Nat) (v : Master) : (s.setMaster m v).lcores = s.lcores := rfl
@[simp] theorem setMaster_pods (m : Nat) (v : Master) : (s.setMaster m v).pods = s.pods := rfl
@[simp] theorem setMaster_barriers (m : Nat) (v : Master) : (s.setMaster m v).barriers = s.barriers := rfl
@[simp] theorem setMaster_sems (m : Nat) (v : Master) : (s.setMaster m v).sems = s.sems := rfl
@[simp] theorem setMaster_flights (m : Nat) (v : Master) : (s.setMaster m v).flights = s.flights := rfl
@[simp] theorem setMaster_mem (m : Nat) (v : Master) : (s.setMaster m v).mem = s.mem := rfl
@[simp] theorem setMaster_ctls (m : Nat) (v : Master) : (s.setMaster m v).ctls = s.ctls := rfl
@[simp] theorem setMaster_cxl (m : Nat) (v : Master) : (s.setMaster m v).cxl = s.cxl := rfl
@[simp] theorem setMaster_host (m : Nat) (v : Master) : (s.setMaster m v).host = s.host := rfl
@[simp] theorem setMaster_ports (m : Nat) (v : Master) : (s.setMaster m v).ports = s.ports := rfl
@[simp] theorem setMaster_fabric (m : Nat) (v : Master) : (s.setMaster m v).fabric = s.fabric := rfl
@[simp] theorem setMaster_slots (m : Nat) (v : Master) : (s.setMaster m v).slots = s.slots := rfl
@[simp] theorem setMaster_rankMaps (m : Nat) (v : Master) : (s.setMaster m v).rankMaps = s.rankMaps := rfl
@[simp] theorem setMaster_jobs (m : Nat) (v : Master) : (s.setMaster m v).jobs = s.jobs := rfl
@[simp] theorem setMaster_nextSequence (m : Nat) (v : Master) : (s.setMaster m v).nextSequence = s.nextSequence := rfl
@[simp] theorem setMaster_radish (m : Nat) (v : Master) : (s.setMaster m v).radish = s.radish := rfl
@[simp] theorem setMaster_power (m : Nat) (v : Master) : (s.setMaster m v).power = s.power := rfl
@[simp] theorem setMaster_firmware (m : Nat) (v : Master) : (s.setMaster m v).firmware = s.firmware := rfl
@[simp] theorem setMaster_calib (m : Nat) (v : Master) : (s.setMaster m v).calib = s.calib := rfl
@[simp] theorem setMaster_errors (m : Nat) (v : Master) : (s.setMaster m v).errors = s.errors := rfl
@[simp] theorem setMaster_serial (m : Nat) (v : Master) : (s.setMaster m v).serial = s.serial := rfl
@[simp] theorem setMaster_dict (m : Nat) (v : Master) : (s.setMaster m v).dict = s.dict := rfl

@[simp] theorem setReg_pending (idx sub : Nat) (v : Word) : (s.setReg idx sub v).pending = s.pending := rfl
@[simp] theorem setReg_clock (idx sub : Nat) (v : Word) : (s.setReg idx sub v).clock = s.clock := rfl
@[simp] theorem setReg_pins (idx sub : Nat) (v : Word) : (s.setReg idx sub v).pins = s.pins := rfl
@[simp] theorem setReg_ident (idx sub : Nat) (v : Word) : (s.setReg idx sub v).ident = s.ident := rfl
@[simp] theorem setReg_cores (idx sub : Nat) (v : Word) : (s.setReg idx sub v).cores = s.cores := rfl
@[simp] theorem setReg_lcores (idx sub : Nat) (v : Word) : (s.setReg idx sub v).lcores = s.lcores := rfl
@[simp] theorem setReg_pods (idx sub : Nat) (v : Word) : (s.setReg idx sub v).pods = s.pods := rfl
@[simp] theorem setReg_barriers (idx sub : Nat) (v : Word) : (s.setReg idx sub v).barriers = s.barriers := rfl
@[simp] theorem setReg_sems (idx sub : Nat) (v : Word) : (s.setReg idx sub v).sems = s.sems := rfl
@[simp] theorem setReg_flights (idx sub : Nat) (v : Word) : (s.setReg idx sub v).flights = s.flights := rfl
@[simp] theorem setReg_mem (idx sub : Nat) (v : Word) : (s.setReg idx sub v).mem = s.mem := rfl
@[simp] theorem setReg_ctls (idx sub : Nat) (v : Word) : (s.setReg idx sub v).ctls = s.ctls := rfl
@[simp] theorem setReg_cxl (idx sub : Nat) (v : Word) : (s.setReg idx sub v).cxl = s.cxl := rfl
@[simp] theorem setReg_host (idx sub : Nat) (v : Word) : (s.setReg idx sub v).host = s.host := rfl
@[simp] theorem setReg_ports (idx sub : Nat) (v : Word) : (s.setReg idx sub v).ports = s.ports := rfl
@[simp] theorem setReg_fabric (idx sub : Nat) (v : Word) : (s.setReg idx sub v).fabric = s.fabric := rfl
@[simp] theorem setReg_slots (idx sub : Nat) (v : Word) : (s.setReg idx sub v).slots = s.slots := rfl
@[simp] theorem setReg_rankMaps (idx sub : Nat) (v : Word) : (s.setReg idx sub v).rankMaps = s.rankMaps := rfl
@[simp] theorem setReg_jobs (idx sub : Nat) (v : Word) : (s.setReg idx sub v).jobs = s.jobs := rfl
@[simp] theorem setReg_nextSequence (idx sub : Nat) (v : Word) : (s.setReg idx sub v).nextSequence = s.nextSequence := rfl
@[simp] theorem setReg_radish (idx sub : Nat) (v : Word) : (s.setReg idx sub v).radish = s.radish := rfl
@[simp] theorem setReg_power (idx sub : Nat) (v : Word) : (s.setReg idx sub v).power = s.power := rfl
@[simp] theorem setReg_firmware (idx sub : Nat) (v : Word) : (s.setReg idx sub v).firmware = s.firmware := rfl
@[simp] theorem setReg_calib (idx sub : Nat) (v : Word) : (s.setReg idx sub v).calib = s.calib := rfl
@[simp] theorem setReg_errors (idx sub : Nat) (v : Word) : (s.setReg idx sub v).errors = s.errors := rfl
@[simp] theorem setReg_masters (idx sub : Nat) (v : Word) : (s.setReg idx sub v).masters = s.masters := rfl
@[simp] theorem setReg_serial (idx sub : Nat) (v : Word) : (s.setReg idx sub v).serial = s.serial := rfl

@[simp] theorem setReg64_pending (idx sub v : Nat) : (s.setReg64 idx sub v).pending = s.pending := rfl
@[simp] theorem setReg64_clock (idx sub v : Nat) : (s.setReg64 idx sub v).clock = s.clock := rfl
@[simp] theorem setReg64_pins (idx sub v : Nat) : (s.setReg64 idx sub v).pins = s.pins := rfl
@[simp] theorem setReg64_ident (idx sub v : Nat) : (s.setReg64 idx sub v).ident = s.ident := rfl
@[simp] theorem setReg64_cores (idx sub v : Nat) : (s.setReg64 idx sub v).cores = s.cores := rfl
@[simp] theorem setReg64_lcores (idx sub v : Nat) : (s.setReg64 idx sub v).lcores = s.lcores := rfl
@[simp] theorem setReg64_pods (idx sub v : Nat) : (s.setReg64 idx sub v).pods = s.pods := rfl
@[simp] theorem setReg64_barriers (idx sub v : Nat) : (s.setReg64 idx sub v).barriers = s.barriers := rfl
@[simp] theorem setReg64_sems (idx sub v : Nat) : (s.setReg64 idx sub v).sems = s.sems := rfl
@[simp] theorem setReg64_flights (idx sub v : Nat) : (s.setReg64 idx sub v).flights = s.flights := rfl
@[simp] theorem setReg64_mem (idx sub v : Nat) : (s.setReg64 idx sub v).mem = s.mem := rfl
@[simp] theorem setReg64_ctls (idx sub v : Nat) : (s.setReg64 idx sub v).ctls = s.ctls := rfl
@[simp] theorem setReg64_cxl (idx sub v : Nat) : (s.setReg64 idx sub v).cxl = s.cxl := rfl
@[simp] theorem setReg64_host (idx sub v : Nat) : (s.setReg64 idx sub v).host = s.host := rfl
@[simp] theorem setReg64_ports (idx sub v : Nat) : (s.setReg64 idx sub v).ports = s.ports := rfl
@[simp] theorem setReg64_fabric (idx sub v : Nat) : (s.setReg64 idx sub v).fabric = s.fabric := rfl
@[simp] theorem setReg64_slots (idx sub v : Nat) : (s.setReg64 idx sub v).slots = s.slots := rfl
@[simp] theorem setReg64_rankMaps (idx sub v : Nat) : (s.setReg64 idx sub v).rankMaps = s.rankMaps := rfl
@[simp] theorem setReg64_jobs (idx sub v : Nat) : (s.setReg64 idx sub v).jobs = s.jobs := rfl
@[simp] theorem setReg64_nextSequence (idx sub v : Nat) : (s.setReg64 idx sub v).nextSequence = s.nextSequence := rfl
@[simp] theorem setReg64_radish (idx sub v : Nat) : (s.setReg64 idx sub v).radish = s.radish := rfl
@[simp] theorem setReg64_power (idx sub v : Nat) : (s.setReg64 idx sub v).power = s.power := rfl
@[simp] theorem setReg64_firmware (idx sub v : Nat) : (s.setReg64 idx sub v).firmware = s.firmware := rfl
@[simp] theorem setReg64_calib (idx sub v : Nat) : (s.setReg64 idx sub v).calib = s.calib := rfl
@[simp] theorem setReg64_errors (idx sub v : Nat) : (s.setReg64 idx sub v).errors = s.errors := rfl
@[simp] theorem setReg64_masters (idx sub v : Nat) : (s.setReg64 idx sub v).masters = s.masters := rfl
@[simp] theorem setReg64_serial (idx sub v : Nat) : (s.setReg64 idx sub v).serial = s.serial := rfl

@[simp] theorem bump_pending (idx sub n : Nat) : (s.bump idx sub n).pending = s.pending := rfl
@[simp] theorem bump_clock (idx sub n : Nat) : (s.bump idx sub n).clock = s.clock := rfl
@[simp] theorem bump_pins (idx sub n : Nat) : (s.bump idx sub n).pins = s.pins := rfl
@[simp] theorem bump_ident (idx sub n : Nat) : (s.bump idx sub n).ident = s.ident := rfl
@[simp] theorem bump_cores (idx sub n : Nat) : (s.bump idx sub n).cores = s.cores := rfl
@[simp] theorem bump_lcores (idx sub n : Nat) : (s.bump idx sub n).lcores = s.lcores := rfl
@[simp] theorem bump_pods (idx sub n : Nat) : (s.bump idx sub n).pods = s.pods := rfl
@[simp] theorem bump_barriers (idx sub n : Nat) : (s.bump idx sub n).barriers = s.barriers := rfl
@[simp] theorem bump_sems (idx sub n : Nat) : (s.bump idx sub n).sems = s.sems := rfl
@[simp] theorem bump_flights (idx sub n : Nat) : (s.bump idx sub n).flights = s.flights := rfl
@[simp] theorem bump_mem (idx sub n : Nat) : (s.bump idx sub n).mem = s.mem := rfl
@[simp] theorem bump_ctls (idx sub n : Nat) : (s.bump idx sub n).ctls = s.ctls := rfl
@[simp] theorem bump_cxl (idx sub n : Nat) : (s.bump idx sub n).cxl = s.cxl := rfl
@[simp] theorem bump_host (idx sub n : Nat) : (s.bump idx sub n).host = s.host := rfl
@[simp] theorem bump_ports (idx sub n : Nat) : (s.bump idx sub n).ports = s.ports := rfl
@[simp] theorem bump_fabric (idx sub n : Nat) : (s.bump idx sub n).fabric = s.fabric := rfl
@[simp] theorem bump_slots (idx sub n : Nat) : (s.bump idx sub n).slots = s.slots := rfl
@[simp] theorem bump_rankMaps (idx sub n : Nat) : (s.bump idx sub n).rankMaps = s.rankMaps := rfl
@[simp] theorem bump_jobs (idx sub n : Nat) : (s.bump idx sub n).jobs = s.jobs := rfl
@[simp] theorem bump_nextSequence (idx sub n : Nat) : (s.bump idx sub n).nextSequence = s.nextSequence := rfl
@[simp] theorem bump_radish (idx sub n : Nat) : (s.bump idx sub n).radish = s.radish := rfl
@[simp] theorem bump_power (idx sub n : Nat) : (s.bump idx sub n).power = s.power := rfl
@[simp] theorem bump_firmware (idx sub n : Nat) : (s.bump idx sub n).firmware = s.firmware := rfl
@[simp] theorem bump_calib (idx sub n : Nat) : (s.bump idx sub n).calib = s.calib := rfl
@[simp] theorem bump_errors (idx sub n : Nat) : (s.bump idx sub n).errors = s.errors := rfl
@[simp] theorem bump_masters (idx sub n : Nat) : (s.bump idx sub n).masters = s.masters := rfl
@[simp] theorem bump_serial (idx sub n : Nat) : (s.bump idx sub n).serial = s.serial := rfl

@[simp] theorem bump64_pending (idx sub n : Nat) : (s.bump64 idx sub n).pending = s.pending := rfl
@[simp] theorem bump64_clock (idx sub n : Nat) : (s.bump64 idx sub n).clock = s.clock := rfl
@[simp] theorem bump64_pins (idx sub n : Nat) : (s.bump64 idx sub n).pins = s.pins := rfl
@[simp] theorem bump64_ident (idx sub n : Nat) : (s.bump64 idx sub n).ident = s.ident := rfl
@[simp] theorem bump64_cores (idx sub n : Nat) : (s.bump64 idx sub n).cores = s.cores := rfl
@[simp] theorem bump64_lcores (idx sub n : Nat) : (s.bump64 idx sub n).lcores = s.lcores := rfl
@[simp] theorem bump64_pods (idx sub n : Nat) : (s.bump64 idx sub n).pods = s.pods := rfl
@[simp] theorem bump64_barriers (idx sub n : Nat) : (s.bump64 idx sub n).barriers = s.barriers := rfl
@[simp] theorem bump64_sems (idx sub n : Nat) : (s.bump64 idx sub n).sems = s.sems := rfl
@[simp] theorem bump64_flights (idx sub n : Nat) : (s.bump64 idx sub n).flights = s.flights := rfl
@[simp] theorem bump64_mem (idx sub n : Nat) : (s.bump64 idx sub n).mem = s.mem := rfl
@[simp] theorem bump64_ctls (idx sub n : Nat) : (s.bump64 idx sub n).ctls = s.ctls := rfl
@[simp] theorem bump64_cxl (idx sub n : Nat) : (s.bump64 idx sub n).cxl = s.cxl := rfl
@[simp] theorem bump64_host (idx sub n : Nat) : (s.bump64 idx sub n).host = s.host := rfl
@[simp] theorem bump64_ports (idx sub n : Nat) : (s.bump64 idx sub n).ports = s.ports := rfl
@[simp] theorem bump64_fabric (idx sub n : Nat) : (s.bump64 idx sub n).fabric = s.fabric := rfl
@[simp] theorem bump64_slots (idx sub n : Nat) : (s.bump64 idx sub n).slots = s.slots := rfl
@[simp] theorem bump64_rankMaps (idx sub n : Nat) : (s.bump64 idx sub n).rankMaps = s.rankMaps := rfl
@[simp] theorem bump64_jobs (idx sub n : Nat) : (s.bump64 idx sub n).jobs = s.jobs := rfl
@[simp] theorem bump64_nextSequence (idx sub n : Nat) : (s.bump64 idx sub n).nextSequence = s.nextSequence := rfl
@[simp] theorem bump64_radish (idx sub n : Nat) : (s.bump64 idx sub n).radish = s.radish := rfl
@[simp] theorem bump64_power (idx sub n : Nat) : (s.bump64 idx sub n).power = s.power := rfl
@[simp] theorem bump64_firmware (idx sub n : Nat) : (s.bump64 idx sub n).firmware = s.firmware := rfl
@[simp] theorem bump64_calib (idx sub n : Nat) : (s.bump64 idx sub n).calib = s.calib := rfl
@[simp] theorem bump64_errors (idx sub n : Nat) : (s.bump64 idx sub n).errors = s.errors := rfl
@[simp] theorem bump64_masters (idx sub n : Nat) : (s.bump64 idx sub n).masters = s.masters := rfl
@[simp] theorem bump64_serial (idx sub n : Nat) : (s.bump64 idx sub n).serial = s.serial := rfl

@[simp] theorem peak_pending (idx sub n : Nat) : (s.peak idx sub n).pending = s.pending := rfl
@[simp] theorem peak_clock (idx sub n : Nat) : (s.peak idx sub n).clock = s.clock := rfl
@[simp] theorem peak_pins (idx sub n : Nat) : (s.peak idx sub n).pins = s.pins := rfl
@[simp] theorem peak_ident (idx sub n : Nat) : (s.peak idx sub n).ident = s.ident := rfl
@[simp] theorem peak_cores (idx sub n : Nat) : (s.peak idx sub n).cores = s.cores := rfl
@[simp] theorem peak_lcores (idx sub n : Nat) : (s.peak idx sub n).lcores = s.lcores := rfl
@[simp] theorem peak_pods (idx sub n : Nat) : (s.peak idx sub n).pods = s.pods := rfl
@[simp] theorem peak_barriers (idx sub n : Nat) : (s.peak idx sub n).barriers = s.barriers := rfl
@[simp] theorem peak_sems (idx sub n : Nat) : (s.peak idx sub n).sems = s.sems := rfl
@[simp] theorem peak_flights (idx sub n : Nat) : (s.peak idx sub n).flights = s.flights := rfl
@[simp] theorem peak_mem (idx sub n : Nat) : (s.peak idx sub n).mem = s.mem := rfl
@[simp] theorem peak_ctls (idx sub n : Nat) : (s.peak idx sub n).ctls = s.ctls := rfl
@[simp] theorem peak_cxl (idx sub n : Nat) : (s.peak idx sub n).cxl = s.cxl := rfl
@[simp] theorem peak_host (idx sub n : Nat) : (s.peak idx sub n).host = s.host := rfl
@[simp] theorem peak_ports (idx sub n : Nat) : (s.peak idx sub n).ports = s.ports := rfl
@[simp] theorem peak_fabric (idx sub n : Nat) : (s.peak idx sub n).fabric = s.fabric := rfl
@[simp] theorem peak_slots (idx sub n : Nat) : (s.peak idx sub n).slots = s.slots := rfl
@[simp] theorem peak_rankMaps (idx sub n : Nat) : (s.peak idx sub n).rankMaps = s.rankMaps := rfl
@[simp] theorem peak_jobs (idx sub n : Nat) : (s.peak idx sub n).jobs = s.jobs := rfl
@[simp] theorem peak_nextSequence (idx sub n : Nat) : (s.peak idx sub n).nextSequence = s.nextSequence := rfl
@[simp] theorem peak_radish (idx sub n : Nat) : (s.peak idx sub n).radish = s.radish := rfl
@[simp] theorem peak_power (idx sub n : Nat) : (s.peak idx sub n).power = s.power := rfl
@[simp] theorem peak_firmware (idx sub n : Nat) : (s.peak idx sub n).firmware = s.firmware := rfl
@[simp] theorem peak_calib (idx sub n : Nat) : (s.peak idx sub n).calib = s.calib := rfl
@[simp] theorem peak_errors (idx sub n : Nat) : (s.peak idx sub n).errors = s.errors := rfl
@[simp] theorem peak_masters (idx sub n : Nat) : (s.peak idx sub n).masters = s.masters := rfl
@[simp] theorem peak_serial (idx sub n : Nat) : (s.peak idx sub n).serial = s.serial := rfl

@[simp] theorem setCore_at_lcore (c : Nat) (v : Core) (q : Nat) : (s.setCore c v).lcore q = s.lcore q := rfl
@[simp] theorem setCore_at_pod (c : Nat) (v : Core) (q : Nat) : (s.setCore c v).pod q = s.pod q := rfl
@[simp] theorem setCore_at_barrier (c : Nat) (v : Core) (q : Nat) : (s.setCore c v).barrier q = s.barrier q := rfl
@[simp] theorem setCore_at_sem (c : Nat) (v : Core) (q : Nat) : (s.setCore c v).sem q = s.sem q := rfl
@[simp] theorem setCore_at_ctl (c : Nat) (v : Core) (q : Nat) : (s.setCore c v).ctl q = s.ctl q := rfl
@[simp] theorem setCore_at_cxlPort (c : Nat) (v : Core) (q : Nat) : (s.setCore c v).cxlPort q = s.cxlPort q := rfl
@[simp] theorem setCore_at_port (c : Nat) (v : Core) (q : Nat) : (s.setCore c v).port q = s.port q := rfl
@[simp] theorem setCore_at_slot (c : Nat) (v : Core) (a b : Nat) : (s.setCore c v).slot a b = s.slot a b := rfl
@[simp] theorem setCore_at_job (c : Nat) (v : Core) (q : Nat) : (s.setCore c v).job q = s.job q := rfl
@[simp] theorem setCore_at_master (c : Nat) (v : Core) (q : Nat) : (s.setCore c v).master q = s.master q := rfl
@[simp] theorem setCore_at_reg (c : Nat) (v : Core) (a b : Nat) : (s.setCore c v).reg a b = s.reg a b := rfl

@[simp] theorem setLcore_at_core (i : Nat) (v : Option LCore) (q : Nat) : (s.setLcore i v).core q = s.core q := rfl
@[simp] theorem setLcore_at_pod (i : Nat) (v : Option LCore) (q : Nat) : (s.setLcore i v).pod q = s.pod q := rfl
@[simp] theorem setLcore_at_barrier (i : Nat) (v : Option LCore) (q : Nat) : (s.setLcore i v).barrier q = s.barrier q := rfl
@[simp] theorem setLcore_at_sem (i : Nat) (v : Option LCore) (q : Nat) : (s.setLcore i v).sem q = s.sem q := rfl
@[simp] theorem setLcore_at_ctl (i : Nat) (v : Option LCore) (q : Nat) : (s.setLcore i v).ctl q = s.ctl q := rfl
@[simp] theorem setLcore_at_cxlPort (i : Nat) (v : Option LCore) (q : Nat) : (s.setLcore i v).cxlPort q = s.cxlPort q := rfl
@[simp] theorem setLcore_at_port (i : Nat) (v : Option LCore) (q : Nat) : (s.setLcore i v).port q = s.port q := rfl
@[simp] theorem setLcore_at_slot (i : Nat) (v : Option LCore) (a b : Nat) : (s.setLcore i v).slot a b = s.slot a b := rfl
@[simp] theorem setLcore_at_job (i : Nat) (v : Option LCore) (q : Nat) : (s.setLcore i v).job q = s.job q := rfl
@[simp] theorem setLcore_at_master (i : Nat) (v : Option LCore) (q : Nat) : (s.setLcore i v).master q = s.master q := rfl
@[simp] theorem setLcore_at_reg (i : Nat) (v : Option LCore) (a b : Nat) : (s.setLcore i v).reg a b = s.reg a b := rfl

@[simp] theorem setPod_at_core (p : Nat) (v : Pod) (q : Nat) : (s.setPod p v).core q = s.core q := rfl
@[simp] theorem setPod_at_lcore (p : Nat) (v : Pod) (q : Nat) : (s.setPod p v).lcore q = s.lcore q := rfl
@[simp] theorem setPod_at_barrier (p : Nat) (v : Pod) (q : Nat) : (s.setPod p v).barrier q = s.barrier q := rfl
@[simp] theorem setPod_at_sem (p : Nat) (v : Pod) (q : Nat) : (s.setPod p v).sem q = s.sem q := rfl
@[simp] theorem setPod_at_ctl (p : Nat) (v : Pod) (q : Nat) : (s.setPod p v).ctl q = s.ctl q := rfl
@[simp] theorem setPod_at_cxlPort (p : Nat) (v : Pod) (q : Nat) : (s.setPod p v).cxlPort q = s.cxlPort q := rfl
@[simp] theorem setPod_at_port (p : Nat) (v : Pod) (q : Nat) : (s.setPod p v).port q = s.port q := rfl
@[simp] theorem setPod_at_slot (p : Nat) (v : Pod) (a b : Nat) : (s.setPod p v).slot a b = s.slot a b := rfl
@[simp] theorem setPod_at_job (p : Nat) (v : Pod) (q : Nat) : (s.setPod p v).job q = s.job q := rfl
@[simp] theorem setPod_at_master (p : Nat) (v : Pod) (q : Nat) : (s.setPod p v).master q = s.master q := rfl
@[simp] theorem setPod_at_reg (p : Nat) (v : Pod) (a b : Nat) : (s.setPod p v).reg a b = s.reg a b := rfl

@[simp] theorem setBarrier_at_core (i : Nat) (v : Barrier) (q : Nat) : (s.setBarrier i v).core q = s.core q := rfl
@[simp] theorem setBarrier_at_lcore (i : Nat) (v : Barrier) (q : Nat) : (s.setBarrier i v).lcore q = s.lcore q := rfl
@[simp] theorem setBarrier_at_pod (i : Nat) (v : Barrier) (q : Nat) : (s.setBarrier i v).pod q = s.pod q := rfl
@[simp] theorem setBarrier_at_sem (i : Nat) (v : Barrier) (q : Nat) : (s.setBarrier i v).sem q = s.sem q := rfl
@[simp] theorem setBarrier_at_ctl (i : Nat) (v : Barrier) (q : Nat) : (s.setBarrier i v).ctl q = s.ctl q := rfl
@[simp] theorem setBarrier_at_cxlPort (i : Nat) (v : Barrier) (q : Nat) : (s.setBarrier i v).cxlPort q = s.cxlPort q := rfl
@[simp] theorem setBarrier_at_port (i : Nat) (v : Barrier) (q : Nat) : (s.setBarrier i v).port q = s.port q := rfl
@[simp] theorem setBarrier_at_slot (i : Nat) (v : Barrier) (a b : Nat) : (s.setBarrier i v).slot a b = s.slot a b := rfl
@[simp] theorem setBarrier_at_job (i : Nat) (v : Barrier) (q : Nat) : (s.setBarrier i v).job q = s.job q := rfl
@[simp] theorem setBarrier_at_master (i : Nat) (v : Barrier) (q : Nat) : (s.setBarrier i v).master q = s.master q := rfl
@[simp] theorem setBarrier_at_reg (i : Nat) (v : Barrier) (a b : Nat) : (s.setBarrier i v).reg a b = s.reg a b := rfl

@[simp] theorem setSem_at_core (i : Nat) (v : Sem) (q : Nat) : (s.setSem i v).core q = s.core q := rfl
@[simp] theorem setSem_at_lcore (i : Nat) (v : Sem) (q : Nat) : (s.setSem i v).lcore q = s.lcore q := rfl
@[simp] theorem setSem_at_pod (i : Nat) (v : Sem) (q : Nat) : (s.setSem i v).pod q = s.pod q := rfl
@[simp] theorem setSem_at_barrier (i : Nat) (v : Sem) (q : Nat) : (s.setSem i v).barrier q = s.barrier q := rfl
@[simp] theorem setSem_at_ctl (i : Nat) (v : Sem) (q : Nat) : (s.setSem i v).ctl q = s.ctl q := rfl
@[simp] theorem setSem_at_cxlPort (i : Nat) (v : Sem) (q : Nat) : (s.setSem i v).cxlPort q = s.cxlPort q := rfl
@[simp] theorem setSem_at_port (i : Nat) (v : Sem) (q : Nat) : (s.setSem i v).port q = s.port q := rfl
@[simp] theorem setSem_at_slot (i : Nat) (v : Sem) (a b : Nat) : (s.setSem i v).slot a b = s.slot a b := rfl
@[simp] theorem setSem_at_job (i : Nat) (v : Sem) (q : Nat) : (s.setSem i v).job q = s.job q := rfl
@[simp] theorem setSem_at_master (i : Nat) (v : Sem) (q : Nat) : (s.setSem i v).master q = s.master q := rfl
@[simp] theorem setSem_at_reg (i : Nat) (v : Sem) (a b : Nat) : (s.setSem i v).reg a b = s.reg a b := rfl

@[simp] theorem setCtl_at_core (i : Nat) (v : Controller) (q : Nat) : (s.setCtl i v).core q = s.core q := rfl
@[simp] theorem setCtl_at_lcore (i : Nat) (v : Controller) (q : Nat) : (s.setCtl i v).lcore q = s.lcore q := rfl
@[simp] theorem setCtl_at_pod (i : Nat) (v : Controller) (q : Nat) : (s.setCtl i v).pod q = s.pod q := rfl
@[simp] theorem setCtl_at_barrier (i : Nat) (v : Controller) (q : Nat) : (s.setCtl i v).barrier q = s.barrier q := rfl
@[simp] theorem setCtl_at_sem (i : Nat) (v : Controller) (q : Nat) : (s.setCtl i v).sem q = s.sem q := rfl
@[simp] theorem setCtl_at_cxlPort (i : Nat) (v : Controller) (q : Nat) : (s.setCtl i v).cxlPort q = s.cxlPort q := rfl
@[simp] theorem setCtl_at_port (i : Nat) (v : Controller) (q : Nat) : (s.setCtl i v).port q = s.port q := rfl
@[simp] theorem setCtl_at_slot (i : Nat) (v : Controller) (a b : Nat) : (s.setCtl i v).slot a b = s.slot a b := rfl
@[simp] theorem setCtl_at_job (i : Nat) (v : Controller) (q : Nat) : (s.setCtl i v).job q = s.job q := rfl
@[simp] theorem setCtl_at_master (i : Nat) (v : Controller) (q : Nat) : (s.setCtl i v).master q = s.master q := rfl
@[simp] theorem setCtl_at_reg (i : Nat) (v : Controller) (a b : Nat) : (s.setCtl i v).reg a b = s.reg a b := rfl

@[simp] theorem setCxl_at_core (i : Nat) (v : CxlPort) (q : Nat) : (s.setCxl i v).core q = s.core q := rfl
@[simp] theorem setCxl_at_lcore (i : Nat) (v : CxlPort) (q : Nat) : (s.setCxl i v).lcore q = s.lcore q := rfl
@[simp] theorem setCxl_at_pod (i : Nat) (v : CxlPort) (q : Nat) : (s.setCxl i v).pod q = s.pod q := rfl
@[simp] theorem setCxl_at_barrier (i : Nat) (v : CxlPort) (q : Nat) : (s.setCxl i v).barrier q = s.barrier q := rfl
@[simp] theorem setCxl_at_sem (i : Nat) (v : CxlPort) (q : Nat) : (s.setCxl i v).sem q = s.sem q := rfl
@[simp] theorem setCxl_at_ctl (i : Nat) (v : CxlPort) (q : Nat) : (s.setCxl i v).ctl q = s.ctl q := rfl
@[simp] theorem setCxl_at_port (i : Nat) (v : CxlPort) (q : Nat) : (s.setCxl i v).port q = s.port q := rfl
@[simp] theorem setCxl_at_slot (i : Nat) (v : CxlPort) (a b : Nat) : (s.setCxl i v).slot a b = s.slot a b := rfl
@[simp] theorem setCxl_at_job (i : Nat) (v : CxlPort) (q : Nat) : (s.setCxl i v).job q = s.job q := rfl
@[simp] theorem setCxl_at_master (i : Nat) (v : CxlPort) (q : Nat) : (s.setCxl i v).master q = s.master q := rfl
@[simp] theorem setCxl_at_reg (i : Nat) (v : CxlPort) (a b : Nat) : (s.setCxl i v).reg a b = s.reg a b := rfl

@[simp] theorem setPort_at_core (i : Nat) (v : Port) (q : Nat) : (s.setPort i v).core q = s.core q := rfl
@[simp] theorem setPort_at_lcore (i : Nat) (v : Port) (q : Nat) : (s.setPort i v).lcore q = s.lcore q := rfl
@[simp] theorem setPort_at_pod (i : Nat) (v : Port) (q : Nat) : (s.setPort i v).pod q = s.pod q := rfl
@[simp] theorem setPort_at_barrier (i : Nat) (v : Port) (q : Nat) : (s.setPort i v).barrier q = s.barrier q := rfl
@[simp] theorem setPort_at_sem (i : Nat) (v : Port) (q : Nat) : (s.setPort i v).sem q = s.sem q := rfl
@[simp] theorem setPort_at_ctl (i : Nat) (v : Port) (q : Nat) : (s.setPort i v).ctl q = s.ctl q := rfl
@[simp] theorem setPort_at_cxlPort (i : Nat) (v : Port) (q : Nat) : (s.setPort i v).cxlPort q = s.cxlPort q := rfl
@[simp] theorem setPort_at_slot (i : Nat) (v : Port) (a b : Nat) : (s.setPort i v).slot a b = s.slot a b := rfl
@[simp] theorem setPort_at_job (i : Nat) (v : Port) (q : Nat) : (s.setPort i v).job q = s.job q := rfl
@[simp] theorem setPort_at_master (i : Nat) (v : Port) (q : Nat) : (s.setPort i v).master q = s.master q := rfl
@[simp] theorem setPort_at_reg (i : Nat) (v : Port) (a b : Nat) : (s.setPort i v).reg a b = s.reg a b := rfl

@[simp] theorem setSlot_at_core (k j : Nat) (v : Slot) (q : Nat) : (s.setSlot k j v).core q = s.core q := rfl
@[simp] theorem setSlot_at_lcore (k j : Nat) (v : Slot) (q : Nat) : (s.setSlot k j v).lcore q = s.lcore q := rfl
@[simp] theorem setSlot_at_pod (k j : Nat) (v : Slot) (q : Nat) : (s.setSlot k j v).pod q = s.pod q := rfl
@[simp] theorem setSlot_at_barrier (k j : Nat) (v : Slot) (q : Nat) : (s.setSlot k j v).barrier q = s.barrier q := rfl
@[simp] theorem setSlot_at_sem (k j : Nat) (v : Slot) (q : Nat) : (s.setSlot k j v).sem q = s.sem q := rfl
@[simp] theorem setSlot_at_ctl (k j : Nat) (v : Slot) (q : Nat) : (s.setSlot k j v).ctl q = s.ctl q := rfl
@[simp] theorem setSlot_at_cxlPort (k j : Nat) (v : Slot) (q : Nat) : (s.setSlot k j v).cxlPort q = s.cxlPort q := rfl
@[simp] theorem setSlot_at_port (k j : Nat) (v : Slot) (q : Nat) : (s.setSlot k j v).port q = s.port q := rfl
@[simp] theorem setSlot_at_job (k j : Nat) (v : Slot) (q : Nat) : (s.setSlot k j v).job q = s.job q := rfl
@[simp] theorem setSlot_at_master (k j : Nat) (v : Slot) (q : Nat) : (s.setSlot k j v).master q = s.master q := rfl
@[simp] theorem setSlot_at_reg (k j : Nat) (v : Slot) (a b : Nat) : (s.setSlot k j v).reg a b = s.reg a b := rfl

@[simp] theorem setJob_at_core (k : Nat) (v : Option Job) (q : Nat) : (s.setJob k v).core q = s.core q := rfl
@[simp] theorem setJob_at_lcore (k : Nat) (v : Option Job) (q : Nat) : (s.setJob k v).lcore q = s.lcore q := rfl
@[simp] theorem setJob_at_pod (k : Nat) (v : Option Job) (q : Nat) : (s.setJob k v).pod q = s.pod q := rfl
@[simp] theorem setJob_at_barrier (k : Nat) (v : Option Job) (q : Nat) : (s.setJob k v).barrier q = s.barrier q := rfl
@[simp] theorem setJob_at_sem (k : Nat) (v : Option Job) (q : Nat) : (s.setJob k v).sem q = s.sem q := rfl
@[simp] theorem setJob_at_ctl (k : Nat) (v : Option Job) (q : Nat) : (s.setJob k v).ctl q = s.ctl q := rfl
@[simp] theorem setJob_at_cxlPort (k : Nat) (v : Option Job) (q : Nat) : (s.setJob k v).cxlPort q = s.cxlPort q := rfl
@[simp] theorem setJob_at_port (k : Nat) (v : Option Job) (q : Nat) : (s.setJob k v).port q = s.port q := rfl
@[simp] theorem setJob_at_slot (k : Nat) (v : Option Job) (a b : Nat) : (s.setJob k v).slot a b = s.slot a b := rfl
@[simp] theorem setJob_at_master (k : Nat) (v : Option Job) (q : Nat) : (s.setJob k v).master q = s.master q := rfl
@[simp] theorem setJob_at_reg (k : Nat) (v : Option Job) (a b : Nat) : (s.setJob k v).reg a b = s.reg a b := rfl

@[simp] theorem setMaster_at_core (m : Nat) (v : Master) (q : Nat) : (s.setMaster m v).core q = s.core q := rfl
@[simp] theorem setMaster_at_lcore (m : Nat) (v : Master) (q : Nat) : (s.setMaster m v).lcore q = s.lcore q := rfl
@[simp] theorem setMaster_at_pod (m : Nat) (v : Master) (q : Nat) : (s.setMaster m v).pod q = s.pod q := rfl
@[simp] theorem setMaster_at_barrier (m : Nat) (v : Master) (q : Nat) : (s.setMaster m v).barrier q = s.barrier q := rfl
@[simp] theorem setMaster_at_sem (m : Nat) (v : Master) (q : Nat) : (s.setMaster m v).sem q = s.sem q := rfl
@[simp] theorem setMaster_at_ctl (m : Nat) (v : Master) (q : Nat) : (s.setMaster m v).ctl q = s.ctl q := rfl
@[simp] theorem setMaster_at_cxlPort (m : Nat) (v : Master) (q : Nat) : (s.setMaster m v).cxlPort q = s.cxlPort q := rfl
@[simp] theorem setMaster_at_port (m : Nat) (v : Master) (q : Nat) : (s.setMaster m v).port q = s.port q := rfl
@[simp] theorem setMaster_at_slot (m : Nat) (v : Master) (a b : Nat) : (s.setMaster m v).slot a b = s.slot a b := rfl
@[simp] theorem setMaster_at_job (m : Nat) (v : Master) (q : Nat) : (s.setMaster m v).job q = s.job q := rfl
@[simp] theorem setMaster_at_reg (m : Nat) (v : Master) (a b : Nat) : (s.setMaster m v).reg a b = s.reg a b := rfl

@[simp] theorem setReg_at_core (idx sub : Nat) (v : Word) (q : Nat) : (s.setReg idx sub v).core q = s.core q := rfl
@[simp] theorem setReg_at_lcore (idx sub : Nat) (v : Word) (q : Nat) : (s.setReg idx sub v).lcore q = s.lcore q := rfl
@[simp] theorem setReg_at_pod (idx sub : Nat) (v : Word) (q : Nat) : (s.setReg idx sub v).pod q = s.pod q := rfl
@[simp] theorem setReg_at_barrier (idx sub : Nat) (v : Word) (q : Nat) : (s.setReg idx sub v).barrier q = s.barrier q := rfl
@[simp] theorem setReg_at_sem (idx sub : Nat) (v : Word) (q : Nat) : (s.setReg idx sub v).sem q = s.sem q := rfl
@[simp] theorem setReg_at_ctl (idx sub : Nat) (v : Word) (q : Nat) : (s.setReg idx sub v).ctl q = s.ctl q := rfl
@[simp] theorem setReg_at_cxlPort (idx sub : Nat) (v : Word) (q : Nat) : (s.setReg idx sub v).cxlPort q = s.cxlPort q := rfl
@[simp] theorem setReg_at_port (idx sub : Nat) (v : Word) (q : Nat) : (s.setReg idx sub v).port q = s.port q := rfl
@[simp] theorem setReg_at_slot (idx sub : Nat) (v : Word) (a b : Nat) : (s.setReg idx sub v).slot a b = s.slot a b := rfl
@[simp] theorem setReg_at_job (idx sub : Nat) (v : Word) (q : Nat) : (s.setReg idx sub v).job q = s.job q := rfl
@[simp] theorem setReg_at_master (idx sub : Nat) (v : Word) (q : Nat) : (s.setReg idx sub v).master q = s.master q := rfl

@[simp] theorem setReg64_at_core (idx sub v : Nat) (q : Nat) : (s.setReg64 idx sub v).core q = s.core q := rfl
@[simp] theorem setReg64_at_lcore (idx sub v : Nat) (q : Nat) : (s.setReg64 idx sub v).lcore q = s.lcore q := rfl
@[simp] theorem setReg64_at_pod (idx sub v : Nat) (q : Nat) : (s.setReg64 idx sub v).pod q = s.pod q := rfl
@[simp] theorem setReg64_at_barrier (idx sub v : Nat) (q : Nat) : (s.setReg64 idx sub v).barrier q = s.barrier q := rfl
@[simp] theorem setReg64_at_sem (idx sub v : Nat) (q : Nat) : (s.setReg64 idx sub v).sem q = s.sem q := rfl
@[simp] theorem setReg64_at_ctl (idx sub v : Nat) (q : Nat) : (s.setReg64 idx sub v).ctl q = s.ctl q := rfl
@[simp] theorem setReg64_at_cxlPort (idx sub v : Nat) (q : Nat) : (s.setReg64 idx sub v).cxlPort q = s.cxlPort q := rfl
@[simp] theorem setReg64_at_port (idx sub v : Nat) (q : Nat) : (s.setReg64 idx sub v).port q = s.port q := rfl
@[simp] theorem setReg64_at_slot (idx sub v : Nat) (a b : Nat) : (s.setReg64 idx sub v).slot a b = s.slot a b := rfl
@[simp] theorem setReg64_at_job (idx sub v : Nat) (q : Nat) : (s.setReg64 idx sub v).job q = s.job q := rfl
@[simp] theorem setReg64_at_master (idx sub v : Nat) (q : Nat) : (s.setReg64 idx sub v).master q = s.master q := rfl

@[simp] theorem bump_at_core (idx sub n : Nat) (q : Nat) : (s.bump idx sub n).core q = s.core q := rfl
@[simp] theorem bump_at_lcore (idx sub n : Nat) (q : Nat) : (s.bump idx sub n).lcore q = s.lcore q := rfl
@[simp] theorem bump_at_pod (idx sub n : Nat) (q : Nat) : (s.bump idx sub n).pod q = s.pod q := rfl
@[simp] theorem bump_at_barrier (idx sub n : Nat) (q : Nat) : (s.bump idx sub n).barrier q = s.barrier q := rfl
@[simp] theorem bump_at_sem (idx sub n : Nat) (q : Nat) : (s.bump idx sub n).sem q = s.sem q := rfl
@[simp] theorem bump_at_ctl (idx sub n : Nat) (q : Nat) : (s.bump idx sub n).ctl q = s.ctl q := rfl
@[simp] theorem bump_at_cxlPort (idx sub n : Nat) (q : Nat) : (s.bump idx sub n).cxlPort q = s.cxlPort q := rfl
@[simp] theorem bump_at_port (idx sub n : Nat) (q : Nat) : (s.bump idx sub n).port q = s.port q := rfl
@[simp] theorem bump_at_slot (idx sub n : Nat) (a b : Nat) : (s.bump idx sub n).slot a b = s.slot a b := rfl
@[simp] theorem bump_at_job (idx sub n : Nat) (q : Nat) : (s.bump idx sub n).job q = s.job q := rfl
@[simp] theorem bump_at_master (idx sub n : Nat) (q : Nat) : (s.bump idx sub n).master q = s.master q := rfl

@[simp] theorem bump64_at_core (idx sub n : Nat) (q : Nat) : (s.bump64 idx sub n).core q = s.core q := rfl
@[simp] theorem bump64_at_lcore (idx sub n : Nat) (q : Nat) : (s.bump64 idx sub n).lcore q = s.lcore q := rfl
@[simp] theorem bump64_at_pod (idx sub n : Nat) (q : Nat) : (s.bump64 idx sub n).pod q = s.pod q := rfl
@[simp] theorem bump64_at_barrier (idx sub n : Nat) (q : Nat) : (s.bump64 idx sub n).barrier q = s.barrier q := rfl
@[simp] theorem bump64_at_sem (idx sub n : Nat) (q : Nat) : (s.bump64 idx sub n).sem q = s.sem q := rfl
@[simp] theorem bump64_at_ctl (idx sub n : Nat) (q : Nat) : (s.bump64 idx sub n).ctl q = s.ctl q := rfl
@[simp] theorem bump64_at_cxlPort (idx sub n : Nat) (q : Nat) : (s.bump64 idx sub n).cxlPort q = s.cxlPort q := rfl
@[simp] theorem bump64_at_port (idx sub n : Nat) (q : Nat) : (s.bump64 idx sub n).port q = s.port q := rfl
@[simp] theorem bump64_at_slot (idx sub n : Nat) (a b : Nat) : (s.bump64 idx sub n).slot a b = s.slot a b := rfl
@[simp] theorem bump64_at_job (idx sub n : Nat) (q : Nat) : (s.bump64 idx sub n).job q = s.job q := rfl
@[simp] theorem bump64_at_master (idx sub n : Nat) (q : Nat) : (s.bump64 idx sub n).master q = s.master q := rfl

@[simp] theorem peak_at_core (idx sub n : Nat) (q : Nat) : (s.peak idx sub n).core q = s.core q := rfl
@[simp] theorem peak_at_lcore (idx sub n : Nat) (q : Nat) : (s.peak idx sub n).lcore q = s.lcore q := rfl
@[simp] theorem peak_at_pod (idx sub n : Nat) (q : Nat) : (s.peak idx sub n).pod q = s.pod q := rfl
@[simp] theorem peak_at_barrier (idx sub n : Nat) (q : Nat) : (s.peak idx sub n).barrier q = s.barrier q := rfl
@[simp] theorem peak_at_sem (idx sub n : Nat) (q : Nat) : (s.peak idx sub n).sem q = s.sem q := rfl
@[simp] theorem peak_at_ctl (idx sub n : Nat) (q : Nat) : (s.peak idx sub n).ctl q = s.ctl q := rfl
@[simp] theorem peak_at_cxlPort (idx sub n : Nat) (q : Nat) : (s.peak idx sub n).cxlPort q = s.cxlPort q := rfl
@[simp] theorem peak_at_port (idx sub n : Nat) (q : Nat) : (s.peak idx sub n).port q = s.port q := rfl
@[simp] theorem peak_at_slot (idx sub n : Nat) (a b : Nat) : (s.peak idx sub n).slot a b = s.slot a b := rfl
@[simp] theorem peak_at_job (idx sub n : Nat) (q : Nat) : (s.peak idx sub n).job q = s.job q := rfl
@[simp] theorem peak_at_master (idx sub n : Nat) (q : Nat) : (s.peak idx sub n).master q = s.master q := rfl

@[simp] theorem core_setCore_same (c : Nat) (v : Core) : (s.setCore c v).core c = v := sget_sput_same ..
@[simp] theorem core_setCore_other (c j : Nat) (v : Core) (h : j ≠ c) : (s.setCore c v).core j = s.core j :=
  sget_sput_other _ _ _ h
@[simp] theorem lcore_setLcore_same (i : Nat) (v : Option LCore) : (s.setLcore i v).lcore i = v := sget_sput_same ..
@[simp] theorem lcore_setLcore_other (i j : Nat) (v : Option LCore) (h : j ≠ i) : (s.setLcore i v).lcore j = s.lcore j :=
  sget_sput_other _ _ _ h
@[simp] theorem pod_setPod_same (p : Nat) (v : Pod) : (s.setPod p v).pod p = v := sget_sput_same ..
@[simp] theorem pod_setPod_other (p j : Nat) (v : Pod) (h : j ≠ p) : (s.setPod p v).pod j = s.pod j :=
  sget_sput_other _ _ _ h
@[simp] theorem barrier_setBarrier_same (i : Nat) (v : Barrier) : (s.setBarrier i v).barrier i = v := sget_sput_same ..
@[simp] theorem barrier_setBarrier_other (i j : Nat) (v : Barrier) (h : j ≠ i) : (s.setBarrier i v).barrier j = s.barrier j :=
  sget_sput_other _ _ _ h
@[simp] theorem sem_setSem_same (i : Nat) (v : Sem) : (s.setSem i v).sem i = v := sget_sput_same ..
@[simp] theorem sem_setSem_other (i j : Nat) (v : Sem) (h : j ≠ i) : (s.setSem i v).sem j = s.sem j :=
  sget_sput_other _ _ _ h
@[simp] theorem ctl_setCtl_same (i : Nat) (v : Controller) : (s.setCtl i v).ctl i = v := sget_sput_same ..
@[simp] theorem ctl_setCtl_other (i j : Nat) (v : Controller) (h : j ≠ i) : (s.setCtl i v).ctl j = s.ctl j :=
  sget_sput_other _ _ _ h
@[simp] theorem cxlPort_setCxl_same (i : Nat) (v : CxlPort) : (s.setCxl i v).cxlPort i = v := sget_sput_same ..
@[simp] theorem cxlPort_setCxl_other (i j : Nat) (v : CxlPort) (h : j ≠ i) : (s.setCxl i v).cxlPort j = s.cxlPort j :=
  sget_sput_other _ _ _ h
@[simp] theorem port_setPort_same (i : Nat) (v : Port) : (s.setPort i v).port i = v := sget_sput_same ..
@[simp] theorem port_setPort_other (i j : Nat) (v : Port) (h : j ≠ i) : (s.setPort i v).port j = s.port j :=
  sget_sput_other _ _ _ h
@[simp] theorem slot_setSlot_same (k j : Nat) (v : Slot) : (s.setSlot k j v).slot k j = v := sget_sput_same ..
theorem slot_setSlot_other (k j a b : Nat) (v : Slot) (h : 8 * a + b ≠ 8 * k + j) : (s.setSlot k j v).slot a b = s.slot a b :=
  sget_sput_other _ _ _ h
@[simp] theorem job_setJob_same (k : Nat) (v : Option Job) : (s.setJob k v).job k = v := sget_sput_same ..
@[simp] theorem job_setJob_other (k j : Nat) (v : Option Job) (h : j ≠ k) : (s.setJob k v).job j = s.job j :=
  sget_sput_other _ _ _ h
@[simp] theorem master_setMaster_same (m : Nat) (v : Master) : (s.setMaster m v).master m = v := sget_sput_same ..
@[simp] theorem master_setMaster_other (m j : Nat) (v : Master) (h : j ≠ m) : (s.setMaster m v).master j = s.master j :=
  sget_sput_other _ _ _ h
@[simp] theorem reg_setReg_same (idx sub : Nat) (v : Word) : (s.setReg idx sub v).reg idx sub = v := sget_sput_same ..
theorem reg_setReg_other (idx sub i j : Nat) (v : Word) (h : dkey i j ≠ dkey idx sub) : (s.setReg idx sub v).reg i j = s.reg i j :=
  sget_sput_other _ _ _ h

end Sys2Proof.Machine
end

