-- ==== Sys2Proof/Laws/Engine.lean ====
section
/-! SUPPORT. What issuing a word and sending it to an engine do. -/

namespace Sys2Proof.Machine

/-- What `issues` says. -/
theorem issues_iff (s : State) (c i : Nat) (x : LCore) :
    s.issues c i x = true ↔ c < 1152 ∧ s.current c = some (i, x) ∧ x.status = .ready ∧ x.index < s.blockLen c x := by
  simp [State.issues, and_assoc]

/-- A word without mistakes of a core that issues is carried out. -/
theorem issue_next {s : State} {c i : Nat} {x : LCore} {w : IWord} {own : Bool} {mist : LCore → List Mistake}
    {run : Nat → LCore → State} (h : s.issues c i x = true) (ho : own = true) (hm : lowest (mist x) = none) :
    issue s c w own mist run = .next (run i x) := by
  obtain ⟨hc, hcur, hst, hix⟩ := (issues_iff s c i x).1 h
  have hix' : ¬ ((s.core c).bank x.bank).words.length ≤ x.index := Nat.not_le.2 hix
  simp [issue, onUnit, hc, hcur, ho, hst, hix', hm]

/-- A word with mistakes halts the core with the lowest of them. -/
theorem issue_mistake {s : State} {c i : Nat} {x : LCore} {w : IWord} {own : Bool} {mist : LCore → List Mistake}
    {run : Nat → LCore → State} {m : Mistake} (h : s.issues c i x = true) (ho : own = true) (hm : lowest (mist x) = some m) :
    issue s c w own mist run = .next (s.mistake c i x.here (opcode w) m.1 m.2) := by
  obtain ⟨hc, hcur, hst, hix⟩ := (issues_iff s c i x).1 h
  have hix' : ¬ ((s.core c).bank x.bank).words.length ≤ x.index := Nat.not_le.2 hix
  simp [issue, onUnit, hc, hcur, ho, hst, hix', hm]

theorem current_lcore {s : State} {c i : Nat} {x : LCore} (h : s.current c = some (i, x)) : s.lcore i = some x := by
  unfold State.current at h
  split at h
  · cases h
  · split at h
    · cases h
    · cases h; assumption

@[simp] theorem diag_lcore (s : State) (c sub n : Nat) (on : Bool) (i : Nat) : (s.diag c sub n on).lcore i = s.lcore i := by
  unfold State.diag; split <;> rfl

theorem sins_sins_same {α : Type} (m : Sparse α) (k : Nat) (v : α) : sins (sins m k v) k v = sins m k v := by
  induction m with
  | nil => simp [sins]
  | cons p t ih =>
    obtain ⟨i, x⟩ := p
    by_cases h : k < i
    · simp [sins, h]
    · by_cases e : k = i
      · simp [sins, e]
      · simp [sins, h, e, ih]

theorem setLcore_same (s : State) (i : Nat) (x : LCore) :
    (s.setLcore i (some x)).setLcore i (some x) = s.setLcore i (some x) := by
  simp [State.setLcore, sput, sins_sins_same]

theorem setLcore_issued (s : State) (c i : Nat) (x : LCore) :
    (s.issued c i x).setLcore i (some x.next) = s.issued c i x := by
  have h : ∀ (on : Bool), ((s.setLcore i (some x.next)).diag c 1 1 on).setLcore i (some x.next) = ((s.setLcore i (some x.next)).setLcore i (some x.next)).diag c 1 1 on := by
    intro on; cases on <;> rfl
  rw [State.issued, h, setLcore_same]

/-- A word that nothing holds back leaves the issue stage and runs at once. -/
theorem sendTo_runs {s : State} {c i : Nat} {x : LCore} {w : IWord} {regs : List Nat} {u : Uses}
    {run : State → Nat → Nat → Held → State} (h : s.unhindered c x w regs u = true) :
    s.sendTo c i x w regs u run = run (s.issued c i x) c i (x.sent w u) := by
  simp only [State.unhindered, Bool.and_eq_true, Bool.not_eq_true', List.isEmpty_iff] at h
  obtain ⟨⟨⟨⟨⟨⟨hq, hr⟩, ht⟩, hh⟩, hm⟩, hf⟩, hp⟩ := h
  have hl : (s.issued c i x).lcore i = some x.next := by simp [State.issued]
  have hg : ∀ h : Held, x.next.gateFor h = ([], .go, []) := by
    intro h
    simp only [LCore.gateFor, LCore.next, LCore.oldest, hp]
    repeat' split
    all_goals rfl
  have ha : (s.issued c i x).attempt c i x.held (x.sent w u) run = (run (s.issued c i x) c i (x.sent w u), true) := by
    have hb : x.next.blocked [] (x.sent w u).uses = false := by simp [LCore.blocked, LCore.next, hm, hf]
    have he : ({ x.next with prefetches := [] } : LCore) = x.next := by
      have : x.next.prefetches = [] := hp
      rw [← this]
    have hr : ∀ t : State, t.refetch i x.next.prefetches [] = t := fun t => rfl
    simp [State.attempt, hl, hh, hb, hg, he, setLcore_issued, hr]
  have hgo : (s.queueFull c w || regs.any x.pendingS || x.tokensFull u) = false := by simp [hq, hr, ht]
  unfold State.sendTo
  rw [hgo]
  exact (congrArg (fun q : State × Bool => if q.2 then q.1
    else match q.1.lcore i with
      | none => q.1
      | some y => q.1.setLcore i (some { y with held := y.held ++ [x.sent w u] })) ha).trans rfl

end Sys2Proof.Machine
end

