-- ==== Sys2Proof/Laws/Memory.lean ====
section
/-! SUPPORT. Device memory: reading after writing, the canonical form, and the places that write it. -/

namespace Sys2Proof.Machine

/-! ## Folds -/

/-- What every step of a fold leaves alone, the fold leaves alone. -/
theorem foldl_frame {α β γ : Type} (g : α → γ) (f : α → β → α) (h : ∀ s x, g (f s x) = g s) (l : List β) (s : α) :
    g (l.foldl f s) = g s := by
  induction l generalizing s with
  | nil => rfl
  | cons x t ih => rw [List.foldl_cons, ih, h]

/-- What every step of a fold keeps, the fold keeps. -/
theorem foldl_keeps {α β : Type} (P : α → Prop) (f : α → β → α) (h : ∀ s x, P s → P (f s x)) (l : List β) (s : α) (hs : P s) :
    P (l.foldl f s) := by
  induction l generalizing s with
  | nil => exact hs
  | cons x t ih => exact ih _ (h _ _ hs)

/-! ## Bytes -/

@[simp] theorem getByte_putByte_same (m : Sparse Byte) (a : Nat) (b : Byte) : getByte (putByte m a b) a = b := by
  simp [getByte, putByte]

@[simp] theorem getByte_putByte_other (m : Sparse Byte) {a c : Nat} (b : Byte) (h : c ≠ a) :
    getByte (putByte m a b) c = getByte m c := by
  simp [getByte, putByte, h]

theorem getByte_putBytes_other (m : Sparse Byte) (a c : Nat) (bs : List Byte) (h : c < a ∨ a + bs.length ≤ c) :
    getByte (putBytes m a bs) c = getByte m c := by
  induction bs generalizing m a with
  | nil => rfl
  | cons b t ih =>
    simp only [List.length_cons] at h
    rw [putBytes, ih _ _ (by omega), getByte_putByte_other _ _ (by omega)]

theorem getByte_putBytes_at (m : Sparse Byte) (a i : Nat) (bs : List Byte) (h : i < bs.length) :
    getByte (putBytes m a bs) (a + i) = bs[i] := by
  induction bs generalizing m a i with
  | nil => simp at h
  | cons b t ih =>
    cases i with
    | zero => simp [putBytes, getByte_putBytes_other]
    | succ n =>
      have := ih (putByte m a b) (a + 1) n (by simpa using h)
      simpa [putBytes, Nat.add_assoc, Nat.add_comm 1 n] using this

@[simp] theorem getBytes_length (m : Sparse Byte) (a n : Nat) : (getBytes m a n).length = n := by
  induction n generalizing a with
  | zero => rfl
  | succ n ih => simp [getBytes, ih]

theorem getBytes_congr (m k : Sparse Byte) (a n : Nat) (h : ∀ c, a ≤ c → c < a + n → getByte m c = getByte k c) :
    getBytes m a n = getBytes k a n := by
  induction n generalizing a with
  | zero => rfl
  | succ n ih =>
    rw [getBytes, getBytes, h a (Nat.le_refl a) (by omega), ih (a + 1) fun c h1 h2 => h c (by omega) (by omega)]

/-- Reading the bytes just written gives them back. -/
@[simp] theorem getBytes_putBytes (m : Sparse Byte) (a : Nat) (bs : List Byte) : getBytes (putBytes m a bs) a bs.length = bs := by
  induction bs generalizing m a with
  | nil => rfl
  | cons b t ih =>
    simp only [List.length_cons, getBytes, putBytes]
    rw [ih, getByte_putBytes_other _ _ _ _ (by omega), getByte_putByte_same]

/-! ## Canonical form -/

theorem wf_putByte (m : Sparse Byte) (a : Nat) (b : Byte) (h : Memory.wf m = true) : Memory.wf (putByte m a b) = true :=
  swf_sput memFill m a b h

theorem wf_putBytes (m : Sparse Byte) (a : Nat) (bs : List Byte) (h : Memory.wf m = true) : Memory.wf (putBytes m a bs) = true := by
  induction bs generalizing m a with
  | nil => exact h
  | cons b t ih => exact ih _ _ (wf_putByte m a b h)

@[simp] theorem wf_nil : Memory.wf [] = true := rfl

/-! ## Writes of the machine -/

@[simp] theorem send_mem (s : State) (p : Packet) (b : Bool) : (s.send p b).mem = s.mem := by
  unfold State.send; repeat' split
  all_goals rfl

@[simp] theorem advance_mem (s : State) (gs : List Nat) : (s.advance gs).mem = s.mem := by
  unfold State.advance
  rw [foldl_frame State.mem _ (fun u w => send_mem ..)]
  refine foldl_frame State.mem _ (fun u p => ?_) s.lcores s
  repeat' split
  all_goals simp

@[simp] theorem fillRepairs_mem (s : State) (a n : Nat) : (s.fillRepairs a n).mem = s.mem := by
  unfold State.fillRepairs
  refine foldl_frame State.mem _ (fun u p => ?_) s.ctls s
  split <;> simp

/-- A write changes memory as `putBytes` does. -/
@[simp] theorem devWrite_mem (s : State) (a : Nat) (bs : List Byte) : (s.devWrite a bs).mem = putBytes s.mem a bs := by
  simp [State.devWrite]

/-- Writing runs of bytes keeps the canonical form. -/
theorem wf_devWrites (l : List (Nat × List Byte)) (s : State) (h : Memory.wf s.mem = true) :
    Memory.wf (l.foldl (fun (t : State) p => t.devWrite p.1 p.2) s).mem = true := by
  refine foldl_keeps (fun t : State => Memory.wf t.mem = true) _ (fun t p ht => ?_) l s h
  simpa using wf_putBytes t.mem p.1 p.2 ht

/-- A rank's write keeps the canonical form. -/
theorem wf_rankWrite (s : State) (k r a : Nat) (bs : List Byte) (h : Memory.wf s.mem = true) :
    Memory.wf (s.rankWrite k r a bs).mem = true :=
  wf_devWrites _ s h

/-- The values of a drained accumulator file keep the canonical form. -/
theorem wf_drainOut (s : State) (x : LCore) (ds : List Drained) (h : Memory.wf s.mem = true) :
    Memory.wf (s.drainOut x ds).mem = true := by
  unfold State.drainOut
  split
  · exact h
  · exact foldl_keeps (fun m => Memory.wf m = true) _ (fun m _ hm => wf_putBytes m _ _ hm) ds s.mem h

/-- Stopping every clock leaves memory with nothing listed. -/
@[simp] theorem stopAll_mem (s : State) : s.stopAll.mem = [] := rfl

end Sys2Proof.Machine
end

