-- ==== Sys2Proof/Laws/Outer.lean ====
section
/-! SUPPORT. What the shared operations leave as it is: the queue of commands, the manufactured identity and device memory. -/

namespace Sys2Proof.Machine

/-- The queue, the identity and device memory: what only a few operations change. -/
def State.outer (s : State) : List Instr × Identity × Sparse Byte := (s.pending, s.ident, s.mem)

theorem outer_eq {s t : State} (h : t.outer = s.outer) : t.pending = s.pending ∧ t.ident = s.ident ∧ t.mem = s.mem := by
  simpa [State.outer] using h

theorem outer_of_mem {s t : State} (hp : t.pending = s.pending) (hi : t.ident = s.ident) (hm : t.mem = s.mem) :
    t.outer = s.outer := by
  simp [State.outer, hp, hi, hm]

/-- A fold whose every step leaves the outer state leaves it. -/
theorem foldl_outer {β : Type} (f : State → β → State) (h : ∀ s x, (f s x).outer = s.outer) (l : List β) (s : State) :
    (l.foldl f s).outer = s.outer :=
  foldl_frame State.outer f h l s

/-! ## Writes of one instance or register -/

section
variable (s : State)
@[simp] theorem setCore_outer (c : Nat) (v : Core) : (s.setCore c v).outer = s.outer := rfl
@[simp] theorem setLcore_outer (i : Nat) (v : Option LCore) : (s.setLcore i v).outer = s.outer := rfl
@[simp] theorem setPod_outer (p : Nat) (v : Pod) : (s.setPod p v).outer = s.outer := rfl
@[simp] theorem setBarrier_outer (i : Nat) (v : Barrier) : (s.setBarrier i v).outer = s.outer := rfl
@[simp] theorem setSem_outer (i : Nat) (v : Sem) : (s.setSem i v).outer = s.outer := rfl
@[simp] theorem setCtl_outer (i : Nat) (v : Controller) : (s.setCtl i v).outer = s.outer := rfl
@[simp] theorem setCxl_outer (i : Nat) (v : CxlPort) : (s.setCxl i v).outer = s.outer := rfl
@[simp] theorem setPort_outer (i : Nat) (v : Port) : (s.setPort i v).outer = s.outer := rfl
@[simp] theorem setSlot_outer (k j : Nat) (v : Slot) : (s.setSlot k j v).outer = s.outer := rfl
@[simp] theorem setJob_outer (k : Nat) (v : Option Job) : (s.setJob k v).outer = s.outer := rfl
@[simp] theorem setMaster_outer (m : Nat) (v : Master) : (s.setMaster m v).outer = s.outer := rfl
@[simp] theorem setReg_outer (i j : Nat) (v : Word) : (s.setReg i j v).outer = s.outer := rfl
@[simp] theorem setReg64_outer (i j v : Nat) : (s.setReg64 i j v).outer = s.outer := rfl
@[simp] theorem bump_outer (i j n : Nat) : (s.bump i j n).outer = s.outer := rfl
@[simp] theorem bump64_outer (i j n : Nat) : (s.bump64 i j n).outer = s.outer := rfl
@[simp] theorem peak_outer (i j n : Nat) : (s.peak i j n).outer = s.outer := rfl
@[simp] theorem clearRegs_outer (i : Nat) (l : List Nat) : (s.clearRegs i l).outer = s.outer :=
  foldl_outer _ (fun _ _ => by simp) l s

/-! ## Time -/

@[simp] theorem countWaits_outer (c : Nat) (p : Core) (n : Nat) : (s.countWaits c p n).outer = s.outer := by
  unfold State.countWaits
  dsimp only
  repeat' split
  · rfl
  · exact foldl_outer _ (fun _ _ => by simp) _ s
  · rw [bump64_outer]
    exact foldl_outer _ (fun _ _ => by simp) _ s

@[simp] theorem stallQueues_outer (k : Nat) (j : Job) (n : Nat) : (s.stallQueues k j n).outer = s.outer := by
  unfold State.stallQueues
  dsimp only
  split
  · rfl
  · simp only [setReg64_outer, setReg_outer, bump64_outer, setJob_outer]

@[simp] theorem stallAll_outer (n : Nat) : (s.stallAll n).outer = s.outer := by
  refine foldl_outer _ (fun t p => ?_) s.jobs s
  repeat' split
  all_goals simp

@[simp] theorem passCycles_outer (n : Nat) : (s.passCycles n).outer = s.outer := by
  unfold State.passCycles
  split
  · rfl
  · exact (foldl_outer _ (fun t p => by simp) _ _).trans
      ((foldl_outer _ (fun t p => by simp) _ _).trans (stallAll_outer s n))

@[simp] theorem until_outer (t : Nat) : (s.until t).outer = s.outer := by
  unfold State.until; split <;> simp

@[simp] theorem untilCycle_outer (n : Nat) : (s.untilCycle n).outer = s.outer := by
  unfold State.untilCycle; split <;> simp

@[simp] theorem idle_outer : s.idle.outer = s.outer := by
  unfold State.idle; split <;> simp

/-! ## Interrupts, alarms and records -/

@[simp] theorem msix_outer (f v : Nat) : (s.msix f v).outer = s.outer := by
  unfold State.msix; repeat' split
  all_goals rfl

@[simp] theorem alarm_outer (i j b : Nat) : (s.alarm i j b).outer = s.outer := by
  unfold State.alarm
  split
  · rfl
  · dsimp only
    repeat' split
    all_goals simp only [msix_outer]; rfl

@[simp] theorem addError_outer (kind effect : Nat) (unit job : Word) (op : Nat) (step d0 d1 : DWord) :
    (s.addError kind effect unit job op step d0 d1).outer = s.outer := by
  unfold State.addError
  dsimp only
  repeat' split
  all_goals simp only [alarm_outer, bump_outer]; rfl

@[simp] theorem changeSlot_outer (k j : Nat) (f : Slot → Slot) : (s.changeSlot k j f).outer = s.outer := by
  unfold State.changeSlot; dsimp only; split <;> simp

@[simp] theorem diag_outer (c sub n : Nat) (on : Bool) : (s.diag c sub n on).outer = s.outer := by
  unfold State.diag; split <;> rfl

/-! ## Packets -/

@[simp] theorem send_outer (p : Packet) (b : Bool) : (s.send p b).outer = s.outer := rfl
@[simp] theorem askAt_outer (r t : Nat) (d : Half) (k a : Nat) (g : DWord) (bs : List Byte) (b : Bool) (w : Purpose) :
    (s.askAt r t d k a g bs b w).1.outer = s.outer := rfl
@[simp] theorem ask_outer (t : Nat) (d : Half) (k a : Nat) (g : DWord) (bs : List Byte) (b : Bool) (w : Purpose) :
    (s.ask t d k a g bs b w).1.outer = s.outer := rfl
@[simp] theorem answer_outer (p : Packet) (t : Nat) (g : DWord) (bs : List Byte) : (s.answer p t g bs).outer = s.outer := rfl
@[simp] theorem complete_outer (p : Packet) : (s.complete p).outer = s.outer := rfl

@[simp] theorem control_outer (k : Nat) (tag : DWord) (d : Half) (sub : Nat) (bs : List Byte) :
    (s.control k tag d sub bs).outer = s.outer :=
  foldl_outer _ (fun _ _ => by simp) _ s

@[simp] theorem controlEveryone_outer (k : Nat) (j : Job) (sub : Nat) (bs : List Byte) :
    (s.controlEveryone k j sub bs).outer = s.outer :=
  foldl_outer _ (fun _ _ => by simp) _ s

@[simp] theorem controlAll_outer (k : Nat) (j : Job) (sub : Nat) (bs : List Byte) :
    (s.controlAll k j sub bs).outer = s.outer :=
  foldl_outer _ (fun _ _ => by simp) _ s

@[simp] theorem controlLead_outer (k : Nat) (j : Job) (sub : Nat) (bs : List Byte) :
    (s.controlLead k j sub bs).outer = s.outer := by
  unfold State.controlLead; split <;> simp

/-! ## Cores that are taken and left -/

@[simp] theorem startLoad_outer (c bank k program : Nat) (b : Word) : (s.startLoad c bank k program b).outer = s.outer := by
  unfold State.startLoad; split <;> rfl

@[simp] theorem foldIn_outer (c i : Nat) : (s.foldIn c i).outer = s.outer := by
  unfold State.foldIn; split <;> rfl

@[simp] theorem join_outer (c i : Nat) (b : Bool) : (s.join c i b).outer = s.outer := by
  unfold State.join
  dsimp only
  repeat' split
  all_goals simp

@[simp] theorem enter_outer (c : Nat) : (s.enter c).outer = s.outer := by
  unfold State.enter
  rw [foldl_outer _ (fun _ _ => by simp)]
  rfl

@[simp] theorem leave_outer (c i : Nat) : (s.leave c i).outer = s.outer := by
  unfold State.leave
  dsimp only
  repeat' split
  all_goals simp

@[simp] theorem notePods_outer : s.notePods.outer = s.outer :=
  foldl_outer _ (fun _ _ => by simp) s.pods s

/-! ## Halts and teardown -/

@[simp] theorem clearWork_outer (k : Nat) : (s.clearWork k).outer = s.outer := by
  unfold State.clearWork
  dsimp only
  rw [notePods_outer, foldl_outer _ (fun _ _ => by simp)]
  exact foldl_outer _ (fun _ _ => by simp) s.cores s

@[simp] theorem dropJob_outer (k : Nat) : (s.dropJob k).outer = s.outer := by
  simp [State.dropJob]

@[simp] theorem endFaulted_outer (k j cause : Nat) (r : Word) : (s.endFaulted k j cause r).outer = s.outer := by
  simp [State.endFaulted]

@[simp] theorem faultJob_outer (k cause kind : Nat) (r : Word) : (s.faultJob k cause kind r).outer = s.outer := by
  unfold State.faultJob
  dsimp only
  repeat' split
  all_goals simp

@[simp] theorem recordHalt_outer (c i : Nat) (x : LCore) (a : Address) (opc reason detail effect : Nat) :
    (s.recordHalt c i x a opc reason detail effect).outer = s.outer := by
  unfold State.recordHalt
  dsimp only
  repeat' split
  all_goals simp

/-- A detected mistake changes neither the queue, the identity nor memory. -/
@[simp] theorem mistake_outer (c i : Nat) (a : Address) (opc reason detail : Nat) :
    (s.mistake c i a opc reason detail).outer = s.outer := by
  unfold State.mistake
  split
  · rfl
  · rw [faultJob_outer, foldl_outer _ (fun t p => by split <;> simp), recordHalt_outer]

@[simp] theorem mistakeOf_outer (i : Nat) (a : Address) (opc reason detail : Nat) :
    (s.mistakeOf i a opc reason detail).outer = s.outer := by
  unfold State.mistakeOf; split <;> simp

/-! ## Who issues -/

@[simp] theorem foldOut_outer (i : Nat) : (s.foldOut i).outer = s.outer := by
  unfold State.foldOut; split <;> simp

@[simp] theorem park_outer (i : Nat) : (s.park i).outer = s.outer := by
  unfold State.park; split <;> simp

@[simp] theorem vacate_outer (c i : Nat) : (s.vacate c i).outer = s.outer := by
  unfold State.vacate
  dsimp only
  repeat' split
  all_goals simp
  rw [foldl_outer _ (fun _ _ => by simp), park_outer]

@[simp] theorem departures_outer (c : Nat) : (s.departures c).outer = s.outer := by
  refine foldl_outer _ (fun t i => ?_) _ s
  repeat' split
  all_goals simp

@[simp] theorem reschedule_outer (c : Nat) : (s.reschedule c).outer = s.outer := by
  unfold State.reschedule
  dsimp only
  repeat' split
  all_goals simp

@[simp] theorem wakeTie_outer (c : Nat) (b : Bool) : (s.wakeTie c b).outer = s.outer := by
  unfold State.wakeTie
  dsimp only
  repeat' split
  all_goals simp

@[simp] theorem setStatus_outer (c i : Nat) (f : LCore → LCore) : (s.setStatus c i f).outer = s.outer := by
  unfold State.setStatus; split <;> simp

@[simp] theorem abandonTile_outer (c : Nat) : (s.abandonTile c).outer = s.outer := by
  unfold State.abandonTile
  dsimp only
  repeat' split
  all_goals simp
  all_goals rfl

@[simp] theorem wake_outer (i : Nat) (f : LCore → LCore) : (s.wake i f).outer = s.outer := by
  unfold State.wake
  dsimp only
  repeat' split
  all_goals simp

end

/-! ## The memory that a write leaves -/

/-- A device write changes memory alone of the three. -/
@[simp] theorem advance_outer (s : State) (gs : List Nat) : (s.advance gs).outer = s.outer := by
  unfold State.advance
  dsimp only
  rw [foldl_outer _ (fun _ _ => by simp)]
  refine foldl_outer _ (fun u p => ?_) s.lcores s
  repeat' split
  all_goals simp

@[simp] theorem fillRepairs_outer (s : State) (a n : Nat) : (s.fillRepairs a n).outer = s.outer := by
  refine foldl_outer _ (fun u p => ?_) s.ctls s
  split <;> simp

theorem devWrite_outer (s : State) (a : Nat) (bs : List Byte) :
    (s.devWrite a bs).outer = (s.pending, s.ident, putBytes s.mem a bs) := by
  simp [State.devWrite]; rfl

end Sys2Proof.Machine
end

