-- ==== Sys2Proof/Machine/Accumulator.lean ====
section
/-! DEFINITION. The accumulator memory of a core as a diagnostic read sees it (R93 to R96, R135 to R138, R262): entries in
their short form, spill slots, row records, top-k records and counter sets. Programs never address it. -/

namespace Sys2Proof.Machine

/-- Base + 300 of an entry held in its window (R94, R96). -/
def Entry.position (e : Entry) : Nat := if e.m = 0 then 0 else min (lowBit e.m.toInt.natAbs) 512

/-- The short form of an entry, 144 bits (R94). -/
def Entry.shortForm (e : Entry) : BitVec 144 :=
  let flag := fun (b : Bool) (n : Nat) => if b then 2 ^ n else 0
  let spilled := e.place ≠ .window
  let window := if spilled then 0 else (BitVec.ofInt 128 (e.m.toInt / (2 ^ e.position : Nat))).toNat
  let position :=
    match e.place with
    | .window => e.position
    | .slot n => n
    | .drained => 0x3FF
  BitVec.ofNat 144 (window * 2 ^ 16 + flag spilled 15 + flag e.nan 14 + flag e.pinf 13 + flag e.ninf 12 + flag e.negz 11 +
    flag e.any 10 + position)

/-- m of spill slot n of a logical core: what a marrow entry or a row record's sum holds there (R95), 0 in a free slot. -/
def LCore.spilled (x : LCore) (n : Nat) : Marrow :=
  match x.marrow.find? (fun p => p.2.place = .slot n) with
  | some p => p.2.m
  | none =>
    match x.records.find? (fun p => p.2.sum.place = .slot n) with
    | some p => p.2.sum.m
    | none => 0

/-- A row record (R136). -/
def RowRecord.bytes (r : RowRecord) : List Byte :=
  leBytes 18 r.sum.shortForm.toNat ++ leBytes 2 0 ++ leBytes 4 r.max.toNat ++ leBytes 4 r.count ++
    leBytes 1 r.fmt ++ leBytes 1 r.k ++ leBytes 1 r.topk ++ leBytes 1 0

/-- A top-k record (R137): 16 entries, those not filled 0 and 0xFFFF_FFFF. -/
def topBytes (l : List (Word × Word)) : List Byte :=
  (upto 16).flatMap (fun i => leBytes 4 (l.getD i (0, 0xFFFFFFFF)).1.toNat ++ leBytes 4 (l.getD i (0, 0xFFFFFFFF)).2.toNat)

/-- A counter set (R138). -/
def setBytes (c : Counts) : List Byte :=
  leBytes 8 c.outputs ++ leBytes 8 c.zeros ++ leBytes 8 c.saturated ++ leBytes 8 c.nonFinite

/-- The byte at an offset of the accumulator memory (R93, R135). -/
def LCore.accByte (x : LCore) (o : Nat) : Byte :=
  if o < 0x12000 then
    -- arrays 0 and 1 lie one after the other, 2,048 entries of 18 bytes each
    (leBytes 18 (x.entry (o / 18)).shortForm.toNat).getD (o % 18) 0
  else if o < 0x17000 then (leBytes 80 (x.spilled ((o - 0x12000) / 80)).toNat).getD ((o - 0x12000) % 80) 0
  else if o < 0x17800 then (x.record ((o - 0x17000) / 32)).bytes.getD (o % 32) 0
  else if o < 0x17E00 then (topBytes (x.topList ((o - 0x17800) / 128))).getD (o % 128) 0
  else if o < 0x18000 then (setBytes (x.counts ((o - 0x17E00) / 32))).getD (o % 32) 0
  else 0

/-- A diagnostic read of n bytes of the core-local accumulator range from address a on (R261, R262). -/
def LCore.diagnosticRead (x : LCore) (a n : Nat) : List Byte := (upto n).map (fun i => x.accByte (a + i - 0x80000))

end Sys2Proof.Machine
end

