-- ==== Sys2Proof/Machine/Wire.lean ====
section
/-! DEFINITION. How packets and blocks lie on a link: flits, the CRC-32C of a packet, the block header, and the places of a
block's symbols on the lanes (R331 to R339, R341). The commands bring blocks as a receiver has decoded them (log 61). -/

namespace Sys2Proof.Machine

/-! ## Flits (R339) -/

/-- Lays a field of w bits at bit `lo`. -/
def lay (lo w v : Nat) : Nat := v % 2 ^ w * 2 ^ lo

/-- Data flits that follow a packet's header. -/
def dataFlits (p : Packet) : Nat := (p.data.length + 31) / 32

/-- The header flit with its check field as given (R339). -/
def headerFlit (p : Packet) (check : Nat) : Nat :=
  lay 248 8 p.ptype + lay 246 2 p.cls + lay 244 2 p.channel + lay 238 6 (dataFlits p) + lay 222 16 p.dest.toNat +
  lay 206 16 p.src.toNat + lay 205 1 (if p.detour then 1 else 0) + lay 189 16 (if p.detour then p.inter.toNat else 0) +
  lay 185 4 p.dir0.toNat + lay 181 4 p.dir1.toNat + lay 176 4 p.context + lay 160 16 p.tag.toNat +
  lay 96 48 p.addr.toNat + lay 32 64 p.arg.toNat + lay 0 32 check

/-- The n bytes of a flit, most significant first. -/
def beBytes (n v : Nat) : List Byte := (leBytes n v).reverse

/-- One byte into CRC-32C. PRESUMED (log 95): the polynomial 0x1EDC6F41 in its reflected form. -/
def crc32Byte (crc : Word) (b : Byte) : Word :=
  (upto 8).foldl (fun c _ => if c.getLsbD 0 then (c >>> 1) ^^^ 0x82F63B78 else c >>> 1) (crc ^^^ b.setWidth 32)

/-- CRC-32C of bytes: it starts at all ones and is inverted at its end. PRESUMED (log 95). -/
def crc32c (bs : List Byte) : Word := ~~~ (bs.foldl crc32Byte 0xFFFFFFFF)

/-- A packet's data bytes, filled up to whole flits. -/
def flitData (p : Packet) : List Byte := p.data ++ List.replicate (32 * dataFlits p - p.data.length) 0

/-- The check field of a packet: over its header with that field as 0, and its data flits (R339, R341). -/
def packetCheck (p : Packet) : Word := crc32c (beBytes 32 (headerFlit p 0) ++ flitData p)

/-- A received header's check field agrees (R341): `good` of a packet as a destination sees it. -/
def checkGood (p : Packet) (check : Word) : Bool := packetCheck p = check

/-- The flits of a packet, header first. -/
def packetFlits (p : Packet) : List (List Byte) :=
  beBytes 32 (headerFlit p (packetCheck p).toNat) :: (upto (dataFlits p)).map (fun i => ((flitData p).drop (32 * i)).take 32)

/-! ## The block header (R338) -/

/-- The 60-bit header of a block. -/
def blockHeader (b : FecBlock) : BitVec 60 :=
  BitVec.ofNat 60 (lay 46 14 b.seq.toNat + lay 32 14 b.ack.toNat + lay 31 1 (if b.nak then 1 else 0) + lay 15 16 b.stamp.toNat +
    lay 13 2 b.creditClass + lay 11 2 b.creditChan + lay 0 11 b.credits)

/-- What a receiver reads from a block header; the rest of the block comes from its codewords. -/
def readHeader (h : BitVec 60) (correctable : Bool) (corrected : List Nat) (packets : List Packet) : FecBlock :=
  { seq := BitVec.ofNat 14 (bits h 59 46), ack := BitVec.ofNat 14 (bits h 45 32), nak := bit h 31
    stamp := BitVec.ofNat 16 (bits h 30 15), creditClass := bits h 14 13, creditChan := bits h 12 11, credits := bits h 10 0
    correctable := correctable, corrected := corrected, packets := packets }

/-! ## Symbols and lanes (R331 to R336) -/

/-- Codeword and place in it of symbol i of a block, 0 to 1,631 (R333). -/
def symbolPlace (i : Nat) : Nat × Nat := (i % 3, i / 3)

/-- The codeword that carries message bit n of a block, 0 to 15,419 (R333). -/
def messageCodeword (n : Nat) : Nat := n / 5140

/-- Logical lane position and slot of symbol i over n lanes (R334). -/
def symbolLane (n i : Nat) : Nat × Nat := ((i + i / n) % n, i / n)

/-- Slots that a block takes on every lane in use (R334). -/
def blockSlots (n : Nat) : Nat := (1632 + n - 1) / n

/-- Slots of a block that carry zeros after symbol 1,631 (R334). -/
def emptySlots (n : Nat) : Nat := n * blockSlots n - 1632

/-- The physical lane of a logical position: the lanes in use ascending (R335). -/
def laneAt (mask : BitVec 13) (position : Nat) : Option Nat := ((upto 13).filter (fun l => bit mask l))[position]?

/-- The block with this sequence number follows an alignment marker on every lane in use (R336). -/
def afterMarker (block : Nat) : Bool := block % 1024 = 0

/-- The neighbour's receive lane that a transmit lane is joined to, and the port (R331). -/
def joinedLane (p l : Nat) : Nat × Nat := (opposite p, l)

/-- The outcome of the three codewords of a block (R337): with 15 symbol errors or fewer in each it is corrected. -/
def blockCorrectable (errors : List Nat) : Bool := errors.all (fun n => n ≤ 15)

end Sys2Proof.Machine
end

