-- ==== Sys2Proof/Tests/Slice0.lean ====
section
/-! SUPPORT. Tests on fixed values: ill-formed commands are refused, a few steps give what the spec says, and every statement
with hypotheses has states and operands that meet them (the theorems named witness_…, clause by clause). -/

namespace Sys2Proof.Tests

open Sys2Proof Sys2Proof.Machine

/-! ## Small states -/

/-- A number whose fields have these values and lowest bits. -/
def fields (fs : List (Nat × Nat)) : Nat := (fs.map (fun f => f.1 * 2 ^ f.2)).sum

/-- An instruction word: opcode in bits [127:120], and other fields. -/
def word (op : Nat) (fs : List (Nat × Nat)) : IWord := BitVec.ofNat 128 (fields ((op, 120) :: fs))

/-- A descriptor word of R226: base, rows, columns, bytes of a row, format code and tier. -/
def descWord (base rows cols stride fmt tier : Nat) : DescWord :=
  BitVec.ofNat 256 (fields [(base, 192), (7, 160), (rows, 128), (cols, 112), (stride, 88), (fmt, 4), (tier, 1)])

/-- A job of one rank on one device. -/
def jobA : Job :=
  { j := 0, lead := true, leadCoord := 0, standby := false, tag := 0, shape := 0, ranks := 1, cores := 1, held := [0]
    rankMap := [0], coreMap := [], tensors := [], pages := [], saves := [], epoch := 0, fromTick := 0, recordAddr := 0
    recordLen := 0, estimate := 0, releases := 0, groups := [], shards := [], hypers := [], nodes := [], gathers := []
    undecided := [], holdData := [], reports := [], reported := none, commit := none, committed := none, committedAt := 0
    stepDigest := 0, scaled := none, tapped := none, partials := [], watches := [], watchMap := [], scaleTable := 0
    ratioTable := 0, ratioLimit := 0, layers := 0, satLimit := 0, growth := 0, eMin := 0, eMax := 0, watchGot := []
    tapGot := [], scalePending := false, taps := [], queues := [], stalls := [], homes := [], replicas := 0, interval := 0
    replica := 0, replicaMap := [], jobLead := 0, shieldDigests := [], agreed := none, comparisons := 0, cleared := none
    digests := [], forced := [], disputed := none, history := [], left := [], expelled := [], judged := [], rankDigests := []
    order := none, restored := [], accepted := [], ended := [], confirmed := none, lastStep := none, lastBoundary := 0
    launched := 0, estimated := 0, ending := false, bound := 0, moves := [], reload := [], start := 0, stop := 0
    preemptedAt := none, ledger := [], ledgerSeq := 0, sink := (0, 0), replay := false, input := [], parts := [] }

/-- The logical core 0 of rank 0 of context 0, with T1 a row of two INT32 elements at 0 and T2 one at 64. -/
def lone : LCore :=
  { footprint := 8192, rows0 := 32, rows1 := 32, sr := [(1, 3), (2, 5)]
    t := [(1, descWord 0 1 2 8 7 0), (2, descWord 64 1 2 8 7 0)] }

/-- Core 0 holds the logical core x alone, and its next word is w. -/
def at_ (w : IWord) (x : LCore := lone) : State :=
  { cores := [(0, { res0 := some 0, bank0 := { block := 0, words := [w, w] } })], lcores := [(0, some x)], jobs := [(0, some jobA)] }

/-- Bytes at addresses, as a memory. -/
def store (l : List (Nat × List Byte)) : Sparse Byte := l.foldl (fun m p => putBytes m p.1 p.2) []

/-- The tile of zeros of shape 4 in INT8. -/
def zeroTile : Tile := { shape := 4, fmt := 6, cells := [], scales := [] }

/-! ## The spec's worked examples -/

/-- Chapters 0, 8, 15 and 16: object numbers, and where a GDDR7 address lies. -/
theorem test_objects : coreObj 37 0 = 0x4250 ∧ coreObj 37 0 * 1024 + 2 * 4 = 0x01094008 ∧ slotObj 2 5 0 = 0x24A8 ∧ ctlObj 1 1 = 0x9241 := by decide
theorem test_gddrDecode : (gddrDecode 0x40000000).1 = 144 ∧ (gddrDecode 0x40000000).2.1 = 2 ∧ (gddrDecode 0x40000000).2.2.1 = 176 ∧
    64 * (gddrDecode 0x40000000).2.2.2 = 1024 := by decide

def bin32 (w : Nat) : Exact := (decodeElem 0 w).exact
/-- Chapter 2: 300.0, 500.0 and 460.0 to E4M3 in the four modes. -/
theorem test_e4m3 : (
    (∀ mode ∈ [0, 1, 2], (convert 3 mode true 0 (bin32 0x43960000)).bits = 0x79) ∧
    (convert 3 3 true 0xB3170C44 (bin32 0x43960000)).bits = 0x7A ∧ (convert 3 3 true 0x1F000000 (bin32 0x43960000)).bits = 0x79 ∧
    (convert 3 0 false 0 (bin32 0x43FA0000)).bits = 0x7F ∧ (convert 3 0 true 0 (bin32 0x43FA0000)).bits = 0x7E ∧
    (∀ sat ∈ [true, false], (convert 3 0 sat 0 (bin32 0x43E60000)).bits = 0x7E ∧ (convert 3 0 sat 0 (bin32 0x43E60000)).cls = 0)) := by decide

/-- Chapter 2: the block with 15.0 and 3.3 in E2M1. -/
theorem test_e2m1 : (
    (convBlock 0 true [0, 0] [.fin false 15 1 0, .fin false 33 10 0]).1 = 0x80 ∧
    (convBlock 0 true [0, 0] [.fin false 15 1 0, .fin false 33 10 0]).2.map Conv.bits = [7, 3] ∧
    (convBlock 0 false [0, 0] [.fin false 15 1 0, .fin false 33 10 0]).1 = 0x81 ∧
    (convBlock 0 false [0, 0] [.fin false 15 1 0, .fin false 33 10 0]).2.map Conv.bits = [6, 2]) := by decide

/-- Chapter 2: the user table's polynomial, and its value in bfloat16. -/
theorem test_fma32 : fma32 0x3E800000 0x3E000000 0x3F000000 = 0x3F080000 ∧ (convert 2 0 true 0 (bin32 0x3F080000)).bits = 0x3F08 := by decide

/-- Chapter 3: the first pass and the second of the cancellation, the last terms, and the sum delivered in bfloat16. -/
theorem test_cancellation : (
    let big : Val := .fin false 1 100; let small : Val := .fin false 3 (-41)
    let e : Entry := Entry.addAll {} [big]
    Entry.fast {} [big] = true ∧ e.fast [small] = false ∧
      (Entry.addAll {} [big, small, .fin true 1 100]).m.toInt = 3 * 2 ^ 259 ∧
      (convert 2 0 true 0 (Exact.fin false 3 1 (-29))).bits = 0x31C0) := by decide +kernel

/-- Chapter 3: the second pass of the transposed product holds -16,777,215 first and 1 in the end, by the fast path. -/
theorem test_transposed : (
    let e : Entry := Entry.addAll {} [.fin false 1 0, .fin true 1 24]
    Entry.fast {} [.fin false 1 0, .fin true 1 24] = true ∧ e.m.toInt = -16777215 * 2 ^ 300 ∧
      e.fast [.fin false 1 24] = true ∧ (e.addAll [.fin false 1 24]).m.toInt = 2 ^ 300) := by decide +kernel

/-- Chapter 6: the fused multiply-add of bfloat16 operands; chapter 7: the pooled sum and mean. -/
theorem test_products : (
    (convert 2 0 true 0 (fmaOp (decodeElem 2 0x3F81) (decodeElem 2 0x3F81) (decodeElem 2 0xBF82))).bits = 0x3880 ∧
    (let e : Entry := Entry.addAll {} [mulVal (decodeElem 2 0x4980) (decodeElem 2 0x3F80), mulVal (decodeElem 2 0x3A40) (decodeElem 2 0x3F00),
        mulVal (decodeElem 2 0x4980) (decodeElem 2 0xBF80)]
     (convert 2 0 true 0 e.value.exact).bits = 0x39C0 ∧ (convert 2 0 true 0 (divOp e.value (.fin false 3 0))).bits = 0x3900)) := by decide +kernel

/-- Chapters 6 and 9: the words of the MSTR and the SARM example. -/
theorem test_words : (
    (let w : IWord := 0x11C0E482100000000000000000000000
     opcode w = 0x11 ∧ bits w 119 118 = 3 ∧ bits w 117 115 = 0 ∧ bits w 114 110 = 3 ∧ bit w 109 = true ∧ bits w 108 105 = 2) ∧
    (let w : IWord := 0x40071240000001800000000000000000; opcode w = 0x40 ∧ bits w 119 112 = 7 ∧ bits w 97 71 = 3)) := by decide

/-- Chapter 11: the tree of eight contributions: 2^24, 1, 1, 1, -2^24, 1, 1, 1. -/
theorem test_tree : (
    let one : Word := 0x3F800000; let big : Word := 0x4B800000; let neg : Word := 0xCB800000
    add32 (add32 (add32 big one) (add32 one one)) (add32 (add32 neg one) (add32 one one)) = 0x40A00000 ∧
      add32 (add32 (add32 big one) (add32 one one)) (add32 neg (add32 one one)) = 0x40800000) := by decide

/-- Chapter 12: watch 3 from step 10 on. -/
theorem test_watch : (
    let j := { jobA with satLimit := 256, growth := 3, eMin := -100, eMax := 100 }
    let counts := fun (s : Nat) => ({ outputs := 1048576, zeros := 0, saturated := s, nonFinite := 0 } : Counts)
    scaleStep j { e := 4, next := 4, run := 0 } (counts 0) = (4, 1, false) ∧ scaleStep j { e := 4, next := 4, run := 2 } (counts 0) = (5, 0, false) ∧
      scaleStep j { e := 4, next := 5, run := 0 } (counts 100) = (4, 0, false) ∧ scaleStep j { e := 5, next := 4, run := 0 } (counts 9000) = (4, 0, false)) := by decide

/-- Chapter 10: the torus of 4 by 4 devices without device (2, 0, 0, 0), in digits W and X. -/
def torus44 : Fabric :=
  let up := fun (a b : Nat) => if a * 4096 + b * 256 = 0x2000 then ({ state := 0, neighbour := 0 } : LinkEnd) else { state := 2, neighbour := BitVec.ofNat 16 (a * 4096 + b * 256) }
  { coord := some 0, extents := some 0x3300
    records := ((upto 16).map (fun n =>
      let w := n / 4; let x := n % 4
      (w * 4096 + x * 256, some { version := 1, ends := if w * 4096 + x * 256 = 0x2000 then [] else
        [up ((w + 1) % 4) x, up ((w + 3) % 4) x, up w ((x + 1) % 4), up w ((x + 3) % 4)] }))) }
set_option maxRecDepth 20000 in
/-- No direct path leads to (2, 3, 0, 0); the detour goes through (0, 1, 0, 0), plus in every dimension. -/
theorem test_detour : torus44.first 0 0x2300 = none ∧ torus44.route 0 0x2300 = some (some 0x0100, 0, 0) := by decide +kernel
/-! ## Flow instructions -/

theorem witness_LoopAndJump_1 : (let w := word 1 [(2, 87)]; let s := at_ w
    s.issues 0 0 lone = true ∧ lowest (loopMistakes s 0 w lone) = none ∧ (lone.getL 0).toNat + 1 < loopCount w lone) := by decide
theorem witness_LoopAndJump_2 : (let w := word 1 [(1, 107), (4, 103)]; let s := at_ w
    s.issues 0 0 lone = true ∧ lowest (loopMistakes s 0 w lone) = none ∧ lone.pendingS 4 = false ∧ loopCount w lone ≤ (lone.getL 0).toNat + 1) := by decide
theorem witness_LoopAndJump_3 : (let w := word 2 [(1, 110), (4, 107), (1, 103)]; let s := at_ w
    s.issues 0 0 lone = true ∧ lowest (jumpMistakes s 0 w lone) = none ∧ lone.pendingS 1 = false) := by decide

/-- An image at address 0 with a program of two blocks of one instruction; the other bank of core 0 holds block 1. -/
def banked (w : IWord) : State :=
  { at_ w with
    cores := [(0, { res0 := some 0, bank0 := { block := 0, words := [w] }, bank1 := { block := 1, words := [w] } })]
    mem := store [(0x10, leBytes 4 1), (0x40, leBytes 4 1 ++ leBytes 4 2 ++ leBytes 8 0x80), (0x80, leBytes 4 0 ++ leBytes 4 1 ++ leBytes 8 0xA0),
      (0x90, leBytes 4 0x10000 ++ leBytes 4 1 ++ leBytes 8 0xA0)] }

/-- Two contexts, each with a slot of core 0, and another logical core of context 0 elsewhere. -/
def shared (w : IWord) : State :=
  { at_ w with
    cores := [(0, { res0 := some 0, res1 := some (lkey 1 0 0), bank0 := { block := 0, words := [w, w] } })]
    lcores := [(0, some lone), (1, some { lone with l := 1 }), (lkey 1 0 0, some { lone with k := 1 })] }

theorem witness_Boundaries_1 : (let w := word 3 [(1, 88)]; let s := banked w
    s.issues 0 0 lone = true ∧ lowest (bankswapMistakes s 0 w lone) = none ∧ s.alone 0 = true ∧ s.stays 0 0 lone = true ∧ lone.bank < 2 ∧
      ((s.core 0).bank 1).block = BitVec.ofNat 32 (bits w 119 88) ∧ ((s.core 0).bank 1).words ≠ [] ∧ ((s.core 0).bank 1).loading = none) := by decide
theorem witness_Boundaries_2 : (let w := word 4 []; let s := at_ w
    s.issues 0 0 lone = true ∧ lowest (reservedBits w []) = none ∧ s.alone 0 = true ∧ s.stays 0 0 lone = true) := by decide
theorem witness_Boundaries_3 : (let w := word 4 []; let s := shared w
    s.issues 0 0 lone = true ∧ lowest (reservedBits w []) = none ∧ s.stays 0 0 lone = true ∧ (s.core 0).issuing < 2 ∧
      (s.core 0).res (1 - (s.core 0).issuing) = some (lkey 1 0 0) ∧ lkey 1 0 0 ≠ 0 ∧ s.lcore (lkey 1 0 0) = some { lone with k := 1 }) := by decide
/-- The other logical core of context 0 goes on. -/
def twoLive (w : IWord) : State := { at_ w with lcores := [(0, some lone), (1, some { lone with l := 1 })] }
theorem witness_Boundaries_4 : (let w := word 5 []; let s := twoLive w
    s.issues 0 0 lone = true ∧ lowest (reservedBits w []) = none ∧ s.alone 0 = true ∧ (s.core 0).fold.length ≤ 1) ∧
    (twoLive (word 5 [])).jobGoesOn 0 lone := ⟨by decide, 1, { lone with l := 1 }, by decide⟩
theorem witness_Boundaries_5 : (let s : State := { cores := [(1151, { bank1 := { loading := some (3, 0, 1) } })] }
    ((s.core 1151).bank 1).loading = some (3, 0, 1) ∧ (s.core 1151).res0 = none ∧ (s.core 1151).res1 = none) := by decide

/-! ## Mistakes -/

theorem witness_Mistakes : (
    (let w := word 0x06 []; (at_ w).issues 0 0 lone = true ∧ definedOpcode (opcode w) = false) ∧
    (let w := word 1 [(2, 108)]; (at_ w).issues 0 0 lone = true ∧ lowest (loopMistakes (at_ w) 0 w lone) = some (5, 2)) ∧
    (let w := word 0x11 []; (at_ w).issues 0 0 lone = true ∧ (lowest (mstrMistakes w lone)).isSome = true) ∧
    (let w := word 0x22 [(1, 0)]; (at_ w).issues 0 0 lone = true ∧ (lowest (elemMistakes ((at_ w).sharing 0) w lone [98, 87] [] 0)).isSome = true) ∧
    (let w := word 0x30 [(1, 0)]; (at_ w).issues 0 0 lone = true ∧ (lowest ((at_ w).dcopyMistakes 0 w lone)).isSome = true) ∧
    (let w := word 0x40 [(1, 0)]; (at_ w).issues 0 0 lone = true ∧ (lowest ((at_ w).sarmMistakes w lone)).isSome = true) ∧
    (let w := word 5 []; let x := { lone with index := 2 }
     (at_ w x).current 0 = some (0, x) ∧ x.status = .ready ∧ (at_ w x).blockLen 0 x ≤ x.index ∧ opcode w = 5)) := by decide

/-! ## The matrix engine -/

/-- A logical core with a tile of shape 4 in both sides of array 0, T3 the source of such a tile, T1 a row for it and T2 a row
of one output. -/
def matrixCore : LCore :=
  { lone with
    tiles := [(0, some zeroTile), (1, some zeroTile)]
    t := [(1, descWord 0 1 16 16 6 0), (2, descWord 64 1 1 4 7 0), (3, descWord 1024 16 1 1 6 0)] }

def mwtWord : IWord := word 0x10 [(4, 116), (3, 111)]
def mstrWord : IWord := word 0x11 [(1, 118), (4, 115), (1, 99), (1, 110)]
def moutWord : IWord := word 0x12 [(1, 107), (2, 102), (15, 65)]
def mswapWord : IWord := word 0x13 [(1, 118)]

theorem witness_MatrixWords : (
    ((at_ mwtWord matrixCore).issues 0 0 matrixCore = true ∧ lowest (mwtMistakes mwtWord matrixCore) = none ∧
      (at_ mwtWord matrixCore).unhindered 0 matrixCore mwtWord [] (mwtUses mwtWord matrixCore) = true) ∧
    ((at_ mstrWord matrixCore).issues 0 0 matrixCore = true ∧ lowest (mstrMistakes mstrWord matrixCore) = none ∧
      (at_ mstrWord matrixCore).unhindered 0 matrixCore mstrWord [] (mstrUses mstrWord matrixCore) = true) ∧
    ((at_ moutWord matrixCore).issues 0 0 matrixCore = true ∧
      lowest (moutMistakes ((at_ moutWord matrixCore).sharing 0) moutWord matrixCore) = none ∧ bits moutWord 76 75 = 0 ∧
      (at_ moutWord matrixCore).unhindered 0 matrixCore moutWord [] (moutUses moutWord matrixCore) = true) ∧
    ((at_ mswapWord matrixCore).issues 0 0 matrixCore = true ∧ lowest (mswapMistakes mswapWord) = none ∧
      (at_ mswapWord matrixCore).unhindered 0 matrixCore mswapWord [] {} = true)) := by decide

theorem witness_PassAdds : matrixCore.tile 0 false = some zeroTile ∧ (31 : Nat) < 32 ∧ 0 < (shapeDims zeroTile.shape).2 := by decide

/-- A sent word of the matrix core. -/
def sentM (w : IWord) : Held := matrixCore.sent w {}
/-- The matrix core with work in its engine's order, on core 1151 whose ramps have these values. -/
def engine (q : List MItem) (r : Ramp) : State :=
  { at_ mwtWord with cores := [(1151, { res0 := some 0, ramp0 := r, ramp1 := r })], lcores := [(0, some { matrixCore with mq := q })] }
def passItem : MItem := .pass (sentM mstrWord) 0 0 0 true

theorem witness_MatrixEvents : (
    (let s := engine [.swap 3] {}
     matrixOwner s (s.core 1151) = some 0 ∧ s.lcore 0 = some { matrixCore with mq := [.swap 3] }) ∧
    (let s := engine [passItem] { lam := 1 }
     matrixOwner s (s.core 1151) = some 0 ∧ s.lcore 0 = some { matrixCore with mq := [passItem] } ∧ matrixCore.prefetches = [] ∧
       ((arraysOf mstrWord).any (fun a => ((s.core 1151).ramp a).lam = 0 && ((s.core 1151).ramp a).credit < 8)) = false) ∧
    (let s := engine [passItem] { lam := 7 }; passWaits s (s.core 1151) 0 = true ∧ ((s.core 1151).ramp 0).lam < 8) ∧
    (let s := engine [passItem] { lam := 1 }; passWaits s (s.core 1151) 1 = false ∧ 0 < ((s.core 1151).ramp 1).lam) ∧
    (let s := engine [.out (sentM moutWord) 0 1] {}
     matrixOwner s (s.core 1151) = some 0 ∧ s.lcore 0 = some { matrixCore with mq := [.out (sentM moutWord) 0 1] } ∧
       bits (sentM moutWord).w 119 119 = 0 ∧ lowest (moutLate { matrixCore with mq := [.out (sentM moutWord) 0 1] } (sentM moutWord)) = none)) := by decide
/-! ## The vector engine -/

/-- Field lists of vector words: destination T1 or S3, operand a T2 or S1 (INT32 or binary32), b S2, c S2. -/
def dstT : List (Nat × Nat) := [(1, 114)]
def dstS : List (Nat × Nat) := [(1, 119), (3, 109)]
def srcT : List (Nat × Nat) := [(2, 103)]
def srcS : List (Nat × Nat) := [(1, 108), (1, 98)]
def srcF : List (Nat × Nat) := [(1, 108), (1, 103), (1, 98)]
def srcB : List (Nat × Nat) := [(1, 97), (2, 87)]
def srcC : List (Nat × Nat) := [(1, 86), (2, 76)]
/-- The operation of a vector word. -/
def vop (n : Nat) : List (Nat × Nat) := [(n, 48)]

/-- What a word of the lone core must meet for Delivers, without a condition of its own. -/
def vecOk (w : IWord) (regs : List Nat) (mist : State → LCore → List Mistake) (uses : LCore → Uses) : Bool :=
  (at_ w).issues 0 0 lone && (at_ w).alone 0 && decide (lowest (mist (at_ w) lone) = none) && (at_ w).unhindered 0 lone w regs (uses lone) &&
    (!isTensor w 109 || ((lone.desc w 109).tier = 0 && (lone.desc w 109).count ≤ 64))

theorem witness_VectorWords : (
    (∀ d ∈ [dstT, dstS], ∀ o ∈ [0, 1], let w := word 0x20 (d ++ srcS ++ srcB ++ vop o)
      vecOk w (vecRegs w [109, 98, 87]) (fun s x => elemMistakes (s.sharing 0) w x [98, 87] [] 1) (fun x => elemUses w x [98, 87]) = true ∧ vecOp w = o) ∧
    (∀ d ∈ [dstT, dstS], ∀ o ∈ [0, 2], let w := word 0x21 (d ++ srcS ++ srcB ++ srcC ++ vop o)
      vecOk w (vecRegs w [109, 98, 87, 76]) (fun s x => elemMistakes (s.sharing 0) w x [98, 87, 76] [] 2) (fun x => elemUses w x [98, 87, 76]) = true ∧ vecOp w = o) ∧
    (∀ d ∈ [dstT, dstS], let w := word 0x21 (d ++ srcS ++ srcB ++ vop 1)
      vecOk w (vecRegs w [109, 98, 87]) (fun s x => elemMistakes (s.sharing 0) w x [98, 87] [] 2) (fun x => elemUses w x [98, 87]) = true ∧ vecOp w = 1)) := by decide
theorem witness_VectorWords_2 : (
    (∀ d ∈ [dstT, dstS], let w := word 0x22 (d ++ srcF ++ srcB)
      vecOk w (vecRegs w [109, 98, 87]) (fun s x => elemMistakes (s.sharing 0) w x [98, 87] [] 0) (fun x => elemUses w x [98, 87]) = true) ∧
    (∀ d ∈ [dstT, dstS], let w := word 0x23 (d ++ srcF)
      vecOk w (vecRegs w [109, 98]) (fun s x => elemMistakes (s.sharing 0) w x [98] [] 0) (fun x => elemUses w x [98]) = true) ∧
    (∀ d ∈ [dstT, dstS], let w := word 0x2A (d ++ srcF ++ srcB)
      vecOk w (vecRegs w [109, 98, 87]) (fun s x => elemMistakes (s.sharing 0) w x [98, 87] [] 0) (fun x => elemUses w x [98, 87]) = true) ∧
    (∀ d ∈ [dstT, dstS], ∀ o ∈ [0, 1], let w := word 0x29 (d ++ vop o)
      vecOk w (vecRegs w [109]) (fun s x => elemMistakes (s.sharing 0) w x [] [] 2) (fun x => elemUses w x []) = true ∧ vecOp w = o) ∧
    (∀ d ∈ [dstT, dstS], let w := word 0x29 (d ++ srcS ++ vop 2)
      vecOk w (vecRegs w [109, 98]) (fun s x => elemMistakes (s.sharing 0) w x [98] [] 2) (fun x => elemUses w x [98]) = true ∧ vecOp w = 2) ∧
    (∀ d ∈ [dstT, dstS], let w := word 0x24 (d ++ srcF)
      vecOk w (vecRegs w [109, 98]) (fun s x => elemMistakes (s.sharing 0) w x [98] [] 0) (fun x => elemUses w x [98]) = true ∧
        lone.fmtOf w 98 ≠ lone.fmtOf w 109)) := by decide
theorem witness_Conversion : (let w := word 0x24 (dstS ++ srcS)
    vecOk w (vecRegs w [109, 98]) (fun s x => elemMistakes (s.sharing 0) w x [98] [] 0) (fun x => elemUses w x [98]) = true ∧
      isTensor w 109 = false ∧ isTensor w 98 = false ∧ lone.fmtOf w 98 = lone.fmtOf w 109) := by decide
theorem witness_TableWords : (
    (∀ d ∈ [dstT, dstS], let w := word 0x25 (d ++ srcF)
      vecOk w (vecRegs w [109, 98]) (fun s x => tabMistakes (s.sharing 0) w x [98] 0) (fun x => tabUses w x [98]) = true ∧ lowest (tabLate lone w) = none) ∧
    (∀ d ∈ [dstT, dstS], let w := word 0x26 (d ++ srcF)
      vecOk w (vecRegs w [109, 98]) (fun s x => tabMistakes (s.sharing 0) w x [98] 1) (fun x => tabUses w x [98]) = true ∧ lowest (tabLate lone w) = none) ∧
    (∀ d ∈ [dstT, dstS], let w := word 0x26 (d ++ srcF ++ srcB ++ vop 1)
      vecOk w (vecRegs w [109, 98, 87]) (fun s x => tabMistakes (s.sharing 0) w x [98, 87] 1) (fun x => tabUses w x [98, 87]) = true ∧
        lowest (tabLate lone w) = none)) := by decide

/-- A core with T1 one INT32 element, T2 a row of two, and T3 one row of two values. -/
def reduceCore : LCore := { lone with t := [(1, descWord 0 1 1 4 7 0), (2, descWord 64 1 2 8 7 0), (3, descWord 128 1 2 8 7 0)] }

theorem witness_Reductions : (
    (∀ f ∈ [0, 1], let w := word 0x27 ((if f = 1 then dstS else []) ++ srcT ++ [(f, 44)])
      (at_ w reduceCore).issues 0 0 reduceCore = true ∧ (at_ w reduceCore).alone 0 = true ∧ redRows w = false ∧
        lowest (redMistakes ((at_ w reduceCore).sharing 0) w reduceCore) = none ∧ bit w 44 = (f = 1) ∧
        (at_ w reduceCore).unhindered 0 reduceCore w (vecRegs w (if bit w 44 then [109, 98] else [98])) (redUses w reduceCore) = true) ∧
    (let w := word 0x27 ([(1, 114)] ++ srcT ++ [(1, 43)])
     (at_ w reduceCore).issues 0 0 reduceCore = true ∧ redRows w = true ∧ lowest (redRowMistakes ((at_ w reduceCore).sharing 0) w reduceCore) = none ∧
       (at_ w reduceCore).unhindered 0 reduceCore w (vecRegs w [109, 98]) (redUses w reduceCore) = true) ∧
    (let w := word 0x28 ([(3, 114)] ++ srcT)
     (at_ w reduceCore).issues 0 0 reduceCore = true ∧ (at_ w reduceCore).alone 0 = true ∧ lowest (topkMistakes w reduceCore) = none ∧
       (at_ w reduceCore).unhindered 0 reduceCore w [] (elemUses w reduceCore [98]) = true ∧ (reduceCore.desc w 98).rows = 1 ∧
       (reduceCore.desc w 109).tier = 0)) := by decide
/-! ## The move engine -/

/-- T1 a row of two elements in data SRAM, T2 another one, T3 one index, T4 a transpose's column, T5 a row in GDDR7. -/
def moveCore : LCore :=
  { lone with
    t := [(1, descWord 0 1 2 8 7 0), (2, descWord 64 1 2 8 7 0), (3, descWord 128 1 1 4 7 0), (4, descWord 192 2 1 4 7 0), (5, descWord 0 1 2 8 7 1)] }

/-- The move core on core 0, in a context with a partition of 64 MiB of GDDR7 at 0. -/
def moveAt (w : IWord) : State := { at_ w moveCore with dict := [(dkey (ctxObj 0 0) 4, 0x4000000)] }

/-- A move word: destination, source, and other fields. -/
def moveWord (op d s : Nat) (fs : List (Nat × Nat)) : IWord := word op ([(d, 115), (s, 105)] ++ fs)
/-- One index, from T3. -/
def indexT : List (Nat × Nat) := [(1, 79), (3, 95)]

/-- What every clause about a local move asks. -/
def moveOk (w : IWord) : Bool :=
  (moveAt w).issues 0 0 moveCore && (moveAt w).unhindered 0 moveCore w [] (moveUses w moveCore) &&
    decide (((moveAt w).issued 0 0 moveCore).needs moveCore.next (moveCore.sent w (moveUses w moveCore)) [] [] = []) &&
    decide (((moveAt w).issued 0 0 moveCore).moveLost moveCore.next (moveCore.sent w (moveUses w moveCore)) [] = none)

/-- The move core on a device whose granule 0 has an unwritten repair entry. -/
def moveLossy (w : IWord) : State := { moveAt w with ctls := [(0, { repairs := [{ granule := 0, written := false }] })] }

/-- What the clauses about a move that reads a lost granule ask. -/
def lossyOk (w : IWord) : Bool :=
  (moveLossy w).issues 0 0 moveCore && (moveLossy w).unhindered 0 moveCore w [] (moveUses w moveCore) &&
    decide (((moveLossy w).issued 0 0 moveCore).needs moveCore.next (moveCore.sent w (moveUses w moveCore)) [] [] = []) &&
    decide (((moveLossy w).issued 0 0 moveCore).moveLost moveCore.next (moveCore.sent w (moveUses w moveCore)) [] = some 0)

/-- The table, and the good indices, of an indexed move. -/
def indexedOk (w : IWord) : Bool :=
  let t := (moveAt w).issued 0 0 moveCore
  let h := moveCore.sent w (moveUses w moveCore)
  match t.indexed moveCore.next h with
  | some q => decide ((t.gathered moveCore.next h [] q (moveCore.desc w 110)).2 = none) &&
      decide ((goodIndices q.table.size (t.indices moveCore.next h [])).2 = none)
  | none => false

theorem witness_LocalMoves : (
    (let w := moveWord 0x30 1 5 []; lossyOk w = true ∧ lowest ((moveLossy w).dcopyMistakes 0 w moveCore) = none) ∧
    (let w := moveWord 0x35 4 5 []; lossyOk w = true ∧ lowest ((moveLossy w).dxposeMistakes 0 w moveCore) = none) ∧
    (let w := moveWord 0x30 1 2 []; moveOk w = true ∧ lowest ((moveAt w).dcopyMistakes 0 w moveCore) = none) ∧
    (let w := moveWord 0x35 4 2 []; moveOk w = true ∧ lowest ((moveAt w).dxposeMistakes 0 w moveCore) = none) ∧
    (∀ o ∈ [0, 1, 2], let w := moveWord 0x31 1 2 ([(o, 50)] ++ indexT)
      moveOk w = true ∧ indexedOk w = true ∧ lowest ((moveAt w).dgathMistakes 0 w moveCore) = none ∧ moveOp w = o) ∧
    (∀ o ∈ [0, 1], let w := moveWord 0x32 1 2 ([(o, 50)] ++ indexT)
      moveOk w = true ∧ indexedOk w = true ∧ lowest ((moveAt w).dscatMistakes 0 w moveCore) = none ∧ moveOp w = o) ∧
    (let w := moveWord 0x33 1 5 []; moveOk w = true ∧ lowest ((moveAt w).dprefMistakes 0 w moveCore) = none)) := by decide

/-- What every clause about a DREM word asks, with its accesses. -/
def dremOk (w : IWord) (u : Uses) : Bool := (moveAt w).issues 0 0 moveCore && (moveAt w).unhindered 0 moveCore w (dremRegs w) u

theorem witness_RemoteMoves : (
    (let w := moveWord 0x34 5 2 []; dremOk w { reads := (moveCore.desc w 100).range } = true ∧ lowest ((moveAt w).broadcastMistakes 0 w moveCore) = none ∧
      moveOp w = 0) ∧
    (let w := moveWord 0x34 1 5 [(1, 50)]; dremOk w { writes := (moveCore.desc w 110).range } = true ∧
      lowest ((moveAt w).readOneMistakes 0 w moveCore) = none ∧ moveOp w = 1) ∧
    (let w := moveWord 0x34 1 5 ([(2, 50)] ++ indexT); dremOk w (shardGatherUses w moveCore) = true ∧
      lowest ((moveAt w).shardGatherMistakes 0 w moveCore) = none ∧ moveOp w = 2) ∧
    (let w := moveWord 0x34 1 5 ([(3, 50), (1, 40), (3, 36)] ++ indexT); let x := { moveCore with sr := [(3, 1)] }
     lowest ((moveAt w).shardGatherMistakes 0 w x) = none ∧ moveOp w = 3 ∧ (at_ w x).issues 0 0 x = true ∧
       (at_ w x).unhindered 0 x w (dremRegs w) (shardGatherUses w x) = true) ∧
    (let w := moveWord 0x34 5 2 ([(4, 50)] ++ indexT); dremOk w { reads := (moveCore.desc w 100).range ++ (moveCore.desc w 90).range } = true ∧
      lowest ((moveAt w).shardScatterMistakes 0 w moveCore) = none ∧ moveOp w = 4 ∧ bit w 78 = false) ∧
    (let w := moveWord 0x34 1 5 [(5, 50)]; dremOk w { writes := (moveCore.desc w 110).range } = true ∧
      lowest ((moveAt w).versionMistakes 0 w moveCore) = none ∧ moveOp w = 5)) := by decide

/-- A held word of the move core, and a core whose queue holds it. -/
def heldCopy : Held := moveCore.sent (moveWord 0x30 1 2 []) {}
/-- A prefetch whose refetched copy is at hand. -/
def pending : Prefetch :=
  { held := heldCopy, first := 0, last := 7, granules := [], tier := 1, generation := 1, strict := false, forced := false, arrived := true
    refetching := true, checked := true, watches := [] }
def waiting : LCore := { moveCore with held := [heldCopy] }
def refetchedCore : LCore := { moveCore with prefetches := [pending] }

theorem witness_Waits : (
    (let s := at_ 0 waiting
     s.residents 0 = [0] ∧ s.lcore 0 = some waiting ∧ waiting.blocked [] heldCopy.uses = false ∧ waiting.prefetches = [] ∧
       ((runHeld (s.setLcore 0 (some waiting)) 0 0 heldCopy).lcore 0).isSome = true) ∧
    (let s := at_ 0 refetchedCore
     s.residents 0 = [0] ∧ s.lcore 0 = some refetchedCore ∧ refetchedCore.refetched = some (pending, []) ∧ s.refetchLost refetchedCore pending = none)) := by decide
/-! ## Barriers and semaphores -/

def barCore (v : CoreBarrier) : LCore := { lone with barriers := [(7, v)] }
def sarmWord (b n : Nat) : IWord := word 0x40 [(b, 112), (n, 71)]
def sarrWord (op : Nat) : IWord := word 0x41 [(7, 112), (op, 110)]

theorem witness_BarrierWords : (
    (∀ b ∈ [0, 255], let w := sarmWord b 1
      (at_ w).issues 0 0 lone = true ∧ lowest ((at_ w).sarmMistakes w lone) = none ∧ lone.pendingS 0 = false ∧ (lone.bar b).disarming = false ∧ bits w 97 71 ≠ 0) ∧
    (let w := sarmWord 7 0; let x := barCore { armed := true }
     (at_ w x).issues 0 0 x = true ∧ lowest ((at_ w x).sarmMistakes w x) = none ∧ x.pendingS 0 = false ∧ (x.bar 7).disarming = false ∧ bits w 97 71 = 0 ∧
       (x.bar 7).armed = true ∧ (x.bar 7).waiting = none) ∧
    (let w := sarmWord 7 0
     (at_ w).issues 0 0 lone = true ∧ lowest ((at_ w).sarmMistakes w lone) = none ∧ (lone.bar 7).armed = false) ∧
    (∀ o ∈ [0, 1, 2], let w := sarrWord o; let x := barCore { armed := true, answered := true }
      (at_ w x).issues 0 0 x = true ∧ lowest (sarrMistakes w x) = none ∧ bits w 119 112 = 7 ∧ (x.bar 7).answered = true ∧ (x.bar 7).disarming = false ∧
        x.syncOut = [] ∧ x.openWrites = [] ∧ x.unacked = 0 ∧ sarrOp w = o ∧ (at_ w x).alone 0 = true ∧ ((at_ w x).core 0).fold.length ≤ 1 ∧
        (x.bar 7).waiting = none) ∧
    (let w := sarrWord 2; let x := barCore { armed := true, answered := true, waiting := some true }
     (at_ w x).issues 0 0 x = true ∧ lowest (sarrMistakes w x) = none ∧ (x.bar 7).waiting ≠ none ∧ (at_ w x).alone 0 = true)) := by decide

/-- Parameters of a barrier of the whole device with these participants. -/
def paramsOf (n : Nat) : BarrierParams := { unit := 0, span := 0, depth := 0, count := n }
def nowhere : Address := { bank := 0, index := 0, block := 0 }
/-- Messages under way, and a logical core on no physical core. -/
def inFlight (l : List Flight) (x : LCore := lone) : State := { flights := l, lcores := [(0, some x)], jobs := [(0, some { jobA with cores := 2 })] }

theorem witness_BarrierMessages : (
    (let s := inFlight [.arm 0 0 0 7 (paramsOf 1) nowhere]
     s.flights = [.arm 0 0 0 7 (paramsOf 1) nowhere] ∧ (s.barrier (bkey 0 0 7)).params = none ∧ s.lcore (lkey 0 0 0) = some lone) ∧
    (let s := { inFlight [.arrive 0 0 0 7 false nowhere] with barriers := [(7, { params := some (paramsOf 2) })] }
     s.flushAll 0 = s ∧ s.flights = [.arrive 0 0 0 7 (s.barrier (bkey 0 0 7)).phase nowhere] ∧ (s.barrier (bkey 0 0 7)).params = some (paramsOf 2) ∧
       s.job 0 = some { jobA with cores := 2 } ∧ ∃ n ∈ groupCores 2 0 0, n ∉ (s.barrier (bkey 0 0 7)).arrived ++ [0]) ∧
    (let x := { barCore { armed := true, waiting := some true } with status := .atBarrier 7 }; let s := inFlight [.release 0 0 0 7 true] x
     s.flights = [.release 0 0 0 7 true] ∧ s.lcore (lkey 0 0 0) = some x ∧ (x.bar 7).waiting = some true ∧ (x.bar 7).disarming = false ∧
       s.physOf (lkey 0 0 0) = none)) := by decide

def semWord (op q k : Nat) : IWord := word op [(q, 110), (k, 94)]

theorem witness_SemaphoreWords : (
    (let w := semWord 0x43 1023 1
     (at_ w).issues 0 0 lone = true ∧ lowest ((at_ w).ssigMistakes w lone) = none ∧ bit w 93 = false ∧ bits w 119 110 = 1023 ∧ (at_ w).job 0 = some jobA ∧
       jobA.held.contains 0 = true ∧ lone.syncOut = [] ∧ lone.openWrites = [] ∧ lone.unacked = 0) ∧
    (∀ o ∈ [0x42, 0x44], let w := semWord o 1023 65535
      (at_ w).issues 0 0 lone = true ∧ lowest (semMistakes w [(119, 94)]) = none ∧ opcode w = o)) := by decide

/-- A semaphore with one request, and nobody's write open. -/
def semState (v : Nat) (a : SemReq) : State := { inFlight [] with sems := [(5, { value := v, requests := [a] })] }
def reqOf (a : SemAsk) (k : Nat) : SemReq := { ask := a, k := k, cycle := 0, input := 0 }

theorem witness_SemaphoreHomes : (
    (∀ v ∈ [0, 2 ^ 32 - 1], let s := semState v (reqOf .signal 1)
      s.flushAll 0 = s ∧ (s.sem (skey 0 0 5)).requests = [reqOf .signal 1] ∧ (s.sem (skey 0 0 5)).free ≤ s.now ∧ (s.sem (skey 0 0 5)).waiters = [] ∧
        ((s.sem (skey 0 0 5)).value + 1 < 2 ^ 32 ∨ 2 ^ 32 ≤ (s.sem (skey 0 0 5)).value + 1)) ∧
    (∀ a ∈ [SemAsk.take (.core 0), .dec 0 nowhere], let s := semState 3 (reqOf a 3)
      s.flushAll 0 = s ∧ (s.sem (skey 0 0 5)).requests = [reqOf a 3] ∧ (s.sem (skey 0 0 5)).waiters = [] ∧ 3 ≤ (s.sem (skey 0 0 5)).value) ∧
    (let x := { lone with status := .atSemaphore 5 }; let s := inFlight [.grant 0 0 0 5] x
     s.flights = [.grant 0 0 0 5] ∧ s.lcore (lkey 0 0 0) = some x ∧ s.physOf (lkey 0 0 0) = none) ∧
    (inFlight [.granted 0 0 2]).flights = [.granted 0 0 2]) := by decide
/-! ## Memory, CXL and the host interface -/

/-- A device that serves memory requests. -/
def awake : State := { power := { phase := 1, memory := 2 } }
def readAt (a : Nat) (o : MemOp := .read) : MemReq := { who := .core 0, context := 0, addr := BitVec.ofNat 48 a, op := o, errors := [] }
def useOf (bank a : Nat) : SlotUse := { bank := bank, who := .core 0, context := 0, addr := a }
/-- The last granule of GDDR7, and its place: controller and bank. -/
def lastGranule : Nat := gddrEnd - 64
def ctlOf (a : Nat) : Nat := (gddrDecode a).1 / 8
def bankOf (a : Nat) : Nat := (gddrDecode a).1 % 8 * 16 + (gddrDecode a).2.1

set_option maxRecDepth 10000 in
theorem witness_MemoryRequests : (
    (∀ a ∈ [0, lastGranule], (readAt a).addr.toNat = a ∧ a < gddrEnd ∧ awake.memoryActive = true ∧
      ((awake.ctl (ctlOf a)).slots.filter (fun u => u.bank = bankOf a)).length < 64 ∧ (awake.ctl (ctlOf a)).slots.length < 5440 ∧
      awake.readGranule (ctlOf a) (a / 64) (readAt a).errors = .clean ∧ awake.readGranule (ctlOf a) (a / 64) (readAt a).errors ≠ .uncorrectable ∧
      (readAt a).op = .read ∧ (readAt a (.write [1])).op = .write [1] ∧ (readAt a (.partialWrite 1 [1])).op = .partialWrite 1 [1]) ∧
    (let s := { awake with ctls := [(0, { slots := List.replicate 64 (useOf (bankOf 0) 0) })] }
     s.memoryActive = true ∧ ctlOf 0 = 0 ∧ 64 ≤ ((s.ctl 0).slots.filter (fun u => u.bank = bankOf 0)).length) ∧
    (∀ n ∈ [0, 23], let s := { awake with ctls := [(n, { slots := [useOf 3 0] })] }; n < 24 ∧ ∃ u ∈ (s.ctl n).slots, u.bank = 3) ∧
    (∀ n ∈ [24, 25], let s := { awake with cxl := [(n - 24, { slots := [useOf 0 0] })] }; (n = 24 ∨ n = 25) ∧ (s.cxlPort (n - 24)).slots ≠ [])) := by decide

theorem witness_MemoryGroup : (
    (awake.memoryActive = true ∧ awake.power.phase = 1 ∧ awake.noJobs = true ∧ awake.power.floor = false) ∧
    (({ power := { memory := 1, wakeAt := some 5 } } : State).power.wakeAt = some 5) ∧
    (∀ on ∈ [true, false], ({ power := { floorNext := some (on, 96) } } : State).power.floorNext = some (on, 96)) ∧
    (∀ m ∈ [0, 1], let s := { awake with dict := [(dkey 0x0300 0x06, 2400)] }
      m ≤ 1 ∧ s.power.alive = true ∧ 2400 = s.reg64 0x0300 0x06 ∧ 2400 % 96 = 0 ∧ s.clock.tick.toNat + 2400 ≤ 2400) ∧
    (∀ T ∈ [1, 2 ^ 64 - 1], awake.clock.tick.toNat < T ∧ T < 2 ^ 64 ∧ awake.clock.cycle < 60)) := by decide

theorem witness_Refresh : (
    (∀ h ∈ [0, 191], let s := { awake with ctls := [(h / 8, { writeBacks := [(h, 7)] })] }; let b := (gddrDecode (64 * 7)).2.1
      h < 192 ∧ b < 16 ∧ s.memoryActive = true ∧
        (s.ctl (h / 8)).writeBacks.find? (fun w => w.1 = h && (gddrDecode (64 * w.2)).2.1 = b) = some (h, 7)) ∧
    (∀ h ∈ [0, 191], ∀ b ∈ [0, 15], h < 192 ∧ b < 16 ∧ awake.memoryActive = true ∧ (awake.ctl (h / 8)).repairs = [] ∧
      (awake.ctl (h / 8)).writeBacks.find? (fun w => w.1 = h && (gddrDecode (64 * w.2)).2.1 = b) = none) ∧
    (∀ t ∈ [85 * 16 + 1, 80 * 16, 80 * 16 + 1, 85 * 16], 85 * 16 < t ∨ t ≤ 80 * 16 ∨ (80 * 16 < t ∧ t ≤ 85 * 16))) := by decide

def askOf (core : Nat) : HostAsk := { tag := 65536, core := core, addr := 0x1000, length := 4 }
/-- A device whose PCIe link is up, with a partition of GDDR7 for context 15. -/
def hosted : State := { awake with
  host := { state := 2, asks := [askOf managerAsk] }
  dict := [(dkey (ctxObj 15 0) 4, 0x4000000)] }

theorem witness_Cxl : (
    (∀ n ∈ [0, 1], n < 2 ∧ (({ cxl := [(n, { state := 2 })] } : State).cxlPort n).state = 2 ∧ (awake.cxlPort n).slots = [] ∧ awake.jobs = [] ∧
      (({ cxl := [(n, { slots := [useOf 0 64] })] } : State).cxlPort n).slots.find? (fun v => v.addr = (64 : BitVec 48).toNat) = some (useOf 0 64)) ∧
    (hosted.host.sentAsk 65536 = some (askOf managerAsk) ∧ managerAsk ≤ (askOf managerAsk).core ∧ (askOf managerAsk).length ≤ ([1, 2, 3, 4] : List Byte).length) ∧
    (15 < 16 ∧ hosted.takesAccess 15 = true ∧ 60 < 2 ^ hosted.host.bar2Size 15 ∧ hosted.memoryActive = true ∧ 60 + 4 ≤ (hosted.partition 15 0).2 ∧
      hosted.unreadable ((hosted.partition 15 0).1 + 60) 4 = none ∧ (hosted.partition 15 0).2 < 0x4000000 + 1 ∧
      0x4000000 < 2 ^ hosted.host.bar2Size 15)) := by decide
/-! ## Links, routes and the torus -/

/-- A device with port p in this state. -/
def withPort (p : Nat) (x : Port) : State := { ports := [(p, x)] }
def inUse : Port := { state := 2 }
/-- A packet of a type for coordinate c, for rank 0 of context 0. -/
def packet (ty : Nat) (data : List Byte := []) (addr : Nat := 0) (arg : Nat := 0) (c : Half := 0) : Packet :=
  { ptype := ty, cls := 0, channel := 0, dest := c, src := 2, detour := false, inter := 0, dir0 := 0, dir1 := 0, context := 0, tag := 9
    addr := BitVec.ofNat 48 addr, arg := BitVec.ofNat 64 arg, data := data, good := true }
def fecOf (seq : BitVec 14) (ok : Bool) : FecBlock :=
  { seq := seq, ack := 0, nak := false, stamp := 0, creditClass := 0, creditChan := 0, credits := 0, correctable := ok, corrected := [], packets := [] }

theorem witness_LinkBlocks : (
    (∀ p ∈ [0, 7], let s := withPort p inUse; p < 8 ∧ (s.port p).inService = true ∧ (fecOf 0 true).correctable = true ∧
      (fecOf 0 true).nak = false ∧ (fecOf 0 true).seq = (s.port p).expect ∧ (fecOf 16383 true).seq ≠ (s.port p).expect ∧
      (fecOf 0 false).correctable = false ∧ ((withPort p { inUse with nakking := true }).port p).nakking = true ∧
      ((withPort p { inUse with waiting := [{ at_ := 60, packets := [packet 2 [1]] }] }).port p).waiting =
        { at_ := 60, packets := [packet 2 [1]] } :: [] ∧ (packet 2 [1]).cls < 3)) := by decide

/-- A device at coordinate 0 of a torus of 4 devices in dimension 3, with its port in use. -/
def inTorus (x : Port := inUse) : State := { ports := [(6, x)], fabric := { coord := some 0, extents := some 3 } }
def onward : Packet := packet 2 [1, 2, 3] 0 0 1

/-- The same port with one flit of credit. -/
def poor : Port := { inUse with credits := [(0, 1)] }

theorem witness_PacketsLeave : (
    (hop inTorus.fabric inTorus.coord.toNat 0 onward = some (6, onward) ∧ reservedType onward.ptype = false ∧ onward.cls < 3 ∧
      (inTorus.port 6).inService = true ∧ flits onward ≤ (inTorus.port 6).credit (4 * onward.cls + onward.channel) ∧
      (inTorus.port 6).retry.length + (flits onward + 59) / 60 ≤ 512) ∧
    (hop (inTorus poor).fabric (inTorus poor).coord.toNat 0 onward = some (6, onward) ∧ ((inTorus poor).port 6).inService = true ∧
      ((inTorus poor).port 6).credit (4 * onward.cls + onward.channel) < flits onward) ∧
    (∀ q ∈ [0, 7], q < 8 ∧ reservedType (packet 0).ptype = true ∧ reservedType (packet 9).ptype = true)) := by decide

def swapOf (weak : Option Nat) (sprout stage : Nat) : LaneSwap := { weak := weak, sprout := sprout, stage := stage, from_ := 0, mask := 0 }

theorem witness_Lanes : (
    (∀ p ∈ [0, 7], let s := withPort p inUse; p < 8 ∧ (12 : Nat) < 13 ∧ (s.port p).inService = true ∧ bit (s.port p).txMask 12 = false ∧
      bit (s.port p).txRetired 12 = false ∧ ((withPort p { inUse with rxSwap := some (swapOf (some 0) 12 2) }).port p).rxSwap = some (swapOf (some 0) 12 2) ∧
      ((withPort p { inUse with txSwap := some (swapOf (some 0) 12 2) }).port p).txSwap = some (swapOf (some 0) 12 2)) ∧
    (∀ p ∈ [0, 7], let s := withPort p { inUse with txNext := some (64, 0x1FFE), nextSeq := 64 }
      p < 8 ∧ (s.port p).inService = true ∧ (s.port p).rxNext = none ∧ (s.port p).txNext = some (64, 0x1FFE) ∧ seqReached 64 (s.port p).nextSeq = true ∧
        11 ≤ lanes (0x1FFE : BitVec 13) ∧ 11 ≤ lanes (0x0FFE : BitVec 13) ∧ 11 ≤ lanes (s.port p).rxMask) ∧
    (∀ l ∈ [0, 11], let s := { withPort 7 { inUse with laneErrors := (List.replicate l 0) ++ [65537] } with power := { control := true } }
      l < 13 ∧ (s.port 7).inService = true ∧ bit (s.port 7).rxMask l = true ∧ 11 ≤ lanes ((s.port 7).rxMask &&& ~~~(lane l)) ∧ 11 ≤ lanes (s.port 7).txMask ∧
        s.power.alive = true ∧ s.power.control = true ∧ (s.port 7).rxSwap = none ∧ spareLane (s.port 7).rxMask (s.port 7).rxRetired = some 12 ∧
        (upto 13).find? (fun i => bit (s.port 7).rxMask i && 65536 < (s.port 7).laneErrors.getD i 0) = some l)) := by decide

theorem witness_Training : (
    (∀ p ∈ [0, 7], ∀ n ∈ [0, 6], let s := { withPort p { state := n } with power := { txIdle := false } }
      p < 8 ∧ ((s.port p).state = 0 ∨ (s.port p).state = 6) ∧ s.power.txIdle = false ∧ s.fabric.extents = none) ∧
    (∀ p ∈ [0, 7], ∀ n ∈ [0x0FFF, 0x07FF], let m := BitVec.ofNat 13 n; let s := withPort p { state := 1, txMask := m, rxMask := m }
      p < 8 ∧ (s.port p).state = 1 ∧ 11 ≤ lanes (s.port p).txMask ∧ 11 ≤ lanes (s.port p).rxMask)) := by decide

def knows (v : Word) : State := { fabric := { coord := some 0, records := [(3, some { version := v, ends := [] })] } }

theorem witness_Discovery : (
    (∀ p ∈ [0, 7], let s := withPort p inUse; p < 8 ∧ (s.port p).inService = true ∧ s.fabric.coord = none ∧ s.heldPorts.erase p = [] ∧ p ≠ opposite p) ∧
    (let s : State := { fabric := { reference := some (false, 5, 0) } }
     (∀ r ∈ s.fabric.reference, betterRef (false, 4, 0) r = true) ∧ (∀ r ∈ s.fabric.reference, betterRef (true, 6, 0) r = true) ∧
       betterRef (false, 5, 0) (false, 5, 0) = false) ∧
    ((knows 4).fabric.coord ≠ some 3 ∧ (∀ r ∈ (knows 4).fabric.record (3 : Half).toNat, r.version.toNat < (5 : Word).toNat) ∧
      ∃ r ∈ (knows 4).fabric.record (3 : Half).toNat, (4 : Word).toNat ≤ r.version.toNat) ∧
    (let s : State := { fabric := { discovering := true, changed := some 7, extents := some 0 } }
     s.fabric.discovering = true ∧ s.fabric.changed = some 7 ∧ s.fabric.extents.isSome = true ∧ s.fabric.coord = none ∧ s.fabric.reference = none) ∧
    (let s : State := { fabric := { discovering := true, changed := some 7, extents := some 0, coord := some 1 } }
     s.fabric.discovering = true ∧ s.fabric.changed = some 7 ∧ s.fabric.extents.isSome = true ∧ s.fabric.coord.isSome = true)) := by
  refine ⟨by decide, ⟨?_, ?_, by decide⟩, ⟨by decide, ?_, ⟨_, rfl, by decide⟩⟩, by decide, by decide⟩
  all_goals
    rintro r ⟨⟩
    decide

def unanswered : Unanswered := { dest := 3, tag := 9, ptype := 1, tick := 0, context := 0, job := false }

theorem witness_Leaving : (
    (let s : State := { fabric := { coord := some 1 } }; s.fabric.coord = some 1 ∧ s.fabric.leaving = none ∧ s.fabric.leaves.contains 3 = false) ∧
    (let s : State := { ports := [(0, inUse), (7, inUse)], fabric := { leaving := some 5 } }
     s.fabric.leaving = some 5 ∧ ∀ p ∈ [0, 7], p < 8 ∧ (s.port p).inService = true) ∧
    (let s : State := { fabric := { unanswered := [unanswered] } }
     unanswered ∈ s.fabric.unanswered ∧ unanswered.job = false ∧
       s.fabric.unanswered.find? (fun v => v.dest = unanswered.dest && v.tag = unanswered.tag) = some unanswered) ∧
    (let s : State := { fabric := { holds := [4], unanswered := [unanswered] } }
     s.fabric.holds.contains 4 = true ∧ ∀ u ∈ s.fabric.unanswered, u.dest ≠ 4)) := by decide

theorem witness_Counter : (
    (let s : State := { clock := { parent := 7 } }; s.clock.parent ≠ 0xFF) ∧
    (∀ p ∈ [0, 7], let s := withPort p inUse; p < 8 ∧ (s.port p).inService = true) ∧
    (∀ p ∈ [0, 7], ∀ e ∈ [true, false], let s : State := { clock := { parent := p, asked := some 0, exchanged := e } }
      p < 8 ∧ s.clock.parent = p ∧ s.clock.asked = some 0 ∧ s.clock.exchanged = e ∧ s.anyArmed = false) ∧
    (let s : State := { clock := { parent := 7, asked := some 0 }, slots := [(127, { state := 2 })] }
     s.clock.exchanged = false ∧ s.anyArmed = true ∧ BitVec.ofInt 64 ((s.stamp + theta 0 640 640 s.stamp) / 64) ≠ s.clock.tick) ∧
    (∀ n ∈ [(1 : Int), -1], ({ clock := { left := n } } : State).clock.left ≠ 0) ∧
    (let s : State := { clock := { refclk := true } }; s.clock.refclk = true ∧ s.power.alive = true ∧ s.clock.holdover = false ∧
      s.clock.epochHeard = none ∧ s.clock.parent = 0xFF ∧ ∀ n ∈ [(16 : Int), -16], (s.epochOff n).natAbs ≤ 16)) := by decide
/-! ## Remote requests and answers -/

/-- A device without jobs whose context 0 has 64 MiB of GDDR7 at 0. -/
def served : State := { awake with dict := [(dkey (ctxObj 0 0) 4, 0x4000000)] }
/-- The last granule of that partition. -/
def lastIn : Nat := 0x4000000 - 64
def term (a : Nat) : ScatterTerm := { addr := a, high := false, scaleAddr := 0, fmt := 0, bits := 0x3F800000, scale := 127, weight := none, u := 0 }

theorem witness_RemoteRequests_view : ∀ b, served.view 0 0 b = some b := fun _ => rfl

theorem witness_RemoteRequests : (
    served.memoryActive = true ∧
    (∀ a ∈ [0, lastIn], served.arrives 0x01 (packet 0x01 [] a 1) = true ∧ served.localOk 0 0 a (a + 64 * bits (packet 0x01 [] a 1).arg 4 0) = true ∧
      served.lostGranule 0 0 a 64 = none ∧ served.arrives 0x02 (packet 0x02 [7] a) = true ∧
      served.localOk 0 0 a (a + (packet 0x02 [7] a).data.length) = true ∧ served.arrives 0x03 (packet 0x03 [7] a) = true ∧
      served.localOk 0 0 (a / 64 * 64) (a / 64 * 64 + 64) = true ∧ served.arrives 0x05 (packet 0x05 [7] a) = true ∧ a < coreBase ∧
      served.arrives 0x25 (packet 0x25 [7] a) = true ∧ served.arrives 0x07 (packet 0x07 [] a 1) = true ∧
      served.fabric.watches.length < 4096 ∧ (packet 0x02 [7] a).addr.toNat = a) ∧
    (served.localOk 0 0 0x4000000 0x4000001 = false ∧ served.localOk 0 0 0x4000000 0x4000040 = false) ∧
    (let d := scatterDesc 0 [term 0, term 4]; served.arrives 0x04 (packet 0x04) = true ∧ served.localOk 0 0 d.base (d.base + d.rowBytes) = true ∧
      served.lostGranule 0 0 d.base d.rowBytes = none) ∧
    (let s : State := { lcores := [(0, some lone)] }; let p := packet 0x05 [7] (coreBase + 8191)
     s.arrives 0x05 p = true ∧ coreBase ≤ p.addr.toNat ∧ lkey 0 0 ((p.addr.toNat - coreBase) / 0x100000) = 0 ∧
       s.lcore 0 = some lone ∧ (p.addr.toNat - coreBase) % 0x100000 + p.data.length ≤ lone.footprint)) := by decide

/-- A shard of group 5 that rank r owns, with a version 0 and a fifth copy slot's worth of bytes. -/
def shardOf (r : Nat) (done : Bool) : Shard :=
  { shard := 4, layer := 1, owner := r, elements := 2, group := 5, consumers := 0, cfmt := 0, optimizer := 0, copyFmt := 0, flags := 0, hyper := 0
    pushSem := 0xFFFF, pushUnit := 0, pushSpan := 0, master := 0, state := 64, copies := 128, contribution := 1024, pushAddr := 0, consumerUnit := 0
    consumerSpan := 0, lag := 0, versions := [{ v := 0, committed := done, released := [], retiredAt := none }], newest := 0, buffer := 0, early := []
    sigma := 0, nextSigma := 0, digest := 0, mismatched := false }

def gatherState (done : Bool) : State := { served with jobs := [(0, some { jobA with shards := [shardOf 0 done] })] }
def gatherPacket : Packet := packet 0x06 (leBytes 4 4 ++ leBytes 8 8) 128 0

theorem witness_ParameterGather : (∀ done ∈ [true, false], let s := gatherState done; let p := gatherPacket; let d := shardOf 0 done
    s.arrives 0x06 p = true ∧ s.job p.context = some { jobA with shards := [d] } ∧ field p.data 4 8 = 8 ∧
      (∃ j ∈ s.job p.context, j.shards.find? (fun e => e.shard = field p.data 0 4 && j.owns e && e.copies = p.addr.toNat && 8 ≤ e.slotSize) = some d ∧
        j.shards.find? (fun e => e.shard = field p.data 0 4 && j.owns e) = some d) ∧
      s.localOk 0 d.owner (p.addr.toNat + p.arg.toNat % 4 * d.slotSize) (p.addr.toNat + p.arg.toNat % 4 * d.slotSize + 8) = true ∧
      d.versions.find? (fun w => w.v = p.arg) = some { v := 0, committed := done, released := [], retiredAt := none } ∧ s.memoryActive = true ∧
      s.lostGranule 0 d.owner 128 8 = none) := by decide

/-- A fetch of the move core that waits for n bytes of tag 9. -/
def fetchOf (n : Nat) : Fetch := { held := heldCopy, asks := [{ tag := 9, addr := 0, length := n }], got := [], bytes := [] }
def fetching (n : Nat) : State :=
  { lcores := [(0, some { moveCore with fetches := [fetchOf n] })], fabric := { purposes := [(2, 9, .fetch 0)] } }
/-- What waits for an answer of device 2 with tag 9. -/
def expecting (why : Purpose) : State := { lcores := [(0, some lone)], fabric := { purposes := [(2, 9, why)] } }

theorem witness_Answers : (
    (∀ n ∈ [4, 5], let s := fetching n; let p := packet 0x10 [1, 2, 3, 4]; let x := { moveCore with fetches := [fetchOf n] }
     s.fabric.purposes.find? (fun q => q.1 = p.src && q.2.1 = p.tag) = some (2, 9, .fetch 0) ∧ s.arrives 0x10 p = true ∧ s.awaited 0 p.tag.toNat = n ∧
       (n ≤ p.data.length ∨ p.data.length < n) ∧ s.lcore 0 = some x ∧
       x.fetches.find? (fun g => g.asks.any (fun b => b.tag = p.tag.toNat)) = some (fetchOf n) ∧ (fetchOf n).asks = [{ tag := 9, addr := 0, length := n }]) ∧
    (let p := packet 0x13 [] 0 (0x1100000005); bits p.arg 39 32 ≠ 0 ∧ bits p.arg 39 32 ≠ 0x10 ∧ (fetching 4).arrives 0x13 p = true) ∧
    (∀ why ∈ [Purpose.other, .write 0 nowhere 0x34 5], let s := expecting why; let p := packet 0x11 [] 0 1
     s.arrives 0x11 p = true ∧ s.covered p = [(2, 9, why)] ∧ bits p.arg 15 0 ≠ 0 ∧ s.lcore 0 = some lone ∧ lone.syncOut = []) ∧
    ((expecting .other).arrives 0x14 (packet 0x14) = true ∧ swf (fun _ => (none : Option LCore)) (expecting .other).lcores = true) ∧
    (let s : State := {}; (packet 0x10).dest = s.coord ∧ s.fabric.purposes.find? (fun q => q.1 = (packet 0x10).src && q.2.1 = (packet 0x10).tag) = none)) := by decide

/-- Rank 0 of 4 ranks, one on each device 0 to 3. -/
def jobR : Job := { jobA with shape := 3, ranks := 4, rankMap := [0, 1, 2, 3] }
def allRanks : Word := 0x20000
def deviceBarrier : BarrierParams := { unit := 0, span := allRanks, depth := 0, count := 4 }
def arrival : Packet := packet 0x28 (leBytes 4 2 ++ leBytes 4 0 ++ leBytes 4 0x20000 ++ leBytes 4 0 ++ leBytes 4 4) 7 1
def ranked (l : Sparse Barrier := []) : State := { jobs := [(0, some jobR)], barriers := l }

theorem witness_FabricBarriers : (
    (ranked.arrives 0x28 arrival = true ∧ ranked.job 0 = some jobR ∧
      deviceBarrier = { unit := BitVec.ofNat 32 (field arrival.data 4 4), span := BitVec.ofNat 32 (field arrival.data 8 4)
                        depth := field arrival.data 12 4, count := field arrival.data 16 4 } ∧
      groupRanks jobR.shape jobR.ranks 0 allRanks = [0, 1, 2, 3] ∧ jobR.held.contains 0 = true) ∧
    (∀ n ∈ [0, 2], let e := (ranked [(bkey 0 0 7, { root := some deviceBarrier, devices := [(1, n)] })]).barrier (bkey 0 0 arrival.addr.toNat)
      e.root = some deviceBarrier ∧ (e.devices.foldl (fun n d => n + d.2) 0) + bits arrival.arg 31 0 < deviceBarrier.count) ∧
    (let e := (ranked [(bkey 0 0 7, { root := some { deviceBarrier with count := 5 } })]).barrier (bkey 0 0 arrival.addr.toNat)
     e.root = some { deviceBarrier with count := 5 } ∧ { deviceBarrier with count := 5 } ≠ deviceBarrier) ∧
    (let p := packet 0x29 (leBytes 4 0) 7 0
     ranked.arrives 0x29 p = true ∧ ranked.job 0 = some jobR ∧ jobR.held.contains (field p.data 0 4) = true ∧ (ranked.barrier (bkey 0 0 7)).phase = bit p.arg 0) ∧
    (let p := packet 0x2A (leBytes 4 0) 1023 1
     ranked.arrives 0x2A p = true ∧ ranked.job 0 = some jobR ∧ jobR.held.contains (field p.data 0 4) = true)) := by decide

/-! ## Reduction -/

def groupOf : Group :=
  { group := 5, unit := 0, span := allRanks, readySem := 3, readyCount := 1, deadline := 100, late := 0, backups := [], takes := [], ready := []
    decisions := [], held := [] }
def reducing (j : Job) : State := { jobs := [(0, some j)] }
/-- The group with the decision of step 0, that every rank contributes. -/
def decidedGroup : Group := { groupOf with decisions := [(0, [])] }
def treeJob (owner : Nat) (g : Group) (nodes : List NodeVal) : Job := { jobR with groups := [g], shards := [shardOf owner true], nodes := nodes }
/-- The operand of node i of level 0 of shard 4 in step 0. -/
def operandPacket (ty : Nat) (level : Nat) : Packet := packet ty (leBytes 4 0x3F800000 ++ leBytes 4 0x40000000) 0 (level * 2 ^ 32 + 4)
def siblingWaits (second : Bool) : NodeVal := { second := second, shard := 4, step := 0, level := 0, node := 0, values := [(0, 5), (1, 6)] }

theorem witness_Operands : (
    (∀ g ∈ [groupOf, decidedGroup], let j := treeJob 2 g []; let p := operandPacket 0x20 0
      (reducing j).job 0 = some j ∧ (∀ e ∈ j.shards, j.owns e = false) ∧ j.shards.find? (fun e => e.shard = bits p.arg 31 0) = some (shardOf 2 true) ∧
        j.group 5 = some g ∧ (reducing j).arrives 0x20 p = true ∧ (reducing j).arrives 0x27 (operandPacket 0x27 0) = true ∧
        fullStep j.earliest (bits p.arg 63 40) = 0 ∧ bits p.arg 39 32 = 0) ∧
    (groupOf.decision 0 = none ∧ decidedGroup.decision 0 = some []) ∧
    (let j := treeJob 2 decidedGroup []; let ps := j.positions decidedGroup []
     0 + 1 < treeHeight ps ∧ nodePresent ps 0 0 = true ∧ operandValues (operandPacket 0x20 0) false ≠ [] ∧
       j.held.contains (ps.getD (nodeSite ps false 1 0) { rank := 0, present := false, origin := none }).rank = true ∧
       j.partner false 4 0 0 0 (operandValues (operandPacket 0x20 0) false) = ([], j)) ∧
    (let j := treeJob 2 decidedGroup [siblingWaits false]
     (j.partner false 4 0 0 0 (operandValues (operandPacket 0x20 0) false)).1 = [(0, 5), (1, 6)] ∧
       ∀ v ∈ operandValues (operandPacket 0x20 0) false, [((0 : Nat), (5 : Word)), (1, 6)].any (fun w => w.1 = v.1) = true) ∧
    (let j := { treeJob 2 decidedGroup [] with held := [1] }; let ps := j.positions decidedGroup []
     j.held.contains (ps.getD (nodeSite ps true 1 0) { rank := 0, present := false, origin := none }).rank = true) ∧
    (∀ l ∈ [0xFE, 0xFF], let j := treeJob 0 decidedGroup []; let p := operandPacket 0x21 l
      (reducing j).arrives 0x21 p = true ∧ j.owns (shardOf 0 true) = true ∧ j.shards.find? (fun e => e.shard = bits p.arg 31 0) = some (shardOf 0 true) ∧
        fullStep j.earliest (bits p.arg 63 40) = 0 ∧ 0 < treeHeight (j.positions decidedGroup []) ∧ bits p.arg 39 32 = l)) := by decide

/-- Both operands of the root of a shard that the device owns have arrived. -/
def rootReady : Job :=
  treeJob 0 decidedGroup [{ second := false, shard := 4, step := 0, level := 0xFF, node := 0, values := [(0, 0), (1, 0)] },
    { second := false, shard := 4, step := 0, level := 0xFF, node := 1, values := [(0, 0), (1, 0)] },
    { second := true, shard := 4, step := 0, level := 0xFF, node := 0, values := [(0, 0), (1, 0)] },
    { second := true, shard := 4, step := 0, level := 0xFF, node := 1, values := [(0, 0), (1, 0)] }]

theorem witness_UpdateSlotFreed : (
    ((reducing rootReady).job 0 = some rootReady ∧ rootReady.shards.find? (fun e => e.shard = 4) = some (shardOf 0 true) ∧
      (reducing rootReady).updateReady 0 rootReady (shardOf 0 true) = true ∧ (shardOf 0 true).slotFree ((shardOf 0 true).newest + 1) = true ∧
      (rootReady.stepPositions (shardOf 0 true)).isSome = true) ∧
    (let j := treeJob 0 decidedGroup []; (reducing j).updateReady 0 j (shardOf 0 true) = false)) := by decide

def notice (ty : Nat) (backup : Bool) : Packet := packet ty (leBytes 4 1) 0 (5 + if backup then 2 ^ 32 else 0)
def openStep : Readiness := { step := 0, first := 0, members := [0], backups := [], decided := false }
def ready (d : Bool) (ms : List Nat) : Group := { groupOf with ready := [{ openStep with decided := d, members := ms }] }

/-- The job of four ranks with one group. -/
def grouped (g : Group) : Job := { jobR with groups := [g] }

theorem witness_ReadyNotice : (
    (∀ b ∈ [true, false], ∀ g ∈ [groupOf, ready false [0]], let p := notice 0x22 b; let s := reducing (grouped g)
      s.arrives 0x22 p = true ∧ s.job 0 = some (grouped g) ∧ (grouped g).group (bits p.arg 31 0) = some g ∧
        fullStep (grouped g).earliest (bits p.arg 63 40) = 0 ∧ field p.data 0 4 = 1 ∧ bit p.arg 32 = b ∧
        g.ready.any (fun q => q.step = 0 && g.lateAt q s.clock.tick) = false) ∧
    (groupOf.ready.find? (fun q => q.step = 0) = none ∧ (ready false [0]).ready.find? (fun q => q.step = 0) = some openStep ∧
      openStep.decided = false)) := by decide

theorem witness_Decide : (
    (∀ d ∈ [true, false], ∀ l ∈ [[0], [0, 1, 2, 3]], let g := ready d l; let q := { openStep with decided := d, members := l }
      (reducing (grouped g)).job 0 = some (grouped g) ∧ (grouped g).group 5 = some g ∧ (grouped g).follows = false ∧
        g.ready.find? (fun e => e.step = q.step) = some q) ∧
    ((grouped (ready false [0])).decisionFor (ready false [0]) openStep ((ready false [0]).lateAt openStep 0) = none ∧
      (ready false [0]).awaited = some openStep ∧
      (grouped (ready false [0, 1, 2, 3])).decisionFor (ready false [0, 1, 2, 3]) { openStep with members := [0, 1, 2, 3] } false = some []) ∧
    (let p := packet 0x23 (decisionBody 5 []) 0 5; let s := reducing (grouped groupOf)
     s.arrives 0x23 p = true ∧ bits p.arg 31 0 = 5 ∧ (grouped groupOf).group 5 = some groupOf ∧
       fullStep (grouped groupOf).earliest (bits p.arg 63 40) = 0 ∧ groupOf.decision 0 = none)) := by decide

def ownJob : Job := { jobR with shards := [shardOf 0 true], reports := [(0, 2, [])], bound := 1 }

def boundJob : Job := { jobA with bound := 1 }
def notedJob : Job := { jobA with commit := some (60, 0) }
def nextVersion : Version := { v := 1, committed := false, released := [], retiredAt := none }
def nextShard : Shard := { shardOf 0 true with versions := [nextVersion] }
def twoShards : Job := { jobA with shards := [shardOf 0 true, { shardOf 0 true with shard := 5 }] }
def partJob (tier : Nat) : Job := { jobA with parts := [(false, tier, 128, [1, 2])] }

theorem witness_Versions : (
    ((reducing ownJob).job 0 = some ownJob ∧ (reducing ownJob).arrives 0x24 (packet 0x24 (leBytes 4 1)) = true ∧ field (packet 0x24 (leBytes 4 1)).data 0 4 = 1) ∧
    (let p := packet 0x26 (leBytes 8 5)
     (reducing ownJob).arrives 0x26 p = true ∧ ownJob.reports.any (fun r => r.1 = p.arg && r.2.1 = p.src) = true ∧
       ownJob.reports.any (fun r => r.1 = (1 : DWord) && r.2.1 = p.src) = false) ∧
    ((reducing boundJob).job 0 = some boundJob ∧ boundJob.replicas = 0 ∧ boundJob.forced = [] ∧ (reducing boundJob).commitReady 0 boundJob boundJob.nextCommit = true)) := by decide

theorem witness_Commit : (
    ((reducing notedJob).job 0 = some notedJob ∧ notedJob.commit = some (60, 0)) ∧
    (nextVersion ∈ nextShard.versions ∧ nextVersion.v = 0 + 1) ∧
    ((reducing ownJob).arrives 0x2B (packet 0x2B (leBytes 8 0) 0 1) = true) ∧
    ((reducing twoShards).job 0 = some twoShards ∧ (twoShards.partials.filter (fun q => q.1 = 1)).length + 1 < (twoShards.shards.filter (fun d => d.layer = 1)).length) ∧
    (∀ tier ∈ [1, 4], let s := { served with jobs := [(0, some (partJob tier))] }
      s.job 0 = some (partJob tier) ∧ (partJob tier).parts = (false, tier, 128, [1, 2]) :: [] ∧ (∀ d ∈ (partJob tier).shards, (partJob tier).owns d = false) ∧
        (tier = 4 ∨ s.inPartition 0 128 (128 + 2) = true) ∧ s.host.d3.contains 0 = false ∧
        ({ s with host := { s.host with d3 := [0] } } : State).job 0 = some (partJob tier) ∧
        ({ s with host := { s.host with d3 := [0] } } : State).host.d3.contains 0 = true)) := by decide
/-! ## Jobs -/

def slotState (i : Nat) (q : Slot) : State := { slots := [(i, q)] }
/-- An image of one rank and one logical core at address 0, with its core table as the only section (R512, R513). -/
def tinyImage : Sparse Byte := store [(8, [1]), (14, [1]), (0x10, [1]), (0x40, [2]), (0x44, [1]), (0x48, [0x80]), (0x90, [8])]
def tiny : State := { served with
  mem := tinyImage
  slots := [(0, { state := 2, role := 0x10000 })] }

theorem witness_Acceptance : (
    (let s := slotState 127 { state := 2, launch := 500001 }
     (15 < 16 ∧ 7 < 8) ∧ s.job 15 = none ∧ s.waits 15 7 = true ∧ (s.slot 15 7).leads = false ∧ s.mapPresent [0] = true ∧
       s.clock.tick.toNat + 500000 < (s.slot 15 7).launch.toNat) ∧
    (let s := slotState 127 { state := 2, launch := 500001 }
     s.eligible 15 7 = true ∧ (s.until ((s.slot 15 7).launch.toNat - 500000)).wakeMemory.useMemory.imageGood 15 7 = false) ∧
    (∀ n ∈ [2, 4], let s := slotState 127 { state := n }; 2 ≤ (s.slot 15 7).state ∧ (s.slot 15 7).state ≤ 4 ∧ s.job 15 = none)) := by decide

/-- The seat of the tiny image's job. -/
def tinySeat : Seat := tiny.seat (tiny.slot 0 0) (tiny.img 0 8 4) (tiny.shieldOf 0).1 [0]

theorem witness_PlaceSlot : tinySeat.held ≠ [] ∧
    tiny.findRoom 0 (fun t => t.placeCores 0 0 (tiny.img 0 0x0E 2) tinySeat.held (bit (tiny.reg (ctxObj 0 0) 1) 3) (fun _ _ => none)) =
      .fits [{ rank := 0, lcore := 0, phys := 0, fold := false }] :=
  ⟨by decide, by rfl⟩

theorem witness_PlanMemory : tiny.planMemory 0 0 tinySeat.map tinySeat.lead tinySeat.held ≠ none := by decide

def acceptedState (j : Job) : State := { jobs := [(15, some j)], slots := [(120, { state := 3, launch := 600000 })] }
def confirmedJob : Job := { jobA with confirmed := some 600000, accepted := [0] }

theorem witness_Launch : (
    ((acceptedState jobA).acceptedJob 15 0 = some jobA ∧ jobA.jobLead = (acceptedState jobA).coord ∧ jobA.accepted.contains 3 = false ∧ jobA.confirmed = none) ∧
    (let j := { jobA with accepted := [0] }; (acceptedState j).acceptedJob 15 0 = some j ∧
      ((acceptedState j).coord :: (acceptedState j).everyone 15 j).all (fun c => j.accepted.contains c) = true) ∧
    ((acceptedState confirmedJob).acceptedJob 15 0 = some confirmedJob ∧
      confirmedJob.confirmed = some ((acceptedState confirmedJob).slot 15 0).launch ∧ (acceptedState confirmedJob).waits 15 0 = false)) := by decide

/-- A ledger record of a type and step. -/
def recordBytes (ty step : Nat) : List Byte := leBytes 2 ty ++ leBytes 2 0 ++ leBytes 4 40 ++ leBytes 8 step ++ leBytes 16 0 ++ leBytes 8 7
def watcher : Job := { jobR with watches := [{ e := 0, next := 0, run := 0 }], taps := [(1, 1, 0)], bound := 1, scalePending := true }
def ledJob : Job := { jobA with lead := false }
/-- A pre-empted job of context 15 whose cores are free. -/
def resting : State := { mem := tinyImage, jobs := [(15, some jobA)], slots := [(120, { state := 4, preempted := true })] }

theorem witness_JobsEnd : (
    ((reducing jobR).job 0 = some jobR ∧ jobR.lead = true ∧ jobR.rankMap.contains 1 = true ∧ jobR.replicas = 0 ∧
      parseRecords 1 (recordBytes 0x11 3) = [(0x11, 3, leBytes 8 7)] ∧ 0x11 ≠ 0x10) ∧
    ((reducing ledJob).job 0 = some ledJob ∧ ledJob.lead = false) ∧
    ((reducing watcher).job 0 = some watcher ∧ watcher.lead = true ∧ 2 ∈ watcher.devices ∧ (2 : Half) ≠ 1 ∧ watcher.watches.isEmpty = false ∧
      watcher.watchGot.find? (fun g => g.1 = 0) = none ∧ (reducing watcher).holds 0 255 = true ∧ watcher.taps.isEmpty = false ∧
      watcher.tapGot.find? (fun g => g.1 = 0) = none)) := by decide

theorem witness_JobResume : (
    (resting.job 15 = some jobA ∧ resting.newPlaces 15 jobA = some [{ rank := 0, lcore := 0, phys := 0, fold := false }]) ∧
    resting.resumable 15 = true ∧ ∀ i, i < 16 → resting.precedes i 15 = false) := by decide

/-- A job of two replicas, whose lead is this device. -/
def shielded : Job := { jobA with replicas := 2, interval := 1, replicaMap := [0, 1] }
def atShield (j : Job) : State := { jobs := [(15, some j)] }
def digestsOf (a b : DWord) : Job := { shielded with shieldDigests := [(0, 5, a), (1, 5, b)] }

theorem witness_Replicas : (
    ((atShield shielded).job 15 = some shielded ∧ shielded.lead = true ∧ shielded.replicas ≠ 0 ∧ shielded.jobLead = (atShield shielded).coord ∧
      1 ≠ shielded.replica ∧ shielded.comparison 5 = true ∧ shielded.digestBy 1 5 = none ∧ shielded.disputed = none ∧ shielded.differs 5 = none) ∧
    ((digestsOf 7 7).disputed = none ∧ (digestsOf 7 7).differs 5 = some false) ∧
    (let j := { shielded with lead := false }; (atShield j).job 15 = some j ∧ j.replicas ≠ 0 ∧ j.lead = false) ∧
    (shielded.replicaMap ≠ [] ∧ (5 : DWord) = 5 ∧ (5 : DWord) + 1 ≠ shielded.start) ∧
    ({ shielded with standby := true }.standby = true)) := by decide

theorem witness_StatusQueries : (
    ((acceptedState jobA).leadSlot 15 ≠ none) ∧
    (let s := slotState 127 { state := 4 }; s.interrupted 15 7 = true) ∧
    (let s : State := { power := { queries := [(15, 7, 60)] } }; s.power.queries.find? (fun q => q.1 = 15 && q.2.1 = 7) = some (15, 7, 60))) := by decide

/-! ## Test manager, throttle and heat -/

def tile0 : TestTile := { tile := 4, narrow := false, budget := 10, expected := 7, withdrawn := false }
/-- A device whose test manager holds one tile, and whose pods p have clocks. -/
def testing (clocked : List Nat) : State := { radish := { tiles := [tile0] }, pods := clocked.map (fun p => (p, { clocked := true })), dict := [] }

set_option maxRecDepth 20000 in
theorem witness_TileStart : (
    State.reset.reg 0x3100 1 = 3 ∧ (0 < 1152 ∧ (testing [0, 1]).radish.tiles.find? (fun q => q.tile = 4) = some tile0) ∧ (testing [0, 1]).turn 0 4 tile0 = true ∧
      ∃ d ∈ (testing [0, 1]).partner false 0, (testing [0, d / 18]).clocked 0 = true ∧ (testing [0, d / 18]).clocked d = true ∧ (testing [0]).clocked d = false) := by decide +kernel

/-- The pair of cores 0 and 18 runs the tile. -/
def running (x : Core) : State := { radish := { tiles := [tile0], running := some (0, 18, 4) }, cores := [(0, { x with tile := true }), (18, { tile := true })] }

theorem witness_TileEnd : (
    ((running {}).radish.running = some (0, 18, 4) ∧ (running {}).radish.tiles.find? (fun q => q.tile = 4) = some tile0 ∧ ((running {}).core 18).retest = none ∧
      ((running {}).core 0).retest = none ∧ none ≠ some tile0.expected ∧ some 8 ≠ some tile0.expected ∧ (8 : DWord) ≠ tile0.expected) ∧
    (let s := running { retest := some (4, 36) }
     (s.core 0).retest = some (4, 36) ∧ (s.core 0).retired = false ∧ (∀ i, i < 16 → s.job i = none) ∧ (s.podSlots (0 / 18)).contains (0 % 18) = true ∧
       s.sprouts (0 / 18) = 16 :: [17])) := by decide

theorem witness_Cores : (
    (∀ p ∈ [0, 63], let s : State := { pods := [(p, { startAt := some 60 })] }; p < 64 ∧ (s.pod p).startAt = some 60) ∧
    (∀ p ∈ [0, 63], let s : State := { pods := [(p, { clocked := true, idleSince := some 60 })] }; p < 64 ∧ (s.pod p).clocked = true ∧ (s.pod p).idleSince = some 60) ∧
    (∀ c ∈ [0, 1151], c < 1152 ∧ (State.reset.core c).retired = false ∧ (State.reset.core c).overdue = false) ∧
    (State.reset.firmware.roles.getD 0 none = some 0 ∧ State.reset.firmware.moving = false ∧
      State.reset.firmware.roles.findIdx? (fun q => q = some 8) = some 8 ∧ State.reset.firmware.roles.getD 8 none = some 8) ∧
    (let f : Firmware := { roles := (List.range 8).map some ++ [none] }; f.roles.getD 7 none = some 7 ∧ f.roles.findIdx? (fun q => q = some 8) = none)) := by decide

theorem witness_Throttle : (
    (State.reset.power.alive = true ∧ State.reset.pins.throttleN = false ∧ State.reset.power.thermal = 0) ∧
    (let s : State := { pins := { throttleN := true, throttleSince := some 5 } }; s.pins.throttleN = true ∧ s.pins.throttleSince = some 5) ∧
    ((reachesC 100 [1600] || reachesC 95 []) = true ∧ (reachesC 100 [] || reachesC 95 [1520]) = true ∧ (reachesC 100 [1599] || reachesC 95 [1519]) = false) ∧
    (∀ n ∈ [1, 2], let s : State := { power := { thermal := n } }; s.power.thermal ≠ 0 ∧ s.power.thermal ≤ 2 ∧ withinC 95 [1520] = true ∧ withinC 90 [1440] = true) ∧
    (withinC 100 [1600] = true ∧ (withinC 95 [1600] && withinC 90 []) = false ∧ reachesC 105 [1680] = true ∧ reachesC 105 [1679] = false ∧
      (720 : Int) < 721)) := by decide
/-! ## Resets and start-up -/

theorem witness_Resets : (
    (awake.power.alive = true ∧ awake.down = false ∧ ({ power := { heldReset := true } } : State).down = true) ∧
    (({ power := { phase := 1, control := true } } : State).power.alive = true) ∧
    ((2 ≤ 2 ∧ 2 ≤ 16) ∧ ({ power := { saving := some 1 } } : State).power.saving = some 1) ∧
    (let s : State := { power := { saving := some 1 } }; s.power.waitSupply = false ∧ s.power.heldReset = false ∧ s.power.failedAt = none ∧ s.power.phase = 0 ∧
      s.power.step = 0) ∧
    (let s : State := { power := { waitSupply := true } }; s.power.waitSupply = true ∧ s.power.saving = none ∧ s.power.alive = true ∧ s.power.heldReset = false) ∧
    (let s : State := { power := { heldReset := true } }; s.power.alive = true ∧ s.power.saving = none ∧ s.power.waitSupply = false ∧ s.power.step = 0)) := by decide

/-- Start-up step n is in progress. -/
def stepping (n : Nat) : State := { power := { step := n, stepBegan := some 0, control := 4 ≤ n } }

theorem witness_StartUp : (
    (∀ n ∈ [0, 1, 10, 11, 12, 13], (stepping n).starting = true ∧ (stepping n).power.step = n ∧ (stepping n).stepMayEnd n = true ∧ (stepping n).badImage n = false ∧
      (stepping n).power.stepBegan = some 0) ∧
    (let s := { stepping 12 with fabric := { discovering := true } }; s.starting = true ∧ s.stepMayEnd 12 = false) ∧
    (let s := { stepping 1 with firmware := { slotA := { bytes := [0] } } }; s.starting = true ∧ s.badImage 1 = true) ∧
    (let s : State := { power := { failedAt := some 0 } }; s.power.alive = true ∧ s.power.failedAt = some 0 ∧ s.power.saving = none ∧ s.power.waitSupply = false ∧
      s.power.heldReset = false) ∧
    (({ power := { phase := 2 } } : State).power.phase = 2 ∧ State.reset.power.phase ≠ 2)) := by decide

theorem witness_HostPins : (
    (State.reset.down = false ∧ State.reset.power.alive = true ∧ State.reset.host.asks = [] ∧ State.reset.power.control = false) ∧
    (({ power := { saving := some 1 } } : State).down = true) ∧
    (let s : State := { power := { control := true, phase := 1 } }; s.power.control = true ∧ s.power.phase = 1) ∧
    ((stepping 9).power.control = true ∧ (stepping 9).power.phase ≠ 1 ∧ (stepping 9).power.step ≤ 9 ∧ 9 < (stepping 10).power.step) ∧
    (hosted.host.state = 2 ∧ hosted.host.state ≠ 0 ∧ hosted.job 15 = none ∧ hosted.host.tail = []) ∧
    (∀ n ∈ [2, 3, 4, 5, 6], let s := slotState 127 { state := n, role := 0x10000 }
      (s.slot 15 7).state = n ∧ (s.slot 15 7).leads = true ∧ s.job 15 = none)) := by decide

/-! ## The dictionary -/

/-- A device that serves the whole dictionary. -/
def serving : State := { power := { control := true, phase := 1, memory := 2 }, host := { state := 2 } }
/-- The field at a sub-entry is f. -/
def isField (idx sub lo n acc : Nat) : Bool :=
  match fieldAt idx sub with
  | some f => f.lo = lo && f.n = n && f.acc = acc
  | none => false

set_option maxRecDepth 10000 in
theorem witness_Reads : (
    (∀ m ∈ [0, 16], serving.hears m 0x0001 = true) ∧
    (serving.hears 0 0x0300 = true ∧ isField 0x0300 1 1 1 0 = true ∧ isField 0x0300 6 6 2 1 = true ∧ isField 0x0300 7 6 2 1 = true ∧
      serving.latched 0 0x0300 6 7 = none ∧ State.latched { serving with masters := [(0, { latch := some { index := 0x0300, sub := 6, parts := [(6, 1), (7, 2)] } })] } 0 0x0300 6 7 = some 2) ∧
    (reaches 16 0x0300 = false ∧ reaches 0 0x0300 = true ∧ State.reset.serves 0xA000 = false ∧ fieldAt 0x0300 255 = none ∧ reaches 0 0xA000 = true) ∧
    (blockOf 0x9001 = some (0x9000, 64, 8) ∧ (0x9001 - 0x9000) / 64 + 8 ≤ 8 ∧ isField 0x9001 1 1 2 0 = true ∧ (fieldAt 0x9001 1).any (fun f => f.agg ≠ 0) = true) ∧
    (blockOf 0x9000 = some (0x9000, 64, 8) ∧ (fieldAt 0x9000 5).any (fun f => f.agg = 2 && f.ty ≠ 3 && f.lo = 5) = true)) := by decide

def wop (op idx sub : Nat) : WOp := { op := op, index := idx, sub := sub, instances := 1, value := 0, clean := true }
def frameOf (remote : Bool) : WFrame := { source := 7, seq := 3, remote := remote, target := 5, span := 0, ops := [wop 1 0x0300 1], clean := true }
def reply : WReply := { dest := 7, kind := 2, seq := 3, result := 0, entries := [] }
/-- 2,048 accesses wait. -/
def full : State := { serving with serial := { arrivals := List.replicate 2048 (0, 1, .bar false 0 4 0) } }
def forwarded (object : Bool) : Forwarded := { m := 0, frame := frameOf true, object := object, tick := 0, waiting := [(2, 9)], answers := [] }
def forwarding (object : Bool) : State := { fabric := { purposes := [(2, 9, .frame 0)] }, serial := { forwarded := [forwarded object] } }

set_option maxRecDepth 20000 in
theorem witness_Frames : (
    ((15 < 16 ∧ 2 ^ 26 - 4 < 2 ^ 26) ∧ serving.takesAccess 15 = true ∧ serving.holdsBack = false ∧ full.holdsBack = true ∧ State.reset.takesAccess 15 = false) ∧
    (let s := { serving with serial := { kept := [(7, 3, 0, reply)] } }; s.repeated (frameOf false) = some reply) ∧
    (serving.power.alive = true ∧ serving.repeated (frameOf false) = none ∧ full.repeated (frameOf false) = none ∧
      (badFrame (frameOf false) || serving.isLocal (frameOf false)) = true ∧ (badFrame (frameOf true) || serving.isLocal (frameOf true)) = false) ∧
    (serving.arrives 0x08 (packet 0x08) = true ∧ serving.serial.arrivals = []) ∧
    ((({ serving with serial := { arrivals := [(0, 1, .bar false 0 4 0)] } } : State).until 25).dueArrivals.map (fun a => a.2.2.size)).sum ≤ 1024) := by decide

theorem witness_Forwarded : (
    (let s := forwarding false; let p := packet 0x12
     s.arrives 0x12 p = true ∧ s.fabric.purposes.find? (fun r => r.1 = p.src && r.2.1 = p.tag) = some (p.src, p.tag, .frame 0) ∧
       s.serial.forwarded.find? (fun q => q.waiting.contains (p.src, p.tag)) = some (forwarded false) ∧ (forwarded false).waiting = [(p.src, p.tag)]) ∧
    (∀ o ∈ [true, false], let s := forwarding o; s.power.alive = true ∧ s.serial.forwarded.find? (fun q => q.waiting.any (fun w => w.2 = 9)) = some (forwarded o) ∧
      (forwarded o).object = o ∧ (forwarded o).frame.span = 0 ∧ (forwarded o).answers = [] ∧ (forwarded o).frame.ops = [wop 1 0x0300 1])) := by decide

/-- A write of a whole value passes its rule. -/
def passes (s : State) (m idx sub : Nat) (v : Nat) : Bool :=
  match fieldAt idx sub with
  | some f => (ruleOf m idx f v s).2 = 0 && v &&& f.rsv = 0 && f.acc ≠ 0
  | none => false

theorem witness_Writes : (
    (∀ m ∈ [0, 1], serving.hears m 0x0430 = true ∧ isField 0x0430 1 1 2 1 = true ∧ isField 0x0430 2 1 2 1 = true ∧ serving.hears m 0x0300 = true ∧
      isField 0x0300 1 1 1 0 = true) ∧
    (passes serving 0 0x0430 2 7 = true ∧ (fieldAt 0x0430 2).map (fun f => serving.wholeValue 0 0x0430 f 0) = some 0 ∧
      passes { serving with masters := [(0, { held := [{ index := 0x0430, sub := 1, parts := [(1, 7)] }] })] } 0 0x0430 1 7 = true) ∧
    (serving.hears 0 2 = true ∧ (fieldAt 2 1).map (fun f => decide (serving.wholeValue 0 2 f 0x20000 &&& f.rsv ≠ 0)) = some true ∧ isField 2 1 1 1 1 = true) ∧
    (serving.hears 0 0x0410 = true ∧ isField 0x0410 4 4 1 1 = true ∧ passes serving 0 0x0410 4 5 = true) ∧
    (passes serving 0 (slotObj 15 7 1) 2 (2 ^ 63) = true ∧ isField (slotObj 15 7 1) 1 1 2 1 = true)) := by decide

/-- A slot of context 15 that may be armed, and the master of its function. -/
def armable (n : Nat) (rerun : Bool) : State :=
  { serving with slots := [(127, { state := n, rerun := rerun, launchReg := 4992 + 96, role := 0x10000 })], dict := [(dkey (ctxObj 15 0) 1, 1)] }

theorem witness_SlotCommands : (
    (∀ m ∈ [0, 16], (armable 1 false).hears m (slotObj 15 7 0) = true) ∧
    ((armable 1 false).armOk 15 ((armable 1 false).slot 15 7) = true ∧ ((armable 1 false).slot 15 7).state = 1) ∧
    ((armable 3 true).armOk 15 ((armable 3 true).slot 15 7) = true ∧ ((armable 3 true).slot 15 7).rerun = true ∧ (armable 3 true).acceptedJob 15 7 = none) ∧
    (serving.armOk 15 (serving.slot 15 7) = false) ∧
    (∀ n ∈ [0, 1, 2, 3, 4, 5, 6], ((armable n false).slot 15 7).state = n) ∧
    (∀ q ∈ [(2, 1, 2), (4, 3, 2), (6, 5, 2), (8, 7, 2)], serving.hears 16 (slotObj 15 7 1) = true ∧ isField (slotObj 15 7 1) q.1 q.2.1 q.2.2 1 = true ∧
      (fieldAt (slotObj 15 7 1) q.1).map (fun f => serving.wholeValue 16 (slotObj 15 7 1) f 0 &&& f.rsv) = some 0) ∧
    ((fieldAt (slotObj 15 7 1) 9).map (fun f => decide (f.lo + f.n - 1 = 9) && decide (f.acc = 1)) = some true)) := by decide

theorem witness_Partitions : (
    (∀ sub ∈ [3, 5, 0xB, 0xD], sub ≤ 0xD ∧ serving.hears 1 (ctxObj 15 0) = true ∧ isField (ctxObj 15 0) sub (sub - 1) 2 1 = true) ∧
    (serving.partitionOk 15 0 0x4000000 0 = true ∧ serving.partitionOk 15 0 0 0x4000000 = true ∧ serving.partitionOk 15 0 1 0 = false) ∧
    (let x : Master := { aOp := 0x05030001, aInstances := 1 }; let s : State := { serving with masters := [(1, x)] }
     (s.master 1).aState ≠ 1 ∧ (s.master 1).aggregateFrame.ops = [wop 5 0x0300 1] ∧ s.isLocal (s.master 1).aggregateFrame = true ∧
       (({ serving with masters := [(1, { aState := 1 })] } : State).master 1).aState = 1)) := by decide

/-- A device whose core c's load object asks for one word from an address. -/
def loadable (c src : Nat) : State := { serving with dict := [(dkey (coreObj c 4) 2, BitVec.ofNat 32 src), (dkey (coreObj c 4) 3, BitVec.ofNat 32 (src / 2 ^ 32)), (dkey (coreObj c 4) 5, 1)] }

theorem witness_CoreCommands : (
    (∀ c ∈ [0, 1151], ∀ src ∈ [0x2E80000000 - 16, 0x2E80000000 - 15], let s := loadable c src
      c < 1152 ∧ s.hears 1 (coreObj c 4) = true ∧ s.reg64 (coreObj c 4) 2 = src ∧ (s.reg (coreObj c 4) 5).toNat = 1 ∧ s.executes c 0 = false) ∧
    (let s := { serving with cores := [(1151, { res0 := some 0, res1 := some 1 })] }; s.executes 1151 0 = true) ∧
    (∀ n ∈ [0, 1], n < 2 ∧ serving.hears 1 (coreObj 1151 (1 + n)) = true) ∧
    (serving.hears 1 (coreObj 1151 5) = true ∧ serving.hears 1 (ctlObj 23 2) = true ∧ serving.hears 1 (cxlObj 1 2) = true ∧ serving.hears 1 (portObj 7 3) = true)) := by decide

/-! ## Staged bytes -/

def staging (m : Nat) (bs : List Byte) : State := { serving with radish := { staging := some (m, bs) } }
def slice : List Byte := leBytes 8 0 ++ leBytes 8 1

theorem witness_Packages : (
    (serving.stagingOf 1 ≠ 8 ∧ serving.stagingOf 1 ≠ 0 ∧ (staging 0 []).stagingOf 1 = 8 ∧ (staging 1 [1]).radish.staging = some (1, [1]) ∧
      ([1] : List Byte).length + 4 ≤ packageLimit ∧ ((staging 1 []).packageCheck []).1 ≠ 2 ∧ packageVersion [] ≤ (staging 1 []).radish.version) ∧
    (let s := withPort 7 inUse; 7 < 8 ∧ (s.port 7).inService = true ∧ packageLimit ≤ packageLimit ∧ 0 + slice.length ≤ 16 ∧ slice ≠ [] ∧
      s.sliceWanted 0 slice = true ∧ s.sliceWanted 16 slice = false ∧ gatherSlices (addSlice [] 0 slice) 17 = none ∧
      gatherSlices (addSlice [] 0 slice) 16 = some slice)) := by decide

/-- What the checks of a package ask beside its hash and its signature, which are uninterpreted (log 10): with them, a package of one tile is
good. -/
def goodPackage (tile : List Byte) (hash : List Byte) : List Byte :=
  leBytes 4 0x50524845 ++ leBytes 2 1 ++ leBytes 2 1 ++ leBytes 8 1 ++ leBytes 4 1 ++ leBytes 4 0 ++ leBytes 8 tile.length ++ hash ++ leBytes 48 0 ++ tile ++ leBytes 96 0

set_option maxRecDepth 20000 in
theorem witness_PackageHeader : (goodPackage [] (leBytes 48 0)).length = 128 + 96 ∧ packageVersion (goodPackage [] (leBytes 48 0)) = 1 ∧
    packageBody (goodPackage [7] (leBytes 48 0)) = [7] := by decide

theorem witness_Calibration : (
    (serving.calib.state = 0 ∧ (0 : Word) ≠ unlockValue ∧ serving.calibFor 1 ≠ 0) ∧
    (let s := { serving with calib := { state := 1, master := 1, written := some 5 } }
     s.calibFor 1 = 0 ∧ s.calibFor 0 ≠ 0 ∧ s.calib.state = 1 ∧ s.calib.written = some 5) ∧
    (0x0810 ≤ 0x0810 ∧ 0x0ABF < 0x0AC0 ∧ 4 ≤ calibSubs 0x0810 ∧ 17 ≤ calibSubs 0x0ABF) ∧
    (let s := { serving with calib := { state := 2, staged := [(dkey 0x0810 1, some 5)] } }
     s.calib.state = 2 ∧ swf (fun _ => (none : Option Word)) s.calib.staged = true ∧
       sget (fun _ => (none : Option Word)) s.calib.staged (dkey 0x0810 1) = some 5)) := by decide

def updating (n : Nat) (bs : Option (List Byte)) (pairs : Nat := 0) : State :=
  { serving with firmware := { state := n, staging := bs.map (fun b => (1, b)), pairs := pairs, since := some 5, trialSince := some 5 }, dict := [(dkey 0x3000 8, 60)] }
/-- The header of an image of no body bytes, of three empty components, with a key that is valid. -/
def headerBytes : List Byte :=
  leBytes 4 0x57464845 ++ leBytes 2 1 ++ leBytes 2 1 ++ leBytes 4 0x4100 ++ leBytes 4 0xFFFF0000 ++ leBytes 112 0 ++ leBytes 32 1 ++ leBytes 32 2 ++ leBytes 32 3 ++
    leBytes 288 0

set_option maxRecDepth 20000 in
theorem witness_Updates : (
    (∀ n ∈ [0, 2], (updating n none).firmware.state < 3 ∧ (updating n none).firmware.stagingOf 1 ≠ 8 ∧ (updating n none).firmware.stagingOf 1 ≠ 0) ∧
    (3 ≤ (updating 3 none).firmware.state ∧ (updating 1 (some [])).firmware.stagingOf 0 = 8) ∧
    ((updating 1 (some [])).firmware.staging = some (1, []) ∧ ([] : List Byte).length < 508 ∧ bodyGood [] = false) ∧
    (headerBytes.length = 512 ∧ imageLength headerBytes = 512 ∧ (updating 1 none).headerCheck (headerBytes.take 508 ++ leBytes 4 0) = 5) ∧
    (imageLength (headerBytes.take 32 ++ leBytes 8 1 ++ headerBytes.drop 40) = 513)) := by decide

set_option maxRecDepth 20000 in
/-- With signatures that hold, the header passes (the signature check is uninterpreted, log 10). -/
theorem witness_HeaderPasses (h : ∀ k m g, Config.signatureValid k m g = true) :
    State.headerCheck { firmware := { valid := 1 } } headerBytes = 1 := by
  simp only [State.headerCheck, h]
  decide

set_option maxRecDepth 20000 in
/-- With a hash of its empty body in its header, the body of an image is good (the hash is uninterpreted, log 10). -/
theorem witness_BodyGood (h : Config.sha384 [] = leBytes 48 0) : bodyGood headerBytes = true := by
  have hd : headerBytes.drop 512 = [] := by decide
  simp only [bodyGood, hd, h]
  decide

theorem witness_Handover : (
    ((updating 2 none).firmware.state = 2 ∧ (updating 2 none).power.phase ≠ 2 ∧
      field ((updating 2 none).firmware.image (!(updating 2 none).firmware.boot)) 0x068 8 ≤ (updating 2 none).firmware.version) ∧
    (let s := { updating 2 none with firmware := { state := 2, slotB := { bytes := leBytes 104 0 ++ leBytes 8 1 } } }
     s.firmware.version < field (s.firmware.image (!s.firmware.boot)) 0x068 8) ∧
    (let s := { updating 4 none with power := { phase := 2 } }; s.firmware.state = 4 ∧ s.power.phase = 2) ∧
    (∀ n ∈ [3, 5], ∀ q ∈ [0, 3, 4], let s := updating n none q
      s.power.control = true ∧ s.firmware.moving = true ∧ s.firmware.reversing = false ∧ s.firmware.pairs = q ∧ s.firmware.since = some 5 ∧ s.firmware.switches = 0) ∧
    (let s := updating 4 none; s.firmware.state = 4 ∧ s.reg 0x3000 8 ≠ 0 ∧ s.firmware.trialSince = some 5 ∧ s.power.phase ≠ 2) ∧
    (∀ m ∈ [0, 16], (serving.master m).aStat ≠ 1 ∧ (({ serving with masters := [(m, { aStat := 1 })] } : State).master m).aStat = 1)) := by decide
/-! ## Ill-formed commands -/

/-- Rows whose word is their own by opcode alone, and rows whose op field tells them apart from their neighbours: the constructor, its opcode, an op
of its own and one of a neighbour. -/
def plainWords1 : List ((Nat → IWord → Instr) × Nat) :=
  [(.loop, 0x01), (.jump, 0x02), (.bankswap, 0x03), (.yield, 0x04),
    (.halt, 0x05), (.mwt, 0x10), (.mstr, 0x11), (.mout, 0x12),
    (.mswap, 0x13), (.vdiv, 0x22), (.vsqrt, 0x23), (.vcvt, 0x24),
    (.vtab, 0x25), (.vtopk, 0x28), (.vscale, 0x2A), (.dcopy, 0x30),
    (.dxpose, 0x35), (.dpref, 0x33), (.sarm, 0x40), (.ssig, 0x43)]
def plainWords2 : List ((Nat → IWord → Instr) × Nat) :=
  [(.swait, 0x42), (.sdec, 0x44)]

def plainWords : List ((Nat → IWord → Instr) × Nat) := plainWords1 ++ plainWords2
def opWords1 : List ((Nat → IWord → Instr) × Nat × List (Nat × Nat) × List (Nat × Nat)) :=
  [(.vadd, 0x20, [(0, 48)], [(1, 48)]), (.vaddSubtract, 0x20, [(1, 48)], [(0, 48)]), (.vfma, 0x21, [(0, 48)], [(1, 48)]), (.vfmaMultiply, 0x21, [(1, 48)], [(0, 48)]),
    (.vfmaSubtract, 0x21, [(2, 48)], [(0, 48)]), (.vtabd, 0x26, [(0, 48)], [(1, 48)]), (.vtabdProduct, 0x26, [(1, 48)], [(0, 48)]), (.vred, 0x27, [(0, 43)], [(1, 43)]),
    (.vredRows, 0x27, [(1, 43)], [(0, 43)]), (.vrngInt, 0x29, [(0, 48)], [(1, 48)]), (.vrngUniform, 0x29, [(1, 48)], [(0, 48)]), (.vrngThreshold, 0x29, [(2, 48)], [(0, 48)]),
    (.dgath, 0x31, [(0, 50)], [(1, 50)]), (.dgathPooledSum, 0x31, [(1, 50)], [(0, 50)]), (.dgathPooledMean, 0x31, [(2, 50)], [(0, 50)]), (.dscat, 0x32, [(0, 50)], [(1, 50)]),
    (.dscatAdd, 0x32, [(1, 50)], [(0, 50)]), (.dremBroadcast, 0x34, [(0, 50)], [(1, 50)]), (.dremRead, 0x34, [(1, 50)], [(0, 50)]), (.dremShardedGather, 0x34, [(2, 50)], [(0, 50)])]
def opWords2 : List ((Nat → IWord → Instr) × Nat × List (Nat × Nat) × List (Nat × Nat)) :=
  [(.dremFabricPooledGather, 0x34, [(3, 50)], [(0, 50)]), (.dremShardedScatterAdd, 0x34, [(4, 50)], [(0, 50)]), (.dremParameterGather, 0x34, [(5, 50)], [(0, 50)]), (.sarr, 0x41, [(0, 110)], [(1, 110)]),
    (.sarrArrive, 0x41, [(1, 110)], [(0, 110)]), (.sarrWait, 0x41, [(2, 110)], [(0, 110)])]

def opWords : List ((Nat → IWord → Instr) × Nat × List (Nat × Nat) × List (Nat × Nat)) := opWords1 ++ opWords2
/-- A core that does not exist, another opcode and a neighbour's op are refused. -/
theorem test_wellFormed_words : (
    plainWords.all (fun r => !(r.1 1152 (word r.2 [])).wellFormed && !(r.1 0 (word 0 [])).wellFormed) = true ∧
    opWords.all (fun r => !(r.1 1152 (word r.2.1 r.2.2.1)).wellFormed && !(r.1 0 (word 0 r.2.2.1)).wellFormed &&
      !(r.1 0 (word r.2.1 r.2.2.2)).wellFormed) = true ∧
    (Instr.undefinedOpcode 0 (word 0 [])).wellFormed = true ∧ (Instr.undefinedOpcode 0 (word 1 [])).wellFormed = false ∧
    (Instr.undefinedOpcode 1152 (word 0 [])).wellFormed = false) := by decide +kernel

/-- Each row that a packet brings, with its type. -/
def packetRows1 : List (Nat × (Packet → Instr)) :=
  [(0x01, fun p => .read p), (0x02, fun p => .write p), (0x03, fun p => .partialWrite p), (0x04, fun p => .scatterAdd p 0 []),
    (0x05, fun p => .broadcastDelivery p), (0x06, fun p => .parameterGather p), (0x07, fun p => .prefetchWatch p), (0x08, fun p => .dictionaryRequest p 0 (frameOf false)),
    (0x10, fun p => .readData p), (0x11, fun p => .completion p), (0x12, fun p => .dictionaryAnswer p), (0x13, fun p => .errorAnswer p),
    (0x14, fun p => .generationNotice p), (0x28, fun p => .barrierDeviceArrival p), (0x29, fun p => .barrierReleaseMessage p), (0x2A, fun p => .remoteSemaphoreSignal p)]
def packetRows2 : List (Nat × (Packet → Instr)) :=
  [(0x20, fun p => .nodeOperand p 0), (0x27, fun p => .nodeOperandSecondTree p 0), (0x21, fun p => .rootOperand p false), (0x22, fun p => .readyNotice p),
    (0x23, fun p => .decision p), (0x24, fun p => .release p), (0x25, fun p => .versionPush p), (0x26, fun p => .completionReport p),
    (0x26, fun p => .commitNotice p), (0x2B, fun p => .ratioPartial p)]

def packetRows : List (Nat × (Packet → Instr)) := packetRows1 ++ packetRows2
/-- Another type, and a context that does not exist, are refused. -/
theorem test_wellFormed_packets : packetRows.all (fun r => !(r.2 (packet 0x7F)).wellFormed &&
    !(r.2 { packet r.1 with context := 16 }).wellFormed) = true := by decide +kernel

/-- Each bound of a unit number: the first number that does not exist, and the command of a number. -/
def bounded1 : List (Nat × (Nat → Instr)) :=
  [(1152, fun n => .tileSwapEffect n), (1152, fun n => .passAdmitted n), (1152, fun n => .activityRise n 0), (2, fun n => .activityRise 0 n),
    (1152, fun n => .activityFall n 0), (2, fun n => .activityFall 0 n), (1152, fun n => .moutRowRead n 0), (2, fun n => .moutRowRead 0 n),
    (1152, fun n => .bankLoadDone n 0), (2, fun n => .bankLoadDone 0 n), (1152, fun n => .tokenWaitEnd n), (1152, fun n => .prefetchRefetchDone n),
    (16, fun n => .barrierArrival n 0 0 0), (65536, fun n => .barrierArrival 0 n 0 0), (1024, fun n => .barrierArrival 0 0 n 0), (256, fun n => .barrierArrival 0 0 0 n),
    (16, fun n => .barrierRelease n 0 0), (65536, fun n => .barrierRelease 0 n 0), (1024, fun n => .barrierRelease 0 0 n), (16, fun n => .semaphoreRequest n 0 0),
    (65536, fun n => .semaphoreRequest 0 n 0), (1024, fun n => .semaphoreRequest 0 0 n), (16, fun n => .semaphoreGrant n 0 0), (65536, fun n => .semaphoreGrant 0 n 0)]
def bounded2 : List (Nat × (Nat → Instr)) :=
  [(1024, fun n => .semaphoreGrant 0 0 n), (16, fun n => .readyTake n 0 0), (65536, fun n => .readyTake 0 n 0), (26, fun n => .slotFreeNotice n 0),
    (128, fun n => .slotFreeNotice 0 n), (192, fun n => .refreshWindow n 0 []), (16, fun n => .refreshWindow 0 n []), (192, fun n => .refreshRateChange n 0),
    (2, fun n => .cxlLinkDown n), (2, fun n => .cxlExpanderEvent n 0 0), (16, fun n => .bar2Access n 0 0 none), (8, fun n => .fecBlockReceived n (fecOf 0 true)),
    (8, fun n => .nakRepeat n), (8, fun n => .blockRelease n), (8, fun n => .laneRequest n 0 0), (13, fun n => .laneRequest 0 n 0),
    (13, fun n => .laneRequest 0 0 n), (8, fun n => .equaliserAdapted n), (8, fun n => .laneReady n 0), (13, fun n => .laneReady 0 n),
    (8, fun n => .laneSwitch n 0 0), (8, fun n => .laneSwitchApply n), (8, fun n => .maskChange n 0 0), (8, fun n => .laneFailure n 0)]
def bounded3 : List (Nat × (Nat → Instr)) :=
  [(13, fun n => .laneFailure 0 n), (8, fun n => .laneWindowEnd n), (8, fun n => .trainingBurst n), (8, fun n => .linkTraining n),
    (8, fun n => .linkInService n 0), (8, fun n => .identity n 0 0 0 false false 0 0 0), (8, fun n => .referenceCandidate n 0 false 0), (8, fun n => .linkRecord n 0 0 []),
    (17, fun n => .departureOrder n), (8, fun n => .leaveNotice n 0 0), (8, fun n => .packageSlice n 0 0 []), (8, fun n => .timestampRequest n 0),
    (8, fun n => .timestampReply n 0 0 0), (8, fun n => .packetForward n (packet 1)), (2, fun n => .dictionaryRequest (packet 0x08) n (frameOf false)), (16, fun n => .updateSlotFreed n 0),
    (16, fun n => .coordinatorDeadline n 0), (16, fun n => .commitTick n), (16, fun n => .checkpointWriteDone n false), (16, fun n => .rankMap n 0 []),
    (8, fun n => .rankMap 0 n []), (16, fun n => .acceptanceNotice n 0 0 0), (8, fun n => .acceptanceNotice 0 n 0 0), (16, fun n => .launchConfirmation n 0 0)]
def bounded4 : List (Nat × (Nat → Instr)) :=
  [(8, fun n => .launchConfirmation 0 n 0), (16, fun n => .cancel n 0 0), (8, fun n => .cancel 0 n 0), (16, fun n => .ledgerRecord n 0 []),
    (16, fun n => .watchPartials n 0 0 []), (16, fun n => .tapSums n 0 0 []), (16, fun n => .endNotice n 0 0), (16, fun n => .doneNotice n 0 0 0),
    (16, fun n => .teardown n 0 0), (16, fun n => .replicaDigest n 0 0 0), (16, fun n => .agreement n 0 false), (16, fun n => .statusQuery n 0 0),
    (16, fun n => .statusAnswer n 0 0 0 0 0), (8, fun n => .statusAnswer 0 n 0 0 0 0), (16, fun n => .replayOrder n 0 0 0), (16, fun n => .replayDigests n 0 0 []),
    (16, fun n => .acceptanceBegin n 0), (8, fun n => .acceptanceBegin 0 n), (16, fun n => .launchDecision n 0), (8, fun n => .launchDecision 0 n),
    (16, fun n => .fastClockStart n 0), (8, fun n => .fastClockStart 0 n), (16, fun n => .launch n 0), (8, fun n => .launch 0 n)]
def bounded5 : List (Nat × (Nat → Instr)) :=
  [(16, fun n => .jobResume n), (9, fun n => .controlCoreRetired n), (1152, fun n => .radishTileStart n 0), (1152, fun n => .coreOverdue n),
    (64, fun n => .podClockStart n), (64, fun n => .podClockStop n), (16, fun n => .statusQueryTimeout n 0), (8, fun n => .statusQueryTimeout 0 n),
    (17, fun n => .resetCommand n), (17, fun n => .leaveManagementOnly n), (16, fun n => .functionLevelReset n), (16, fun n => .powerStateChange n false),
    (17, fun n => .read32 n 0 0), (17, fun n => .read64 n 0 0), (17, fun n => .write32 n 0 0 0), (17, fun n => .write64 n 0 0 0),
    (17, fun n => .aggregateRead32 n 0 0 0), (17, fun n => .aggregateRead64 n 0 0 0), (17, fun n => .describe n 0 0), (16, fun n => .bar0Read n 0 0),
    (16, fun n => .bar0Write n 0 0 0), (17, fun n => .registerWrite n 0 0 0), (17, fun n => .aggregateStart n), (17, fun n => .partitionWrite n 0 0 0)]
def bounded6 : List (Nat × (Nat → Instr)) :=
  [(16, fun n => .partitionWrite 0 n 0 0), (17, fun n => .jobFieldWrite n 0 0 0 0), (16, fun n => .jobFieldWrite 0 n 0 0 0), (8, fun n => .jobFieldWrite 0 0 n 0 0),
    (17, fun n => .arm n 0 0), (16, fun n => .arm 0 n 0), (8, fun n => .arm 0 0 n), (17, fun n => .withdraw n 0 0),
    (16, fun n => .withdraw 0 n 0), (8, fun n => .withdraw 0 0 n), (17, fun n => .abort n 0 0), (16, fun n => .abort 0 n 0),
    (8, fun n => .abort 0 0 n), (17, fun n => .clear n 0 0), (16, fun n => .clear 0 n 0), (8, fun n => .clear 0 0 n),
    (17, fun n => .instructionLoadStart n 0), (1152, fun n => .instructionLoadStart 0 n), (17, fun n => .haltRecordClear n 0 0), (1152, fun n => .haltRecordClear 0 n 0),
    (2, fun n => .haltRecordClear 0 0 n), (17, fun n => .coreCounterClear n 0), (1152, fun n => .coreCounterClear 0 n), (17, fun n => .controllerCounterClear n 0)]
def bounded7 : List (Nat × (Nat → Instr)) :=
  [(24, fun n => .controllerCounterClear 0 n), (17, fun n => .cxlCounterClear n 0), (2, fun n => .cxlCounterClear 0 n), (17, fun n => .portCounterClear n 0),
    (8, fun n => .portCounterClear 0 n), (17, fun n => .laneAction n 0 0), (8, fun n => .laneAction 0 n 0), (13, fun n => .laneAction 0 0 n),
    (17, fun n => .laneRetire n 0 0), (8, fun n => .laneRetire 0 n 0), (13, fun n => .laneRetire 0 0 n), (17, fun n => .floorWrite n 0),
    (17, fun n => .packageBegin n), (17, fun n => .packageData n 0), (17, fun n => .packageAccept n), (17, fun n => .packageAbort n),
    (17, fun n => .calibrationUnlock n 0), (17, fun n => .calibrationCommit n), (17, fun n => .calibrationAbort n), (17, fun n => .firmwareBegin n),
    (17, fun n => .firmwareData n 0), (17, fun n => .firmwareCheck n), (17, fun n => .firmwareAbort n), (17, fun n => .activate n)]
def bounded8 : List (Nat × (Nat → Instr)) :=
  [(17, fun n => .confirm n), (17, fun n => .fallBack n), (17, fun n => .attestationCommand n 0), (16, fun n => .armAnswer n 0 0 0),
    (65536, fun n => .armAnswer 0 n 0 0), (1024, fun n => .armAnswer 0 0 n 0), (256, fun n => .armAnswer 0 0 0 n), (2, fun n => .cxlReadResponse n { addr := 0, poisoned := false, overload := false }),
    (2, fun n => .cxlLinkTrained n 0 0), (17, fun n => .attestationReportReady n)]

def bounded : List (Nat × (Nat → Instr)) := bounded1 ++ bounded2 ++ bounded3 ++ bounded4 ++ bounded5 ++ bounded6 ++ bounded7 ++ bounded8
/-- The first number that does not exist is refused; the last one that exists is not. -/
theorem test_wellFormed_bounds : bounded.all (fun r => (r.2 (r.1 - 1)).wellFormed && !(r.2 r.1).wellFormed) = true := by decide +kernel

/-! ## One step -/

/-- What the outcome's state shows. -/
def shows {α : Type} (o : Host.Outcome State Fault Refusal) (f : State → α) : Option α :=
  match o with
  | .next t => some (f t)
  | _ => none

theorem witness_AnyStep : (
    completes (step { serving with pending := [.read32 0 0x0300 1] }) = true ∧ completes (exec (.ssig 0 (semWord 0x43 1023 1)) (at_ (semWord 0x43 1023 1))) = true ∧
    State.reset.pending = [] ∧ Memory.wf State.reset.mem = true ∧ Memory.wf tinyImage = true ∧
    (Instr.memoryRequest (readAt 0)).wellFormed = true ∧ (requestUnit (readAt 0).addr.toNat).isSome = true ∧ (requestUnit (readAt lastGranule).addr.toNat).isSome = true) := by
  decide +kernel
theorem witness_Sums : (
    [Val.fin false 1 100, .fin true 1 0].Perm [.fin true 1 0, .fin false 1 100] ∧
    -(2 ^ 639) ≤ ({} : Entry).m.toInt + ([Val.fin false 1 100, .fin true 1 0].map Val.scaled).sum ∧
      ({} : Entry).m.toInt + ([Val.fin false 1 100, .fin true 1 0].map Val.scaled).sum < 2 ^ 639) := by decide +kernel
theorem witness_Writes_device : swf (fun _ => (none : Option LCore)) (at_ 0).lcores = true ∧ (0 : Nat) < 255 ∧ (254 : Nat) < 255 ∧ (1 : Byte) ≠ 0 := by decide

/-- No row of the table gives bits: nothing is decoded (log 13). -/
theorem test_decode : decodeTableWord 128 0 = none ∧ decodeTableWord 8 255 = none ∧ State.reset.withFetchWord 8 255 = State.reset := by decide
/-- The front command leaves the queue, and only it. -/
theorem test_step : shows (step { serving with pending := [.read32 0 0x0300 1, .watchdog] }) (fun t => t.pending) = some [.watchdog] := by decide +kernel
/-- With nothing pending one cycle passes (log 14). -/
theorem test_idle : shows (step State.reset) (fun t => (t.clock.tick, t.clock.cycle)) = some (0, 1) := by decide +kernel
/-- A memory request outside the address map stops (R266). -/
theorem test_noSuchUnit : exec (.memoryRequest (readAt 0x200000000000)) awake = .fault .noSuchUnit := by rfl

/-- R236: DCOPY moves the two elements of T2 to T1. -/
theorem test_dcopy : shows (exec (.dcopy 0 (moveWord 0x30 1 2 []))
      { at_ (moveWord 0x30 1 2 []) { moveCore with sram := store [(64, [1, 2, 3, 4, 5, 6, 7, 8])] } with dict := [] })
    (fun t => (t.lcore 0).map (fun x => getBytes x.sram 0 8)) = some (some [1, 2, 3, 4, 5, 6, 7, 8]) := by decide +kernel
/-- R278, R284: a DCOPY whose source has no data in its repair entry halts with reason 0x43, after a record of the memory's and one of the halt. -/
theorem test_lostRead : shows (exec (.dcopy 0 (moveWord 0x30 1 5 [])) (moveLossy (moveWord 0x30 1 5 [])))
    (fun t => ((t.core 0).halt0.reason, t.errors.records.map (fun r => r.kind))) = some (0x43, [0x0001, 0x0010]) := by decide +kernel
/-- R221: a LOOP with count 2 goes back to its target at first. -/
theorem test_loop : shows (exec (.loop 0 (word 1 [(2, 87)])) (at_ (word 1 [(2, 87)]))) (fun t => (t.lcore 0).map (fun x => (x.index, x.getL 0))) =
    some (some (0, 1)) := by decide +kernel
/-- R323: a signal at its home adds k; beyond 32 bits the value stays at the largest. -/
theorem test_signal : shows (exec (.semaphoreRequest 0 0 5) (semState 3 (reqOf .signal 4))) (fun t => (t.sem (skey 0 0 5)).value) = some 7 := by decide +kernel
/-- R277: one wrong symbol is found and corrected; two are not corrected. -/
theorem test_ecc : eccDecode [] = .clean ∧ eccDecode [(63, 0x5A)] = .corrected 63 ∧ eccDecode [(0, 1), (1, 1)] = .uncorrectable := by decide +kernel
/-- R349: a block out of sequence asks for a retry. -/
theorem test_nak : shows (exec (.fecBlockReceived 7 (fecOf 1 true)) (withPort 7 inUse)) (fun t => ((t.port 7).nakking, (t.port 7).naksSent, (t.port 7).expect)) =
    some (true, 1, 0) := by decide +kernel
/-- R303: a write outside the partition is answered with reason 0x10, and memory stays. -/
theorem test_remoteWrite : shows (exec (.write (packet 0x02 [7] lastIn)) served) (fun t => (getByte t.mem lastIn, (t.fabric.tx.map (fun p => p.ptype)))) =
      some (7, [0x11]) ∧
    shows (exec (.write (packet 0x02 [7] 0x4000000)) served) (fun t => (t.mem, t.fabric.tx.map (fun p => (p.ptype, bits p.arg 39 32)))) =
      some ([], [(0x13, 0x10)]) := by decide +kernel
/-- R544: the lower half of a 64-bit value waits for the upper half. -/
theorem test_wide : shows (exec (.write32 0 0x0430 1 5) serving) (fun t => t.reg64 0x0430 1) = some 0 ∧
    shows (exec (.write32 0 0x0430 2 1) { serving with masters := [(0, { held := [{ index := 0x0430, sub := 1, parts := [(1, 5)] }] })] })
      (fun t => t.reg64 0x0430 1) = some (2 ^ 32 + 5) := by decide +kernel
/-- R518, R552: arming a written slot arms it; arming an empty one is refused with result 5. -/
theorem test_arm : shows (exec (.arm 16 15 7) (armable 1 false)) (fun t => ((t.slot 15 7).state, (t.slot 15 7).launch)) = some (2, 5088) ∧
    shows (exec (.arm 16 15 7) (armable 0 false)) (fun t => ((t.slot 15 7).state, (t.resultFor 16).map (fun a => a.result))) = some (0, some 5) := by decide +kernel
/-- R632: a posted write of a function in D3hot is held, and goes out when the function is back in D0. -/
theorem test_d3 : (({ host := { d3 := [3] } } : State).hostWrites 3 [(64, [1])]).host.writes = [] ∧
    (({ host := { d3 := [3] } } : State).hostWrites 2 [(64, [1])]).host.writes = [(64, [1])] ∧
    shows (exec (.powerStateChange 3 false) (({ host := { d3 := [3] } } : State).hostWrites 3 [(64, [1])])) (fun t => (t.host.writes, t.host.heldWrites.length)) =
      some ([(64, [1])], 0) := by decide +kernel
/-- R560: at most one notice in 25,000 ticks. -/
theorem test_notice : (let s : State := ({ serving with serial := { risen := [(0x0030, 7)], noticed := some 0 } } : State).setReg 0x0031 3 1
    ((s.until 24999).notice.serial.tx.length, (s.until 25000).notice.serial.tx.length)) = (0, 1) := by decide +kernel
/-- R573, R574: a sag starts a save with cause 1. -/
theorem test_sag : shows (exec (.sag 40000) serving) (fun t => (t.power.saving, t.power.waitSupply, t.pins.millivolts)) = some (some 1, true, 40000) := by decide +kernel
/-- R647: the level rises at its threshold. -/
theorem test_thermal : shows (exec (.thermalLevel1Entry [1600] []) serving) (fun t => (t.power.thermal, t.throttled)) = some (1, true) ∧
    shows (exec (.thermalLevel1Entry [1599] []) serving) (fun t => t.power.thermal) = some 0 := by decide +kernel
/-- R276: with its check symbols a granule has no syndrome, and a changed symbol has one. -/
theorem test_checkSymbols : (let m := (upto 70).map (fun i => (37 * i + 5) % 256); let c := checkSymbols m
    syndromes (m ++ [c.1, c.2]) = (0, 0) ∧ syndromes (m ++ [c.1 ^^^ 1, c.2]) ≠ (0, 0)) := by decide +kernel
def wireBlock : FecBlock :=
  { seq := 3, ack := 0, nak := true, stamp := 1, creditClass := 2, creditChan := 1, credits := 5
    correctable := true, corrected := [], packets := [] }
/-- R338: sequence 3, NAK, channel 1 of class 2 with 5 units, written out bit by bit. -/
theorem test_blockHeader : blockHeader wireBlock = 0b000000000000110000000000000010000000000000001100100000000101#60 ∧
    readHeader (blockHeader wireBlock) true [] [] = wireBlock := by decide +kernel
/-- R334, R335: with 11 lanes 7 slots stay empty, symbol 11 lies one lane on, and lane 3 out of use leaves lane 4 at position 3. -/
theorem test_lanes : emptySlots 11 = 7 ∧ emptySlots 12 = 0 ∧ symbolLane 11 11 = (1, 1) ∧ laneAt 0x1FF7 3 = some 4 := by decide
/-- The published check value of CRC-32C over the digits 1 to 9 (log 95). -/
theorem test_crc32c : crc32c [0x31, 0x32, 0x33, 0x34, 0x35, 0x36, 0x37, 0x38, 0x39] = 0xE3069283 := by decide +kernel
/-- R94, R96: the sum 3 has W = 3 at position 300, with ANY; R93 puts entry (0, 1) of array 0 at offset 18. -/
theorem test_shortForm : (let e : Entry := { m := 3#640 <<< 300, any := true }
    e.shortForm = BitVec.ofNat 144 (3 * 2 ^ 16 + 2 ^ 10 + 300) ∧
    (({ k := 0, r := 0, l := 0, j := 0, program := 0, block := 0 } : LCore).setEntry 1 e).diagnosticRead 0x80012 4 = [0x2C, 5, 3, 0]) := by decide +kernel

end Sys2Proof.Tests
end

section
/-! PROOFS. What every change of the dictionary rests on: registers and counters after a write, alarms, error records,
and the answer that a master gets. -/

namespace Sys2Proof.Machine

variable (s : State)

/-! ## Registers and counters (R8, R14) -/

theorem dkey_succ_ne (idx sub : Nat) : dkey idx (sub + 1) ≠ dkey idx sub := by simp [dkey]

theorem dkey_ne_of_index_ne {i o a b : Nat} (h : i ≠ o) (ha : a < 256) (hb : b < 256) : dkey i a ≠ dkey o b := by
  unfold dkey; omega

/-- A sub-entry's word depends on the dictionary alone. -/
theorem reg_congr {s t : State} (h : t.dict = s.dict) (i j : Nat) : t.reg i j = s.reg i j := by simp [State.reg, h]

theorem reg_setReg64_low (idx sub v : Nat) : (s.setReg64 idx sub v).reg idx sub = BitVec.ofNat 32 v := by
  rw [State.setReg64, reg_setReg_other _ _ _ _ _ _ (dkey_succ_ne idx sub).symm, reg_setReg_same]

theorem reg_setReg64_high (idx sub v : Nat) : (s.setReg64 idx sub v).reg idx (sub + 1) = BitVec.ofNat 32 (v / 2 ^ 32) := by
  rw [State.setReg64, reg_setReg_same]

theorem reg_setReg64_other (idx sub v i j : Nat) (h0 : dkey i j ≠ dkey idx sub) (h1 : dkey i j ≠ dkey idx (sub + 1)) :
    (s.setReg64 idx sub v).reg i j = s.reg i j := by
  rw [State.setReg64, reg_setReg_other _ _ _ _ _ _ h1, reg_setReg_other _ _ _ _ _ _ h0]

/-- A value of 64 bits reads back as it was written. -/
theorem reg64_setReg64 (idx sub v : Nat) (h : v < 2 ^ 64) : (s.setReg64 idx sub v).reg64 idx sub = v := by
  rw [State.reg64, reg_setReg64_low, reg_setReg64_high, BitVec.toNat_ofNat, BitVec.toNat_ofNat]
  omega

theorem reg64_bump64 (idx sub n : Nat) : (s.bump64 idx sub n).reg64 idx sub = min (2 ^ 64 - 1) (s.reg64 idx sub + n) := by
  rw [State.bump64, satAdd, reg64_setReg64 _ _ _ _ (by omega)]

theorem toNat_reg_bump (idx sub n : Nat) :
    ((s.bump idx sub n).reg idx sub).toNat = min (2 ^ 32 - 1) ((s.reg idx sub).toNat + n) := by
  rw [State.bump, satAdd, reg_setReg_same, BitVec.toNat_ofNat, Nat.mod_eq_of_lt (by omega)]

theorem reg_bump_other (idx sub n i j : Nat) (h : dkey i j ≠ dkey idx sub) : (s.bump idx sub n).reg i j = s.reg i j :=
  reg_setReg_other _ _ _ _ _ _ h

theorem reg_bump64_other (idx sub n i j : Nat) (h0 : dkey i j ≠ dkey idx sub) (h1 : dkey i j ≠ dkey idx (sub + 1)) :
    (s.bump64 idx sub n).reg i j = s.reg i j :=
  reg_setReg64_other _ _ _ _ _ _ h0 h1

/-- Settles O11: both counters saturate at their width, and only the registers of the counter change. -/
theorem countersSaturate : Obligations.CountersSaturate := by
  intro s idx sub n _
  exact ⟨reg64_bump64 s idx sub n, toNat_reg_bump s idx sub n, fun i j => reg_bump_other s idx sub n i j,
    fun i j => reg_bump64_other s idx sub n i j, rfl, rfl⟩

/-! ## Interrupts and alarms (R542, R560, R630) -/

/-- Between s and t only what reports an event has changed: the host interface with its interrupts, the noted rises of
alarm bits, and the dictionary's registers. -/
def State.raises (s t : State) : Prop :=
  t = { s with
    host := t.host
    serial := { s.serial with risen := t.serial.risen }
    dict := t.dict }

namespace State.raises

variable {s} {t u : State}

theorem refl (s : State) : s.raises s := rfl

theorem trans (h : s.raises t) (g : t.raises u) : s.raises u := by
  unfold State.raises at *
  rw [g, h]

theorem clock (h : s.raises t) : t.clock = s.clock := by rw [h]
theorem pins (h : s.raises t) : t.pins = s.pins := by rw [h]
theorem cores (h : s.raises t) : t.cores = s.cores := by rw [h]
theorem lcores (h : s.raises t) : t.lcores = s.lcores := by rw [h]
theorem barriers (h : s.raises t) : t.barriers = s.barriers := by rw [h]
theorem sems (h : s.raises t) : t.sems = s.sems := by rw [h]
theorem mem (h : s.raises t) : t.mem = s.mem := by rw [h]
theorem slots (h : s.raises t) : t.slots = s.slots := by rw [h]
theorem jobs (h : s.raises t) : t.jobs = s.jobs := by rw [h]
theorem power (h : s.raises t) : t.power = s.power := by rw [h]
theorem errors (h : s.raises t) : t.errors = s.errors := by rw [h]
theorem results (h : s.raises t) : t.serial.results = s.serial.results := by rw [h]

end State.raises

theorem setReg_raises (idx sub : Nat) (v : Word) : s.raises (s.setReg idx sub v) := rfl
theorem setReg64_raises (idx sub v : Nat) : s.raises (s.setReg64 idx sub v) := rfl
theorem bump_raises (idx sub n : Nat) : s.raises (s.bump idx sub n) := rfl

theorem msix_raises (f v : Nat) : s.raises (s.msix f v) := by
  unfold State.msix
  split
  · rfl
  · split <;> rfl

theorem msix_dict (f v : Nat) : (s.msix f v).dict = s.dict := by
  unfold State.msix
  split
  · rfl
  · split <;> rfl

theorem alarm_of_set {idx sub i : Nat} (h : bit (s.reg idx sub) i = true) : s.alarm idx sub i = s := by simp [State.alarm, h]

theorem alarm_raises (idx sub i : Nat) : s.raises (s.alarm idx sub i) := by
  unfold State.alarm
  split
  · exact .refl s
  · dsimp only
    have rise : s.raises { s.setReg idx sub (s.reg idx sub ||| BitVec.ofNat 32 (2 ^ i)) with
      serial := { s.serial with risen := s.serial.risen ++ [(idx, sub)] } } := rfl
    split
    · split
      · exact rise.trans (msix_raises ..)
      · exact (rise.trans (msix_raises ..)).trans (msix_raises ..)
    · exact rise.trans (msix_raises ..)

@[simp] theorem alarm_clock (idx sub i : Nat) : (s.alarm idx sub i).clock = s.clock := (alarm_raises ..).clock
@[simp] theorem alarm_pins (idx sub i : Nat) : (s.alarm idx sub i).pins = s.pins := (alarm_raises ..).pins
@[simp] theorem alarm_cores (idx sub i : Nat) : (s.alarm idx sub i).cores = s.cores := (alarm_raises ..).cores
@[simp] theorem alarm_lcores (idx sub i : Nat) : (s.alarm idx sub i).lcores = s.lcores := (alarm_raises ..).lcores
@[simp] theorem alarm_barriers (idx sub i : Nat) : (s.alarm idx sub i).barriers = s.barriers := (alarm_raises ..).barriers
@[simp] theorem alarm_sems (idx sub i : Nat) : (s.alarm idx sub i).sems = s.sems := (alarm_raises ..).sems
@[simp] theorem alarm_mem (idx sub i : Nat) : (s.alarm idx sub i).mem = s.mem := (alarm_raises ..).mem
@[simp] theorem alarm_slots (idx sub i : Nat) : (s.alarm idx sub i).slots = s.slots := (alarm_raises ..).slots
@[simp] theorem alarm_jobs (idx sub i : Nat) : (s.alarm idx sub i).jobs = s.jobs := (alarm_raises ..).jobs
@[simp] theorem alarm_power (idx sub i : Nat) : (s.alarm idx sub i).power = s.power := (alarm_raises ..).power
@[simp] theorem alarm_errors (idx sub i : Nat) : (s.alarm idx sub i).errors = s.errors := (alarm_raises ..).errors

theorem alarm_dict_of_clear {idx sub i : Nat} (h : bit (s.reg idx sub) i = false) :
    (s.alarm idx sub i).dict = (s.setReg idx sub (s.reg idx sub ||| BitVec.ofNat 32 (2 ^ i))).dict := by
  unfold State.alarm
  rw [if_neg (by simp [h])]
  dsimp only
  split
  · split <;> simp only [msix_dict]
  · simp only [msix_dict]

theorem reg_alarm_other (idx sub i a b : Nat) (h : dkey a b ≠ dkey idx sub) : (s.alarm idx sub i).reg a b = s.reg a b := by
  cases hb : bit (s.reg idx sub) i with
  | true => rw [alarm_of_set s hb]
  | false => exact (reg_congr (alarm_dict_of_clear s hb) a b).trans (reg_setReg_other s _ _ _ _ _ h)

/-- The alarm's bit is set. -/
theorem alarmed_alarm (idx sub : Nat) {i : Nat} (hi : i < 32) : (s.alarm idx sub i).alarmed idx sub i := by
  unfold State.alarmed
  cases hb : bit (s.reg idx sub) i with
  | true => rw [alarm_of_set s hb, hb]
  | false =>
    rw [reg_congr (alarm_dict_of_clear s hb), reg_setReg_same]
    have small : 2 ^ i % 2 ^ 32 = 2 ^ i := Nat.mod_eq_of_lt (Nat.pow_lt_pow_right (by decide) hi)
    simp [bit, Nat.testBit_or, -Nat.reducePow, small]

/-! ## Error records (R488, R491) -/

theorem raises_ite {s t u : State} {c : Prop} [Decidable c] (ht : s.raises t) (hu : s.raises u) :
    s.raises (if c then t else u) := by
  split
  · exact ht
  · exact hu

theorem raises_alarm_if {s t : State} {c : Prop} [Decidable c] {idx sub i : Nat} (h : s.raises t) :
    s.raises (if c then t.alarm idx sub i else t) :=
  raises_ite (h.trans (alarm_raises ..)) h

/-- Entering a record puts it in front of the log, and else only raises alarms. -/
theorem addError_parts (kind effect : Nat) (unit job : Word) (op : Nat) (step d0 d1 : DWord) :
    ∃ log, State.raises { s with errors := log } (s.addError kind effect unit job op step d0 d1) ∧ log.next = s.errors.next + 1 ∧
      ∃ r rest, log.records = r :: rest ∧ r.kind = kind ∧ r.effect = effect ∧ r.unit = unit ∧ r.detail0 = d0 ∧ r.detail1 = d1 ∧
        r.seq = s.errors.next := by
  unfold State.addError
  dsimp only
  have counted {t : State} {c : Prop} [Decidable c] : t.raises (if c then t.bump 0x1000 0x03 1 else t) :=
    raises_ite (bump_raises ..) (.refl t)
  exact ⟨_, raises_alarm_if (raises_alarm_if (counted.trans (alarm_raises ..))), rfl, _, _, rfl, rfl, rfl, rfl, rfl, rfl, rfl⟩

section

variable (kind effect : Nat) (unit job : Word) (op : Nat) (step d0 d1 : DWord)

theorem addError_raises :
    State.raises { s with errors := (s.addError kind effect unit job op step d0 d1).errors } (s.addError kind effect unit job op step d0 d1) := by
  obtain ⟨log, h, -⟩ := addError_parts s kind effect unit job op step d0 d1
  rwa [h.errors]

/-- The record is the newest one. -/
theorem addError_entered : s.entered (s.addError kind effect unit job op step d0 d1) kind effect unit d0 d1 := by
  obtain ⟨log, h, hnext, hrec⟩ := addError_parts s kind effect unit job op step d0 d1
  rw [State.entered, h.errors]
  exact ⟨hnext, hrec⟩

@[simp] theorem addError_next : (s.addError kind effect unit job op step d0 d1).errors.next = s.errors.next + 1 :=
  (addError_entered s kind effect unit job op step d0 d1).1
@[simp] theorem addError_clock : (s.addError kind effect unit job op step d0 d1).clock = s.clock := (addError_raises ..).clock
@[simp] theorem addError_pins : (s.addError kind effect unit job op step d0 d1).pins = s.pins := (addError_raises ..).pins
@[simp] theorem addError_cores : (s.addError kind effect unit job op step d0 d1).cores = s.cores := (addError_raises ..).cores
@[simp] theorem addError_lcores : (s.addError kind effect unit job op step d0 d1).lcores = s.lcores := (addError_raises ..).lcores
@[simp] theorem addError_barriers : (s.addError kind effect unit job op step d0 d1).barriers = s.barriers := (addError_raises ..).barriers
@[simp] theorem addError_sems : (s.addError kind effect unit job op step d0 d1).sems = s.sems := (addError_raises ..).sems
@[simp] theorem addError_mem : (s.addError kind effect unit job op step d0 d1).mem = s.mem := (addError_raises ..).mem
@[simp] theorem addError_slots : (s.addError kind effect unit job op step d0 d1).slots = s.slots := (addError_raises ..).slots
@[simp] theorem addError_jobs : (s.addError kind effect unit job op step d0 d1).jobs = s.jobs := (addError_raises ..).jobs
@[simp] theorem addError_power : (s.addError kind effect unit job op step d0 d1).power = s.power := (addError_raises ..).power

end

/-! ## The answer that a master gets (R546, R551, R559) -/

theorem noteRefusal_raises (k result idx sub : Nat) : s.raises (s.noteRefusal k result idx sub) := by
  unfold State.noteRefusal
  exact (((bump_raises ..).trans (setReg_raises ..)).trans (setReg64_raises ..)).trans (alarm_raises ..)

/-- A recorded refusal changes the registers of its own object alone. -/
theorem reg_noteRefusal_other (k result idx sub : Nat) {i j : Nat} (hj : j < 256) (hi : i ≠ 0x0010 + k) :
    (s.noteRefusal k result idx sub).reg i j = s.reg i j := by
  have apart (b : Nat) (hb : b < 256) : dkey i j ≠ dkey (0x0010 + k) b := dkey_ne_of_index_ne hi hj hb
  rw [State.noteRefusal, reg_alarm_other _ _ _ _ _ _ (apart 5 (by decide)),
    reg_setReg64_other _ _ _ _ _ _ (apart 3 (by decide)) (apart 4 (by decide)), reg_setReg_other _ _ _ _ _ _ (apart 2 (by decide)),
    reg_bump_other _ _ _ _ _ _ (apart 1 (by decide))]

/-- Answer a is the last one that master m has got. -/
def State.filed (s : State) (m : Nat) (a : WAnswer) : State :=
  { s with serial := { s.serial with results := (m, a) :: s.serial.results.filter (fun r => r.1 ≠ m) } }

theorem resultFor_filed (m : Nat) (a : WAnswer) : (s.filed m a).resultFor m = some a := by simp [State.resultFor, State.filed]

theorem give_accepted (m op idx sub : Nat) (v : DWord) : s.give m (answerOf op idx sub 0 v) = s.filed m (answerOf op idx sub 0 v) := rfl

/-- An answer is filed, and a refusal may be recorded beside it. -/
theorem give_eq (m : Nat) (a : WAnswer) :
    s.give m a = s.filed m a ∨ s.give m a = (s.filed m a).noteRefusal (m - 1) a.result a.index a.sub := by
  unfold State.give
  split
  · exact .inr rfl
  · exact .inl rfl

theorem give_raises (m : Nat) (a : WAnswer) : (s.filed m a).raises (s.give m a) := by
  obtain h | h := give_eq s m a
  · rw [h]; exact .refl _
  · rw [h]; exact noteRefusal_raises ..

theorem reg_give_other (m : Nat) (a : WAnswer) {i j : Nat} (hj : j < 256) (hi : i ≠ 0x0010 + (m - 1)) :
    (s.give m a).reg i j = s.reg i j := by
  obtain h | h := give_eq s m a
  · rw [h]; rfl
  · rw [h, reg_noteRefusal_other _ _ _ _ _ hj hi]; rfl

theorem resultFor_give (m : Nat) (a : WAnswer) : (s.give m a).resultFor m = some a := by
  rw [State.resultFor, (give_raises s m a).results]
  exact resultFor_filed s m a

/-- Where an operation has changed nothing but the serialiser's record, its refusal is declined. -/
theorem declined_give {s t : State} (h : t = { s with serial := t.serial }) (m op idx sub r : Nat) :
    s.declined (t.give m (answerOf op idx sub r 0)) m op idx sub r := by
  refine ⟨?_, fun i j hj hi => ?_, resultFor_give ..⟩
  · have g : (t.filed m (answerOf op idx sub r 0)).raises (t.give m (answerOf op idx sub r 0)) := give_raises ..
    rw [g, State.filed, h]
  · rw [reg_give_other _ _ _ hj hi, h]
    rfl

/-- Where an operation has changed u but for the noted writes of the window, its acceptance is obeyed. -/
theorem obeyed_give {u t : State} (h : t = { u with serial := { u.serial with window := t.serial.window } }) (m op idx sub : Nat) :
    u.obeyed (t.give m (answerOf op idx sub 0 0)) m op idx sub := by
  refine ⟨?_, resultFor_give ..⟩
  rw [give_accepted, State.filed, h]

namespace State.obeyed

variable {u t : State} {m op idx sub : Nat}

theorem lcores (h : u.obeyed t m op idx sub) : t.lcores = u.lcores := by rw [h.1]
theorem cores (h : u.obeyed t m op idx sub) : t.cores = u.cores := by rw [h.1]
theorem barriers (h : u.obeyed t m op idx sub) : t.barriers = u.barriers := by rw [h.1]
theorem sems (h : u.obeyed t m op idx sub) : t.sems = u.sems := by rw [h.1]
theorem mem (h : u.obeyed t m op idx sub) : t.mem = u.mem := by rw [h.1]
theorem slots (h : u.obeyed t m op idx sub) : t.slots = u.slots := by rw [h.1]
theorem jobs (h : u.obeyed t m op idx sub) : t.jobs = u.jobs := by rw [h.1]
theorem clock (h : u.obeyed t m op idx sub) : t.clock = u.clock := by rw [h.1]
theorem power (h : u.obeyed t m op idx sub) : t.power = u.power := by rw [h.1]
theorem errors (h : u.obeyed t m op idx sub) : t.errors = u.errors := by rw [h.1]
theorem masters (h : u.obeyed t m op idx sub) : t.masters = u.masters := by rw [h.1]
theorem dict (h : u.obeyed t m op idx sub) : t.dict = u.dict := by rw [h.1]

theorem sameWork {s : State} (h : u.obeyed t m op idx sub) (w : s.sameWork u) : s.sameWork t := by
  unfold State.sameWork
  rw [h.mem, h.lcores, h.cores, h.slots, h.jobs, h.barriers, h.sems]
  exact w

end State.obeyed

/-! ## Commands (R542, R587) -/

theorem command_eq {m idx sub : Nat} {v : Word} {c : Bool} {f : Rule} (ha : s.power.alive = true) :
    s.command m idx sub v c f =
      ((s.guarded m idx f).1.noteApplied m idx sub v (s.guarded m idx f).2 c).give m (answerOf 3 idx sub (s.guarded m idx f).2 0) := by
  simp [State.command, ha]

theorem guarded_reached {m idx : Nat} {f : Rule} (hr : reaches m idx = true) (hs : s.serves idx = true) : s.guarded m idx f = f s := by
  simp [State.guarded, hr, hs]

theorem guarded_unreached {m idx : Nat} {f : Rule} (hr : reaches m idx = false) : s.guarded m idx f = (s, 2) := by
  simp [State.guarded, hr]

theorem onUnit_masterOk {m : Nat} (h : m ≤ 16) (t : State) : onUnit (masterOk m) t = .next t := by simp [onUnit, masterOk, h]

end Sys2Proof.Machine
end

section
/-! PROOFS. Device resets, the save, and what begins start-up (R10, R574, R578 to R581, R588, R642). -/

namespace Sys2Proof.Machine

variable (s : State)

/-! ## A device reset (R588) -/

theorem stopAll_stopped : s.stopped s.stopAll := ⟨rfl, rfl, rfl, rfl, rfl, rfl, rfl, rfl⟩

/-- What leaves the work, the clock and the control clocks as they are leaves a stopped device stopped. -/
theorem stopped_congr {s t u : State} (h : s.stopped t)
    (hl : u.lcores = t.lcores) (hm : u.mem = t.mem) (hj : u.jobs = t.jobs) (hb : u.barriers = t.barriers) (hs : u.sems = t.sems)
    (hq : u.slots = t.slots) (hp : u.power.control = t.power.control) (hc : u.clock = t.clock) : s.stopped u := by
  unfold State.stopped
  rw [hl, hm, hj, hb, hs, hq, hp, hc]
  exact h

theorem deviceReset_stopped (cause : Nat) : s.stopped (s.deviceReset cause) := by
  refine stopped_congr (stopAll_stopped s) ?_ ?_ ?_ ?_ ?_ ?_ ?_ ?_ <;> simp [State.deviceReset]

theorem deviceReset_power (cause : Nat) :
    (s.deviceReset cause).power = { s.stopAll.power with cause := cause, saving := some cause } := by simp [State.deviceReset]

theorem deviceReset_pins (cause : Nat) : (s.deviceReset cause).pins = s.pins := by simp [State.deviceReset, State.stopAll]

/-- The reset is recorded with its tick. -/
theorem deviceReset_entered (cause : Nat) : s.entered (s.deviceReset cause) 0x0104 0 mgmt s.clock.tick 0 := addError_entered ..

/-! ## A sag (R573, R574, R590) -/

/-- What a sag leaves once the device has stopped: the voltage, the wait for the supply, the record and the alarm bit. -/
def State.noteSag (s : State) (mv : Nat) : State :=
  ({ s with
    pins := { s.pins with millivolts := mv }
    power := { s.power with waitSupply := true } }.addError 0x0100 0 mgmt noJob 0 noStep (BitVec.ofNat 64 mv) noStep).alarm 0x0300 0x08 0

theorem noteSag_entered (mv : Nat) : s.entered (s.noteSag mv) 0x0100 0 mgmt (BitVec.ofNat 64 mv) noStep := by
  rw [State.entered, State.noteSag, alarm_errors]
  exact addError_entered ..

theorem noteSag_power (mv : Nat) : (s.noteSag mv).power = { s.power with waitSupply := true } := by simp [State.noteSag]
theorem noteSag_pins (mv : Nat) : (s.noteSag mv).pins = { s.pins with millivolts := mv } := by simp [State.noteSag]
theorem noteSag_alarmed (mv : Nat) : (s.noteSag mv).alarmed 0x0300 0x08 0 := alarmed_alarm _ _ _ (by decide)
theorem noteSag_sameWork (mv : Nat) : s.sameWork (s.noteSag mv) := by simp [State.sameWork, State.noteSag]

theorem noteSag_stopped {s t : State} (mv : Nat) (h : s.stopped t) : s.stopped (t.noteSag mv) := by
  refine stopped_congr h ?_ ?_ ?_ ?_ ?_ ?_ ?_ ?_ <;> simp [State.noteSag]

theorem exec_sag_up (mv : Nat) (ha : s.power.alive = true) (hd : s.down = false) :
    exec (.sag mv) s = .next ((s.deviceReset 1).noteSag mv) := by
  show execSag mv s = _
  simp [execSag, ha, hd, State.noteSag]

theorem exec_sag_down (mv : Nat) (ha : s.power.alive = true) (hd : s.down = true) : exec (.sag mv) s = .next (s.noteSag mv) := by
  show execSag mv s = _
  simp [execSag, ha, hd, State.noteSag]

theorem sag_stops (mv : Nat) (ha : s.power.alive = true) (hd : s.down = false) :
    ∃ t, exec (.sag mv) s = .next t ∧ s.stopped t ∧ t.power.saving = some 1 ∧ t.power.cause = 1 ∧ t.power.waitSupply = true ∧
      t.errors.next = s.errors.next + 2 ∧ t.alarmed 0x0300 0x08 0 ∧ t.pins.millivolts = mv ∧
      ∃ r l, t.errors.records = r :: l ∧ r.kind = 0x0100 ∧ r.detail0 = BitVec.ofNat 64 mv := by
  obtain ⟨hnext, r, l, hrec, hkind, -, -, hd0, -⟩ := noteSag_entered (s.deviceReset 1) mv
  have hreset := (deviceReset_entered s 1).1
  refine ⟨_, exec_sag_up s mv ha hd, noteSag_stopped mv (deviceReset_stopped s 1), ?_, ?_, ?_, ?_, noteSag_alarmed _ mv, ?_,
    r, l, hrec, hkind, hd0⟩
  · rw [noteSag_power, deviceReset_power]
  · rw [noteSag_power, deviceReset_power]
  · rw [noteSag_power]
  · rw [hnext, hreset]
  · rw [noteSag_pins]

theorem sag_waits (mv : Nat) (ha : s.power.alive = true) (hd : s.down = true) :
    ∃ t, exec (.sag mv) s = .next t ∧ s.sameWork t ∧ t.power = { s.power with waitSupply := true } ∧
      s.entered t 0x0100 0 mgmt (BitVec.ofNat 64 mv) noStep :=
  ⟨_, exec_sag_down s mv ha hd, noteSag_sameWork s mv, noteSag_power s mv, noteSag_entered s mv⟩

/-! ## RESET_N, the watchdog and the reset command (R588, R642) -/

/-- RESET_N reads as asserted. -/
def State.pressReset (s : State) : State := { s with pins := { s.pins with resetN := true } }

/-- RESET_N holds the device. -/
def State.holdInReset (s : State) : State := { s with power := { s.power with heldReset := true } }

theorem exec_resetNAssert_up (ha : s.power.alive = true) (hd : s.down = false) :
    exec .resetNAssert s = .next (s.pressReset.deviceReset 2).holdInReset := by
  show Host.Outcome.next (if !s.power.alive then s.pressReset
    else (if s.down then s.pressReset else s.pressReset.deviceReset 2).holdInReset) = _
  rw [ha, hd]
  rfl

theorem resetNAssert_stops (ha : s.power.alive = true) (hd : s.down = false) :
    ∃ t, exec .resetNAssert s = .next t ∧ s.stopped t ∧ t.power.saving = some 2 ∧ t.power.cause = 2 ∧ t.power.heldReset = true ∧
      t.pins = { s.pins with resetN := true } ∧ s.entered t 0x0104 0 mgmt s.clock.tick 0 := by
  refine ⟨_, exec_resetNAssert_up s ha hd, deviceReset_stopped s.pressReset 2, ?_, ?_, rfl, deviceReset_pins .., deviceReset_entered s.pressReset 2⟩
  · rw [State.holdInReset, deviceReset_power]
  · rw [State.holdInReset, deviceReset_power]

theorem exec_watchdog_up (ha : s.power.alive = true) (hd : s.down = false) (hp : s.power.phase = 1) (hc : s.power.control = true) :
    exec .watchdog s = .next (s.deviceReset 4) := by
  show execWatchdog s = _
  simp [execWatchdog, ha, hd, hp, hc]

theorem watchdog_stops (ha : s.power.alive = true) (hd : s.down = false) (hp : s.power.phase = 1) (hc : s.power.control = true) :
    ∃ t, exec .watchdog s = .next t ∧ s.stopped t ∧ t.power.saving = some 4 ∧ t.power.cause = 4 ∧
      s.entered t 0x0104 0 mgmt s.clock.tick 0 := by
  refine ⟨_, exec_watchdog_up s ha hd hp hc, deviceReset_stopped s 4, ?_, ?_, deviceReset_entered s 4⟩
  · rw [deviceReset_power]
  · rw [deviceReset_power]

theorem resetCommand_stops {m : Nat} (hm : m ≤ 1) (ha : s.power.alive = true) (hd : s.down = false) :
    ∃ t, exec (.resetCommand m) s = .next t ∧ s.stopped t ∧ t.power.saving = some 3 ∧ t.power.cause = 3 ∧
      s.entered t 0x0104 0 mgmt s.clock.tick 0 ∧ t.resultFor m = some (answerOf 3 0x0310 3 0 0) := by
  have hreach : reaches m 0x0310 = true := by simp [reaches, hm]
  have hserve : s.serves 0x0310 = true := by simp [State.serves, alwaysServed]
  have hrule : s.guarded m 0x0310 resetRule = (s.deviceReset 3, 0) := by simp [guarded_reached s hreach hserve, resetRule, hd]
  have hexec : exec (.resetCommand m) s =
      .next (((s.deviceReset 3).noteApplied m 0x0310 3 1 0 true).give m (answerOf 3 0x0310 3 0 0)) := by
    show onUnit (masterOk m) (s.command m 0x0310 3 1 true resetRule) = _
    rw [onUnit_masterOk (by omega), command_eq s ha, hrule]
  have h := obeyed_give (u := s.deviceReset 3) (t := (s.deviceReset 3).noteApplied m 0x0310 3 1 0 true) rfl m 3 0x0310 3
  refine ⟨_, hexec, ?_, ?_, ?_, ?_, h.2⟩
  · exact stopped_congr (deviceReset_stopped s 3) h.lcores h.mem h.jobs h.barriers h.sems h.slots (by rw [h.power]) h.clock
  · rw [h.power, deviceReset_power]
  · rw [h.power, deviceReset_power]
  · rw [State.entered, h.errors]
    exact deviceReset_entered s 3

theorem reaches_startUp_of_function {m : Nat} (h2 : 2 ≤ m) (h16 : m ≤ 16) : reaches m 0x0310 = false := by
  simp [reaches]; omega

theorem resetCommand_declined {m : Nat} (h2 : 2 ≤ m) (h16 : m ≤ 16) (ha : s.power.alive = true) :
    ∃ t, exec (.resetCommand m) s = .next t ∧ s.declined t m 3 0x0310 3 2 := by
  refine ⟨_, ?_, declined_give (t := s.noteApplied m 0x0310 3 1 2 true) rfl m 3 0x0310 3 2⟩
  show onUnit (masterOk m) (s.command m 0x0310 3 1 true resetRule) = _
  rw [onUnit_masterOk h16, command_eq s ha, guarded_unreached s (reaches_startUp_of_function h2 h16)]

/-! ## What begins start-up (R580, R582, R591) -/

theorem beginAttempt_step (cause : Nat) : (s.beginAttempt cause).power.step = 1 := rfl
theorem beginAttempt_starts (cause : Nat) : (s.beginAttempt cause).power.starts = s.power.starts + 1 := rfl

/-- Start-up begins, or the state stays. -/
theorem tryStart_eq : s.tryStart = s.beginAttempt s.power.cause ∨ s.tryStart = s := by
  unfold State.tryStart
  split
  · exact .inl rfl
  · exact .inr rfl

/-- A fact of the state that an attempt's beginning leaves alone. -/
theorem tryStart_keeps {α : Type} (g : State → α) (h : g (s.beginAttempt s.power.cause) = g s) : g s.tryStart = g s := by
  obtain e | e := tryStart_eq s
  · rw [e, h]
  · rw [e]

@[simp] theorem tryStart_mem : s.tryStart.mem = s.mem := tryStart_keeps s State.mem rfl
@[simp] theorem tryStart_slots : s.tryStart.slots = s.slots := tryStart_keeps s State.slots rfl
@[simp] theorem tryStart_lcores : s.tryStart.lcores = s.lcores := tryStart_keeps s State.lcores rfl
@[simp] theorem tryStart_jobs : s.tryStart.jobs = s.jobs := tryStart_keeps s State.jobs rfl
@[simp] theorem tryStart_pins : s.tryStart.pins = s.pins := tryStart_keeps s State.pins rfl
@[simp] theorem tryStart_clock : s.tryStart.clock = s.clock := tryStart_keeps s State.clock rfl
@[simp] theorem tryStart_errors : s.tryStart.errors = s.errors := tryStart_keeps s State.errors rfl
@[simp] theorem tryStart_alive : s.tryStart.power.alive = s.power.alive := tryStart_keeps s (fun t => t.power.alive) rfl
@[simp] theorem tryStart_saving : s.tryStart.power.saving = s.power.saving := tryStart_keeps s (fun t => t.power.saving) rfl
@[simp] theorem tryStart_save : s.tryStart.power.save = s.power.save := tryStart_keeps s (fun t => t.power.save) rfl
@[simp] theorem tryStart_waitSupply : s.tryStart.power.waitSupply = s.power.waitSupply := tryStart_keeps s (fun t => t.power.waitSupply) rfl
@[simp] theorem tryStart_heldReset : s.tryStart.power.heldReset = s.power.heldReset := tryStart_keeps s (fun t => t.power.heldReset) rfl

/-- Nothing keeps start-up from running: the five conditions by name. -/
theorem starting_iff : s.starting = true ↔ s.power.alive = true ∧ s.power.saving = none ∧ s.power.waitSupply = false ∧
    s.power.heldReset = false ∧ s.power.failedAt = none ∧ s.power.phase = 0 := by
  simp [State.starting, and_assoc]

theorem tryStart_begins (h : s.starting = true) (h0 : s.power.step = 0) : s.tryStart = s.beginAttempt s.power.cause := by
  simp [State.tryStart, h, h0]

theorem tryStart_waits (h : s.starting = true → s.power.step ≠ 0) : s.tryStart = s := by
  unfold State.tryStart
  rw [if_neg]
  simpa using h

/-- Start-up's step after an attempt has been tried: 1 when nothing keeps it, else what it was. -/
theorem tryStart_step_begins (h : s.starting = true) (h0 : s.power.step = 0) : s.tryStart.power.step = 1 := by
  rw [tryStart_begins s h h0, beginAttempt_step]

theorem tryStart_starts_begins (h : s.starting = true) (h0 : s.power.step = 0) : s.tryStart.power.starts = s.power.starts + 1 := by
  rw [tryStart_begins s h h0, beginAttempt_starts]

theorem tryStart_step_waits (h : s.starting = true → s.power.step ≠ 0) : s.tryStart.power.step = s.power.step := by
  rw [tryStart_waits s h]

/-! ## The save, the supply and the release of RESET_N (R574, R578 to R580, R642) -/

/-- A save with cause c is complete; a sag's record then shows its tick. -/
def State.saved (s : State) (c : Nat) : State :=
  let t := if c = 1 then { s with errors := { s.errors with records := noteSave s.clock.tick s.errors.records } } else s
  { t with power := { t.power with saving := none, save := some (t.saveImage c) } }

theorem exec_saveComplete {c : Nat} (h : s.power.saving = some c) : exec .saveComplete s = .next (s.saved c).tryStart := by
  show execSaveComplete s = _
  unfold execSaveComplete
  rw [h]
  rfl

theorem saved_power (c : Nat) : (s.saved c).power = { s.power with saving := none, save := some (s.saveImage c) } := by
  unfold State.saved; split <;> rfl
theorem saved_mem (c : Nat) : (s.saved c).mem = s.mem := by unfold State.saved; split <;> rfl
theorem saved_slots (c : Nat) : (s.saved c).slots = s.slots := by unfold State.saved; split <;> rfl

theorem saveComplete_saves {c : Nat} (h : s.power.saving = some c) :
    ∃ t v, exec .saveComplete s = .next t ∧ t.power.saving = none ∧ t.power.save = some v ∧ v.cause = c ∧ v.tick = s.clock.tick ∧
      v.slots = journal s.slots ∧ v.tail = s.host.tail ∧ v.nextSequence = s.nextSequence ∧ t.mem = s.mem ∧ t.slots = s.slots ∧
      (s.power.alive = true → s.power.waitSupply = false → s.power.heldReset = false → s.power.failedAt = none → s.power.phase = 0 →
        s.power.step = 0 → t.power.step = 1 ∧ t.power.starts = s.power.starts + 1) ∧
      ((s.power.waitSupply = true ∨ s.power.heldReset = true) → t.power.step = s.power.step) := by
  refine ⟨_, s.saveImage c, exec_saveComplete s h, ?_, ?_, rfl, rfl, rfl, rfl, rfl, ?_, ?_, fun ha hw hr hf hp h0 => ?_, fun hw => ?_⟩
  · rw [tryStart_saving, saved_power]
  · rw [tryStart_save, saved_power]
  · rw [tryStart_mem, saved_mem]
  · rw [tryStart_slots, saved_slots]
  · have start : (s.saved c).starting = true := (starting_iff _).2 (by simp [saved_power, *])
    have step : (s.saved c).power.step = 0 := by simp [saved_power, h0]
    refine ⟨tryStart_step_begins _ start step, ?_⟩
    rw [tryStart_starts_begins _ start step, saved_power]
  · rw [tryStart_step_waits, saved_power]
    intro start
    obtain ⟨-, -, hw', hr', -⟩ := (starting_iff _).1 start
    rw [saved_power] at hw' hr'
    obtain h | h := hw
    · exact absurd (h.symm.trans hw') (by decide)
    · exact absurd (h.symm.trans hr') (by decide)

theorem exec_supplyQualified (ha : s.power.alive = true) (hw : s.power.waitSupply = true) (hs : s.power.saving = none) :
    exec .supplyQualified s = .next (State.tryStart { s with power := { s.power with waitSupply := false } }) := by
  show execSupplyQualified s = _
  simp [execSupplyQualified, ha, hw, hs]

theorem supplyQualified_starts (ha : s.power.alive = true) (hw : s.power.waitSupply = true) (hs : s.power.saving = none) :
    ∃ t, exec .supplyQualified s = .next t ∧ t.power.waitSupply = false ∧ t.mem = s.mem ∧ t.slots = s.slots ∧
      (s.power.heldReset = false → s.power.failedAt = none → s.power.phase = 0 → s.power.step = 0 → t.power.step = 1) := by
  refine ⟨_, exec_supplyQualified s ha hw hs, tryStart_waitSupply _, tryStart_mem _, tryStart_slots _, fun hr hf hp h0 => ?_⟩
  exact tryStart_step_begins _ ((starting_iff _).2 ⟨ha, hs, rfl, hr, hf, hp⟩) h0

theorem holdUpBankEmpty_stops (hw : s.power.waitSupply = true) (hs : s.power.saving = none) :
    ∃ t, exec .holdUpBankEmpty s = .next t ∧ t = { s with power := { s.power with alive := false } } := by
  refine ⟨_, ?_, rfl⟩
  show execHoldUpBankEmpty s = _
  simp [execHoldUpBankEmpty, hw, hs]

theorem resetNDeassert_starts :
    ∃ t, exec .resetNDeassert s = .next t ∧ t.pins = { s.pins with resetN := false } ∧ t.power.heldReset = false ∧ t.mem = s.mem ∧
      t.slots = s.slots ∧
      (s.power.alive = true → s.power.saving = none → s.power.waitSupply = false → s.power.failedAt = none → s.power.phase = 0 →
        s.power.step = 0 → t.power.step = 1) ∧
      ((s.power.alive = false ∨ s.power.saving.isSome = true ∨ s.power.step ≠ 0) → t.power.step = s.power.step) := by
  refine ⟨_, rfl, tryStart_pins _, tryStart_heldReset _, tryStart_mem _, tryStart_slots _, fun ha hs hw hf hp h0 => ?_, fun hwait => ?_⟩
  · exact tryStart_step_begins _ ((starting_iff _).2 ⟨ha, hs, hw, rfl, hf, hp⟩) h0
  · refine tryStart_step_waits _ fun start h0 => ?_
    obtain ⟨ha, hs, -⟩ := (starting_iff _).1 start
    obtain h | h | h := hwait
    · exact absurd (ha.symm.trans h) (by decide)
    · exact absurd hs (Option.isSome_iff_ne_none.1 h)
    · exact h h0

/-! ## Power-on (R581, R587, R588) -/

/-- The tick at which the counter begins at power-on: one past that of the newest save. -/
def State.powerOnTick (s : State) : DWord :=
  match s.power.save with
  | some v => v.tick + 1
  | none => 0

/-- What a power-on leaves before its record is entered. -/
def State.unpowered (s : State) : State :=
  { s.stopAll with
    clock := { ({} : Clock) with tick := s.powerOnTick }
    host := {}, slots := [], serial := {}
    errors := s.errors.afterLoss (match s.power.save with
      | some v => v.waiting
      | none => [])
    power := { s.stopAll.power with
      alive := true, cause := 0, saving := none, waitSupply := false, heldReset := s.pins.resetN
      failed := if s.power.phase = 2 then 2 else s.power.failed } }

theorem exec_powerOnReset :
    exec .powerOnReset s = .next (s.unpowered.addError 0x0104 0 mgmt noJob 0 noStep s.unpowered.clock.tick 0).tryStart := rfl

theorem powerOnReset_starts :
    ∃ t, exec .powerOnReset s = .next t ∧ t.power.alive = true ∧ t.slots = [] ∧ t.mem = [] ∧ t.lcores = [] ∧ t.jobs = [] ∧
      t.power.saving = none ∧ t.errors.next = s.errors.next + 1 ∧ (s.power.save = none → t.clock.tick = 0) ∧
      (∀ v, s.power.save = some v → t.clock.tick = v.tick + 1) ∧ (s.pins.resetN = false → t.power.step = 1) ∧
      (s.pins.resetN = true → t.power.step = 0) := by
  have tick : (s.unpowered.addError 0x0104 0 mgmt noJob 0 noStep s.unpowered.clock.tick 0).tryStart.clock.tick = s.powerOnTick := by
    rw [tryStart_clock, addError_clock]; rfl
  have power : (s.unpowered.addError 0x0104 0 mgmt noJob 0 noStep s.unpowered.clock.tick 0).power = s.unpowered.power := addError_power ..
  refine ⟨_, exec_powerOnReset s, ?_, ?_, ?_, ?_, ?_, ?_, ?_, fun h => ?_, fun v h => ?_, fun h => ?_, fun h => ?_⟩
  · rw [tryStart_alive, power]; rfl
  · rw [tryStart_slots, addError_slots]; rfl
  · rw [tryStart_mem, addError_mem]; rfl
  · rw [tryStart_lcores, addError_lcores]; rfl
  · rw [tryStart_jobs, addError_jobs]; rfl
  · rw [tryStart_saving, power]; rfl
  · rw [tryStart_errors, addError_next]; rfl
  · rw [tick, State.powerOnTick, h]
  · rw [tick, State.powerOnTick, h]
  · refine tryStart_step_begins _ ((starting_iff _).2 ?_) (by rw [power]; rfl)
    rw [power]
    exact ⟨rfl, rfl, rfl, h, rfl, rfl⟩
  · rw [tryStart_step_waits, power]
    · rfl
    · intro start
      obtain ⟨-, -, -, hr, -⟩ := (starting_iff _).1 start
      rw [power] at hr
      exact absurd (h.symm.trans hr) (by decide)

/-- Settles O52, one lemma for each command that stops the device or lets it start. -/
theorem resetsStopTheDevice : Obligations.ResetsStopTheDevice :=
  ⟨fun s mv ha => ⟨sag_stops s mv ha, sag_waits s mv ha⟩,
    fun s ha hd => ⟨resetNAssert_stops s ha hd, fun hp hc => watchdog_stops s ha hd hp hc, fun _ hm => resetCommand_stops s hm ha hd⟩,
    fun s _ h2 h16 ha => resetCommand_declined s h2 h16 ha,
    fun s _ h => saveComplete_saves s h,
    fun s hw hs => ⟨fun ha => supplyQualified_starts s ha hw hs, holdUpBankEmpty_stops s hw hs⟩,
    resetNDeassert_starts, powerOnReset_starts⟩

end Sys2Proof.Machine
end

section
/-! PROOFS. Writes of wider values: held parts, the whole value, and what a write of 32 or 64 bits does (R12, R544, R550, R552). -/

namespace Sys2Proof.Machine

variable (s : State)

/-! ## The words of a wider value (R8) -/

/-- The number whose k words, lowest first, are w 0, w 1 and so on. -/
def wordsValue (w : Nat → Word) (k : Nat) : Nat := ((upto k).map (fun i => (w i).toNat * 2 ^ (32 * i))).sum

theorem wordsValue_succ (w : Nat → Word) (k : Nat) : wordsValue w (k + 1) = wordsValue w k + (w k).toNat * 2 ^ (32 * k) := by
  simp [wordsValue, upto, List.range_succ]

theorem wordsValue_lt (w : Nat → Word) (k : Nat) : wordsValue w k < 2 ^ (32 * k) := by
  induction k with
  | zero => simp [wordsValue, upto]
  | succ k ih =>
    calc wordsValue w (k + 1) = wordsValue w k + (w k).toNat * 2 ^ (32 * k) := wordsValue_succ w k
      _ < 2 ^ (32 * k) + (w k).toNat * 2 ^ (32 * k) := Nat.add_lt_add_right ih _
      _ = ((w k).toNat + 1) * 2 ^ (32 * k) := by rw [Nat.add_one_mul (w k).toNat, Nat.add_comm (2 ^ (32 * k))]
      _ ≤ 2 ^ 32 * 2 ^ (32 * k) := Nat.mul_le_mul_right _ (w k).isLt
      _ = 2 ^ (32 * (k + 1)) := by rw [← Nat.pow_add, Nat.mul_succ, Nat.add_comm 32]

/-- The word above k words is what stands above them. -/
theorem part_wordsValue_top (w : Nat → Word) (k x : Nat) : part (wordsValue w k + x * 2 ^ (32 * k)) k = BitVec.ofNat 32 x := by
  rw [part, Nat.add_mul_div_right _ _ (Nat.two_pow_pos _), Nat.div_eq_of_lt (wordsValue_lt w k), Nat.zero_add]

/-- Each of the k words reads back, whatever stands above them. -/
theorem part_wordsValue (w : Nat → Word) (k x : Nat) {i : Nat} (hi : i < k) : part (wordsValue w k + x * 2 ^ (32 * k)) i = w i := by
  induction k generalizing x with
  | zero => omega
  | succ k ih =>
    have shift : wordsValue w (k + 1) + x * 2 ^ (32 * (k + 1)) = wordsValue w k + ((w k).toNat + x * 2 ^ 32) * 2 ^ (32 * k) := by
      rw [wordsValue_succ, Nat.mul_succ, Nat.pow_add, Nat.add_mul, Nat.mul_assoc, Nat.mul_comm (2 ^ 32), Nat.add_assoc]
    rw [shift]
    obtain h | rfl := Nat.lt_succ_iff_lt_or_eq.1 hi
    · exact ih _ h
    · rw [part_wordsValue_top]
      apply BitVec.eq_of_toNat_eq
      rw [BitVec.toNat_ofNat, Nat.add_mul_mod_self_right, Nat.mod_eq_of_lt (w i).isLt]

/-! ## Held parts (R544) -/

/-- What a master holds depends on the masters alone. -/
theorem heldParts_congr {s t : State} (h : t.masters = s.masters) (m idx lo : Nat) : t.heldParts m idx lo = s.heldParts m idx lo := by
  simp [State.heldParts, State.master, h]

theorem master_holdPart_other {m n : Nat} (h : n ≠ m) (idx sub : Nat) (f : Field) (v : Word) :
    (s.holdPart m idx sub f v).master n = s.master n := master_setMaster_other s m n _ h

theorem heldParts_holdPart (m idx sub : Nat) (f : Field) (v : Word) :
    (s.holdPart m idx sub f v).heldParts m idx f.lo = (sub, v) :: (s.heldParts m idx f.lo).filter (fun p => p.1 ≠ sub) := by
  simp [State.heldParts, State.holdPart]

theorem find?_heldParts_holdPart_same (m idx sub : Nat) (f : Field) (v : Word) :
    ((s.holdPart m idx sub f v).heldParts m idx f.lo).find? (fun p => p.1 = sub) = some (sub, v) := by
  simp [heldParts_holdPart]

theorem find?_heldParts_holdPart_other (m idx sub : Nat) (f : Field) (v : Word) {n : Nat} (h : n ≠ sub) :
    ((s.holdPart m idx sub f v).heldParts m idx f.lo).find? (fun p => p.1 = n) =
      (s.heldParts m idx f.lo).find? (fun p => p.1 = n) := by
  rw [heldParts_holdPart, List.find?_cons_of_neg (by simpa using h.symm), List.find?_filter]
  congr 1
  funext p
  by_cases hp : p.1 = n <;> simp [hp, h]

theorem holdPart_sameWork (m idx sub : Nat) (f : Field) (v : Word) : s.sameWork (s.holdPart m idx sub f v) :=
  ⟨rfl, rfl, rfl, rfl, rfl, rfl, rfl⟩

theorem sget_of_not_listed {α : Type} (d : Nat → α) (l : Sparse α) {n : Nat} (h : n ∉ l.map Prod.fst) : sget d l n = d n := by
  induction l with
  | nil => rfl
  | cons p t ih =>
    obtain ⟨k, v⟩ := p
    simp only [List.map_cons, List.mem_cons, not_or] at h
    rw [sget, if_neg (Ne.symm h.1), ih h.2]

theorem heldParts_setMaster_without (m idx lo : Nat) (x : Master) :
    (s.setMaster m { x with held := withoutValue x.held idx lo }).heldParts m idx lo = [] := by
  have none_left : (withoutValue x.held idx lo).find? (fun w => w.index = idx && w.sub = lo) = none := by
    rw [List.find?_eq_none]
    intro w hw
    have other := (List.mem_filter.1 hw).2
    rw [Bool.not_eq_true'] at other
    rw [other]
    decide
  simp only [State.heldParts, master_setMaster_same, none_left]

theorem heldParts_setMaster_other {m n : Nat} (h : n ≠ m) (idx lo : Nat) (x : Master) :
    (s.setMaster m x).heldParts n idx lo = s.heldParts n idx lo := by
  simp [State.heldParts, h]

/-- Going through a list of masters clears the value's parts of all that hold some, if the others hold none. -/
theorem heldParts_foldl_without (idx lo : Nat) (l : Sparse Master) (t : State)
    (h : ∀ n, n ∈ l.map Prod.fst ∨ t.heldParts n idx lo = []) (n : Nat) :
    (l.foldl (fun (t : State) p => t.setMaster p.1 { p.2 with held := withoutValue p.2.held idx lo }) t).heldParts n idx lo = [] := by
  induction l generalizing t with
  | nil => simpa using h n
  | cons p l ih =>
    refine ih _ fun n => ?_
    by_cases e : n = p.1
    · subst e
      exact .inr (heldParts_setMaster_without ..)
    · obtain hn | hn := h n
      · exact .inl ((List.mem_cons.1 hn).resolve_left e)
      · exact .inr ((heldParts_setMaster_other t e idx lo _).trans hn)

/-- No master holds a part of a value that has taken effect. -/
theorem heldParts_dropParts (idx lo n : Nat) : (s.dropParts idx lo).heldParts n idx lo = [] := by
  refine heldParts_foldl_without idx lo s.masters s (fun n => ?_) n
  by_cases h : n ∈ s.masters.map Prod.fst
  · exact .inl h
  · right
    rw [State.heldParts, State.master, sget_of_not_listed _ _ h]
    rfl

/-! ## The whole value (R544) -/

/-- Word i of a value as a write to its highest sub-index finds it: the master's held part, else the present one. -/
def State.heldOrNow (s : State) (m idx : Nat) (f : Field) (i : Nat) : Word :=
  (((s.heldParts m idx f.lo).find? (fun p => p.1 = f.lo + i)).map (fun p => p.2)).getD (part (s.value m idx f) i)

theorem wholeValue_eq (m idx : Nat) (f : Field) (v : Word) :
    s.wholeValue m idx f v = wordsValue (s.heldOrNow m idx f) (f.n - 1) + v.toNat * 2 ^ (32 * (f.n - 1)) := by
  have word (i : Nat) : (match (s.heldParts m idx f.lo).find? (fun p => p.1 = f.lo + i) with
      | some p => p.2
      | none => part (s.value m idx f) i) = s.heldOrNow m idx f i := by
    unfold State.heldOrNow
    cases (s.heldParts m idx f.lo).find? (fun p => p.1 = f.lo + i) <;> rfl
  simp only [wordsValue, ← word]
  rfl

theorem part_wholeValue_top (m idx : Nat) (f : Field) (v : Word) : part (s.wholeValue m idx f v) (f.n - 1) = v := by
  rw [wholeValue_eq, part_wordsValue_top, BitVec.ofNat_toNat, BitVec.setWidth_eq]

theorem part_wholeValue (m idx : Nat) (f : Field) (v : Word) {i : Nat} (hi : i < f.n - 1) :
    part (s.wholeValue m idx f v) i = s.heldOrNow m idx f i := by
  rw [wholeValue_eq, part_wordsValue _ _ _ hi]

/-- The two words of a 64-bit write, the lower one held, are the value written. -/
theorem wholeValue_holdPart_pair (m idx : Nat) {f : Field} (hn : f.n = 2) (v : DWord) :
    (s.holdPart m idx f.lo f (v.setWidth 32)).wholeValue m idx f ((v >>> 32).setWidth 32) = v.toNat := by
  have low : (s.holdPart m idx f.lo f (v.setWidth 32)).heldOrNow m idx f 0 = v.setWidth 32 := by
    rw [State.heldOrNow, Nat.add_zero, find?_heldParts_holdPart_same]
    rfl
  rw [wholeValue_eq, hn, wordsValue_succ, low]
  have : wordsValue ((s.holdPart m idx f.lo f (v.setWidth 32)).heldOrNow m idx f) 0 = 0 := rfl
  rw [this]
  simp only [BitVec.toNat_setWidth, BitVec.toNat_ushiftRight, Nat.shiftRight_eq_div_pow]
  have := v.isLt
  omega

/-! ## What a write does (R12, R542, R544, R552) -/

/-- The conditions of `hears` by name. -/
theorem hears_iff (m idx : Nat) :
    s.hears m idx = true ↔ m ≤ 16 ∧ reaches m idx = true ∧ s.serves idx = true ∧ s.power.alive = true := by
  simp [State.hears, masterOk, and_assoc]

theorem writeRule_unreached {m idx : Nat} (sub : Nat) (v : Word) (hr : reaches m idx = false) : writeRule m idx sub v s = (s, 2) := by
  simp [writeRule, hr]

theorem writeRule_absent {m idx sub : Nat} (v : Word) (hr : reaches m idx = true) (ho : 1 < m → idx ≠ ctxObj (m - 1) 0)
    (h : s.serves idx = false ∨ fieldAt idx sub = none) : writeRule m idx sub v s = (s, 1) := by
  have own : ¬ (1 < m ∧ idx = ctxObj (m - 1) 0) := fun h => ho h.1 h.2
  by_cases hs : s.serves idx = true
  · have hf : fieldAt idx sub = none := h.resolve_left (by simp [hs])
    simp [writeRule, hr, own, hs, hf]
  · simp [writeRule, hr, own, hs]

/-- A write that reaches a sub-entry of field f: refused, held, or the write of the whole value. -/
theorem writeRule_field {m idx sub : Nat} {f : Field} (v : Word) (hr : reaches m idx = true) (ho : 1 < m → idx ≠ ctxObj (m - 1) 0)
    (hs : s.serves idx = true) (hf : fieldAt idx sub = some f) :
    writeRule m idx sub v s = if f.acc = 0 then (s, 3) else if sub < f.lo + f.n - 1 then (s.holdPart m idx sub f v, 0)
      else writeWhole m idx f (s.wholeValue m idx f v) s := by
  have own : ¬ (1 < m ∧ idx = ctxObj (m - 1) 0) := fun h => ho h.1 h.2
  simp [writeRule, hr, own, hs, hf]

theorem writeWhole_reserved {m idx : Nat} {f : Field} {v : Nat} (h : v &&& f.rsv ≠ 0) : writeWhole m idx f v s = (s, 4) := by
  simp [writeWhole, h]

/-- A whole value that its rule takes: the rule's effect, and of a wider value all held parts are discarded. -/
theorem writeWhole_taken {m idx : Nat} {f : Field} {v : Nat} (h0 : v &&& f.rsv = 0) (hi : idx ≠ 2 ∨ f.lo ≠ 5)
    (hr : (ruleOf m idx f v s).2 = 0) :
    writeWhole m idx f v s = (if f.n = 1 then (ruleOf m idx f v s).1 else (ruleOf m idx f v s).1.dropParts idx f.lo, 0) := by
  have start : ¬ (idx = 2 ∧ f.lo = 5) := fun h => hi.elim (fun hidx => hidx h.1) (fun hlo => hlo h.2)
  by_cases hn : f.n = 1
  · simp [writeWhole, h0, start, hn, ← hr]
  · simp [writeWhole, h0, start, hr, hn]

/-! ## WRITE_32 and WRITE_64 (R550) -/

theorem perform_eq {m : Nat} {f : State → State × WAnswer} (ha : s.power.alive = true) : s.perform m f = (f s).1.give m (f s).2 := by
  simp [State.perform, ha]

theorem exec_write32 {m : Nat} (hm : m ≤ 16) (ha : s.power.alive = true) (idx sub : Nat) (v : Word) :
    exec (.write32 m idx sub v) s = .next (((writeRule m idx sub v s).1.noteApplied m idx sub v (writeRule m idx sub v s).2
      (commandAt idx sub)).give m (answerOf 3 idx sub (writeRule m idx sub v s).2 0)) := by
  show onUnit (masterOk m) (s.perform m (fun t => t.writeOp m idx sub (v.setWidth 64) false)) = _
  rw [onUnit_masterOk hm, perform_eq s ha]
  simp [State.writeOp]

theorem write32_obeyed {m idx sub : Nat} {v : Word} {u : State} (hm : m ≤ 16) (ha : s.power.alive = true)
    (h : writeRule m idx sub v s = (u, 0)) : ∃ t, exec (.write32 m idx sub v) s = .next t ∧ u.obeyed t m 3 idx sub := by
  refine ⟨_, exec_write32 s hm ha idx sub v, ?_⟩
  rw [h]
  exact obeyed_give rfl ..

theorem write32_declined {m idx sub r : Nat} {v : Word} (hm : m ≤ 16) (ha : s.power.alive = true)
    (h : writeRule m idx sub v s = (s, r)) : ∃ t, exec (.write32 m idx sub v) s = .next t ∧ s.declined t m 3 idx sub r := by
  refine ⟨_, exec_write32 s hm ha idx sub v, ?_⟩
  rw [h]
  exact declined_give rfl ..

theorem exec_write64 {m : Nat} (hm : m ≤ 16) (ha : s.power.alive = true) (idx sub : Nat) (v : DWord) {u : State} {r : Nat}
    (h : writeRule64 m idx sub v s = (u, r)) :
    exec (.write64 m idx sub v) s = .next (((u.noteApplied m idx sub (v.setWidth 32) r (commandAt idx sub)).noteApplied m idx (sub + 1)
      ((v >>> 32).setWidth 32) r (commandAt idx (sub + 1))).give m (answerOf 4 idx sub r 0)) := by
  show onUnit (masterOk m) (s.perform m (fun t => t.writeOp m idx sub v true)) = _
  rw [onUnit_masterOk hm, perform_eq s ha]
  simp [State.writeOp, h]

/-- A 64-bit write to a value of two sub-indices holds the lower word and writes the whole value at once. -/
theorem writeRule64_field {m idx sub : Nat} {f : Field} (v : DWord) (hr : reaches m idx = true) (ho : 1 < m → idx ≠ ctxObj (m - 1) 0)
    (hs : s.serves idx = true) (hf : fieldAt idx sub = some f) (hf' : fieldAt idx (sub + 1) = some f) (hacc : f.acc ≠ 0)
    (hlo : f.lo = sub) (hn : f.n = 2) {u : State} {r : Nat}
    (h : writeWhole m idx f v.toNat (s.holdPart m idx sub f (v.setWidth 32)) = (u, r)) :
    writeRule64 m idx sub v s = if r = 0 then (u, 0) else (s, r) := by
  have lower : writeRule m idx sub (v.setWidth 32) s = (s.holdPart m idx sub f (v.setWidth 32), 0) := by
    rw [writeRule_field s _ hr ho hs hf, if_neg hacc, if_pos (by omega)]
  have upper : writeRule m idx (sub + 1) ((v >>> 32).setWidth 32) (s.holdPart m idx sub f (v.setWidth 32)) = (u, r) := by
    subst hlo
    rw [writeRule_field _ _ hr ho (show (s.holdPart ..).serves idx = true from hs) hf', if_neg hacc, if_neg (by omega), wholeValue_holdPart_pair s m idx hn, h]
  by_cases h0 : r = 0
  · simp [writeRule64, lower, upper, h0]
  · simp [writeRule64, lower, upper, h0]

/-! ## What WRITE_32, WRITE_64 and a BAR0 write leave behind (R12, R544, R545, R552) -/

theorem barWrite_acts_as_write32 {m offset : Nat} (v : DWord) (hm : m ≤ 16) (ha : s.power.alive = true) (h4 : offset % 4 = 0) :
    exec (.write32 m (offset / 1024) (offset % 1024 / 4) (v.setWidth 32)) s = .next (s.barAccess m true offset 4 v) := by
  rw [exec_write32 s hm ha]
  simp [State.barAccess, State.writeOp, h4]

/-- A write to a lower sub-index holds its part and changes nothing else. -/
theorem write32_holds {m idx sub : Nat} (v : Word) {f : Field} (hh : s.hears m idx = true) (ho : 1 < m → idx ≠ ctxObj (m - 1) 0)
    (hf : fieldAt idx sub = some f) (hacc : f.acc ≠ 0) (hsub : sub < f.lo + f.n - 1) :
    ∃ t, exec (.write32 m idx sub v) s = .next t ∧ (s.holdPart m idx sub f v).obeyed t m 3 idx sub ∧
      t.masters = (s.holdPart m idx sub f v).masters ∧ t.dict = s.dict ∧ s.sameWork t ∧
      (t.heldParts m idx f.lo).find? (fun p => p.1 = sub) = some (sub, v) ∧
      (∀ n, n ≠ sub → (t.heldParts m idx f.lo).find? (fun p => p.1 = n) = (s.heldParts m idx f.lo).find? (fun p => p.1 = n)) ∧
      (∀ n, n ≠ m → t.master n = s.master n) := by
  obtain ⟨hm, hr, hs, ha⟩ := (hears_iff s m idx).1 hh
  have rule : writeRule m idx sub v s = (s.holdPart m idx sub f v, 0) := by
    rw [writeRule_field s v hr ho hs hf, if_neg hacc, if_pos hsub]
  obtain ⟨t, exec, ob⟩ := write32_obeyed s hm ha rule
  have parts := heldParts_congr ob.masters m idx f.lo
  refine ⟨t, exec, ob, ob.masters, ob.dict, ob.sameWork (holdPart_sameWork ..), ?_, fun n hn => ?_, fun n hn => ?_⟩
  · rw [parts, find?_heldParts_holdPart_same]
  · rw [parts, find?_heldParts_holdPart_other _ _ _ _ _ _ hn]
  · rw [State.master, ob.masters]
    exact master_holdPart_other s hn idx sub f v

/-- A write to the highest sub-index whose whole value is taken has the rule's effect, and ends every held part of the value. -/
theorem write32_takes_whole {m idx sub : Nat} (v : Word) {f : Field} (hh : s.hears m idx = true)
    (ho : 1 < m → idx ≠ ctxObj (m - 1) 0) (hf : fieldAt idx sub = some f) (hacc : f.acc ≠ 0) (hsub : sub = f.lo + f.n - 1)
    (h0 : s.wholeValue m idx f v &&& f.rsv = 0) (hi : idx ≠ 2 ∨ f.lo ≠ 5) (hrule : (ruleOf m idx f (s.wholeValue m idx f v) s).2 = 0) :
    ∃ t, exec (.write32 m idx sub v) s = .next t ∧
      (f.n = 1 → (ruleOf m idx f (s.wholeValue m idx f v) s).1.obeyed t m 3 idx sub) ∧
      (f.n ≠ 1 → ((ruleOf m idx f (s.wholeValue m idx f v) s).1.dropParts idx f.lo).obeyed t m 3 idx sub ∧
        ∀ n, t.heldParts n idx f.lo = []) := by
  obtain ⟨hm, hr, hs, ha⟩ := (hears_iff s m idx).1 hh
  have rule := writeRule_field s v hr ho hs hf
  rw [if_neg hacc, if_neg (by omega), writeWhole_taken s h0 hi hrule] at rule
  obtain ⟨t, exec, ob⟩ := write32_obeyed s hm ha rule
  refine ⟨t, exec, fun hn => ?_, fun hn => ?_⟩
  · rwa [if_pos hn] at ob
  · rw [if_neg hn] at ob
    exact ⟨ob, fun n => (heldParts_congr ob.masters n idx f.lo).trans (heldParts_dropParts ..)⟩

/-- A refused write of one sub-entry: read-only, or with a reserved field of the whole value that is not 0. -/
theorem write32_refused {m idx sub : Nat} (v : Word) {f : Field} (hh : s.hears m idx = true) (ho : 1 < m → idx ≠ ctxObj (m - 1) 0)
    (hf : fieldAt idx sub = some f) :
    (f.acc = 0 → ∃ t, exec (.write32 m idx sub v) s = .next t ∧ s.declined t m 3 idx sub 3) ∧
    (f.acc ≠ 0 → sub = f.lo + f.n - 1 → s.wholeValue m idx f v &&& f.rsv ≠ 0 →
      ∃ t, exec (.write32 m idx sub v) s = .next t ∧ s.declined t m 3 idx sub 4) := by
  obtain ⟨hm, hr, hs, ha⟩ := (hears_iff s m idx).1 hh
  have rule := writeRule_field s v hr ho hs hf
  refine ⟨fun hacc => write32_declined s hm ha ?_, fun hacc hsub hrsv => write32_declined s hm ha ?_⟩
  · rw [rule, if_pos hacc]
  · rw [rule, if_neg hacc, if_neg (by omega), writeWhole_reserved s hrsv]

theorem write64_refused {m idx sub : Nat} (v : DWord) {f : Field} (hh : s.hears m idx = true) (ho : 1 < m → idx ≠ ctxObj (m - 1) 0)
    (hf : fieldAt idx sub = some f) (hf' : fieldAt idx (sub + 1) = some f) (hacc : f.acc ≠ 0) (hlo : f.lo = sub) (hn : f.n = 2)
    (h : v.toNat &&& f.rsv ≠ 0) : ∃ t, exec (.write64 m idx sub v) s = .next t ∧ s.declined t m 4 idx sub 4 := by
  obtain ⟨hm, hr, hs, ha⟩ := (hears_iff s m idx).1 hh
  have rule : writeRule64 m idx sub v s = (s, 4) :=
    writeRule64_field s v hr ho hs hf hf' hacc hlo hn (writeWhole_reserved _ h)
  exact ⟨_, exec_write64 s hm ha idx sub v rule, declined_give rfl ..⟩

theorem write64_takes_whole {m idx sub : Nat} (v : DWord) {f : Field} (hh : s.hears m idx = true)
    (ho : 1 < m → idx ≠ ctxObj (m - 1) 0) (hf : fieldAt idx sub = some f) (hf' : fieldAt idx (sub + 1) = some f) (hacc : f.acc ≠ 0)
    (hlo : f.lo = sub) (hn : f.n = 2) (h0 : v.toNat &&& f.rsv = 0) (hi : idx ≠ 2 ∨ f.lo ≠ 5)
    (hrule : (ruleOf m idx f v.toNat (s.holdPart m idx sub f (v.setWidth 32))).2 = 0) :
    ∃ t, exec (.write64 m idx sub v) s = .next t ∧
      ((ruleOf m idx f v.toNat (s.holdPart m idx sub f (v.setWidth 32))).1.dropParts idx f.lo).obeyed t m 4 idx sub := by
  obtain ⟨hm, hr, hs, ha⟩ := (hears_iff s m idx).1 hh
  have whole := writeWhole_taken _ h0 hi hrule
  rw [if_neg (by omega)] at whole
  exact ⟨_, exec_write64 s hm ha idx sub v (writeRule64_field s v hr ho hs hf hf' hacc hlo hn whole), obeyed_give rfl ..⟩

/-- Settles O56: REGISTER_WRITE and BAR0 act as WRITE_32, and each write is refused, held, or takes the whole value. -/
theorem writesTakeEffectWhole : Obligations.WritesTakeEffectWhole := by
  refine ⟨fun s m idx sub v => rfl, fun s m offset v hm ha h4 => barWrite_acts_as_write32 s v hm ha h4,
    fun s m idx sub v f hh ho hf => ?_, fun s m idx f v _ => ⟨part_wholeValue_top s m idx f v, fun i hi => part_wholeValue s m idx f v hi⟩,
    fun s m idx sub v f hh ho hf hf' hacc hlo hn => ?_, fun s m idx sub v hm ha => ?_⟩
  · obtain ⟨readOnly, reserved⟩ := write32_refused s v hh ho hf
    exact ⟨readOnly, write32_holds s v hh ho hf, reserved, write32_takes_whole s v hh ho hf⟩
  · exact ⟨write64_refused s v hh ho hf hf' hacc hlo hn, write64_takes_whole s v hh ho hf hf' hacc hlo hn⟩
  · exact ⟨fun hr => write32_declined s hm ha (writeRule_unreached s sub v hr),
      fun hr ho h => write32_declined s hm ha (writeRule_absent s v hr ho h)⟩

end Sys2Proof.Machine
end

section
/-! PROOFS. Requests of other devices: what each does to device memory, and what it is answered (R245, R250, R253, R303, R410). -/

namespace Sys2Proof.Machine

/-! ## What routes rest on (R365 to R368) -/

/-- Two fabrics with the same own coordinate, extents and link records: what routes rest on (R365 to R368). -/
structure Fabric.SameMap (f g : Fabric) : Prop where
  coord : g.coord = f.coord
  extents : g.extents = f.extents
  records : g.records = f.records

namespace Fabric.SameMap

variable {f g : Fabric} (h : f.SameMap g)
include h

theorem extent : g.extent = f.extent := by
  funext i
  simp [Fabric.extent, h.extents]

theorem link : g.link = f.link := by
  funext c p
  simp [Fabric.link, Fabric.end_, Fabric.record, h.records]

theorem present : g.present = f.present := by
  funext c
  simp [Fabric.present, h.link, h.coord]

theorem minus : g.minus = f.minus := by
  funext a b i j
  simp [Fabric.minus, h.extent]

theorem dimHops (b i : Nat) (m : Bool) (n c : Nat) : g.dimHops b i m n c = f.dimHops b i m n c := by
  induction n generalizing c with
  | zero => rfl
  | succ n ih => simp [Fabric.dimHops, h.extent, ih]

theorem first : g.first = f.first := by
  funext a b
  simp [Fabric.first, Fabric.path, h.link, h.minus, h.dimHops]

theorem dirs : g.dirs = f.dirs := by
  funext a b j
  simp [Fabric.dirs, h.minus]

theorem distance : g.distance = f.distance := by
  funext a b
  simp [Fabric.distance, h.extent]

theorem route : g.route = f.route := by
  funext a d
  simp [Fabric.route, h.first, h.dirs, h.distance, h.present, h.records]

end Fabric.SameMap

/-- A packet is formed from the torus map and its own fields alone. -/
theorem packet_congr {s t : State} (h : s.fabric.SameMap t.fabric) : t.packet = s.packet := by
  have coord : t.coord = s.coord := by simp [State.coord, h.coord]
  funext ty dest k tag addr arg data
  simp [State.packet, coord, h.route]

/-! ## Runs of bytes as single bytes -/

theorem foldl_putByte_zipIdx (m : Sparse Byte) (a i : Nat) (bs : List Byte) :
    ((bs.zipIdx i).map (fun p => (a + p.2, p.1))).foldl (fun m p => putByte m p.1 p.2) m = putBytes m (a + i) bs := by
  induction bs generalizing m i with
  | nil => rfl
  | cons b t ih => simpa [putBytes, Nat.add_assoc] using ih (putByte m (a + i) b) (i + 1)

/-- Writing the runs of a list of bytes is writing its bytes one after another. -/
theorem foldl_putBytes_runs (l : List (Nat × Byte)) (m : Sparse Byte) :
    (runs l).foldl (fun m q => putBytes m q.1 q.2) m = l.foldl (fun m q => putByte m q.1 q.2) m := by
  induction l generalizing m with
  | nil => rfl
  | cons p t ih =>
    obtain ⟨a, b⟩ := p
    rw [List.foldl_cons, ← ih, runs]
    split
    · split
      · rename_i h next
        simp [h, next, putBytes]
      · rename_i h _
        simp [h, putBytes]
    · rename_i h
      simp [h, putBytes]

theorem foldl_devWrite_mem (l : List (Nat × List Byte)) (s : State) :
    (l.foldl (fun (t : State) p => t.devWrite p.1 p.2) s).mem = l.foldl (fun m p => putBytes m p.1 p.2) s.mem := by
  induction l generalizing s with
  | nil => rfl
  | cons p t ih => rw [List.foldl_cons, ih, devWrite_mem, List.foldl_cons]

/-! ## Rank views -/

/-- Every address of held rank r of context k is the device's own: the device holds one rank (R446). -/
def State.plain (s : State) (k r : Nat) : Prop := ∀ b, s.view k r b = some b

/-- What a rank view rests on: the jobs with their pages, and the partitions of the dictionary (R446, R510). -/
def State.mapping (s : State) : Sparse (Option Job) × Sparse Word := (s.jobs, s.dict)

theorem view_congr {s t : State} (h : t.mapping = s.mapping) (k r a : Nat) : t.view k r a = s.view k r a := by
  obtain ⟨hj, hd⟩ : t.jobs = s.jobs ∧ t.dict = s.dict := by simpa [State.mapping] using h
  simp [State.view, State.job, State.partition, State.reg64, State.reg, hj, hd]

theorem send_mapping (s : State) (q : Packet) (b : Bool) : (s.send q b).mapping = s.mapping := rfl
theorem setLcore_mapping (s : State) (i : Nat) (v : Option LCore) : (s.setLcore i v).mapping = s.mapping := rfl
theorem setCtl_mapping (s : State) (i : Nat) (v : Controller) : (s.setCtl i v).mapping = s.mapping := rfl

theorem advance_mapping (s : State) (gs : List Nat) : (s.advance gs).mapping = s.mapping := by
  unfold State.advance
  rw [foldl_frame State.mapping _ (fun u w => send_mapping ..)]
  refine foldl_frame State.mapping _ (fun u p => ?_) s.lcores s
  split
  · split
    · rfl
    · exact setLcore_mapping ..
  · rfl

theorem fillRepairs_mapping (s : State) (a n : Nat) : (s.fillRepairs a n).mapping = s.mapping := by
  refine foldl_frame State.mapping _ (fun u p => ?_) s.ctls s
  split
  · exact setCtl_mapping ..
  · rfl

theorem devWrite_mapping (s : State) (a : Nat) (bs : List Byte) : (s.devWrite a bs).mapping = s.mapping :=
  (advance_mapping ..).trans (fillRepairs_mapping ..)

theorem view_rankWrite (s : State) (k r a : Nat) (bs : List Byte) (k' r' b : Nat) :
    (s.rankWrite k r a bs).view k' r' b = s.view k' r' b :=
  view_congr (foldl_frame State.mapping _ (fun _ _ => devWrite_mapping ..) _ s) k' r' b

theorem plain_useMemory {s : State} {k r : Nat} (h : ∀ b, s.view k r b = some b) : s.useMemory.plain k r :=
  fun b => (view_congr (s := s) rfl k r b).trans (h b)

theorem viewAll_plain {s : State} {k r : Nat} (h : s.plain k r) (bs : List (Nat × Byte)) : s.viewAll k r bs = bs := by
  simp [State.viewAll, h _]

theorem rdDev_plain {s : State} {k r : Nat} (h : s.plain k r) : s.rdDev k r = getByte s.mem := by
  funext a
  simp [State.rdDev, h a]

/-- With one rank held, a rank's write stores its bytes at its address and no other (R446). -/
theorem rankWrite_mem {s : State} {k r : Nat} (h : s.plain k r) (a : Nat) (bs : List Byte) :
    (s.rankWrite k r a bs).mem = putBytes s.mem a bs := by
  rw [State.rankWrite, viewAll_plain h, foldl_devWrite_mem, foldl_putBytes_runs]
  exact foldl_putByte_zipIdx s.mem a 0 bs

theorem foldl_rankWrite_mem {k r : Nat} (l : List (Nat × List Byte)) {s : State} (h : s.plain k r) :
    (l.foldl (fun (t : State) q => t.rankWrite k r q.1 q.2) s).mem = l.foldl (fun m q => putBytes m q.1 q.2) s.mem := by
  induction l generalizing s with
  | nil => rfl
  | cons q t ih =>
    have plain : (s.rankWrite k r q.1 q.2).plain k r := fun b => (view_rankWrite ..).trans (h b)
    rw [List.foldl_cons, ih plain, rankWrite_mem h, List.foldl_cons]

/-! ## How a request is served (R303, R341, R571) -/

variable {s : State} {p : Packet}

theorem inbound_arrives {ty : Nat} (h : s.arrives ty p = true) (f : State → State) : s.inbound ty p f = f s := by
  simp only [State.arrives, Bool.and_eq_true, decide_eq_true_eq] at h
  obtain ⟨⟨hty, hdest⟩, hgood⟩ := h
  simp [State.inbound, hty, hdest, hgood]

theorem atMemory_active (h : s.memoryActive = true) (f : State → State) : s.atMemory f = f s.useMemory := by
  simp only [State.memoryActive, decide_eq_true_eq] at h
  simp [State.atMemory, h]

/-- The memory group's timer is no part of what a range check or a repair entry rests on. -/
theorem lostGranule_useMemory (k r a n : Nat) : s.useMemory.lostGranule k r a n = s.lostGranule k r a n := rfl

theorem serve_readable {a n : Nat} (hm : s.memoryActive = true) (hok : s.localOk p.context (s.rankFor p) a (a + n) = true)
    (hl : s.lostGranule p.context (s.rankFor p) a n = none) (f : Nat → State → State) :
    s.serve p a n true f = f (s.rankFor p) s.useMemory := by
  simp [State.serve, hok, atMemory_active hm, lostGranule_useMemory, hl]

theorem serve_written {a n : Nat} (hm : s.memoryActive = true) (hok : s.localOk p.context (s.rankFor p) a (a + n) = true)
    (f : Nat → State → State) : s.serve p a n false f = f (s.rankFor p) s.useMemory := by
  simp [State.serve, hok, atMemory_active hm]

theorem serve_refused {a n : Nat} (hok : s.localOk p.context (s.rankFor p) a (a + n) = false) (reads : Bool) (f : Nat → State → State) :
    s.serve p a n reads f = s.sendError p.context p.src p.tag 0x10 0 := by
  simp [State.serve, hok]

/-! ## Each request -/

theorem exec_read (h : s.arrives 0x01 p = true) :
    exec (.read p) s = .next (s.serve p p.addr.toNat (64 * bits p.arg 4 0) true (fun r u =>
      u.sendData p.context p.src p.tag (u.rankBytes p.context r p.addr.toNat (64 * bits p.arg 4 0)))) :=
  congrArg Host.Outcome.next (inbound_arrives h _)

theorem exec_write (h : s.arrives 0x02 p = true) :
    exec (.write p) s = .next (s.serve p p.addr.toNat p.data.length false (fun r u =>
      (u.rankWrite p.context r p.addr.toNat p.data).complete p)) :=
  congrArg Host.Outcome.next (inbound_arrives h _)

theorem exec_partialWrite (h : s.arrives 0x03 p = true) :
    exec (.partialWrite p) s = .next (s.serve p (p.addr.toNat / 64 * 64) 64 true (fun r u =>
      (u.rankWrite p.context r (p.addr.toNat / 64 * 64)
        (maskBytes (u.rankBytes p.context r (p.addr.toNat / 64 * 64) 64) p.data p.arg.toNat)).complete p)) :=
  congrArg Host.Outcome.next (inbound_arrives h _)

theorem exec_versionPush (h : s.arrives 0x25 p = true) :
    exec (.versionPush p) s = .next (s.serve p p.addr.toNat p.data.length false (fun r u =>
      (u.rankWrite p.context r p.addr.toNat p.data).complete p)) :=
  congrArg Host.Outcome.next (inbound_arrives h _)

theorem exec_broadcastDelivery_low (h : s.arrives 0x05 p = true) (ha : p.addr.toNat < coreBase) :
    exec (.broadcastDelivery p) s = .next (s.serve p p.addr.toNat p.data.length false (fun r u =>
      (u.rankWrite p.context r p.addr.toNat p.data).complete p)) :=
  (congrArg Host.Outcome.next (inbound_arrives h _)).trans (by simp [ha])

/-- A broadcast into a core window lands in the data SRAM of the member core that it names (R50, R268). -/
theorem broadcastDelivery_window {x : LCore} (h : s.arrives 0x05 p = true) (ha : coreBase ≤ p.addr.toNat)
    (hx : s.lcore (lkey p.context (s.rankFor p) ((p.addr.toNat - coreBase) / 0x100000)) = some x)
    (hfit : (p.addr.toNat - coreBase) % 0x100000 + p.data.length ≤ x.footprint) :
    exec (.broadcastDelivery p) s =
      .next ((s.setLcore (lkey p.context (s.rankFor p) ((p.addr.toNat - coreBase) / 0x100000))
        (some { x with sram := putBytes x.sram ((p.addr.toNat - coreBase) % 0x100000) p.data })).complete p) :=
  (congrArg Host.Outcome.next (inbound_arrives h _)).trans (by simp [Nat.not_lt.2 ha, hx, Nat.not_lt.2 hfit])

/-- The state after a scatter-add's elements are stored, before its completion (R250). -/
def State.scattered (s : State) (p : Packet) (r fmt : Nat) (terms : List ScatterTerm) : State :=
  (runs ((scatterDesc fmt terms).byteWrites (scatterSums (s.rdDev p.context r) (scatterDesc fmt terms) p.arg terms))).foldl
    (fun (v : State) q => v.rankWrite p.context r q.1 q.2) s

/-- Bytes of a scatter-add's row, with its scale bytes in E2M1. -/
def scatterLength (fmt : Nat) (terms : List ScatterTerm) : Nat :=
  if fmt = 5 then (scatterDesc fmt terms).stop - (scatterDesc fmt terms).base else (scatterDesc fmt terms).rowBytes

theorem exec_scatterAdd (fmt : Nat) (terms : List ScatterTerm) (h : s.arrives 0x04 p = true) :
    exec (.scatterAdd p fmt terms) s = .next (s.serve p (scatterDesc fmt terms).base (scatterLength fmt terms) true (fun r u =>
      (u.scattered p r fmt terms).complete p)) :=
  congrArg Host.Outcome.next (inbound_arrives h _)

theorem scattered_mem {r : Nat} (fmt : Nat) (terms : List ScatterTerm) (h : s.plain p.context r) :
    (s.scattered p r fmt terms).mem = ((scatterDesc fmt terms).byteWrites
      (scatterSums (getByte s.mem) (scatterDesc fmt terms) p.arg terms)).foldl (fun m q => putByte m q.1 q.2) s.mem := by
  rw [State.scattered, foldl_rankWrite_mem _ h, foldl_putBytes_runs, rdDev_plain h]

/-- The watch that a request for n granules asks for (R253). -/
def State.watchOf (s : State) (p : Packet) : Watch :=
  { src := p.src, tag := p.tag, context := p.context
    granules := (s.viewGranules p.context (s.rankFor p) p.addr.toNat (64 * p.arg.toNat)).map (fun b => b / 64) }

/-- A watch is noted, and takes the place of an older one with its source and tag. -/
def State.withWatch (s : State) (p : Packet) : State :=
  { s with fabric := { s.fabric with
      watches := s.fabric.watches.filter (fun w => !(w.src = p.src && w.tag = p.tag)) ++ [s.watchOf p] } }

theorem exec_prefetchWatch (h : s.arrives 0x07 p = true) (hm : s.memoryActive = true)
    (hok : s.localOk p.context (s.rankFor p) p.addr.toNat (p.addr.toNat + 64 * p.arg.toNat) = true)
    (hw : s.fabric.watches.length < 4096) : exec (.prefetchWatch p) s = .next ((s.useMemory.withWatch p).complete p) := by
  have room : ¬ 4096 ≤ (s.fabric.watches.filter (fun w => !(w.src = p.src && w.tag = p.tag))).length :=
    Nat.not_le.2 (Nat.lt_of_le_of_lt (List.length_filter_le ..) hw)
  refine congrArg Host.Outcome.next ((inbound_arrives h _).trans ((serve_written hm hok _).trans ?_))
  exact if_neg room

theorem watchOf_useMemory (s : State) (p : Packet) : s.useMemory.watchOf p = s.watchOf p := rfl

/-- Noting a watch and completing its request changes the watches and sends one packet. -/
theorem withWatch_complete (s : State) (p : Packet) :
    ((s.withWatch p).complete p).mem = s.mem ∧ ((s.withWatch p).complete p).lcores = s.lcores ∧
      s.watchOf p ∈ ((s.withWatch p).complete p).fabric.watches ∧
      ((s.withWatch p).complete p).fabric.tx = s.fabric.tx ++ [s.packet 0x11 p.src p.context p.tag 0 1 []] := by
  refine ⟨rfl, rfl, List.mem_append_right _ (List.mem_singleton_self _), ?_⟩
  rw [← packet_congr (s := s) (t := s.withWatch p) ⟨rfl, rfl, rfl⟩]
  rfl

/-- A parameter gather of a shard that this device owns, within one copy slot and the owner's partition (R410). -/
theorem exec_parameterGather {j : Job} {d : Shard} (h : s.arrives 0x06 p = true) (hj : s.job p.context = some j)
    (hd : j.shards.find? (fun e => e.shard = field p.data 0 4 && j.owns e && e.copies = p.addr.toNat && field p.data 4 8 ≤ e.slotSize) = some d)
    (hok : s.localOk p.context d.owner (p.addr.toNat + p.arg.toNat % 4 * d.slotSize)
      (p.addr.toNat + p.arg.toNat % 4 * d.slotSize + field p.data 4 8) = true) :
    exec (.parameterGather p) s = .next (s.gatherFrom p p.context d.owner (p.addr.toNat + p.arg.toNat % 4 * d.slotSize)
      { src := p.src, tag := p.tag, shard := field p.data 0 4, version := p.arg, addr := p.addr.toNat, length := field p.data 4 8 }
      (d.service p.arg s.clock.tick = .serve)) :=
  (congrArg Host.Outcome.next (inbound_arrives h _)).trans (by simp [hj, hd, hok])

section

variable {k : Nat} {j : Job} {d : Shard} (g : Gather) (hj : s.job k = some j)
  (hown : j.shards.find? (fun e => e.shard = g.shard && j.owns e) = some d)
include hj hown

theorem gather_serves (h : d.service g.version s.clock.tick = .serve) :
    s.gather k g = s.sendData k g.src g.tag (s.versionBytes k d g.version g.addr g.length) := by
  simp [State.gather, hj, hown, h]

theorem gather_waits (h : d.service g.version s.clock.tick = .wait) :
    s.gather k g = s.setJob k (some { j with gathers := j.gathers ++ [g] }) := by
  simp [State.gather, hj, hown, h]

end

theorem gatherFrom_now {k r a : Nat} (p : Packet) (g : Gather) {now : Bool} (hm : s.memoryActive = true)
    (hl : s.lostGranule k r a g.length = none) (h : now = true) : s.gatherFrom p k r a g now = s.useMemory.gather k g := by
  simp [State.gatherFrom, h, atMemory_active hm, lostGranule_useMemory, hl]

theorem gatherFrom_later {k r a : Nat} (p : Packet) (g : Gather) {now : Bool} (h : now = false) :
    s.gatherFrom p k r a g now = s.gather k g := by
  simp [State.gatherFrom, h]

/-- Settles O40: each request by its own lemma, after what serving a request means. -/
theorem remoteRequestsAreServed : Obligations.RemoteRequestsAreServed := by
  refine ⟨?_, ?_, ?_, ?_, ?_⟩
  · rintro s p k r a n hm rfl rfl rfl
    refine ⟨?_, ?_, ?_, ?_, ?_, ?_, ?_⟩
    · rintro h rfl hok hl
      rw [exec_read h, serve_readable hm hok hl]
      rfl
    · intro h hok
      refine ⟨?_, fun plain => rankWrite_mem (plain_useMemory plain) ..⟩
      rw [exec_write h, serve_written hm hok]
    · intro h hok hl
      rw [exec_partialWrite h, serve_readable hm hok hl]
      rfl
    · intro h low hok
      rw [exec_broadcastDelivery_low h low, serve_written hm hok]
    · intro h hok
      rw [exec_versionPush h, serve_written hm hok]
    · intro h hok
      rw [exec_write h, serve_refused hok]
    · intro h hok
      rw [exec_read h, serve_refused hok]
  · rintro s p fmt terms d n hm h rfl rfl hok hl
    refine ⟨s.useMemory.scattered p (s.rankFor p) fmt terms, ?_, fun plain => scattered_mem fmt terms (plain_useMemory plain)⟩
    exact (exec_scatterAdd fmt terms h).trans (congrArg Host.Outcome.next (serve_readable hm hok hl _))
  · intro s p i o x h high hi ho hx hfit
    rw [hi] at hx ⊢
    rw [ho] at hfit ⊢
    exact broadcastDelivery_window h high hx hfit
  · rintro s p n hm h rfl hok hw
    obtain ⟨mem, lcores, watch, tx⟩ := withWatch_complete s.useMemory p
    rw [packet_congr (s := s) (t := s.useMemory) ⟨rfl, rfl, rfl⟩] at tx
    exact ⟨_, _, exec_prefetchWatch h hm hok hw, mem, lcores, watch, rfl, rfl, rfl, tx⟩
  · rintro s p j d v a n h hj rfl rfl hslot hown hok hv
    rw [exec_parameterGather h hj hslot hok]
    refine ⟨fun hc hr hm hl => ?_, fun hc => ?_⟩
    · have serve : d.service p.arg s.clock.tick = .serve := by simp [Shard.service, hv, hc, hr]
      rw [gatherFrom_now _ _ hm hl (by simp [serve]), gather_serves (s := s.useMemory) _ hj hown serve]
      rfl
    · have wait : d.service p.arg s.clock.tick = .wait := by simp [Shard.service, hv, hc]
      rw [gatherFrom_later _ _ (by simp [wait]), gather_waits _ hj hown wait]

end Sys2Proof.Machine
end

section
/-! PROOFS. Reads, describes and aggregate reads: values, latches, and what they leave as it is (R52, R540, R543, R550, R556). -/

namespace Sys2Proof.Machine

variable {s t u : State}

/-! ## What an answer and a read leave as they are -/

/-- Between s and t only what a read may touch has changed: masters' latches, the noted reads of the error log, the answers. -/
def State.onlyRead (s t : State) : Prop :=
  t = { s with
    errors := t.errors
    masters := t.masters
    serial := t.serial }

namespace State.onlyRead

theorem trans (h : s.onlyRead t) (g : t.onlyRead u) : s.onlyRead u := by
  unfold State.onlyRead at *
  rw [g, h]

theorem power (h : s.onlyRead t) : t.power = s.power := by rw [h]
theorem clock (h : s.onlyRead t) : t.clock = s.clock := by rw [h]
theorem dict (h : s.onlyRead t) : t.dict = s.dict := by rw [h]

theorem sameWork (h : s.onlyRead t) : s.sameWork t := by
  rw [h]
  exact ⟨rfl, rfl, rfl, rfl, rfl, rfl, rfl⟩

theorem sameFabric (h : s.onlyRead t) : s.sameFabric t := by
  rw [h]
  exact ⟨rfl, rfl⟩

theorem serves (h : s.onlyRead t) (idx : Nat) : t.serves idx = s.serves idx := by simp [State.serves, h.power]

end State.onlyRead

theorem noteRead_onlyRead (s : State) (idx : Nat) : s.onlyRead (s.noteRead idx) := by
  unfold State.noteRead
  split
  · split <;> rfl
  · rfl

theorem setLatch_onlyRead (s : State) (m : Nat) (l : Option Wide) : s.onlyRead (s.setLatch m l) := rfl

theorem filed_onlyRead (s : State) (m : Nat) (a : WAnswer) : s.onlyRead (s.filed m a) := rfl

theorem filed_masters (s : State) (m : Nat) (a : WAnswer) : (s.filed m a).masters = s.masters := rfl

theorem noteRead_masters (s : State) (idx : Nat) : (s.noteRead idx).masters = s.masters := by
  unfold State.noteRead
  split
  · split <;> rfl
  · rfl

theorem latched_congr (h : t.masters = s.masters) (m idx lo sub : Nat) : t.latched m idx lo sub = s.latched m idx lo sub := by
  simp [State.latched, State.master, h]

theorem latch_setLatch (s : State) (m : Nat) (l : Option Wide) : ((s.setLatch m l).master m).latch = l := by
  rw [State.setLatch, master_setMaster_same]

/-! ## One word (R543) -/

/-- The latch of a wider value: each of its words under its sub-index. -/
def latchOf (idx : Nat) (f : Field) (v : Nat) : Wide :=
  { index := idx, sub := f.lo, parts := (upto f.n).map (fun i => (f.lo + i, part v i)) }

theorem find?_latchOf (idx : Nat) (f : Field) (v : Nat) {i : Nat} (hi : i < f.n) :
    (latchOf idx f v).parts.find? (fun p => p.1 = f.lo + i) = some (f.lo + i, part v i) := by
  have here : ((fun p : Nat × Word => decide (p.1 = f.lo + i)) ∘ fun j => (f.lo + j, part v j)) = fun j => decide (j = i) := by
    funext j
    simp
  have first : (upto f.n).find? (fun j => decide (j = i)) = some i :=
    List.find?_range_eq_some.2 ⟨by simp, by simpa using hi, fun j hj => by simpa using Nat.ne_of_lt hj⟩
  rw [latchOf, List.find?_map, here, first]
  rfl

/-- Once a wider value is latched, each of its words comes from the latch. -/
theorem latched_latchOf (s : State) (m idx : Nat) (f : Field) (v : Nat) {i : Nat} (hi : i < f.n) :
    (s.setLatch m (some (latchOf idx f v))).latched m idx f.lo (f.lo + i) = some (part v i) := by
  rw [State.latched, latch_setLatch]
  simp only [find?_latchOf idx f v hi]
  simp [latchOf]

theorem fetchWord_lowest (s : State) (m idx : Nat) (f : Field) :
    s.fetchWord m idx f.lo f = ((s.noteRead idx).setLatch m (if f.n = 1 then none else some (latchOf idx f (s.value m idx f))),
      s.subValue m idx f.lo f) := by
  simp [State.fetchWord, latchOf]

theorem fetchWord_latched {m idx sub : Nat} {f : Field} {w : Word} (hsub : sub ≠ f.lo) (h : s.latched m idx f.lo sub = some w) :
    s.fetchWord m idx sub f = (if sub = f.lo + f.n - 1 then (s.noteRead idx).setLatch m none else s.noteRead idx, w) := by
  simp [State.fetchWord, hsub, h]

theorem fetchWord_unlatched {m idx sub : Nat} {f : Field} (hsub : sub ≠ f.lo) (h : s.latched m idx f.lo sub = none) :
    s.fetchWord m idx sub f = (s.noteRead idx, s.subValue m idx sub f) := by
  simp [State.fetchWord, hsub, h]

theorem fetchWord_onlyRead (s : State) (m idx sub : Nat) (f : Field) : s.onlyRead (s.fetchWord m idx sub f).1 := by
  have note := noteRead_onlyRead s idx
  by_cases hsub : sub = f.lo
  · rw [hsub, fetchWord_lowest]
    exact note.trans (setLatch_onlyRead ..)
  · cases h : s.latched m idx f.lo sub with
    | none => rwa [fetchWord_unlatched hsub h]
    | some w =>
      rw [fetchWord_latched hsub h]
      dsimp only
      split
      · exact note.trans (setLatch_onlyRead ..)
      · exact note

/-- The word that a read gives: a wider value's other parts come from the latch, all else is the present value. -/
theorem fetchWord_fresh {m idx sub : Nat} {f : Field} (h : sub = f.lo ∨ s.latched m idx f.lo sub = none) :
    (s.fetchWord m idx sub f).2 = s.subValue m idx sub f := by
  by_cases hsub : sub = f.lo
  · rw [hsub, fetchWord_lowest]
  · rw [fetchWord_unlatched hsub (h.resolve_left hsub)]

/-! ## READ_32 (R542, R550, R552) -/

section

variable {m idx sub : Nat}

theorem read32_field {f : Field} (hr : reaches m idx = true) (hs : s.serves idx = true) (hf : fieldAt idx sub = some f) :
    s.read32 m idx sub = ((s.fetchWord m idx sub f).1, 0, (s.fetchWord m idx sub f).2) := by
  simp [State.read32, hr, hs, hf]

theorem read32_unreached (hr : reaches m idx = false) : s.read32 m idx sub = (s, 2, 0) := by simp [State.read32, hr]

theorem read32_absent (hr : reaches m idx = true) (h : s.serves idx = false ∨ fieldAt idx sub = none) : s.read32 m idx sub = (s, 1, 0) := by
  by_cases hs : s.serves idx = true
  · simp [State.read32, hr, hs, h.resolve_left (by simp [hs])]
  · simp [State.read32, hr, hs]

theorem exec_read32 (hm : m ≤ 16) (ha : s.power.alive = true) {r : Nat} {w : Word} (h : s.read32 m idx sub = (t, r, w)) :
    exec (.read32 m idx sub) s = .next (t.give m (answerOf 1 idx sub r (w.setWidth 64))) := by
  show onUnit (masterOk m) (s.perform m (fun t => t.readOp m idx sub false)) = _
  rw [onUnit_masterOk hm, perform_eq s ha]
  simp [State.readOp, h]

theorem exec_read64 (hm : m ≤ 16) (ha : s.power.alive = true) {r : Nat} {w : DWord} (h : s.read64 m idx sub = (t, r, w)) :
    exec (.read64 m idx sub) s = .next (t.give m (answerOf 2 idx sub r w)) := by
  show onUnit (masterOk m) (s.perform m (fun t => t.readOp m idx sub true)) = _
  rw [onUnit_masterOk hm, perform_eq s ha]
  simp [State.readOp, h]

/-- A read of a sub-entry that the master reaches: the word, the latch that it leaves, and nothing else. -/
theorem read32_answers {f : Field} (hh : s.hears m idx = true) (hf : fieldAt idx sub = some f) :
    ∃ t, exec (.read32 m idx sub) s = .next t ∧ s.sameWork t ∧ s.sameFabric t ∧ t.power = s.power ∧ t.clock = s.clock ∧ t.dict = s.dict ∧
      (sub = f.lo ∨ s.latched m idx f.lo sub = none → t.resultFor m = some (answerOf 1 idx sub 0 ((s.subValue m idx sub f).setWidth 64))) ∧
      (∀ w, sub ≠ f.lo → s.latched m idx f.lo sub = some w → t.resultFor m = some (answerOf 1 idx sub 0 (w.setWidth 64))) ∧
      (sub = f.lo → f.n ≠ 1 → ∀ i, i < f.n → t.latched m idx f.lo (f.lo + i) = some (part (s.value m idx f) i)) ∧
      (sub = f.lo + f.n - 1 → sub ≠ f.lo → s.latched m idx f.lo sub ≠ none → (t.master m).latch = none) := by
  obtain ⟨hm, hr, hs, ha⟩ := (hears_iff s m idx).1 hh
  have frame := (fetchWord_onlyRead s m idx sub f).trans
    (filed_onlyRead _ m (answerOf 1 idx sub 0 ((s.fetchWord m idx sub f).2.setWidth 64)))
  refine ⟨_, exec_read32 hm ha (read32_field hr hs hf), frame.sameWork, frame.sameFabric, frame.power, frame.clock, frame.dict,
    fun h => ?_, fun w hsub h => ?_, fun hsub hn i hi => ?_, fun htop hsub h => ?_⟩
  · rw [resultFor_give, fetchWord_fresh h]
  · rw [resultFor_give, fetchWord_latched hsub h]
  · rw [give_accepted, latched_congr (filed_masters ..), hsub, fetchWord_lowest, if_neg hn]
    exact latched_latchOf _ m idx f _ hi
  · obtain ⟨w, hw⟩ := Option.ne_none_iff_exists'.1 h
    rw [give_accepted, fetchWord_latched hsub hw, if_pos htop]
    exact latch_setLatch (s.noteRead idx) m none

theorem read32_declined (hm : m ≤ 16) (ha : s.power.alive = true) {r : Nat} (h : s.read32 m idx sub = (s, r, 0)) :
    ∃ t, exec (.read32 m idx sub) s = .next t ∧ t = s.give m (answerOf 1 idx sub r 0) ∧ s.declined t m 1 idx sub r :=
  ⟨_, exec_read32 hm ha h, rfl, declined_give rfl ..⟩

/-! ## READ_64 (R543, R550, R552) -/

theorem part_lt (v i : Nat) : (part v i).toNat < 2 ^ 32 := (part v i).isLt

/-- Two words side by side are the value's lower 64 bits. -/
theorem ofNat_parts (v : Nat) : BitVec.ofNat 64 ((part v 0).toNat + 2 ^ 32 * (part v 1).toNat) = BitVec.ofNat 64 v := by
  apply BitVec.eq_of_toNat_eq
  simp only [part, BitVec.toNat_ofNat, Nat.mul_zero, Nat.pow_zero, Nat.div_one, Nat.mul_one]
  omega

theorem fieldAt_zero {f : Field} (h : fieldAt idx 0 = some f) : f = fro 0 := by
  unfold fieldAt at h
  dsimp only at h
  split at h
  · exact absurd h (by simp)
  · simpa using h.symm

/-- Reading the two words of a 64-bit value in one access: the higher one comes from the latch that the lower one has set. -/
theorem read64_pair {f : Field} (hr : reaches m idx = true) (hs : s.serves idx = true) (hf : fieldAt idx sub = some f) (hlo : f.lo = sub)
    (hn : f.n = 2) (hf' : fieldAt idx (sub + 1) = some f) :
    ∃ t, s.read64 m idx sub = (t, 0, BitVec.ofNat 64 (s.value m idx f)) ∧ s.onlyRead t := by
  subst hlo
  have hsub : f.lo ≠ 0 := by
    intro h0
    rw [h0] at hf
    rw [fieldAt_zero hf] at hn
    exact absurd hn (by decide)
  have low : s.read32 m idx f.lo = ((s.noteRead idx).setLatch m (some (latchOf idx f (s.value m idx f))), 0, part (s.value m idx f) 0) := by
    rw [read32_field hr hs hf, fetchWord_lowest, if_neg (by omega), State.subValue, if_neg hsub, Nat.sub_self]
  have frame := (noteRead_onlyRead s idx).trans (setLatch_onlyRead _ m (some (latchOf idx f (s.value m idx f))))
  have latch : ((s.noteRead idx).setLatch m (some (latchOf idx f (s.value m idx f)))).latched m idx f.lo (f.lo + 1) = some (part (s.value m idx f) 1) :=
    latched_latchOf _ m idx f _ (by omega)
  have high := read32_field hr ((frame.serves idx).trans hs) hf'
  refine ⟨_, ?_, frame.trans (fetchWord_onlyRead _ m idx (f.lo + 1) f)⟩
  rw [← ofNat_parts]
  simp [State.read64, hf, low, high, fetchWord_latched (by omega) latch]

theorem read64_inside {f : Field} (hr : reaches m idx = true) (hs : s.serves idx = true) (hf : fieldAt idx sub = some f) (hlo : f.lo ≠ sub) :
    s.read64 m idx sub = (s, 3, 0) := by
  simp [State.read64, hf, read32_field hr hs hf, hlo]

theorem read64_answers {f : Field} (hh : s.hears m idx = true) (hf : fieldAt idx sub = some f) (hlo : f.lo = sub) (hn : f.n = 2)
    (hf' : fieldAt idx (sub + 1) = some f) :
    ∃ t, exec (.read64 m idx sub) s = .next t ∧ s.sameWork t ∧ s.sameFabric t ∧ t.power = s.power ∧ t.clock = s.clock ∧
      t.resultFor m = some (answerOf 2 idx sub 0 (BitVec.ofNat 64 (s.value m idx f))) := by
  obtain ⟨hm, hr, hs, ha⟩ := (hears_iff s m idx).1 hh
  obtain ⟨t, read, ht⟩ := read64_pair hr hs hf hlo hn hf'
  have frame := ht.trans (filed_onlyRead t m (answerOf 2 idx sub 0 (BitVec.ofNat 64 (s.value m idx f))))
  exact ⟨_, exec_read64 hm ha read, frame.sameWork, frame.sameFabric, frame.power, frame.clock, resultFor_give ..⟩

theorem read64_declined {f : Field} (hh : s.hears m idx = true) (hf : fieldAt idx sub = some f) (hlo : f.lo ≠ sub) :
    ∃ t, exec (.read64 m idx sub) s = .next t ∧ s.declined t m 2 idx sub 3 := by
  obtain ⟨hm, hr, hs, ha⟩ := (hears_iff s m idx).1 hh
  exact ⟨_, exec_read64 hm ha (read64_inside hr hs hf hlo), declined_give rfl ..⟩

/-! ## Refused reads are recorded (R546) -/

/-- A recorded refusal: the latched word of the object, and its alarm bit. -/
theorem noteRefusal_records (s : State) (k r idx sub : Nat) :
    (s.noteRefusal k r idx sub).reg (0x0010 + k) 2 = BitVec.ofNat 32 (r * 2 ^ 24 + idx * 2 ^ 8 + sub) ∧
      (s.noteRefusal k r idx sub).alarmed (0x0010 + k) 5 0 := by
  have apart {a b : Nat} (h : a ≠ b) (ha : a < 256) (hb : b < 256) : dkey (0x0010 + k) a ≠ dkey (0x0010 + k) b := by
    unfold dkey; omega
  refine ⟨?_, alarmed_alarm _ _ _ (by decide)⟩
  rw [State.noteRefusal, reg_alarm_other _ _ _ _ _ _ (apart (by decide) (by decide) (by decide)),
    reg_setReg64_other _ _ _ _ _ _ (apart (by decide) (by decide) (by decide)) (apart (by decide) (by decide) (by decide)), reg_setReg_same]

theorem read32_unreached_recorded (hm : m ≤ 16) (ha : s.power.alive = true) (hr : reaches m idx = false) :
    ∃ t, exec (.read32 m idx sub) s = .next t ∧ s.declined t m 1 idx sub 2 ∧
      (t.reg (0x0010 + (m - 1)) 2) = BitVec.ofNat 32 (2 * 2 ^ 24 + idx * 2 ^ 8 + sub) ∧ t.alarmed (0x0010 + (m - 1)) 5 0 := by
  have function : 1 ≤ m := by
    cases m with
    | zero => exact absurd hr (by simp [reaches])
    | succ m => exact Nat.succ_pos m
  obtain ⟨t, exec, rfl, declined⟩ := read32_declined hm ha (read32_unreached (s := s) (sub := sub) hr)
  have recorded : s.give m (answerOf 1 idx sub 2 0) = (s.filed m (answerOf 1 idx sub 2 0)).noteRefusal (m - 1) 2 idx sub :=
    if_pos (by simp [answerOf, function])
  refine ⟨_, exec, declined, ?_⟩
  rw [recorded]
  exact noteRefusal_records ..

end

/-! ## Describe and aggregate reads (R52, R53, R540, R556) -/

/-- An answer that a master gets changes none of the work, the fabric, the masters and the power. -/
theorem give_answers (s : State) (m : Nat) (a : WAnswer) :
    s.sameWork (s.give m a) ∧ s.sameFabric (s.give m a) ∧ (s.give m a).masters = s.masters ∧ (s.give m a).power = s.power ∧
      (s.give m a).resultFor m = some a := by
  refine ⟨?_, ?_, ?_, ?_, resultFor_give s m a⟩
  · rw [give_raises s m a]; exact ⟨rfl, rfl, rfl, rfl, rfl, rfl, rfl⟩
  · rw [give_raises s m a]; exact ⟨rfl, rfl⟩
  · rw [give_raises s m a]; rfl
  · rw [give_raises s m a]; rfl

section

variable {m : Nat} (hm : m ≤ 16) (ha : s.power.alive = true) (idx sub n : Nat)
include hm ha

theorem exec_describe : exec (.describe m idx sub) s = .next (s.give m (s.describeOp m idx sub)) := by
  show onUnit (masterOk m) (s.perform m (fun t => (t, t.describeOp m idx sub))) = _
  rw [onUnit_masterOk hm, perform_eq s ha]

theorem exec_aggregateRead32 : exec (.aggregateRead32 m idx sub n) s = .next (s.give m (s.aggregate m 5 idx sub n)) := by
  show onUnit (masterOk m) (s.perform m (fun t => (t, t.aggregate m 5 idx sub n))) = _
  rw [onUnit_masterOk hm, perform_eq s ha]

theorem exec_aggregateRead64 : exec (.aggregateRead64 m idx sub n) s = .next (s.give m (s.aggregate m 6 idx sub n)) := by
  show onUnit (masterOk m) (s.perform m (fun t => (t, t.aggregate m 6 idx sub n))) = _
  rw [onUnit_masterOk hm, perform_eq s ha]

end

/-- The instances of an aggregate read that answer: those that the master reaches and that are served. -/
def State.answering (s : State) (m idx stride n : Nat) : List Nat :=
  ((upto n).map (fun i => idx + stride * i)).filter (fun i => reaches m i && s.serves i)

theorem answering_length_le (s : State) (m idx stride n : Nat) : (s.answering m idx stride n).length ≤ n := by
  refine Nat.le_trans (List.length_filter_le ..) ?_
  simp [upto]

theorem mem_answering {m idx stride n i : Nat} (hi : i < n) (hr : reaches m (idx + stride * i) = true) (hs : s.serves (idx + stride * i) = true) :
    idx + stride * i ∈ s.answering m idx stride n := by
  refine List.mem_filter.2 ⟨List.mem_map.2 ⟨i, ?_, rfl⟩, by simp [hr, hs]⟩
  simpa [upto] using hi

theorem aggregate_eq {m op idx sub n base stride count : Nat} {f : Field} (hb : blockOf idx = some (base, stride, count)) (hn : n ≠ 0)
    (hc : (idx - base) / stride + n ≤ count) (hf : fieldAt idx sub = some f) (hlo : f.lo = sub) (hagg : f.agg ≠ 0) :
    s.aggregate m op idx sub n = { answerOf op idx sub 0 0 with
      value := BitVec.ofNat 64 (combineAll f (accessTop (op = 6)) ((s.answering m idx stride n).map (fun i => s.value m i f % (accessTop (op = 6) + 1))))
      answered := (s.answering m idx stride n).length
      missing := n - (s.answering m idx stride n).length } := by
  simp [State.aggregate, hb, hn, Nat.not_lt.2 hc, hf, hlo, hagg, State.answering]

theorem foldl_max_le {l : List Nat} {a b : Nat} (ha : a ≤ b) (h : ∀ v ∈ l, v ≤ b) : l.foldl max a ≤ b := by
  induction l generalizing a with
  | nil => exact ha
  | cons v l ih => exact ih (Nat.max_le.2 ⟨ha, h v (List.mem_cons_self ..)⟩) (fun w hw => h w (List.mem_cons_of_mem _ hw))

/-- Unsigned values of aggregate kind Max are combined to their maximum, 0 when there is none. -/
theorem combineAll_max {f : Field} (h2 : f.agg = 2) (h3 : f.ty ≠ 3) (top : Nat) (l : List Nat) : combineAll f top l = l.foldl max 0 := by
  have comb : combine f top = max := by
    funext a b
    simp [combine, h2, h3]
  cases l with
  | nil => rfl
  | cons v t => simp [combineAll, comb]

theorem le_foldl_max {l : List Nat} {a b : Nat} (h : b ≤ a ∨ b ∈ l) : b ≤ l.foldl max a := by
  induction l generalizing a with
  | nil => simpa using h
  | cons v l ih =>
    refine ih ?_
    obtain h | h := h
    · exact .inl (Nat.le_trans h (Nat.le_max_left ..))
    · exact (List.mem_cons.1 h).imp (fun e => Nat.le_trans (Nat.le_of_eq e) (Nat.le_max_right ..)) id

/-- The maximum of a 32-bit access is at least the value of each of those that answer. -/
theorem le_aggregate_max {m idx stride n i : Nat} {f : Field} (h2 : f.agg = 2) (h3 : f.ty ≠ 3) (hi : i < n)
    (hr : reaches m (idx + stride * i) = true) (hs : s.serves (idx + stride * i) = true) :
    s.value m (idx + stride * i) f % 2 ^ 32 ≤
      (BitVec.ofNat 64 (combineAll f (2 ^ 32 - 1) ((s.answering m idx stride n).map (fun i => s.value m i f % 2 ^ 32)))).toNat := by
  have small : ((s.answering m idx stride n).map (fun i => s.value m i f % 2 ^ 32)).foldl max 0 ≤ 2 ^ 32 - 1 :=
    foldl_max_le (Nat.zero_le _) fun v hv => by
      obtain ⟨j, -, rfl⟩ := List.mem_map.1 hv
      exact Nat.le_pred_of_lt (Nat.mod_lt _ (by decide))
  rw [combineAll_max h2 h3, BitVec.toNat_ofNat, Nat.mod_eq_of_lt (Nat.lt_of_le_of_lt small (by decide))]
  exact le_foldl_max (.inr (List.mem_map_of_mem (mem_answering hi hr hs)))

/-- Settles O54: one lemma for each operation, and the aggregate value by what its instances are combined to. -/
theorem readsAnswerTheWholeValue : Obligations.ReadsAnswerTheWholeValue := by
  refine ⟨fun s m idx sub f hh hf => ?_, fun s m idx sub hm ha => ?_, fun s m op idx sub n base stride count f hb hn hc hf hlo hagg => ?_⟩
  · exact ⟨read32_answers hh hf, fun hlo hn hf' => read64_answers hh hf hlo hn hf', read64_declined hh hf⟩
  · refine ⟨read32_unreached_recorded hm ha, fun hr h => ?_, ?_, fun n => ⟨?_, ?_⟩⟩
    · obtain ⟨t, exec, -, declined⟩ := read32_declined hm ha (read32_absent (s := s) (sub := sub) hr h)
      exact ⟨t, exec, declined⟩
    · exact ⟨_, exec_describe hm ha idx sub, give_answers ..⟩
    · exact ⟨_, exec_aggregateRead32 hm ha idx sub n, give_answers ..⟩
    · exact ⟨_, exec_aggregateRead64 hm ha idx sub n, give_answers ..⟩
  · rw [aggregate_eq hb hn hc hf hlo hagg]
    refine ⟨rfl, Nat.add_sub_cancel' (answering_length_le s m idx stride n), ?_⟩
    rintro h2 h3 rfl i hi hr hs
    exact le_aggregate_max h2 h3 hi hr hs

end Sys2Proof.Machine
end

section
/-! PROOFS. Serialiser windows: which accesses wait, in what order they are applied, and how forwarded frames end (R545, R551 to R560). -/

namespace Sys2Proof.Machine

variable {s t u : State}

/-! ## What passing time leaves as it is -/

/-- Between s and t time has passed: the counter, cores' ramps, jobs' stalls and the dictionary's counters may have changed. -/
def State.passes (s t : State) : Prop :=
  t = { s with
    clock := t.clock
    cores := t.cores
    jobs := t.jobs
    dict := t.dict }

namespace State.passes

theorem trans (h : s.passes t) (g : t.passes u) : s.passes u := by
  unfold State.passes at *
  rw [g, h]

theorem mem (h : s.passes t) : t.mem = s.mem := by rw [h]
theorem lcores (h : s.passes t) : t.lcores = s.lcores := by rw [h]
theorem slots (h : s.passes t) : t.slots = s.slots := by rw [h]
theorem serial (h : s.passes t) : t.serial = s.serial := by rw [h]

end State.passes

/-- A fold whose every step passes time does. -/
theorem foldl_passes {β : Type} (f : State → β → State) (h : ∀ t x, State.passes t (f t x)) (l : List β) (s : State) : s.passes (l.foldl f s) :=
  foldl_keeps (fun t => s.passes t) f (fun t x ht => ht.trans (h t x)) l s rfl

theorem setCore_passes (s : State) (c : Nat) (x : Core) : s.passes (s.setCore c x) := rfl
theorem setJob_passes (s : State) (k : Nat) (j : Option Job) : s.passes (s.setJob k j) := rfl
theorem setReg_passes (s : State) (idx sub : Nat) (v : Word) : s.passes (s.setReg idx sub v) := rfl
theorem setReg64_passes (s : State) (idx sub v : Nat) : s.passes (s.setReg64 idx sub v) := rfl
theorem bump64_passes (s : State) (idx sub n : Nat) : s.passes (s.bump64 idx sub n) := rfl

theorem countWaits_passes (s : State) (c : Nat) (p : Core) (n : Nat) : s.passes (s.countWaits c p n) := by
  unfold State.countWaits
  dsimp only
  split
  · rfl
  · have stalls := foldl_passes (fun (t : State) sub => t.bump64 (coreObj c 0x5) sub n) (fun _ _ => bump64_passes ..)
    split
    · exact stalls ..
    · exact (stalls _ s).trans (bump64_passes ..)

theorem stallQueues_passes (s : State) (k : Nat) (j : Job) (n : Nat) : s.passes (s.stallQueues k j n) := by
  unfold State.stallQueues
  dsimp only
  split
  · rfl
  · exact (((setJob_passes ..).trans (bump64_passes ..)).trans (setReg_passes ..)).trans (setReg64_passes ..)

theorem stallAll_passes (s : State) (n : Nat) : s.passes (s.stallAll n) := by
  refine foldl_keeps (fun t => s.passes t) _ (fun t p ht => ?_) s.jobs s rfl
  split
  · split
    · exact ht.trans (stallQueues_passes ..)
    · exact ht
  · exact ht

theorem passCycles_passes (s : State) (n : Nat) : s.passes (s.passCycles n) := by
  unfold State.passCycles
  split
  · rfl
  · have waits := (stallAll_passes s n).trans (foldl_passes (fun (u : State) (p : Nat × Core) => u.countWaits p.1 p.2 n)
      (fun u p => countWaits_passes u p.1 p.2 n) s.cores _)
    have ramps (u : State) := foldl_passes (fun (t : State) (p : Nat × Core) => t.setCore p.1 { p.2 with
      stall := p.2.stall - n, conv0 := p.2.conv0 - n, conv1 := p.2.conv1 - n, ramp0 := p.2.ramp0.pass n (passWaits u p.2 0)
      ramp1 := p.2.ramp1.pass n (passWaits u p.2 1) }) (fun _ _ => setCore_passes ..) u.cores u
    exact (waits.trans (ramps _)).trans rfl

theorem until_passes (s : State) (n : Nat) : s.passes (s.until n) := by
  unfold State.until
  split
  · exact passCycles_passes ..
  · rfl

/-! ## The order of the arrivals (R557) -/

/-- Ascending windows, and ascending masters within a window. -/
def comesBefore (a b : Nat × Nat × Arrival) : Prop := a.1 < b.1 ∨ (a.1 = b.1 ∧ a.2.1 ≤ b.2.1)

theorem arrivalBefore_iff (a b : Nat × Nat × Arrival) : arrivalBefore a b = true ↔ comesBefore a b := by
  simp [arrivalBefore, comesBefore]

theorem comesBefore_of_not {a b : Nat × Nat × Arrival} (h : ¬ arrivalBefore a b = true) : comesBefore b a := by
  simp only [arrivalBefore_iff, comesBefore] at *
  omega

theorem comesBefore_trans {a b c : Nat × Nat × Arrival} (h : comesBefore a b) (g : comesBefore b c) : comesBefore a c := by
  unfold comesBefore at *
  omega

theorem mem_insertArrival {a c : Nat × Nat × Arrival} {l : List (Nat × Nat × Arrival)} (h : c ∈ insertArrival a l) : c = a ∨ c ∈ l := by
  induction l with
  | nil => exact .inl (List.mem_singleton.1 h)
  | cons b t ih =>
    unfold insertArrival at h
    split at h
    · exact List.mem_cons.1 h
    · obtain rfl | h := List.mem_cons.1 h
      · exact .inr (List.mem_cons_self ..)
      · exact (ih h).imp id (List.mem_cons_of_mem b)

theorem pairwise_insertArrival (a : Nat × Nat × Arrival) {l : List (Nat × Nat × Arrival)} (h : l.Pairwise comesBefore) :
    (insertArrival a l).Pairwise comesBefore := by
  induction l with
  | nil => exact List.pairwise_singleton ..
  | cons b t ih =>
    obtain ⟨hb, ht⟩ := List.pairwise_cons.1 h
    unfold insertArrival
    split
    · rename_i first
      have hab := (arrivalBefore_iff a b).1 first
      refine List.pairwise_cons.2 ⟨fun c hc => ?_, h⟩
      obtain rfl | hc := List.mem_cons.1 hc
      · exact hab
      · exact comesBefore_trans hab (hb c hc)
    · rename_i later
      refine List.pairwise_cons.2 ⟨fun c hc => ?_, ih ht⟩
      obtain rfl | hc := mem_insertArrival hc
      · exact comesBefore_of_not later
      · exact hb c hc

theorem pairwise_sortArrivals (l : List (Nat × Nat × Arrival)) : (sortArrivals l).Pairwise comesBefore := by
  induction l with
  | nil => exact List.Pairwise.nil
  | cons a t ih => exact pairwise_insertArrival a ih

/-- Arrival a is one of master m in window w. -/
def ofMaster (w m : Nat) (a : Nat × Nat × Arrival) : Bool := a.1 = w && a.2.1 = m

theorem ofMaster_iff (w m : Nat) (a : Nat × Nat × Arrival) : ofMaster w m a = true ↔ a.1 = w ∧ a.2.1 = m := by simp [ofMaster]

/-- An arrival goes in before its master's later ones of the same window. -/
theorem filter_insertArrival (w m : Nat) (a : Nat × Nat × Arrival) (l : List (Nat × Nat × Arrival)) :
    (insertArrival a l).filter (ofMaster w m) = (a :: l).filter (ofMaster w m) := by
  induction l with
  | nil => rfl
  | cons b t ih =>
    unfold insertArrival
    split
    · rfl
    · rename_i later
      rw [List.filter_cons, ih, List.filter_cons, List.filter_cons, List.filter_cons]
      by_cases hb : ofMaster w m b = true
      · have ha : ¬ ofMaster w m a = true := fun ha => later <| (arrivalBefore_iff a b).2 <| .inr <| by
          obtain ⟨haw, ham⟩ := (ofMaster_iff w m a).1 ha
          obtain ⟨hbw, hbm⟩ := (ofMaster_iff w m b).1 hb
          exact ⟨haw.trans hbw.symm, Nat.le_of_eq (ham.trans hbm.symm)⟩
        rw [if_pos hb, if_neg ha, if_neg ha, if_pos hb]
      · rw [if_neg hb, if_neg hb]

/-- The arrivals of one master in one window keep their order. -/
theorem filter_sortArrivals (w m : Nat) (l : List (Nat × Nat × Arrival)) :
    (sortArrivals l).filter (ofMaster w m) = l.filter (ofMaster w m) := by
  induction l with
  | nil => rfl
  | cons a t ih =>
    have insert : (sortArrivals (a :: t)).filter (ofMaster w m) = (a :: sortArrivals t).filter (ofMaster w m) :=
      filter_insertArrival w m a (sortArrivals t)
    rw [insert, List.filter_cons, List.filter_cons, ih]

/-! ## Window ends (R557 to R560) -/

theorem fitArrivals_all {n : Nat} {l : List (Nat × Nat × Arrival)} (h : (l.map (fun a => a.2.2.size)).sum ≤ n) :
    fitArrivals n l = (l, []) := by
  induction l generalizing n with
  | nil => rfl
  | cons a t ih =>
    simp only [List.map_cons, List.sum_cons] at h
    rw [fitArrivals, if_pos (by omega), ih (by omega)]

/-- The window whose end comes next has ended. -/
def State.windowOver (s : State) : State := s.until (25 * (s.endingWindow + 1))

/-- The arrivals that wait for a later window. -/
def State.laterArrivals (s : State) : List (Nat × Nat × Arrival) :=
  s.serial.arrivals.filter (fun a => !(25 * (a.1 + 1) ≤ s.clock.tick.toNat))

theorem exec_serialiserWindowEnd (ha : s.power.alive = true)
    (h : (s.windowOver.dueArrivals.map (fun a => a.2.2.size)).sum ≤ 1024) :
    exec .serialiserWindowEnd s = .next ((s.windowOver.dueArrivals.foldl State.applyNoted
      { s.windowOver with serial := { s.windowOver.serial with arrivals := s.windowOver.laterArrivals } }).settleWindows).notice := by
  show execSerialiserWindowEnd s = _
  unfold execSerialiserWindowEnd
  rw [ha]
  simp only [Bool.not_true, Bool.false_eq_true, if_false]
  rw [show s.until (25 * (s.endingWindow + 1)) = s.windowOver from rfl, fitArrivals_all h]
  rfl

theorem noteContradiction_raises (s : State) (c : Applied × Applied) : s.raises (s.noteContradiction c) := by
  unfold State.noteContradiction
  dsimp only
  refine State.raises.trans ?_ (alarm_raises ..)
  exact ((((bump_raises ..).trans (setReg64_raises ..)).trans (setReg_raises ..)).trans (setReg_raises ..)).trans (setReg_raises ..)

/-- Settling the ended windows drops their noted writes, and else only reports. -/
theorem settleWindows_raises (s : State) :
    State.raises { s with serial := { s.serial with window := s.settleWindows.serial.window } } s.settleWindows := by
  have fold (t : State) (l : List (Applied × Applied)) : t.raises (l.foldl State.noteContradiction t) :=
    foldl_keeps (fun u => t.raises u) _ (fun u c hu => hu.trans (noteContradiction_raises u c)) l t (.refl t)
  have settled := fold { s with serial := { s.serial with window := s.serial.window.filter (fun a => !(25 * (a.window + 1) ≤ s.clock.tick.toNat)) } }
    (contradictions (s.serial.window.filter (fun a => 25 * (a.window + 1) ≤ s.clock.tick.toNat)))
  have window : s.settleWindows.serial.window = s.serial.window.filter (fun a => !(25 * (a.window + 1) ≤ s.clock.tick.toNat)) := by
    unfold State.settleWindows
    dsimp only
    rw [settled]
  rw [window]
  exact settled

/-- A notice clears the risen alarms, and sends at most one message. -/
theorem notice_eq (s : State) : s.notice = { s with serial := { s.serial with
    risen := []
    tx := s.notice.serial.tx
    noticed := s.notice.serial.noticed } } := by
  unfold State.notice
  dsimp only
  split <;> split <;> rfl

theorem windowEnd_empty (ha : s.power.alive = true) (h : s.serial.arrivals = []) :
    ∃ t, exec .serialiserWindowEnd s = .next t ∧ t.serial.arrivals = [] ∧ t.serial.risen = [] ∧
      t.clock = (s.until (25 * (s.endingWindow + 1))).clock ∧ t.mem = s.mem ∧ t.lcores = s.lcores ∧ t.slots = s.slots := by
  have time : s.passes s.windowOver := until_passes ..
  have none_wait : s.windowOver.serial.arrivals = [] := by rw [time.serial, h]
  have none_due : s.windowOver.dueArrivals = [] := by rw [State.dueArrivals, none_wait]; rfl
  have none_later : s.windowOver.laterArrivals = [] := by rw [State.laterArrivals, none_wait]; rfl
  have exec := exec_serialiserWindowEnd ha (by rw [none_due]; decide)
  rw [none_due, none_later] at exec
  refine ⟨_, exec, ?_⟩
  rw [List.foldl_nil, notice_eq, settleWindows_raises]
  exact ⟨rfl, rfl, rfl, time.mem, time.lcores, time.slots⟩

/-! ## Accesses that join their window (R545, R554, R555, R557, R558) -/

section

variable {fn offset : Nat} (hfn : fn < 16) (ho : offset < 2 ^ 26) (size : Nat) (v : DWord)
include hfn ho

theorem exec_bar0Read : exec (.bar0Read fn offset size) s =
    .next (if !(s.takesAccess fn) || s.holdsBack then s else s.queueArrival (fn + 1) (.bar false offset size 0)) := by
  show onUnit (decide (fn < 16) && decide (offset < 2 ^ 26)) _ = _
  simp only [onUnit, hfn, ho, decide_true, Bool.and_self, if_true]

theorem exec_bar0Write : exec (.bar0Write fn offset size v) s =
    .next (if !(s.takesAccess fn) || s.holdsBack then s else s.queueArrival (fn + 1) (.bar true offset size v)) := by
  show onUnit (decide (fn < 16) && decide (offset < 2 ^ 26)) _ = _
  simp only [onUnit, hfn, ho, decide_true, Bool.and_self, if_true]

end

theorem exec_dictionaryRequest {p : Packet} {m : Nat} (hm : m ≤ 1) (h : s.arrives 0x08 p = true) (f : WFrame) :
    exec (.dictionaryRequest p m f) s = .next (if s.holdsBack then s else s.queueArrival m (.request p f)) := by
  show onUnit (decide (m ≤ 1)) (s.inbound 0x08 p _) = _
  rw [inbound_arrives h]
  simp only [onUnit, hm, decide_true, if_true]

/-- What a frame does on its arrival (R554, R555, R558). -/
theorem exec_waizerFrame (f : WFrame) (ha : s.power.alive = true) :
    (∀ r, s.repeated f = some r → exec (.waizerFrame f) s = .next { s with serial := { s.serial with tx := s.serial.tx ++ [r] } }) ∧
    (s.repeated f = none → exec (.waizerFrame f) s = .next (if s.holdsBack then s.bump 0x0000 0x05 1
      else if badFrame f || s.isLocal f then s.queueArrival 0 (.frame f) else s.forwardFrame 0 f false)) := by
  refine ⟨fun r h => ?_, fun h => ?_⟩
  · show execWaizerFrame f s = _
    simp [execWaizerFrame, ha, h]
  · show execWaizerFrame f s = _
    simp [execWaizerFrame, ha, h]

/-! ## Forwarded frames (R53, R555, R556) -/

/-- Between s and t a frame has been forwarded or answered: packets, what waits for them, answers, and a master's object. -/
def State.onlyForwards (s t : State) : Prop :=
  t = { s with
    fabric := t.fabric
    masters := t.masters
    serial := { t.serial with arrivals := s.serial.arrivals } }

namespace State.onlyForwards

theorem trans (h : s.onlyForwards t) (g : t.onlyForwards u) : s.onlyForwards u := by
  unfold State.onlyForwards at *
  rw [g, h]

theorem clock (h : s.onlyForwards t) : t.clock = s.clock := by rw [h]
theorem mem (h : s.onlyForwards t) : t.mem = s.mem := by rw [h]
theorem lcores (h : s.onlyForwards t) : t.lcores = s.lcores := by rw [h]
theorem slots (h : s.onlyForwards t) : t.slots = s.slots := by rw [h]
theorem jobs (h : s.onlyForwards t) : t.jobs = s.jobs := by rw [h]
theorem ports (h : s.onlyForwards t) : t.ports = s.ports := by rw [h]
theorem arrivals (h : s.onlyForwards t) : t.serial.arrivals = s.serial.arrivals := by rw [h]

theorem sameWork (h : s.onlyForwards t) : s.sameWork t := by
  rw [h]
  exact ⟨rfl, rfl, rfl, rfl, rfl, rfl, rfl⟩

end State.onlyForwards

theorem objectDone_onlyForwards (s : State) (m : Nat) (es : List WAnswer) : s.onlyForwards (s.objectDone m es) := by
  unfold State.objectDone
  split <;> rfl

/-- A forwarded frame no longer waits. -/
def State.unforward (s : State) (q : Forwarded) : State :=
  { s with serial := { s.serial with forwarded := s.serial.forwarded.filter (fun r => r.waiting ≠ q.waiting) } }

theorem unforward_onlyForwards (s : State) (q : Forwarded) : s.onlyForwards (s.unforward q) := rfl

theorem reply_onlyForwards (s : State) (f : WFrame) (r : Nat) (es : List WAnswer) : s.onlyForwards (s.reply f r es) := rfl

theorem ask_onlyForwards (s : State) (ty : Nat) (d : Half) (k a : Nat) (g : DWord) (bs : List Byte) (job : Bool) (why : Purpose) :
    s.onlyForwards (s.ask ty d k a g bs job why).1 := rfl

theorem forwardDone_frame {q : Forwarded} (h : q.object = false) :
    s.forwardDone q = (s.unforward q).reply q.frame q.outcome.1 q.outcome.2 := by
  simp [State.forwardDone, h, State.unforward]

theorem forwardDone_object {q : Forwarded} (h : q.object = true) : s.forwardDone q = (s.unforward q).objectDone q.m q.outcome.2 := by
  simp [State.forwardDone, h, State.unforward]

theorem forwardDone_onlyForwards (s : State) (q : Forwarded) : s.onlyForwards (s.forwardDone q) := by
  cases h : q.object with
  | false =>
    rw [forwardDone_frame h]
    exact (unforward_onlyForwards ..).trans (reply_onlyForwards ..)
  | true =>
    rw [forwardDone_object h]
    exact (unforward_onlyForwards ..).trans (objectDone_onlyForwards ..)

theorem forwardFrame_onlyForwards (s : State) (m : Nat) (f : WFrame) (object : Bool) : s.onlyForwards (s.forwardFrame m f object) := by
  unfold State.forwardFrame
  dsimp only
  split
  · exact forwardDone_onlyForwards ..
  · refine State.onlyForwards.trans ?_ rfl
    refine foldl_keeps (fun r : State × List (Half × Half) => s.onlyForwards r.1) _ (fun r d hr => ?_) _ (s, []) rfl
    exact hr.trans (ask_onlyForwards ..)

/-- The outcome of a single device's frame: its one answer, or none within the time. -/
theorem outcome_answered {q : Forwarded} (hs : q.frame.span = 0) {a : Half × Nat × List WAnswer} (h : q.answers = [a]) :
    q.outcome = (a.2.1, a.2.2) := by
  simp [Forwarded.outcome, hs, h]

theorem outcome_unanswered {q : Forwarded} (hs : q.frame.span = 0) (h : q.answers = []) : q.outcome = (7, unreached q.frame) := by
  simp [Forwarded.outcome, hs, h]

/-- A forwarded frame with one more answer. -/
def Forwarded.heard (q : Forwarded) (p : Packet) : Forwarded :=
  { q with
    waiting := q.waiting.erase (p.src, p.tag)
    answers := q.answers ++ [(p.src, field p.data 0xD 1, entriesOf p.data)] }

/-- The frame's last answer ends it. -/
theorem frameAnswer_last {p : Packet} {q : Forwarded}
    (hq : s.serial.forwarded.find? (fun q => q.waiting.contains (p.src, p.tag)) = some q) (hw : q.waiting = [(p.src, p.tag)]) :
    s.frameAnswer p = State.forwardDone (s.unforward q) (q.heard p) := by
  have last : (q.heard p).waiting = [] := by simp [Forwarded.heard, hw]
  unfold State.frameAnswer
  rw [hq]
  exact if_pos last

/-- What a taken answer leaves: its packet is no longer awaited (R371). -/
def State.unawait (s : State) (p : Packet) : State :=
  { s with fabric := { s.fabric with
      purposes := s.fabric.purposes.filter (fun r => !(r.1 = p.src && r.2.1 = p.tag))
      unanswered := s.fabric.unanswered.filter (fun r => !(r.dest = p.src && r.tag = p.tag)) } }

theorem exec_dictionaryAnswer {p : Packet} {m : Nat} (h : s.arrives 0x12 p = true)
    (hp : s.fabric.purposes.find? (fun r => r.1 = p.src && r.2.1 = p.tag) = some (p.src, p.tag, .frame m)) :
    exec (.dictionaryAnswer p) s = .next ((s.unawait p).frameAnswer p) := by
  refine congrArg Host.Outcome.next ((inbound_arrives h _).trans ?_)
  simp [State.answered, hp, State.unawait]

theorem dictionaryAnswer_ends {p : Packet} {q : Forwarded} {m : Nat} (h : s.arrives 0x12 p = true)
    (hp : s.fabric.purposes.find? (fun r => r.1 = p.src && r.2.1 = p.tag) = some (p.src, p.tag, .frame m))
    (hq : s.serial.forwarded.find? (fun q => q.waiting.contains (p.src, p.tag)) = some q) (ho : q.object = false)
    (hw : q.waiting = [(p.src, p.tag)]) :
    ∃ t, exec (.dictionaryAnswer p) s = .next t ∧ s.sameWork t ∧ t.ports = s.ports ∧ t.fabric.purposes =
      s.fabric.purposes.filter (fun r => !(r.1 = p.src && r.2.1 = p.tag)) ∧ t.serial.tx.length = s.serial.tx.length + 1 ∧
      (q.frame.span = 0 → q.answers = [] → t.serial.tx.getLast? =
        some { dest := q.frame.source, kind := 2, seq := q.frame.seq, result := field p.data 0xD 1, entries := entriesOf p.data }) := by
  have frame : s.onlyForwards (((s.unawait p).unforward q).forwardDone (q.heard p)) :=
    State.onlyForwards.trans (t := (s.unawait p).unforward q) rfl (forwardDone_onlyForwards ..)
  refine ⟨((s.unawait p).unforward q).forwardDone (q.heard p), ?_, frame.sameWork, frame.ports, ?_, ?_, fun hs hn => ?_⟩
  · rw [exec_dictionaryAnswer h hp, frameAnswer_last (s := s.unawait p) hq hw]
  · rw [forwardDone_frame (q := q.heard p) ho]
    rfl
  · rw [forwardDone_frame (q := q.heard p) ho]
    exact List.length_append
  · rw [forwardDone_frame (q := q.heard p) ho, outcome_answered (q := q.heard p) hs (by rw [Forwarded.heard, hn]; rfl)]
    exact List.getLast?_concat

/-! ## A frame that no one answers (R53, R555, R556) -/

theorem exec_remoteAnswerTimeout {tag : Half} {q : Forwarded} (ha : s.power.alive = true)
    (hq : s.serial.forwarded.find? (fun q => q.waiting.any (fun w => w.2 = tag)) = some q) :
    exec (.remoteAnswerTimeout tag) s = .next ((s.until (q.tick.toNat + 1000)).forwardDone q) := by
  show execRemoteAnswerTimeout tag s = _
  simp [execRemoteAnswerTimeout, hq, ha]

theorem timeout_frame {tag : Half} {q : Forwarded} (ha : s.power.alive = true)
    (hq : s.serial.forwarded.find? (fun q => q.waiting.any (fun w => w.2 = tag)) = some q) (hs : q.frame.span = 0) (hn : q.answers = [])
    (ho : q.object = false) : ∃ t, exec (.remoteAnswerTimeout tag) s = .next t ∧ t.mem = s.mem ∧ t.lcores = s.lcores ∧
      t.clock = (s.until (q.tick.toNat + 1000)).clock ∧ t.serial.tx = s.serial.tx ++
        [{ dest := q.frame.source, kind := 2, seq := q.frame.seq, result := 7, entries := unreached q.frame }] := by
  have time := until_passes s (q.tick.toNat + 1000)
  have done := forwardDone_onlyForwards (s.until (q.tick.toNat + 1000)) q
  refine ⟨_, exec_remoteAnswerTimeout ha hq, done.mem.trans time.mem, done.lcores.trans time.lcores, done.clock, ?_⟩
  rw [forwardDone_frame ho, outcome_unanswered hs hn, ← time.serial]
  rfl

theorem timeout_object {tag : Half} {q : Forwarded} (ha : s.power.alive = true)
    (hq : s.serial.forwarded.find? (fun q => q.waiting.any (fun w => w.2 = tag)) = some q) (hs : q.frame.span = 0) (hn : q.answers = [])
    (ho : q.object = true) {o : WOp} (hops : q.frame.ops = [o]) :
    ∃ t, exec (.remoteAnswerTimeout tag) s = .next t ∧ t.mem = s.mem ∧ t.lcores = s.lcores ∧
      (t.master q.m).aState = 2 ∧ (t.master q.m).aResult = 7 ∧ (t.master q.m).aAnswered = 0 ∧ (t.master q.m).aMissing = 1 := by
  have time := until_passes s (q.tick.toNat + 1000)
  have done := forwardDone_onlyForwards (s.until (q.tick.toNat + 1000)) q
  refine ⟨_, exec_remoteAnswerTimeout ha hq, done.mem.trans time.mem, done.lcores.trans time.lcores, ?_⟩
  rw [forwardDone_object ho, outcome_unanswered hs hn]
  simp [State.objectDone, unreached, hops, answerOf]

/-- Settles O55: what joins a window, the order in which a window's end applies it, and the ends of forwarded frames. -/
theorem framesWaitForTheirWindow : Obligations.FramesWaitForTheirWindow := by
  refine ⟨fun s fn offset size v hfn ho => ⟨fun ht hb => ?_, fun h => ?_⟩, fun s m a => ⟨rfl, rfl⟩, fun s f ha => ?_,
    fun s p m f hm h => exec_dictionaryRequest hm h f, fun s => ⟨?_, fun w m => ?_, windowEnd_empty, fun ha h => ?_⟩,
    fun s p q m h hp hq ho hw => dictionaryAnswer_ends h hp hq ho hw,
    fun s tag q ha hq hs hn => ⟨timeout_frame ha hq hs hn, fun o ho hops => timeout_object ha hq hs hn ho hops⟩⟩
  · rw [exec_bar0Read hfn ho, exec_bar0Write hfn ho, ht, hb]
    exact ⟨rfl, rfl⟩
  · have back : (!(s.takesAccess fn) || s.holdsBack) = true := by
      obtain h | h := h <;> simp [h]
    rw [exec_bar0Read hfn ho, exec_bar0Write hfn ho, if_pos back, if_pos back]
    exact ⟨rfl, rfl⟩
  · obtain ⟨again, new⟩ := exec_waizerFrame (s := s) f ha
    refine ⟨again, fun hr hb => ⟨_, ?_, rfl, toNat_reg_bump ..⟩, fun hr hb hl => ?_, fun hr hb hl => ?_⟩
    · rw [new hr, if_pos hb]
    · rw [new hr, if_neg (by simp [hb]), if_pos hl]
    · have frame := forwardFrame_onlyForwards s 0 f false
      refine ⟨_, ?_, frame.mem, frame.lcores, frame.slots, frame.jobs, frame.arrivals⟩
      rw [new hr, if_neg (by simp [hb]), if_neg (by simp [hl])]
  · exact pairwise_sortArrivals _
  · exact filter_sortArrivals w m _
  · exact ⟨_, exec_serialiserWindowEnd ha h, rfl⟩

end Sys2Proof.Machine
end

section
/-! PROOFS. The radish test on a state whose pods are not in canonical form (R18, R20, R480). -/

namespace Sys2Proof.Machine

/-- Core 0 fails the repetition of tile 0, with core 18 as its partner, while the list of pods names pod 0 twice. That is not
the canonical form `swf`, which writes keep (`swf_sput`) and which O50 does not ask of its states. -/
def pod0Twice : State :=
  { cores := [(0, { tile := true, retest := some (0, 18) }), (18, { tile := true })]
    pods := [(0, {}), (0, { clocked := true })]
    radish := { tiles := [{ tile := 0, narrow := false, budget := 0, expected := 1, withdrawn := false }], running := some (0, 18, 0) } }

/-- The slots of pod 0 in a next state. -/
def pod0Slots : Host.Outcome State Fault Refusal → Option (List Nat)
  | .next t => (t.pod 0).slots
  | _ => some []

/-- The sprout gets core 0's slot in the first entry of pod 0, and then noting the pods goes on to the second entry, which
takes the first one's place and with it the slots. -/
theorem pod0Slots_tileEnd : pod0Slots (exec (.radishTileEnd none (some 1)) pod0Twice) = none := by decide +kernel

/-- Refutes O50: where the list of pods names a pod twice, the slot that the lowest sprout has taken is lost again. -/
theorem not_radishTestsRetireCores : ¬ Obligations.RadishTestsRetireCores := by
  unfold Obligations.RadishTestsRetireCores
  rintro ⟨-, -, tileEnd, -⟩
  obtain ⟨-, -, -, repeated⟩ := tileEnd pod0Twice 0 18 0 { tile := 0, narrow := false, budget := 0, expected := 1, withdrawn := false }
    (by decide) rfl rfl rfl
  obtain ⟨t, exec, -, -, -, slots, -⟩ := repeated none (0, 18) 16 [17] (by decide) rfl rfl (fun i _ => rfl) (by decide) (by decide)
  have lost := pod0Slots_tileEnd
  rw [exec] at lost
  exact absurd (slots.symm.trans lost) (by decide)

end Sys2Proof.Machine
end

section
/-! PROOFS. The clock start of a confirmed slot on a state whose jobs are not in canonical form (R427, R428, R452). -/

namespace Sys2Proof.Machine

/-- The accepted job of slot 0 of context 0: its launch is confirmed. -/
def confirmedOfSlot0 : Job :=
  { State.newJob {} 0 0 [] { replica := 0, map := [], lead := 0, held := [] } { held := [], cores := [], tensors := [], saves := [], pages := [] } 0 [] with
    confirmed := some 1000 }

/-- A running job of slot 1, one of whose queues has a waiter at its free semaphore. -/
def waitingOfSlot1 : Job := { confirmedOfSlot0 with j := 1, held := [0], queues := [(5, 0, 0)] }

/-- The list of jobs names context 0 twice. That is not the canonical form `swf`, which writes keep (`swf_sput`) and which O46
does not ask of its states. -/
def job0Twice : State :=
  { jobs := [(0, some confirmedOfSlot0), (0, some waitingOfSlot1)]
    slots := [(0, { state := 3, launch := 1000 }), (1, { state := 4 })]
    sems := [(skey 0 0 5, { waiters := [(.core 0, 1)] })] }

/-- The state of slot 0 of context 0 in a next state. -/
def slot0State : Host.Outcome State Fault Refusal → Nat
  | .next t => (t.slot 0 0).state
  | _ => 0

/-- While time goes on to 400 ticks before the launch, the stall of the second job's queue writes that job into the first
entry of context 0: slot 0 has no accepted job any more, and faults. -/
theorem slot0State_fastClockStart : slot0State (exec (.fastClockStart 0 0) job0Twice) = 6 := by decide +kernel

theorem slot0State_startPods :
    slot0State (.next ((job0Twice.until 600).startPods (confirmedOfSlot0.coreMap.map (fun e => e.phys)))) = 3 := by decide +kernel

/-- Refutes O46: where the list of jobs names a context twice, the slot whose launch is confirmed faults at its clock start. -/
theorem not_acceptanceAndLaunchMoveTheSlot : ¬ Obligations.AcceptanceAndLaunchMoveTheSlot := by
  unfold Obligations.AcceptanceAndLaunchMoveTheSlot
  rintro ⟨-, -, -, -, accepted, -⟩
  obtain ⟨-, -, -, confirmed⟩ := accepted job0Twice 0 0 confirmedOfSlot0 (by decide) (by decide) rfl
  obtain ⟨starts, -⟩ := confirmed rfl (by decide)
  have faults := slot0State_fastClockStart
  rw [starts] at faults
  exact absurd (faults.symm.trans slot0State_startPods) (by decide)

end Sys2Proof.Machine
end

section
/-! PROOFS. The element-by-element vector words: a word on a lone core runs at once over one group of elements, and what it
writes (R64, R75, R206, R207, R209, R211, R212, R218, R219). -/

namespace Sys2Proof.Machine

/-! ## The logical core after its elements are written -/

/-- Counting changes the counter sets alone (R138). -/
theorem countAll_eq (x : LCore) (v : Nat) (es : List ElemW) : x.countAll v es = { x with sets := (x.countAll v es).sets } := by
  unfold LCore.countAll
  split <;> rfl

/-- Hashing for the taps changes the tap sums alone (R471). -/
theorem tapAll_eq (x : LCore) (taps : List (Nat × Nat × DWord)) (step : DWord) (tensor : Nat) (ws : List (Nat × DWord)) :
    x.tapAll taps step tensor ws = { x with taps := (x.tapAll taps step tensor ws).taps } := by
  refine foldl_keeps (fun (y : LCore) => y = { x with taps := y.taps }) _ (fun y p h => ?_) _ _ rfl
  dsimp only
  split
  · rw [h]
  · exact h

/-- The logical core with elements counted and hashed for the taps, before they are stored. -/
def State.noted (s : State) (x : LCore) (h : Held) (cset : Nat) (d : Desc) (es : List ElemW) : LCore :=
  (x.countAll cset es).tapAll (s.tapTable x.k) h.step d.tensor (es.map (fun e => (d.index e.row e.col, e.tapBits d.fmt)))

theorem noted_eq (s : State) (x : LCore) (h : Held) (cset : Nat) (d : Desc) (es : List ElemW) :
    s.noted x h cset d es = { x with sets := (s.noted x h cset d es).sets, taps := (s.noted x h cset d es).taps } := by
  unfold State.noted
  rw [tapAll_eq, countAll_eq]

/-- The logical core after elements are written to its data SRAM. -/
def State.wrote (s : State) (x : LCore) (h : Held) (cset : Nat) (d : Desc) (es : List ElemW) : LCore :=
  { s.noted x h cset d es with sram := (d.byteWrites es).foldl (fun m p => putByte m p.1 p.2) x.sram }

theorem wrote_sameButData (s : State) (x : LCore) (h : Held) (cset : Nat) (d : Desc) (es : List ElemW) :
    x.sameButData (s.wrote x h cset d es) := by
  rw [State.wrote, noted_eq]
  rfl

theorem wrote_index (s : State) (x : LCore) (h : Held) (cset : Nat) (d : Desc) (es : List ElemW) :
    (s.wrote x h cset d es).index = x.index := by
  rw [State.wrote, noted_eq]

theorem sins_sins {α : Type} (m : Sparse α) (k : Nat) (v w : α) : sins (sins m k v) k w = sins m k w := by
  induction m with
  | nil => simp [sins]
  | cons p t ih =>
    obtain ⟨i, x⟩ := p
    by_cases h : k < i
    · simp [sins, h]
    · by_cases e : k = i
      · simp [sins, e]
      · simp [sins, h, e, ih]

theorem setLcore_setLcore (s : State) (i : Nat) (x y : LCore) :
    (s.setLcore i (some x)).setLcore i (some y) = s.setLcore i (some y) := by
  simp [State.setLcore, sput, sins_sins]

/-- Elements of a tier-0 destination, when no prefetch entry is live, change their logical core alone (R256). -/
theorem put_sram {s : State} {i : Nat} {x : LCore} (hl : s.lcore i = some x) (hp : x.prefetches = []) {d : Desc} (ht : d.tier = 0)
    (h : Held) (cset : Nat) (es : List ElemW) : s.put i h cset d es = s.setLcore i (some (s.wrote x h cset d es)) := by
  have hnone : (s.noted x h cset d es).prefetches = [] := by rw [noted_eq]; exact hp
  have hsram : (s.noted x h cset d es).sram = x.sram := by rw [noted_eq]
  have hput : s.put i h cset d es = (s.setLcore i (some (s.noted x h cset d es))).putTier (h.writing i d.num) i d.tier (d.byteWrites es) := by
    simp only [State.put, hl]
    rfl
  simp [hput, State.putTier, ht, LCore.retire, hnone, setLcore_setLcore, State.wrote, hsram]

theorem putScalar_eq {s : State} {i : Nat} {x : LCore} (hl : s.lcore i = some x) (h : Held) (e : ElemW) :
    s.putScalar i h e = s.setLcore i (some ((x.countAll (bits h.w 56 52) [e]).setS (bits h.w 112 109) (BitVec.ofNat 32 e.bits))) := by
  simp [State.putScalar, hl]

/-! ## A lone core whose logical core is ready keeps its issue slot -/

theorem current_of_res {s : State} {c i : Nat} {x : LCore} (hr : (s.core c).res (s.core c).issuing = some i) (hl : s.lcore i = some x) :
    s.current c = some (i, x) := by
  simp [State.current, hr, hl]

theorem res_of_current {s : State} {c i : Nat} {x : LCore} (h : s.current c = some (i, x)) :
    (s.core c).res (s.core c).issuing = some i := by
  unfold State.current at h
  split at h
  · cases h
  · rename_i j hr
    split at h <;> cases h
    exact hr

/-- A lone resident is the only one. -/
theorem residents_alone {p : Core} {i : Nat} (hi : p.res p.issuing = some i) (ha : p.res (1 - p.issuing) = none) :
    [p.res0, p.res1].filterMap id = [i] := by
  by_cases h : p.issuing = 0
  · have h0 : p.res0 = some i := by simpa [h, Core.res] using hi
    have h1 : p.res1 = none := by simpa [h, Core.res] using ha
    simp [h0, h1]
  · have h1 : p.res1 = some i := by simpa [h, Core.res] using hi
    have h0 : p.res0 = none := by simpa [show 1 - p.issuing = 0 by omega, Core.res] using ha
    simp [h0, h1]

theorem departures_alone {s : State} {c i : Nat} {x : LCore} (hc : s.current c = some (i, x)) (ha : s.alone c = true)
    (hs : x.status = .ready) : s.departures c = s := by
  have only := residents_alone (res_of_current hc) (by simpa [State.alone] using ha)
  rw [State.departures, only]
  simp [current_lcore hc, hs]

theorem reschedule_alone {s : State} {c i : Nat} {x : LCore} (hc : s.current c = some (i, x)) (ha : s.alone c = true)
    (hs : x.status = .ready) : s.reschedule c = s := by
  simp [State.reschedule, departures_alone hc ha hs, hc, hs]

theorem mem_of_sget {α : Type} {m : Sparse (Option α)} {k : Nat} {v : α} (h : sget (fun _ => none) m k = some v) : (k, some v) ∈ m := by
  induction m with
  | nil => cases h
  | cons p t ih =>
    obtain ⟨i, w⟩ := p
    by_cases e : i = k
    · have hw : w = some v := by simpa [sget, e] using h
      simp [e, hw]
    · exact List.mem_cons_of_mem _ (ih (by simpa [sget, e] using h))

/-- While a logical core of a context is ready, the context has not halted. -/
theorem allHalted_of_ready {s : State} {i : Nat} {x : LCore} (hl : s.lcore i = some x) (hs : x.status = .ready) :
    s.allHalted x.k = false := by
  refine List.all_eq_false.2 ⟨(i, some x), mem_of_sget hl, ?_⟩
  simp [hs]

/-- Work that completes on a lone core whose logical core is ready moves nothing else (R34, R523). -/
theorem settled_alone {s : State} {c i : Nat} {x : LCore} (hc : s.current c = some (i, x)) (ha : s.alone c = true)
    (hs : x.status = .ready) : s.settled c i = s := by
  have hl := current_lcore hc
  simp only [State.settled, hl, reschedule_alone hc ha hs, State.haltEnd, allHalted_of_ready hl hs]
  split <;> rfl

/-! ## The state in which a sent word runs -/

section issued

variable {s : State} {c i : Nat} {x : LCore}

theorem issued_lcore : (s.issued c i x).lcore i = some x.next := by simp [State.issued]

theorem issued_core (q : Nat) : (s.issued c i x).core q = s.core q := by
  unfold State.issued State.diag
  split <;> rfl

theorem issued_seedOf (k : Nat) : (s.issued c i x).seedOf k = s.seedOf k := by
  unfold State.issued State.diag
  split <;> rfl

/-- After a word has issued and changed its ready logical core, a lone core has nothing to settle. -/
theorem settled_issued (h : s.issues c i x = true) (ha : s.alone c = true) {y : LCore} (hy : y.status = x.status) :
    ((s.issued c i x).setLcore i (some y)).settled c i = (s.issued c i x).setLcore i (some y) := by
  obtain ⟨-, hcur, hst, -⟩ := (issues_iff s c i x).1 h
  have core : ((s.issued c i x).setLcore i (some y)).core c = s.core c := issued_core c
  have res := res_of_current hcur
  rw [← core] at res
  exact settled_alone (current_of_res res (lcore_setLcore_same ..)) (by rwa [State.alone, core]) (hy.trans hst)

theorem words_issued (k : Nat) (h : Held) (tensor draw purpose : Nat) :
    (s.issued c i x).words k h tensor draw purpose = s.words k h tensor draw purpose := by
  funext n
  simp [State.words, issued_seedOf]

/-- The generator's word does not depend on what issuing changes (R75). -/
theorem drawWord_issued (h : Held) (n : Nat) : (s.issued c i x).drawWord x.next h n = s.drawWord x h n := by
  simp only [State.drawWord, words_issued]
  rfl

end issued

/-! ## One group of elements (R207) -/

theorem chunks_nil {α : Type} (n f : Nat) : chunks n f ([] : List α) = [] := by
  cases f <;> rfl

theorem chunks_of_length_le {α : Type} {n f : Nat} {l : List α} (hl : l ≠ []) (hn : l.length ≤ n) (hf : f ≠ 0) : chunks n f l = [l] := by
  obtain ⟨f, rfl⟩ := Nat.exists_eq_succ_of_ne_zero hf
  simp [chunks, hl, List.take_of_length_le hn, List.drop_eq_nil_of_le hn, chunks_nil]

theorem chunks_upto {n m : Nat} (h0 : n ≠ 0) (hn : n ≤ m) : chunks m n (upto n) = [upto n] :=
  chunks_of_length_le (by simpa [upto] using h0) (by simpa [upto] using hn) h0

/-- What vecGroups does for each group. -/
def writeGroup (make : State → LCore → List Nat → List ElemW) (i : Nat) (h : Held) (t : State) (g : List Nat) : State :=
  match t.lcore i with
  | none => t
  | some x =>
    if isTensor h.w 109 then t.put i h (bits h.w 56 52) ((x.asSent h).desc h.w 109) (make t (x.asSent h) g)
    else
      match make t (x.asSent h) g with
      | e :: _ => t.putScalar i h e
      | [] => t

section groups

variable {s : State} {c i : Nat} {x : LCore} {h : Held} (make : State → LCore → List Nat → List ElemW)

theorem vecGroups_eq (hl : s.lcore i = some x) : vecGroups make s c i h =
    ((chunks 64 ((x.asSent h).countOf h.w 109) (upto ((x.asSent h).countOf h.w 109))).foldl (writeGroup make i h) s).settled c i := by
  simp only [vecGroups, hl]
  rfl

theorem vecGroups_none (hl : s.lcore i = some x) (h0 : (x.asSent h).countOf h.w 109 = 0) : vecGroups make s c i h = s.settled c i := by
  rw [vecGroups_eq make hl, h0]
  rfl

theorem vecGroups_one (hl : s.lcore i = some x) {n : Nat} (hc : (x.asSent h).countOf h.w 109 = n) (h0 : n ≠ 0) (hn : n ≤ 64) :
    vecGroups make s c i h = (writeGroup make i h s (upto n)).settled c i := by
  rw [vecGroups_eq make hl, hc, chunks_upto h0 hn]
  rfl

variable {make}

theorem writeGroup_scalar (hl : s.lcore i = some x) (hd : isTensor h.w 109 = false) {g : List Nat} {e : ElemW}
    (hm : make s (x.asSent h) g = [e]) :
    writeGroup make i h s g = s.setLcore i (some ((x.countAll (bits h.w 56 52) [e]).setS (bits h.w 112 109) (BitVec.ofNat 32 e.bits))) := by
  simp [writeGroup, hl, hd, hm, putScalar_eq hl]

theorem writeGroup_sram (hl : s.lcore i = some x) (hd : isTensor h.w 109 = true) (hp : x.prefetches = [])
    (ht : ((x.asSent h).desc h.w 109).tier = 0) (g : List Nat) : writeGroup make i h s g =
      s.setLcore i (some (s.wrote x h (bits h.w 56 52) ((x.asSent h).desc h.w 109) (make s (x.asSent h) g))) := by
  simp [writeGroup, hl, hd, put_sram hl hp ht]

end groups

section sent

variable {s : State} {c i : Nat} {x : LCore} {w : IWord} {u : Uses} {make : State → LCore → List Nat → List ElemW}
  (h : s.issues c i x = true) (ha : s.alone c = true)

include h ha

/-- A word with a scalar destination makes one element, which goes to the S register. -/
theorem vecGroups_scalar (hd : isTensor w 109 = false) {e : ElemW} (hm : make (s.issued c i x) x.next [0] = [e]) :
    vecGroups make (s.issued c i x) c i (x.sent w u) = s.scalarDone c i x w e := by
  have one : (x.next.asSent (x.sent w u)).countOf w 109 = 1 := by simp [LCore.countOf, hd]
  rw [vecGroups_one make issued_lcore one Nat.one_ne_zero (by decide), writeGroup_scalar (h := x.sent w u) (g := upto 1) issued_lcore hd hm]
  exact settled_issued h ha (by rw [countAll_eq]; rfl)

/-- A word with a destination of at most one group in data SRAM writes the elements it makes there, and changes nothing else. -/
theorem vecGroups_sram (hd : isTensor w 109 = true) (hp : x.prefetches = []) (ht : (x.desc w 109).tier = 0)
    (hn : (x.desc w 109).count ≤ 64) (hnil : make (s.issued c i x) x.next [] = []) :
    ∃ y, vecGroups make (s.issued c i x) c i (x.sent w u) = (s.issued c i x).setLcore i (some y) ∧ x.sameButData y ∧ y.index = x.index + 1 ∧
      y.sram = ((x.desc w 109).byteWrites (make (s.issued c i x) x.next (upto (x.desc w 109).count))).foldl (fun m p => putByte m p.1 p.2) x.sram := by
  have count : (x.next.asSent (x.sent w u)).countOf w 109 = (x.desc w 109).count := by
    simp only [LCore.countOf, hd]; rfl
  by_cases h0 : (x.desc w 109).count = 0
  · have settled : (s.issued c i x).settled c i = s.issued c i x := by
      have issued := settled_issued h ha (y := x.next) rfl
      rwa [setLcore_issued] at issued
    have nothing : (x.desc w 109).byteWrites [] = [] := by simp [Desc.byteWrites, Desc.nibbles]
    have made : make (s.issued c i x) x.next (upto (x.desc w 109).count) = [] := by rw [h0]; exact hnil
    refine ⟨x.next, ?_, rfl, rfl, ?_⟩
    · rw [vecGroups_none make issued_lcore (count.trans h0), settled, setLcore_issued]
    · rw [made, nothing]
      rfl
  · have ran : vecGroups make (s.issued c i x) c i (x.sent w u) = (s.issued c i x).setLcore i (some ((s.issued c i x).wrote x.next
        (x.sent w u) (bits w 56 52) (x.desc w 109) (make (s.issued c i x) x.next (upto (x.desc w 109).count)))) := by
      rw [vecGroups_one make issued_lcore count h0 hn, writeGroup_sram (h := x.sent w u) issued_lcore hd hp ht]
      exact settled_issued h ha (by rw [wrote_sameButData]; rfl)
    exact ⟨_, ran, wrote_sameButData .., wrote_index .., rfl⟩

end sent

/-! ## Words that deliver one conversion for each element -/

theorem prefetches_of_unhindered {s : State} {c : Nat} {x : LCore} {w : IWord} {regs : List Nat} {u : Uses}
    (h : s.unhindered c x w regs u = true) : x.prefetches = [] := by
  simp only [State.unhindered, Bool.and_eq_true, List.isEmpty_iff] at h
  exact h.2

theorem convDst_scalar {s : State} {c i : Nat} {x : LCore} {w : IWord} (u : Uses) (hd : isTensor w 109 = false) (f : Nat → Exact) :
    (s.issued c i x).convDst x.next (x.sent w u) ([0].map (fun n => (n, f n))) = [s.scalarOut x w (f 0)] := by
  simp only [State.convDst, words_issued]
  simp only [LCore.sent, hd]
  rfl

theorem convDst_tensor {s : State} {c i : Nat} {x : LCore} {w : IWord} (u : Uses) (hd : isTensor w 109 = true) (f : Nat → Exact) :
    (s.issued c i x).convDst x.next (x.sent w u) ((upto (x.desc w 109).count).map (fun n => (n, f n))) = s.tensorOut x w f := by
  simp only [State.convDst, words_issued]
  simp only [LCore.sent, hd, List.map_map]
  rfl

theorem convDst_nil (s : State) (x : LCore) (h : Held) : s.convDst x h [] = [] := by
  simp [State.convDst, Desc.convAll, chunks_nil]

/-- Where `ok` holds, `run` carries out word w on core c by converting the exact result f n once for each element n. -/
def Converts (run : State → Nat → Nat → Held → State) (c : Nat) (w : IWord) (ok : LCore → Prop) (uses : LCore → Uses)
    (f : State → LCore → Nat → Exact) : Prop :=
  ∀ (s : State) (i : Nat) (x : LCore), ok x → ∃ make,
    run (s.issued c i x) c i (x.sent w (uses x)) = vecGroups make (s.issued c i x) c i (x.sent w (uses x)) ∧
    ∀ g, make (s.issued c i x) x.next g = (s.issued c i x).convDst x.next (x.sent w (uses x)) (g.map (fun n => (n, f s x n)))

section delivers

variable {ins : Instr} {c : Nat} {w : IWord} {regs : List Nat} {mist : State → LCore → List Mistake} {ok : LCore → Prop}
  {uses : LCore → Uses} {f : State → LCore → Nat → Exact} {own : Bool}

/-- A command that issues a word and sends it to such a run delivers f. -/
theorem delivers_of_converts {run : State → Nat → Nat → Held → State}
    (hexec : ∀ s, exec ins s = issue s c w own (mist s) (fun i x => s.sendTo c i x w regs (uses x) run)) (hown : own = true)
    (hrun : Converts run c w ok uses f) : Delivers ins c w regs mist ok uses f := by
  intro s i x hiss ha hm hok hfree
  obtain ⟨make, runs, makes⟩ := hrun s i x hok
  have goes : exec ins s = .next (vecGroups make (s.issued c i x) c i (x.sent w (uses x))) := by
    rw [hexec, issue_next hiss hown hm, sendTo_runs hfree, runs]
  refine ⟨fun hd => ?_, fun hd ht hn => ?_⟩
  · rw [goes, vecGroups_scalar hiss ha hd ((makes [0]).trans (convDst_scalar (uses x) hd (f s x)))]
  · obtain ⟨y, writes, same, index, sram⟩ := vecGroups_sram (u := uses x) hiss ha hd (prefetches_of_unhindered hfree) ht hn
      ((makes []).trans (convDst_nil ..))
    refine ⟨y, goes.trans (congrArg _ writes), same, index, ?_⟩
    rw [sram, makes, convDst_tensor (uses x) hd]

theorem delivers_of_vecRun {r : State → LCore → Held → Nat → Exact}
    (hexec : ∀ s, exec ins s = issue s c w own (mist s) (fun i x => s.sendTo c i x w regs (uses x) (vecRun r))) (hown : own = true)
    (hr : ∀ s i x n, r (s.issued c i x) x.next (x.sent w (uses x)) n = f s x n) : Delivers ins c w regs mist ok uses f :=
  delivers_of_converts hexec hown fun _ _ _ _ => ⟨_, rfl, fun _ => by simp only [hr]⟩

end delivers

/-! ## The words of O18 and O20 -/

/-- VCVT between two formats converts the operand's value (R211). -/
theorem converts_cvtRun {c : Nat} {w : IWord} {uses : LCore → Uses} :
    Converts cvtRun c w (fun x => x.fmtOf w 98 ≠ x.fmtOf w 109) uses (fun _ x n => (x.valOf w 98 n).exact) :=
  fun _ _ _ hne => ⟨_, rfl, fun _ => if_neg hne⟩

/-- VTAB and VTABD, where the table's bytes are valid, work with the table that the word names (R82, R212). -/
theorem converts_tabRun {r : LCore → Held → TableBytes → Nat → Exact} {c : Nat} {w : IWord} {uses : LCore → Uses} {f : LCore → Nat → Exact}
    (h : ∀ x n, r x.next (x.sent w (uses x)) (x.table w) n = f x n) :
    Converts (tabRun r) c w (fun x => lowest (tabLate x w) = none) uses (fun _ => f) := by
  intro s i x hvalid
  have valid : lowest (tabLate (x.next.asSent (x.sent w (uses x))) (x.sent w (uses x)).w) = none := hvalid
  have runs : tabRun r (s.issued c i x) c i (x.sent w (uses x)) =
      vecRun (fun _ y k n => r y k (x.table w) n) (s.issued c i x) c i (x.sent w (uses x)) := by
    simp only [tabRun, issued_lcore, valid]
    rfl
  exact ⟨_, runs, fun _ => by simp only [h]⟩

/-- Settles O18: each word's run converts the exact result that the statement names. -/
theorem vectorWordsDeliverOneConversion : Obligations.VectorWordsDeliverOneConversion := by
  intro c w
  refine ⟨fun ho hv => ?_, fun ho hv => ?_, fun ho h1 h2 => ?_, fun ho hv => ?_, fun ho hv => ?_, fun ho => ?_, fun ho => ?_, fun ho => ?_,
    fun ho h1 h2 => ?_, fun ho hv => ?_, fun ho hv => ?_, fun ho => ?_⟩
  · -- VADD
    exact delivers_of_vecRun (fun _ => rfl) (by simp [ho, hv]) fun _ _ _ _ => rfl
  · -- VADD op 1
    exact delivers_of_vecRun (fun _ => rfl) (by simp [ho, hv]) fun _ _ _ _ => rfl
  · -- VFMA
    exact delivers_of_vecRun (fun _ => rfl) (by simp [ho, h1, h2]) fun _ _ _ _ => rfl
  · -- VFMA op 1
    exact delivers_of_vecRun (fun _ => rfl) (by simp [ho, hv]) fun _ _ _ _ => rfl
  · -- VFMA op 2
    exact delivers_of_vecRun (fun _ => rfl) (by simp [ho, hv]) fun _ _ _ _ => rfl
  · -- VDIV
    exact delivers_of_vecRun (fun _ => rfl) (by simp [ho]) fun _ _ _ _ => rfl
  · -- VSQRT
    exact delivers_of_vecRun (fun _ => rfl) (by simp [ho]) fun _ _ _ _ => rfl
  · -- VSCALE
    exact delivers_of_vecRun (fun _ => rfl) (by simp [ho]) fun _ _ _ _ => rfl
  · -- VRNG
    exact delivers_of_vecRun (fun _ => rfl) (by simp [ho, h1, h2]) fun _ _ _ _ => by rw [drawWord_issued]
  · -- VRNG op 1
    exact delivers_of_vecRun (fun _ => rfl) (by simp [ho, hv]) fun _ _ _ _ => by rw [drawWord_issued]
  · -- VRNG op 2
    exact delivers_of_vecRun (fun _ => rfl) (by simp [ho, hv]) fun _ _ _ _ => by rw [drawWord_issued]; rfl
  · -- VCVT
    exact delivers_of_converts (fun _ => rfl) (by simp [ho]) converts_cvtRun

/-- Settles O20: the words of a valid table run over it as VTAB's conversions do. -/
theorem tableWordsDeliverTheTable : Obligations.TableWordsDeliverTheTable := by
  intro c w
  refine ⟨fun ho => ?_, fun ho hv => ?_, fun ho hv => ?_⟩
  · exact delivers_of_converts (fun _ => rfl) (by simp [ho]) (converts_tabRun fun _ _ => rfl)
  · exact delivers_of_converts (fun _ => rfl) (by simp [ho, hv]) (converts_tabRun fun _ _ => rfl)
  · exact delivers_of_converts (fun _ => rfl) (by simp [ho, hv]) (converts_tabRun fun _ _ => rfl)

/-! ## VCVT within one format -/

/-- The element that VCVT makes of a scalar operand within one format (R70, R211). -/
def LCore.scalarCopy (x : LCore) (w : IWord) : ElemW :=
  { row := 0, col := 0, bits := x.bitsOf w 98 0, scale := x.scaleOf w 98 0, cls := copyClass (x.valOf w 98 0) }

theorem scalarCopy_bits {x : LCore} {w : IWord} (h : isTensor w 98 = false) :
    BitVec.ofNat 32 (x.scalarCopy w).bits = x.getS (bits w 101 98) := by
  simp [LCore.scalarCopy, LCore.bitsOf, h]

theorem cvtRun_scalarCopy {s : State} {c i : Nat} {x : LCore} {w : IWord} {u : Uses} (h : s.issues c i x = true) (ha : s.alone c = true)
    (hd : isTensor w 109 = false) (hfmt : x.fmtOf w 98 = x.fmtOf w 109) :
    cvtRun (s.issued c i x) c i (x.sent w u) = s.scalarDone c i x w (x.scalarCopy w) := by
  refine vecGroups_scalar h ha hd ((if_pos hfmt).trans ?_)
  simp only [LCore.sent, hd]
  rfl

/-- Settles O19: within one format VCVT makes an element of the operand's own bits. -/
theorem conversionWithinAFormatCopies : Obligations.ConversionWithinAFormatCopies := by
  intro s c i x w h ha ho hm hfree hd hsrc hfmt
  have copies : exec (.vcvt c w) s = .next (s.scalarDone c i x w (x.scalarCopy w)) :=
    (issue_next h (by simp [ho]) hm).trans (congrArg _ ((sendTo_runs hfree).trans (cvtRun_scalarCopy h ha hd hfmt)))
  refine ⟨_, copies, ?_, fun n hn => ?_, ?_⟩
  · rw [scalarCopy_bits hsrc]
    exact sget_sput_same ..
  · rw [countAll_eq]
    exact sget_sput_other _ _ _ hn
  · rw [countAll_eq]
    rfl

end Sys2Proof.Machine
end

section
/-! PROOFS. The exact sum of an entry's terms does not depend on their order (R88 to R92). -/

namespace Sys2Proof.Machine

/-- What one term does to each field of an entry: a finite term goes to m and the others to their flags (R89, R90). -/
theorem entry_add (e : Entry) (v : Val) : e.add v =
    { e with m := e.m + BitVec.ofInt 640 v.scaled, nan := e.nan || v.isNan, pinf := e.pinf || decide (v = .inf false),
             ninf := e.ninf || decide (v = .inf true), any := true, negz := (!e.any || e.negz) && v.isZero && v.neg } := by
  cases v with
  | nan s => simp [Entry.add, Val.scaled, Val.isNan, Val.isZero]
  | inf s => cases s <;> simp [Entry.add, Val.scaled, Val.isNan, Val.isZero]
  | fin s m x => cases h : e.any <;> simp [Entry.add, Val.isNan, h]

theorem entry_add_comm (e : Entry) (v w : Val) : (e.add v).add w = (e.add w).add v := by
  simp only [entry_add, BitVec.add_assoc, BitVec.add_comm (BitVec.ofInt 640 v.scaled), Bool.or_right_comm]
  simp only [Bool.not_true, Bool.false_or, Bool.and_assoc, Entry.mk.injEq, true_and, and_true]
  ac_rfl

/-- m holds the terms' sum modulo 2^640, whatever the terms. -/
theorem entry_addAll_m (e : Entry) (vs : List Val) : (e.addAll vs).m = e.m + BitVec.ofInt 640 (vs.map Val.scaled).sum := by
  induction vs generalizing e with
  | nil => simp [Entry.addAll]
  | cons v vs ih =>
    have head : (e.add v).m = e.m + BitVec.ofInt 640 v.scaled := by rw [entry_add]
    rw [Entry.addAll, List.foldl_cons, ← Entry.addAll, ih, head, List.map_cons, List.sum_cons, BitVec.ofInt_add, BitVec.add_assoc]

theorem toInt_ofInt_succ {w : Nat} {z : Int} (lower : -(2 ^ w) ≤ z) (upper : z < 2 ^ w) : (BitVec.ofInt (w + 1) z).toInt = z :=
  BitVec.toInt_ofInt_eq_self (Nat.succ_pos w) lower upper

/-- Settles O9: the terms commute, and m, which holds their sum modulo 2^640, is the sum while that lies in its range. -/
theorem exactSumIgnoresOrder : Obligations.ExactSumIgnoresOrder := by
  unfold Obligations.ExactSumIgnoresOrder
  refine ⟨fun e vs ws h => h.foldl_eq' (fun v _ w _ e => entry_add_comm e v w) e, fun e vs _ lower upper => ?_⟩
  have sum : (e.addAll vs).m = BitVec.ofInt 640 (e.m.toInt + (vs.map Val.scaled).sum) := by
    rw [entry_addAll_m, BitVec.ofInt_add, BitVec.ofInt_toInt]
  rw [sum]
  exact toInt_ofInt_succ lower upper

end Sys2Proof.Machine
end

section
/-! PROOFS. A pass on a logical core whose marrow entries are not in canonical form (R102 to R104). -/

namespace Sys2Proof.Machine

/-- A tile of one column of zeros. -/
def zeroColumn : Tile := { shape := 4, fmt := 0, cells := [], scales := [] }

/-- Entry 64 (array 0, row 1, column 0) is listed twice, and entry 0 holds 2^−300 + 2^−100 in its window, where it does not fit.
That is not the canonical form `swf`, which writes keep (`swf_sput`) and which O16 does not ask of its logical core. -/
def entry64Twice : LCore :=
  { tiles := [(0, some zeroColumn)]
    marrow := [(0, { m := 1 + 2 ^ 200, any := true }), (64, { m := 1, any := true }), (64, { m := 2, any := true, place := .slot 190 })] }

/-- The slots of the other resident logical core: with slot 190, as many as array 0 may hold (R103). -/
def slots190 : List (Nat × Nat) := (upto 190).map (fun n => (0, n))

/-- Entry 0 needs a slot and none is left, so that the pass drains the second entry 64, which takes the first one's place. -/
theorem value_entry64_passArray :
    ((entry64Twice.passArray slots190 0 0 0 0 0).core.entry 64).value = .fin false 2 (-300) := by decide +kernel

/-- Refutes O16: where the marrow's list names an entry twice, a drain changes the value of an entry of another row. -/
theorem not_passAddsExactTerms : ¬ Obligations.PassAddsExactTerms := by
  unfold Obligations.PassAddsExactTerms
  intro adds
  obtain ⟨-, others⟩ := adds entry64Twice slots190 0 0 0 0 0 zeroColumn rfl (by decide) (by decide)
  have kept := others 64 fun col (hcol : col < 1) => by simp only [ekey]; omega
  rw [value_entry64_passArray] at kept
  exact absurd kept (by decide +kernel)

end Sys2Proof.Machine
end

section
/-! PROOFS. VRED and VTOPK on a lone core (R113, R213 to R217). -/

namespace Sys2Proof.Machine

/-! ## What counting an event leaves as it is -/

@[simp] theorem diag_core (s : State) (c sub n : Nat) (on : Bool) (q : Nat) : (s.diag c sub n on).core q = s.core q := by
  unfold State.diag
  split <;> rfl

@[simp] theorem diag_mem (s : State) (c sub n : Nat) (on : Bool) : (s.diag c sub n on).mem = s.mem := by
  unfold State.diag
  split <;> rfl

@[simp] theorem diag_seedOf (s : State) (c sub n : Nat) (on : Bool) (k : Nat) : (s.diag c sub n on).seedOf k = s.seedOf k := by
  unfold State.diag
  split <;> rfl

section reductions

variable {s : State} {c i : Nat} {x : LCore} {w : IWord}

/-- After a word of a lone core has issued, a state with the same cores and its logical core still ready has nothing to settle. -/
theorem settled_of_issues (h : s.issues c i x = true) (ha : s.alone c = true) {t : State} {y : LCore} (core : t.core c = s.core c)
    (hl : t.lcore i = some y) (hy : y.status = x.status) : t.settled c i = t := by
  obtain ⟨-, hcur, ready, -⟩ := (issues_iff s c i x).1 h
  refine settled_alone (current_of_res ?_ hl) (by rwa [State.alone, core]) (hy.trans ready)
  rw [core]
  exact res_of_current hcur

@[simp] theorem sent_w (u : Uses) : (x.sent w u).w = w := rfl

/-! ## VRED in whole mode (R213) -/

/-- The marrow register that VRED leaves, with the extra cycles of its groups (R213, R214). -/
def LCore.reduction (x : LCore) (w : IWord) : VReg × Nat :=
  (if bit w 45 then ({} : VReg) else x.vreg (bits w 47 46)).addAll (bits w 51 48) ((upto (x.countOf w 98)).map (x.valOf w 98))

/-- The state once VRED has issued and its marrow register is written. -/
def State.reduced (s : State) (c i : Nat) (x : LCore) (w : IWord) : State :=
  ((s.issued c i x).setLcore i (some (x.next.setVreg (bits w 47 46) (x.reduction w).1))).diag c 0x19 (x.reduction w).2 x.diagnostic

theorem reduced_lcore : (s.reduced c i x w).lcore i = some (x.next.setVreg (bits w 47 46) (x.reduction w).1) := by
  simp [State.reduced]

theorem reduced_core (q : Nat) : (s.reduced c i x w).core q = s.core q := by
  simp [State.reduced, State.issued]

theorem reduced_mem : (s.reduced c i x w).mem = s.mem := by
  simp [State.reduced, State.issued]

theorem reduced_seedOf (k : Nat) : (s.reduced c i x w).seedOf k = s.seedOf k := by
  rw [State.reduced, diag_seedOf]
  exact issued_seedOf k

/-- The one element that VRED's scalar destination gets: the one conversion of the register's result (R113, R206). -/
def State.redElem (s : State) (x : LCore) (w : IWord) : ElemW := s.scalarOut x w ((x.reduction w).1.result (bits w 51 48))

theorem convDst_one (hd : isTensor w 109 = false) {t : State} {y : LCore} (hk : t.seedOf y.k = s.seedOf x.k) (u : Uses) (r : Exact) :
    t.convDst y (x.sent w u) [(0, r)] = [s.scalarOut x w r] := by
  simp only [State.convDst, State.words, hk]
  simp only [LCore.sent, hd]
  rfl

theorem redRun_accumulates (h : s.issues c i x = true) (ha : s.alone c = true) (u : Uses) (hf : bit w 44 = false) :
    redRun (s.issued c i x) c i (x.sent w u) = s.reduced c i x w := by
  have run : redRun (s.issued c i x) c i (x.sent w u) = (s.reduced c i x w).settled c i := by
    simp only [redRun, issued_lcore, sent_w, hf]
    rfl
  exact run.trans (settled_of_issues h ha (reduced_core c) reduced_lcore rfl)

/-- The logical core once VRED has finished into its S register (R138, R213). -/
def State.finished (s : State) (x : LCore) (w : IWord) : LCore :=
  ((x.next.setVreg (bits w 47 46) (x.reduction w).1).countAll (bits w 56 52) [s.redElem x w]).setS (bits w 112 109)
    (BitVec.ofNat 32 (s.redElem x w).bits)

theorem finished_eq (s : State) (x : LCore) (w : IWord) : s.finished x w =
    { (x.next.setVreg (bits w 47 46) (x.reduction w).1).setS (bits w 112 109) (BitVec.ofNat 32 (s.redElem x w).bits) with
      sets := (s.finished x w).sets } := by
  unfold State.finished
  rw [countAll_eq]
  rfl

theorem finished_vreg : (s.finished x w).vreg (bits w 47 46) = (x.reduction w).1 := by
  rw [finished_eq]
  exact sget_sput_same ..

theorem finished_getS : (s.finished x w).getS (bits w 112 109) = BitVec.ofNat 32 (s.redElem x w).bits := by
  rw [finished_eq]
  exact sget_sput_same ..

theorem redRun_finishes (h : s.issues c i x = true) (ha : s.alone c = true) (u : Uses) (hf : bit w 44 = true) (hd : isTensor w 109 = false) :
    redRun (s.issued c i x) c i (x.sent w u) = (s.reduced c i x w).setLcore i (some (s.finished x w)) := by
  have run : redRun (s.issued c i x) c i (x.sent w u) = ((s.reduced c i x w).putScalar i (x.sent w u) (s.redElem x w)).settled c i := by
    simp only [redRun, issued_lcore, sent_w, hf, hd, if_true, Bool.false_eq_true, if_false]
    rw [convDst_one (s := s) hd]
    · rfl
    · exact reduced_seedOf x.k
  have stored : (s.reduced c i x w).putScalar i (x.sent w u) (s.redElem x w) = (s.reduced c i x w).setLcore i (some (s.finished x w)) :=
    putScalar_eq reduced_lcore ..
  rw [run, stored]
  exact settled_of_issues h ha (reduced_core c) (lcore_setLcore_same ..) (by rw [finished_eq]; rfl)

/-! ## VTOPK (R217) -/

/-- The elements that VTOPK makes of the one row of its operand: each of the k greatest with its column (R217). -/
def LCore.topElems (x : LCore) (w : IWord) : List ElemW :=
  (upto (bits w 47 44 + 1)).flatMap (fun n =>
    [{ row := 0, col := 2 * n, bits := ((x.topRow (x.desc w 98) 0 (bits w 47 44 + 1)).getD n (0, 0xFFFFFFFF)).1.toNat, scale := 127, cls := 0 },
     { row := 0, col := 2 * n + 1, bits := ((x.topRow (x.desc w 98) 0 (bits w 47 44 + 1)).getD n (0, 0xFFFFFFFF)).2.toNat, scale := 127, cls := 0 }])

theorem topkRun_oneRow (u : Uses) (hr : (x.desc w 98).rows = 1) :
    topkRun (s.issued c i x) c i (x.sent w u) = ((s.issued c i x).put i (x.sent w u) 0 (x.desc w 109) (x.topElems w)).settled c i := by
  have one : ((x.next.asSent (x.sent w u)).desc w 98).rows = 1 := hr
  simp only [topkRun, issued_lcore, sent_w, one, upto, List.range_one, List.foldl_cons, List.foldl_nil]
  rfl

theorem topkRun_sram (h : s.issues c i x = true) (ha : s.alone c = true) (u : Uses) (hp : x.prefetches = []) (hr : (x.desc w 98).rows = 1)
    (ht : (x.desc w 109).tier = 0) : topkRun (s.issued c i x) c i (x.sent w u) =
      (s.issued c i x).setLcore i (some ((s.issued c i x).wrote x.next (x.sent w u) 0 (x.desc w 109) (x.topElems w))) := by
  rw [topkRun_oneRow u hr, put_sram issued_lcore hp ht]
  exact settled_issued h ha (by rw [wrote_sameButData]; rfl)

end reductions

/-- Settles O21: VRED leaves the reduction in its marrow register, and its row mode and VTOPK run once issued. -/
theorem reductionsAndTopKRun : Obligations.ReductionsAndTopKRun := by
  unfold Obligations.ReductionsAndTopKRun
  refine ⟨fun s c i x w h ha ho whole hm hfree r hr => ?_, fun s c i x w h ho rows hm hfree => ?_, fun s c i x w h ha ho hm hfree hr ht => ?_⟩
  · have runs : exec (.vred c w) s = .next (redRun (s.issued c i x) c i (x.sent w (redUses w x))) :=
      (issue_next h (by simp [ho, whole]) hm).trans (congrArg _ (sendTo_runs hfree))
    subst hr
    refine ⟨fun hf => ?_, fun hf hd => ?_⟩
    · exact ⟨_, runs.trans (congrArg _ (redRun_accumulates h ha _ hf)), reduced_lcore, reduced_mem⟩
    · exact ⟨_, s.finished x w, runs.trans (congrArg _ (redRun_finishes h ha _ hf hd)), lcore_setLcore_same .., finished_vreg,
        by rw [finished_eq]; rfl, finished_getS, by rw [finished_eq]; rfl, by rw [finished_eq]; rfl, reduced_mem⟩
  · exact (issue_next h (by simp [ho, rows]) hm).trans (congrArg _ (sendTo_runs hfree))
  · have runs : exec (.vtopk c w) s = .next (topkRun (s.issued c i x) c i (x.sent w (elemUses w x [98]))) :=
      (issue_next h (by simp [ho]) hm).trans (congrArg _ (sendTo_runs hfree))
    exact ⟨_, runs.trans (congrArg _ (topkRun_sram h ha _ (prefetches_of_unhindered hfree) hr ht)), wrote_index .., wrote_sameButData .., rfl⟩

end Sys2Proof.Machine
end

section
/-! PROOFS. Words of the matrix engine that nothing holds back: MWT loads its tile, and MSTR, MOUT and MSWAP join the engine's order
(R117 to R127, R195, R198, R202, R653). -/

namespace Sys2Proof.Machine

/-! ## Tiles (R117) -/

theorem tileKey_inj {a b : Nat} {u v : Bool} (h : (2 * a + if u then 1 else 0) = 2 * b + if v then 1 else 0) : a = b ∧ u = v := by
  cases u <;> cases v <;> simp at h ⊢ <;> omega

@[simp] theorem tile_setTile_same (x : LCore) (a : Nat) (shadow : Bool) (v : Option Tile) :
    (x.setTile a shadow v).tile a shadow = v := sget_sput_same ..

/-- Loading or exchanging a tile leaves those of the other array and of the other side. -/
theorem tile_setTile_other (x : LCore) {a b : Nat} {u v : Bool} (t : Option Tile) (h : ¬(b = a ∧ v = u)) :
    (x.setTile a u t).tile b v = x.tile b v := sget_sput_other _ _ _ fun key => h (tileKey_inj key)

@[simp] theorem tile_setLoads (x : LCore) (a : Nat) (l : Nat × Nat × Nat) (b : Nat) (shadow : Bool) :
    (x.setLoads a l).tile b shadow = x.tile b shadow := rfl

/-! ## Words that nothing holds back -/

theorem mq_of_unhindered {s : State} {c : Nat} {x : LCore} {w : IWord} {regs : List Nat} {u : Uses}
    (h : s.unhindered c x w regs u = true) : x.mq = [] := by
  simp only [State.unhindered, Bool.and_eq_true, List.isEmpty_iff] at h
  obtain ⟨⟨⟨-, hq⟩, -⟩, -⟩ := h
  exact hq

theorem noPrefetches_eq {x : LCore} (hp : x.prefetches = []) : ({ x with prefetches := [] } : LCore) = x := by rw [← hp]

theorem refetch_nil (s : State) (i : Nat) : s.refetch i [] [] = s := rfl

theorem issued_mem {s : State} {c i : Nat} {x : LCore} : (s.issued c i x).mem = s.mem := diag_mem ..

/-! ## MWT (R195) -/

/-- The logical core once the MWT of h has loaded its tile (R117, R121, R128). -/
def LCore.loaded (x : LCore) (now : Nat) (h : Held) : LCore :=
  let l := x.loadsOf (bits h.w 119 119)
  (x.setTile (bits h.w 119 119) true (some (x.readTile h))).setLoads (bits h.w 119 119)
    (max now (max l.1 l.2.2) + loadTime (bits h.w 118 116), l.2.1, l.2.2)

theorem tile_loaded_shadow (x : LCore) (now : Nat) (h : Held) :
    (x.loaded now h).tile (bits h.w 119 119) true = some (x.readTile h) := by
  rw [LCore.loaded, tile_setLoads, tile_setTile_same]

theorem tile_loaded_active (x : LCore) (now : Nat) (h : Held) (a : Nat) : (x.loaded now h).tile a false = x.tile a false := by
  rw [LCore.loaded, tile_setLoads, tile_setTile_other _ _ (by simp)]

/-- A load that nothing holds back runs at once when no prefetch entry is live (R117, R129). -/
theorem runLoads_load {s : State} {i at_ : Nat} {x : LCore} {h : Held} {no : List Nat} (hl : s.lcore i = some x)
    (hp : x.prefetches = []) (hn : nextLoad x.mq no 0 = some (at_, h)) (c n : Nat) : State.runLoads c i (n + 1) no s =
      State.runLoads c i n no (s.setLcore i (some { x.loaded s.now h with mq := x.mq.eraseIdx at_ })) := by
  simp only [State.runLoads, hl, hn, hp, gates, noPrefetches_eq hp, List.foldl_nil, refetch_nil, lcore_setLcore_same, setLcore_setLcore]
  rfl

/-- An MWT that finds no other work of the matrix engine and no prefetch entry loads its tile at once. -/
theorem mwtRun_loads {s : State} {i : Nat} {x : LCore} (hl : s.lcore i = some x) (hq : x.mq = []) (hp : x.prefetches = [])
    (c : Nat) (h : Held) : mwtRun s c i h = s.setLcore i (some (x.loaded s.now h)) := by
  have joined : mwtRun s c i h = State.runLoads c i 1 [] (s.setLcore i (some { x with mq := [.load h] })) := by
    simp only [mwtRun, hl, hq, List.nil_append, State.loadNow, lcore_setLcore_same]
    rfl
  have emptied : { ({ x with mq := [.load h] } : LCore).loaded s.now h with mq := [] } = x.loaded s.now h := by
    rw [← hq]
    rfl
  rw [joined, runLoads_load (x := { x with mq := [.load h] }) (lcore_setLcore_same ..) hp rfl, setLcore_setLcore]
  exact congrArg (fun y => s.setLcore i (some y)) emptied

/-! ## MSTR, MOUT and MSWAP (R119, R125, R127) -/

/-- An MSTR that finds no other work of the matrix engine leaves its passes there, row by row and slice by slice. -/
theorem mstrRun_joins {s : State} {i : Nat} {x : LCore} (hl : s.lcore i = some x) (hq : x.mq = []) (c : Nat) (h : Held) :
    mstrRun s c i h = s.setLcore i (some { x with
      mq := (upto (bits h.w 104 99)).flatMap (fun j =>
        ((slicePasses ((x.asSent h).desc h.w 105).fmt
            (((arraysOf h.w).filterMap (fun a => (x.tile a false).map (fun t => t.fmt))).headD 0)).zipIdx).map
          (fun p => MItem.pass h (bits h.w 98 93 + j) p.1.1 p.1.2 (p.2 = 0))) }) := by
  have fmts : (arraysOf h.w).filterMap (fun a => (x.tile a false).map (fun t => t.fmt)) =
      ((arraysOf h.w).filterMap (fun a => (x.tile a false).map (fun t => (t.shape, t.fmt)))).map Prod.snd := by
    simp [List.map_filterMap, Function.comp_def]
  simp only [mstrRun, hl, hq, List.nil_append, LCore.tilesSoon, List.foldl_nil, fmts]
  cases (arraysOf h.w).filterMap (fun a => (x.tile a false).map (fun t => (t.shape, t.fmt))) <;> rfl

/-- An MOUT leaves its rows, each over the columns of the active tile (R198). -/
theorem moutRun_joins {s : State} {i : Nat} {x : LCore} (hl : s.lcore i = some x) (hq : x.mq = []) (c : Nat) (h : Held) :
    moutRun s c i h = s.setLcore i (some { x with
      mq := (upto (bits h.w 112 107)).map (fun j => MItem.out h (bits h.w 118 113 + j)
        ((x.tile (bits h.w 119 119) false).elim 64 (fun t => (shapeDims t.shape).2))) }) := by
  simp only [moutRun, hl, hq, List.nil_append, LCore.tilesSoon, List.foldl_nil]
  cases x.tile (bits h.w 119 119) false <;> rfl

theorem mswapRun_joins {s : State} {i : Nat} {x : LCore} (hl : s.lcore i = some x) (hq : x.mq = []) (c : Nat) (h : Held) :
    mswapRun s c i h = s.setLcore i (some { x with mq := [.swap (bits h.w 119 118)] }) := by
  simp only [mswapRun, hl, hq, List.nil_append]

/-- Settles O15: once issued, each word runs in an engine that has nothing else to do. -/
theorem matrixWordsJoinTheirOrder : Obligations.MatrixWordsJoinTheirOrder := by
  unfold Obligations.MatrixWordsJoinTheirOrder
  refine ⟨fun s c i x w h ho hm hfree => ?_, fun s c i x w h ho hm hfree => ?_, fun s c i x w h ho hm hfree => ?_,
    fun s c i x w h ho hm hfree => ?_⟩ <;> have empty := mq_of_unhindered hfree
  · have runs : exec (.mwt c w) s = .next (mwtRun (s.issued c i x) c i (x.sent w (mwtUses w x))) :=
      (issue_next h (by simp [ho]) hm).trans (congrArg _ (sendTo_runs hfree))
    rw [mwtRun_loads issued_lcore empty (prefetches_of_unhindered hfree)] at runs
    exact ⟨_, _, runs, lcore_setLcore_same .., tile_loaded_shadow .., tile_loaded_active .., empty, rfl, rfl, issued_mem⟩
  · exact (issue_next h (by simp [ho]) hm).trans (congrArg _ ((sendTo_runs hfree).trans (mstrRun_joins issued_lcore empty ..)))
  · exact (issue_next h (by simp [ho]) hm).trans (congrArg _ ((sendTo_runs hfree).trans (moutRun_joins issued_lcore empty ..)))
  · exact (issue_next h (by simp [ho]) hm).trans (congrArg _ ((sendTo_runs hfree).trans (mswapRun_joins issued_lcore empty ..)))

end Sys2Proof.Machine
end

section
/-! PROOFS. The events of the matrix engine: swaps of tiles, steps of activity, admitted passes and rows of MOUT (R125 to R133, R200,
R202). -/

namespace Sys2Proof.Machine

/-! ## Swaps of tiles (R202) -/

/-- A swap gives each side of its array the tile of the other side. -/
theorem tile_swapTiles_same (x : LCore) (a : Nat) (shadow : Bool) : (x.swapTiles a).tile a shadow = x.tile a (!shadow) := by
  rw [LCore.swapTiles, tile_setLoads]
  cases shadow with
  | false => rw [tile_setTile_other _ _ (by simp), tile_setTile_same]; rfl
  | true => rw [tile_setTile_same]; rfl

theorem tile_swapTiles_other (x : LCore) {a b : Nat} (h : b ≠ a) (shadow : Bool) : (x.swapTiles a).tile b shadow = x.tile b shadow := by
  rw [LCore.swapTiles, tile_setLoads, tile_setTile_other _ _ (by simp [h]), tile_setTile_other _ _ (by simp [h])]

/-- Swaps of different arrays exchange the tiles of these arrays and of no other. -/
theorem tile_foldl_swapTiles {l : List Nat} (hl : l.Nodup) (x : LCore) (a : Nat) (shadow : Bool) :
    (l.foldl LCore.swapTiles x).tile a shadow = x.tile a (if a ∈ l then !shadow else shadow) := by
  induction l generalizing x with
  | nil => rfl
  | cons b t ih =>
    obtain ⟨hb, ht⟩ := List.nodup_cons.1 hl
    rw [List.foldl_cons, ih ht]
    by_cases h : a = b
    · subst h
      simp [hb, tile_swapTiles_same]
    · simp [h, tile_swapTiles_other x h]

/-- The swap of the arrays that arr names. -/
theorem tile_swapArrays (x : LCore) (arr : Nat) {a : Nat} (ha : a < 2) (shadow : Bool) :
    (((upto 2).filter (fun a => arr.testBit a)).foldl LCore.swapTiles x).tile a shadow =
      if arr.testBit a then x.tile a (!shadow) else x.tile a shadow := by
  rw [tile_foldl_swapTiles (List.Pairwise.filter _ (by decide : (upto 2).Nodup))]
  simp only [upto, List.mem_filter, List.mem_range, ha, true_and]
  split <;> rfl

/-! ## What comes first in the engine's order (R125 to R127) -/

theorem nextSwap_single (arr : Nat) : nextSwap [.swap arr] [] 0 = some (0, arr) := by
  simp [nextSwap]

theorem nextPass_head {h : Held} {row sa sb : Nat} {first : Bool} {q : List MItem} (hq : q.head? = some (.pass h row sa sb first)) :
    nextPass q [] [] = some (.pass h row sa sb first) := by
  obtain ⟨q, rfl⟩ := List.head?_eq_some_iff.1 hq
  simp [nextPass]

theorem nextOut_single {a row n : Nat} {h : Held} (ha : bits h.w 119 119 = a) : nextOut a [.out h row n] [] 0 = some (0, h, row, n) := by
  simp [nextOut, ha]

/-! ## Events (R125 to R133) -/

theorem onUnit_core {c : Nat} (hc : c < 1152) (t : State) : onUnit (decide (c < 1152)) t = .next t := by simp [onUnit, hc]

theorem onUnit_array {c a : Nat} (hc : c < 1152) (ha : a < 2) (t : State) : onUnit (decide (c < 1152) && decide (a < 2)) t = .next t := by
  simp [onUnit, hc, ha]

theorem ramp_setRamp_same (p : Core) (a : Nat) (r : Ramp) : (p.setRamp a r).ramp a = r := by
  unfold Core.setRamp Core.ramp
  split <;> rfl

/-- λ rises by one after the cycles that it asks for (R132). -/
theorem activityRise_next {s : State} {c a : Nat} (hc : c < 1152) (ha : a < 2) (waits : passWaits s (s.core c) a = true)
    (low : ((s.core c).ramp a).lam < 8) {t : State} (ht : s.passCycles (4 - ((s.core c).ramp a).still) = t) :
    exec (.activityRise c a) s = .next (t.setCore c ((t.core c).setRamp a { (t.core c).ramp a with
      lam := ((t.core c).ramp a).lam + 1, credit := ((t.core c).ramp a).credit + 1, still := 0 })) := by
  subst ht
  exact (onUnit_array hc ha _).trans (by simp [waits, low])

/-- λ falls by one after the idle run and the cycles that it asks for (R132). -/
theorem activityFall_next {s : State} {c a : Nat} (hc : c < 1152) (ha : a < 2) (idle : passWaits s (s.core c) a = false)
    (high : 0 < ((s.core c).ramp a).lam) {t : State}
    (ht : s.passCycles (max (32 - ((s.core c).ramp a).idle) (4 - ((s.core c).ramp a).still)) = t) :
    exec (.activityFall c a) s = .next (t.setCore c ((t.core c).setRamp a { (t.core c).ramp a with
      lam := ((t.core c).ramp a).lam - 1, credit := ((t.core c).ramp a).credit - 1, still := 0 })) := by
  subst ht
  exact (onUnit_array hc ha _).trans (by simp [idle, high])

section owner

variable {s : State} {c i : Nat} {x : LCore} (hc : c < 1152) (owner : matrixOwner s (s.core c) = some i) (hl : s.lcore i = some x)

include hc owner hl

/-- The swap that comes first takes effect once the loads of its arrays are complete (R127). -/
theorem tileSwapEffect_next {n arr : Nat} (hn : nextSwap x.mq [] 0 = some (n, arr)) : exec (.tileSwapEffect c) s =
    .next (State.doSwap (s.passCycles (((upto 2).filter (fun a => arr.testBit a)).foldl (fun m a => max m (x.loadsOf a).1) 0 - s.now))
      c i x n arr) :=
  (onUnit_core hc _).trans (by simp only [owner, hl, hn])

/-- The pass that comes first is admitted when the credits reach 8 and no stall holds it, when no prefetch entry is live (R130, R133). -/
theorem passAdmitted_next {h : Held} {row sa sb : Nat} {first : Bool} (hn : nextPass x.mq [] [] = some (.pass h row sa sb first))
    (hp : x.prefetches = [])
    (hr : ((arraysOf h.w).any (fun a => ((s.core c).ramp a).lam = 0 && ((s.core c).ramp a).credit < 8)) = false) :
    exec (.passAdmitted c) s = .next (((s.setLcore i (some x)).passCycles
      ((arraysOf h.w).foldl (fun m a => max m ((s.core c).ramp a).until) (s.core c).stall)).admitRow c i x h row sa sb first) := by
  refine (onUnit_core hc _).trans ?_
  simp only [owner, hl, hn, hr, hp, gates, ite_self, Bool.false_eq_true, if_false, noPrefetches_eq hp, List.foldl_nil, refetch_nil, lcore_setLcore_same]

/-- The row that comes first for array a is converted once it is readable and the array's unit is free (R125). -/
theorem moutRowRead_next {a : Nat} (ha : a < 2) {at_ row n : Nat} {h : Held} (hn : nextOut a x.mq [] 0 = some (at_, h, row, n))
    (hlate : row = bits h.w 118 113 → lowest (moutLate x h) = none) : exec (.moutRowRead c a) s =
      .next ((s.passCycles (max ((s.core c).conv a) (sget (fun _ => 0) x.rowAt (a * 32 + row) - s.now))).outRow c i x at_ h a row n) := by
  have timely : (if row = bits h.w 118 113 then lowest (moutLate x h) else none) = none := by
    split
    · exact hlate ‹_›
    · rfl
  exact (onUnit_array hc ha _).trans (by simp only [owner, hl, hn, timely])

end owner

/-- Settles O17: each event by its own lemma, with the tiles that a swap exchanges and the ramp that a step of activity sets. -/
theorem matrixEventsRun : Obligations.MatrixEventsRun := by
  unfold Obligations.MatrixEventsRun
  refine ⟨fun s c i arr x hc owner hl hq => ⟨?_, fun a ha => ⟨tile_swapArrays x arr ha false, tile_swapArrays x arr ha true⟩⟩,
    fun s c i row sa sb x h first hc owner hl hq hp hr => passAdmitted_next hc owner hl (nextPass_head hq) hp hr,
    fun s c a hc ha waits low => ⟨_, activityRise_next hc ha waits low rfl, ?_⟩,
    fun s c a hc ha idle high => ⟨_, activityFall_next hc ha idle high rfl, ?_⟩,
    fun s c a i row n x h hc ha owner hl hq harr hlate => ?_⟩
  · exact tileSwapEffect_next hc owner hl (by rw [hq, nextSwap_single])
  · rintro u rfl
    simp [ramp_setRamp_same]
  · rintro u rfl
    simp [ramp_setRamp_same]
  · exact moutRowRead_next hc owner hl ha (by rw [hq, nextOut_single harr]) hlate

end Sys2Proof.Machine
end

section
/-! PROOFS. LOOP and JUMP, and the halt for a mistake of a word (R154, R167, R179, R181, R190, R221, R223, R225). -/

namespace Sys2Proof.Machine

/-! ## LOOP (R221) -/

@[simp] theorem getL_setL_same (x : LCore) (n : Nat) (v : Word) : (x.setL n v).getL n = v := sget_sput_same ..
theorem getL_setL_other (x : LCore) {n m : Nat} (v : Word) (h : m ≠ n) : (x.setL n v).getL m = x.getL m := sget_sput_other _ _ _ h
@[simp] theorem loop_setLoop_same (x : LCore) (n : Nat) (v : Option (Nat × Nat)) : (x.setLoop n v).loop n = v := sget_sput_same ..
theorem loop_setLoop_other (x : LCore) {n m : Nat} (v : Option (Nat × Nat)) (h : m ≠ n) : (x.setLoop n v).loop m = x.loop m :=
  sget_sput_other _ _ _ h

/-- The steps of LOOP change A registers alone. -/
theorem loopStep_eq (w : IWord) (f : DWord → DWord) (x : LCore) : loopStep w f x = { x with a := (loopStep w f x).a } := by
  unfold loopStep
  split <;> split <;> rfl

theorem loopStep_a_congr (w : IWord) (f : DWord → DWord) {x y : LCore} (h : y.a = x.a) : (loopStep w f y).a = (loopStep w f x).a := by
  unfold loopStep
  split <;> split <;> simp [LCore.setA, LCore.getA, h]

/-- What LOOP leaves of its logical core: counter n is v, held as `held` says, A registers stepped by f, issue going on at `index`. -/
def LCore.looped (x : LCore) (w : IWord) (v : Word) (held : Option (Nat × Nat)) (f : DWord → DWord) (index : Nat) : LCore :=
  { loopStep w f ((x.setL (bits w 119 118) v).setLoop (bits w 119 118) held) with index := index }

section looped

variable (x : LCore) (w : IWord) (v : Word) (held : Option (Nat × Nat)) (f : DWord → DWord) (index : Nat)

theorem looped_eq : x.looped w v held f index = { x with
    index := index
    a := (loopStep w f x).a
    lc := (x.setL (bits w 119 118) v).lc
    loops := (x.setLoop (bits w 119 118) held).loops } := by
  have steps : (loopStep w f ((x.setL (bits w 119 118) v).setLoop (bits w 119 118) held)).a = (loopStep w f x).a := loopStep_a_congr _ _ rfl
  rw [LCore.looped, loopStep_eq, steps]
  rfl

theorem looped_getL (n : Nat) : (x.looped w v held f index).getL n = (x.setL (bits w 119 118) v).getL n := by
  rw [looped_eq]; rfl

theorem looped_loop (n : Nat) : (x.looped w v held f index).loop n = (x.setLoop (bits w 119 118) held).loop n := by
  rw [looped_eq]; rfl

end looped

/-- LOOP goes back while the next count stays below the latched one, else on. -/
theorem loopRun_eq {w : IWord} {x : LCore} {n : Nat} (hn : n = (x.loop (bits w 119 118)).elim (loopCount w x) (fun h => h.2)) :
    loopRun w x =
      if (x.getL (bits w 119 118)).toNat + 1 < n then
        x.looped w (x.getL (bits w 119 118) + 1) (some (x.index, n)) (fun d => d) (bits w 117 108)
      else x.looped w 0 none (fun d => 0 - d * (x.getL (bits w 119 118)).setWidth 64) (x.index + 1) := by
  have index (f : DWord → DWord) (y : LCore) : (loopStep w f y).index = y.index := by rw [loopStep_eq]
  subst hn
  cases hl : x.loop (bits w 119 118) <;> simp only [loopRun, hl, LCore.looped, LCore.next, index] <;> rfl

/-- In either case LOOP has set its counter and stepped its A registers. -/
theorem loopRun_looped (w : IWord) (x : LCore) : ∃ v held f index, loopRun w x = x.looped w v held f index := by
  rw [loopRun_eq rfl]
  split <;> exact ⟨_, _, _, _, rfl⟩

/-! ## JUMP (R223) -/

theorem jumpTaken_iff (w : IWord) (x : LCore) : jumpTaken w x = true ↔
    bits w 109 107 = 0 ∨ (bits w 109 107 = 1 ∧ int32 (x.getS (bits w 106 103)) = 0) ∨
      (bits w 109 107 = 2 ∧ int32 (x.getS (bits w 106 103)) ≠ 0) ∨ (bits w 109 107 = 3 ∧ int32 (x.getS (bits w 106 103)) < 0) ∨
      (bits w 109 107 = 4 ∧ 0 < int32 (x.getS (bits w 106 103))) := by
  unfold jumpTaken
  split <;> simp_all

theorem jumpRun_eq (w : IWord) (x : LCore) :
    jumpRun w x = { x with index := if jumpTaken w x = true then bits w 119 110 else x.index + 1 } := by
  unfold jumpRun
  split <;> rfl

/-- Settles O12: LOOP by its two outcomes, JUMP by its condition. -/
theorem loopAndJumpMoveTheProgramCounter : Obligations.LoopAndJumpMoveTheProgramCounter := by
  unfold Obligations.LoopAndJumpMoveTheProgramCounter
  refine ⟨fun s c i x w h ho hm written => ?_, fun s c i x w h ho hm written v hv => ?_⟩
  · have goes : (bit w 107 && x.pendingS (bits w 106 103)) = false := by
      cases hb : bit w 107
      · rfl
      · exact written hb
    have runs : exec (.loop c w) s = .next ((s.setLcore i (some (loopRun w x))).diag c 1 1 x.diagnostic) :=
      (issue_next h (by simp [ho]) hm).trans (by rw [goes]; rfl)
    refine ⟨_, runs, ?_, fun n hn => ⟨fun again => ?_, fun done => ?_⟩, fun n hn => ?_⟩
    · obtain ⟨v, held, f, index, e⟩ := loopRun_looped w x
      rw [e, looped_eq]
    · rw [loopRun_eq hn, if_pos again, looped_getL, looped_loop]
      simp [looped_eq]
    · rw [loopRun_eq hn, if_neg (by omega), looped_getL, looped_loop]
      simp [looped_eq]
    · obtain ⟨v, held, f, index, e⟩ := loopRun_looped w x
      rw [e, looped_getL, looped_loop]
      exact ⟨getL_setL_other _ _ hn, loop_setLoop_other _ _ hn⟩
  · have goes : (decide (bits w 109 107 ≠ 0) && x.pendingS (bits w 106 103)) = false := by
      by_cases hb : bits w 109 107 = 0
      · simp [hb]
      · simp [written hb]
    subst hv
    refine (issue_next h (by simp [ho]) hm).trans ?_
    rw [goes, jumpRun_eq]
    simp only [jumpTaken_iff]
    rfl

/-! ## Mistakes (R167, R181, R190) -/

theorem lowest_cons_ne_none (m : Mistake) (l : List Mistake) : lowest (m :: l) ≠ none := by
  unfold lowest
  split
  · exact Option.some_ne_none _
  · split <;> exact Option.some_ne_none _

/-- The recorded mistake is one of them, and none has a lower reason. -/
theorem lowest_least {l : List Mistake} {m : Mistake} (h : lowest l = some m) : m ∈ l ∧ ∀ n ∈ l, m.1 ≤ n.1 := by
  induction l generalizing m with
  | nil => cases h
  | cons p t ih =>
    unfold lowest at h
    split at h
    · rename_i none_left
      cases h
      cases t with
      | nil => simp
      | cons q r => exact absurd none_left (lowest_cons_ne_none q r)
    · rename_i n hn
      obtain ⟨mem, least⟩ := ih hn
      split at h <;> cases h
      · refine ⟨List.mem_cons_of_mem _ mem, fun q hq => ?_⟩
        rcases List.mem_cons.1 hq with rfl | hq
        · omega
        · exact least q hq
      · refine ⟨List.mem_cons_self, fun q hq => ?_⟩
        rcases List.mem_cons.1 hq with rfl | hq
        · exact Nat.le_refl _
        · have := least q hq
          omega

/-- A core whose program counter stands beyond its block halts with reason 0x06 at the block's last instruction. -/
theorem issue_beyond {s : State} {c i : Nat} {x : LCore} {w : IWord} {own : Bool} {mist : LCore → List Mistake}
    {run : Nat → LCore → State} (hc : c < 1152) (hcur : s.current c = some (i, x)) (hs : x.status = .ready) (beyond : s.blockLen c x ≤ x.index)
    (ho : own = true) : issue s c w own mist run = .next (s.mistake c i { bank := x.bank, index := s.blockLen c x - 1, block := x.block }
      (opcode (((s.core c).bank x.bank).words.getD (s.blockLen c x - 1) 0)) 0x06 (s.blockLen c x)) := by
  have past : ((s.core c).bank x.bank).words.length ≤ x.index := beyond
  simp [issue, onUnit, hc, hcur, ho, hs, past, State.blockLen]

/-- Settles O14: each word by what issuing a mistaken word does, and the recorded mistake is the lowest. -/
theorem mistakenWordsHaltTheCore : Obligations.MistakenWordsHaltTheCore := by
  unfold Obligations.MistakenWordsHaltTheCore
  refine ⟨fun s c i x w h hd => ?_, fun s c i x w m h => ?_,
    fun s c i x w hc hcur hs beyond ho => issue_beyond hc hcur hs beyond (by simp [ho]), fun l m h => lowest_least h⟩
  · show execUndefinedOpcode c w s = _
    exact issue_mistake (m := (0x02, opcode w)) h (by simp [hd]) rfl
  · have halts {own : Bool} {mist : LCore → List Mistake} {run : Nat → LCore → State} {o : Nat} (ho : opcode w = o) (own_eq : own = true)
        (hm : lowest (mist x) = some m) : issue s c w own mist run = .next (s.mistake c i x.here o m.1 m.2) :=
      ho ▸ issue_mistake h own_eq hm
    exact ⟨fun ho hm => halts ho (by simp [ho]) hm, fun ho hm => halts ho (by simp [ho]) hm, fun ho hm => halts ho (by simp [ho]) hm,
      fun ho hm => halts ho (by simp [ho]) hm, fun ho hm => halts ho (by simp [ho]) hm⟩

end Sys2Proof.Machine
end

section
/-! PROOFS. Block boundaries that change nothing, BANKSWAP, YIELD and HALT on such a core, and the end of a bank load (R163, R168,
R173, R178, R186, R222, R224, R523). -/

namespace Sys2Proof.Machine

/-! ## Accessors of a core -/

theorem bank_setBank_same (p : Core) (n : Nat) (b : Bank) : (p.setBank n b).bank n = b := by
  by_cases h : n = 0 <;> simp [Core.setBank, Core.bank, h]

theorem bank_setBank_other (p : Core) {n : Nat} (hn : n < 2) (b : Bank) : (p.setBank n b).bank (1 - n) = p.bank (1 - n) := by
  obtain rfl | rfl : n = 0 ∨ n = 1 := by omega
  all_goals rfl

@[simp] theorem setBank_entering (p : Core) (n : Nat) (b : Bank) : (p.setBank n b).entering = p.entering := by
  unfold Core.setBank; split <;> rfl

@[simp] theorem setBank_fold (p : Core) (n : Nat) (b : Bank) : (p.setBank n b).fold = p.fold := by
  unfold Core.setBank; split <;> rfl

theorem halt_setHalt_same (p : Core) (n : Nat) (r : HaltRec) : (p.setHalt n r).halt n = r := by
  by_cases h : n = 0 <;> simp [Core.setHalt, Core.halt, h]

theorem halt_setHalt_other (p : Core) {n : Nat} (hn : n < 2) (r : HaltRec) : (p.setHalt n r).halt (1 - n) = p.halt (1 - n) := by
  obtain rfl | rfl : n = 0 ∨ n = 1 := by omega
  all_goals rfl

@[simp] theorem setHalt_res (p : Core) (n : Nat) (r : HaltRec) (q : Nat) : (p.setHalt n r).res q = p.res q := by
  unfold Core.setHalt; split <;> rfl

@[simp] theorem setHalt_issuing (p : Core) (n : Nat) (r : HaltRec) : (p.setHalt n r).issuing = p.issuing := by
  unfold Core.setHalt; split <;> rfl

@[simp] theorem setHalt_fold (p : Core) (n : Nat) (r : HaltRec) : (p.setHalt n r).fold = p.fold := by
  unfold Core.setHalt; split <;> rfl

/-- A fold whose every step leaves its start as it is leaves it. -/
theorem foldl_stays {α β : Type} {f : α → β → α} {s : α} {l : List β} (h : ∀ b ∈ l, f s b = s) : l.foldl f s = s := by
  induction l with
  | nil => rfl
  | cons b t ih =>
    rw [List.foldl_cons, h b List.mem_cons_self]
    exact ih fun q hq => h q (List.mem_cons_of_mem _ hq)

/-! ## A boundary that changes nothing (R168) -/

/-- Between s and t nothing has changed but how the cores are listed. -/
def State.relisted (s t : State) : Prop := t = { s with cores := t.cores } ∧ ∀ q, t.core q = s.core q

theorem relisted_refl (s : State) : s.relisted s := ⟨rfl, fun _ => rfl⟩

theorem relisted_setCore (s : State) (c : Nat) : s.relisted (s.setCore c (s.core c)) := by
  refine ⟨rfl, fun q => ?_⟩
  by_cases h : q = c
  · rw [h, core_setCore_same]
  · exact core_setCore_other s c q _ h

theorem relisted_lcore {s t : State} (h : s.relisted t) (i : Nat) : t.lcore i = s.lcore i := by
  obtain ⟨e, -⟩ := h
  rw [e]; rfl

theorem relisted_mem {s t : State} (h : s.relisted t) : t.mem = s.mem := by
  obtain ⟨e, -⟩ := h
  rw [e]

theorem relisted_errors {s t : State} (h : s.relisted t) : t.errors = s.errors := by
  obtain ⟨e, -⟩ := h
  rw [e]

theorem enter_of_no_one {s : State} {c : Nat} (h : (s.core c).entering = []) : s.relisted (s.enter c) := by
  have nothing : { s.core c with entering := [] } = s.core c := by rw [← h]
  rw [State.enter, h, nothing]
  exact relisted_setCore s c

/-- `stays` looks at the core's waiting list and fold, the job and its slot alone. -/
theorem stays_congr {s t : State} {c i : Nat} {x y : LCore} (hs : s.stays c i x = true) (entering : (t.core c).entering = (s.core c).entering)
    (fold : (t.core c).fold = (s.core c).fold) (jobs : t.jobs = s.jobs) (slots : t.slots = s.slots) (hk : y.k = x.k) (hj : y.j = x.j) :
    t.stays c i y = true := by
  rw [← hs]
  simp only [State.stays, State.job, State.slot, entering, fold, jobs, slots, hk, hj]

/-- What `stays` says of the core. -/
theorem core_of_stays {s : State} {c i : Nat} {x : LCore} (h : s.stays c i x = true) :
    (s.core c).entering = [] ∧ (s.core c).fold.length ≤ 1 := by
  simp only [State.stays, Bool.and_eq_true, decide_eq_true_eq] at h
  exact h.1

theorem boundary_of_stays {s : State} {c i : Nat} {x : LCore} (hl : s.lcore i = some x) (h : s.stays c i x = true) :
    s.relisted (s.boundary c i) := by
  have entered := enter_of_no_one (core_of_stays h).1
  unfold State.boundary
  simp only [hl]
  cases hj : s.job x.k with
  | none => exact relisted_refl s
  | some j =>
    simp only [State.stays, hj, Bool.and_eq_true, Bool.not_eq_true'] at h
    obtain ⟨-, ⟨kept, unmoved⟩, loaded⟩ := h
    simp only [kept, unmoved, loaded, Bool.or_self, Bool.false_eq_true, if_false]
    exact entered

/-! ## BANKSWAP (R163, R224) -/

theorem startLoad_eq (s : State) (c n k p : Nat) (b : Word) :
    s.startLoad c n k p b = s ∨ ∃ v, s.startLoad c n k p b = s.setCore c ((s.core c).setBank n v) := by
  unfold State.startLoad
  split
  · exact .inl rfl
  · exact .inr ⟨_, rfl⟩

section load

variable (s : State) (c n k p : Nat) (b : Word)

@[simp] theorem startLoad_lcore (i : Nat) : (s.startLoad c n k p b).lcore i = s.lcore i := by
  unfold State.startLoad; split <;> rfl
@[simp] theorem startLoad_mem : (s.startLoad c n k p b).mem = s.mem := by
  unfold State.startLoad; split <;> rfl
@[simp] theorem startLoad_errors : (s.startLoad c n k p b).errors = s.errors := by
  unfold State.startLoad; split <;> rfl

end load

theorem stays_startLoad {s : State} {c i : Nat} {x : LCore} (h : s.stays c i x = true) (n k p : Nat) (b : Word) :
    (s.startLoad c n k p b).stays c i x = true := by
  obtain e | ⟨v, e⟩ := startLoad_eq s c n k p b
  · rw [e]; exact h
  · rw [e]; exact stays_congr h (by simp) (by simp) rfl rfl rfl rfl

/-- A swap at a boundary that changes nothing moves the program counter and frees the loop counters. -/
theorem swapBank_of_stays {s : State} {c i : Nat} {x : LCore} (hl : s.lcore i = some x) (hs : s.stays c i x = true) (b : Word) :
    (s.swapBank c i b).lcore i = some { x.releaseLoops with bank := 1 - x.bank, index := 0, block := b, status := .ready } ∧
      (s.swapBank c i b).mem = s.mem ∧ (s.swapBank c i b).errors = s.errors := by
  have moved := stays_congr (t := s.setLcore i (some { x.releaseLoops with bank := 1 - x.bank, index := 0, block := b, status := .ready }))
    (y := { x.releaseLoops with bank := 1 - x.bank, index := 0, block := b, status := .ready }) hs rfl rfl rfl rfl rfl rfl
  simp only [State.swapBank, hl]
  split
  · have passed := boundary_of_stays (by simp) (stays_startLoad moved x.bank x.k x.program (b + 1))
    exact ⟨by rw [relisted_lcore passed]; simp, by rw [relisted_mem passed]; simp, by rw [relisted_errors passed]; simp⟩
  · have passed := boundary_of_stays (by simp) moved
    exact ⟨by rw [relisted_lcore passed]; simp, by rw [relisted_mem passed]; rfl, by rw [relisted_errors passed]; rfl⟩

theorem shared_eq_false {s : State} {c : Nat} (ha : s.alone c = true) (hf : (s.core c).fold.length ≤ 1) : (s.core c).shared = false := by
  have other : (s.core c).res (1 - (s.core c).issuing) = none := by simpa [State.alone] using ha
  have empty : (s.core c).res0 = none ∨ (s.core c).res1 = none := by
    unfold Core.res at other
    split at other
    · exact .inl other
    · exact .inr other
  have small : ¬ 1 < (s.core c).fold.length := by omega
  unfold Core.shared
  obtain h | h := empty <;> simp [h, small]

/-- BANKSWAP to a block that the inactive bank holds whole swaps at once. -/
theorem bankswapRun_swaps {s : State} {c i : Nat} {x : LCore} {w : IWord} (unshared : (s.core c).shared = false)
    (hb : ((s.core c).bank (1 - x.bank)).block = BitVec.ofNat 32 (bits w 119 88)) (hw : ((s.core c).bank (1 - x.bank)).words ≠ [])
    (hl : ((s.core c).bank (1 - x.bank)).loading = none) :
    bankswapRun s c w i x = s.swapBank c i (BitVec.ofNat 32 (bits w 119 88)) := by
  simp [bankswapRun, unshared, hb, hw, hl]

/-! ## Who issues once a logical core has given way (R173) -/

theorem mem_residents {p : Core} {j : Nat} : j ∈ [p.res0, p.res1].filterMap id ↔ p.res0 = some j ∨ p.res1 = some j := by
  simp [eq_comm]

/-- A resident holds the issuing slot or the other one. -/
theorem resident_slot {p : Core} {j : Nat} (h : p.res0 = some j ∨ p.res1 = some j) :
    p.res p.issuing = some j ∨ p.res (1 - p.issuing) = some j := by
  by_cases first : p.issuing = 0
  · simpa [Core.res, first] using h
  · simpa [Core.res, first, show 1 - p.issuing = 0 by omega] using h.symm

theorem departures_of_no_leaver {s : State} {c : Nat} (h : ∀ j y, ((s.core c).res (s.core c).issuing = some j ∨
    (s.core c).res (1 - (s.core c).issuing) = some j) → s.lcore j = some y → y.status ≠ .leaving) : s.departures c = s := by
  refine foldl_stays fun j hj => ?_
  have slot := resident_slot (mem_residents.1 hj)
  split
  · rename_i y hy
    simp [h j y slot hy]
  · rfl

section gives

variable {s : State} {c i : Nat} {x : LCore} (hcur : s.current c = some (i, x))

include hcur

theorem departures_lone (ha : (s.core c).res (1 - (s.core c).issuing) = none) (hx : x.status ≠ .leaving) : s.departures c = s := by
  refine departures_of_no_leaver fun j y slot hy => ?_
  rw [res_of_current hcur, ha] at slot
  obtain rfl : i = j := by simpa using slot
  rw [current_lcore hcur] at hy
  cases hy
  exact hx

theorem departures_beside_ready {j : Nat} (hj : (s.core c).res (1 - (s.core c).issuing) = some j) (ready : s.ready j = true)
    (hx : x.status ≠ .leaving) : s.departures c = s := by
  refine departures_of_no_leaver fun k y slot hy => ?_
  rw [res_of_current hcur, hj] at slot
  obtain own | other := slot
  · cases own
    rw [current_lcore hcur] at hy
    cases hy
    exact hx
  · cases other
    have able : y.status = .ready := by simpa [State.ready, hy] using ready
    simp [able]

theorem reschedule_yielding_lone (hf : (s.core c).fold.length ≤ 1) (ha : (s.core c).res (1 - (s.core c).issuing) = none)
    (hx : x.status = .yielding) : s.reschedule c = s.setLcore i (some { x with status := .ready }) := by
  have stay := departures_lone hcur ha (by simp [hx])
  have small : ¬ 1 < (s.core c).fold.length := by omega
  simp [State.reschedule, stay, hcur, hx, small, ha]

theorem reschedule_halted_lone (hf : (s.core c).fold.length ≤ 1) (ha : (s.core c).res (1 - (s.core c).issuing) = none)
    (hx : x.status = .halted) : s.reschedule c = s := by
  have stay := departures_lone hcur ha (by simp [hx])
  have small : ¬ 1 < (s.core c).fold.length := by omega
  simp [State.reschedule, stay, hcur, hx, small, ha]

theorem reschedule_yielding_to_ready (hf : (s.core c).fold.length ≤ 1) {j : Nat} (hj : (s.core c).res (1 - (s.core c).issuing) = some j)
    (ready : s.ready j = true) (hx : x.status = .yielding) : s.reschedule c =
      (s.setLcore i (some { x with status := .ready })).setCore c { s.core c with issuing := 1 - (s.core c).issuing } := by
  have stay := departures_beside_ready hcur hj ready (by simp [hx])
  have small : ¬ 1 < (s.core c).fold.length := by omega
  simp [State.reschedule, stay, hcur, hx, small, hj, ready]

end gives

theorem setStatus_eq {s : State} {i : Nat} {x : LCore} (hl : s.lcore i = some x) (c : Nat) (f : LCore → LCore) :
    s.setStatus c i f = (s.setLcore i (some (f x))).reschedule c := by
  simp only [State.setStatus, hl]

/-! ## YIELD (R168, R173, R224) -/

/-- The state in which logical core i gives way: YIELD has issued and its boundary is passed. -/
def State.yielded (s : State) (c i : Nat) (x : LCore) : State :=
  ((s.issued c i x).boundary c i).setLcore i (some { x.next with status := .yielding })

section yields

variable {s : State} {c i : Nat} {x : LCore}

theorem boundary_issued (hs : s.stays c i x = true) : (s.issued c i x).relisted ((s.issued c i x).boundary c i) := by
  refine boundary_of_stays issued_lcore (stays_congr hs ?_ ?_ ?_ ?_ rfl rfl)
  · rw [issued_core]
  · rw [issued_core]
  · unfold State.issued State.diag; split <;> rfl
  · unfold State.issued State.diag; split <;> rfl

theorem yielded_core (hs : s.stays c i x = true) (q : Nat) : (s.yielded c i x).core q = s.core q :=
  ((boundary_issued hs).2 q).trans (issued_core q)

theorem yielded_lcore_same : (s.yielded c i x).lcore i = some { x.next with status := .yielding } := lcore_setLcore_same ..

theorem yielded_lcore_other (hs : s.stays c i x = true) {j : Nat} (hj : j ≠ i) : (s.yielded c i x).lcore j = s.lcore j := by
  rw [State.yielded, lcore_setLcore_other _ _ _ _ hj, relisted_lcore (boundary_issued hs), State.issued, diag_lcore,
    lcore_setLcore_other _ _ _ _ hj]

theorem yielded_mem (hs : s.stays c i x = true) : (s.yielded c i x).mem = s.mem :=
  (relisted_mem (boundary_issued hs)).trans issued_mem

theorem yielded_current (h : s.issues c i x = true) (hs : s.stays c i x = true) :
    (s.yielded c i x).current c = some (i, { x.next with status := .yielding }) := by
  obtain ⟨-, hcur, -, -⟩ := (issues_iff s c i x).1 h
  refine current_of_res ?_ yielded_lcore_same
  rw [yielded_core hs]
  exact res_of_current hcur

/-- A word YIELD passes a boundary and gives the issue slot on. -/
theorem exec_yield {w : IWord} (h : s.issues c i x = true) (ho : opcode w = 0x04) (hm : lowest (reservedBits w []) = none)
    (hs : s.stays c i x = true) : exec (.yield c w) s = .next ((s.yielded c i x).reschedule c) := by
  obtain ⟨-, hcur, ready, -⟩ := (issues_iff s c i x).1 h
  have passed := boundary_issued hs
  have hl : ((s.issued c i x).boundary c i).lcore i = some x.next := (relisted_lcore passed i).trans issued_lcore
  have holds : (decide ((((s.issued c i x).boundary c i).core c).res (((s.issued c i x).boundary c i).core c).issuing = some i) &&
      ((s.issued c i x).boundary c i).ready i) = true := by
    rw [passed.2 c, issued_core, res_of_current hcur]
    simp [State.ready, hl, LCore.next, ready]
  exact (issue_next h (by simp [ho]) hm).trans (congrArg _ ((if_pos holds).trans (setStatus_eq hl ..)))

theorem next_of_ready (ready : x.status = .ready) : ({ x.next with status := .ready } : LCore) = x.next := by
  rw [← ready]; rfl

section word

variable {w : IWord} (h : s.issues c i x = true) (ho : opcode w = 0x04) (hm : lowest (reservedBits w []) = none) (hs : s.stays c i x = true)

include h ho hm hs

/-- A lone context that yields goes on. -/
theorem exec_yield_lone (ha : s.alone c = true) : exec (.yield c w) s = .next ((s.yielded c i x).setLcore i (some x.next)) := by
  obtain ⟨-, -, ready, -⟩ := (issues_iff s c i x).1 h
  have core := yielded_core (i := i) (x := x) hs c
  have other : ((s.yielded c i x).core c).res (1 - ((s.yielded c i x).core c).issuing) = none := by
    rw [core]
    simpa [State.alone] using ha
  have back := reschedule_yielding_lone (yielded_current h hs) (by rw [core]; exact (core_of_stays hs).2) other rfl
  rw [← next_of_ready ready]
  exact (exec_yield h ho hm hs).trans (congrArg _ back)

/-- A context that yields beside a ready one gives the issue slot to it. -/
theorem exec_yield_to_ready {j : Nat} {y : LCore} (hj : (s.core c).res (1 - (s.core c).issuing) = some j) (hji : j ≠ i)
    (hy : s.lcore j = some y) (able : y.status = .ready) : exec (.yield c w) s =
      .next (((s.yielded c i x).setLcore i (some x.next)).setCore c { s.core c with issuing := 1 - (s.core c).issuing }) := by
  obtain ⟨-, -, ready, -⟩ := (issues_iff s c i x).1 h
  have core := yielded_core (i := i) (x := x) hs c
  have beside : (s.yielded c i x).ready j = true := by simp [State.ready, yielded_lcore_other hs hji, hy, able]
  have given := reschedule_yielding_to_ready (yielded_current h hs) (by rw [core]; exact (core_of_stays hs).2) (by rw [core, hj]) beside rfl
  rw [core] at given
  rw [← next_of_ready ready]
  exact (exec_yield h ho hm hs).trans (congrArg _ given)

end word

end yields

/-! ## HALT (R178, R181, R523) -/

@[simp] theorem diag_lcores (s : State) (c sub n : Nat) (on : Bool) : (s.diag c sub n on).lcores = s.lcores := by
  unfold State.diag; split <;> rfl

@[simp] theorem diag_errors (s : State) (c sub n : Nat) (on : Bool) : (s.diag c sub n on).errors = s.errors := by
  unfold State.diag; split <;> rfl

/-- The halt record of a halt without a mistake (R186). -/
def State.haltRecord (s : State) (x : LCore) : HaltRec :=
  { valid := true, reason := 0, bank := x.bank, index := x.index, tick := s.clock.tick, block := x.block, context := x.k, lcore := x.l, detail := 0 }

/-- A halt without a mistake is recorded unless a record is valid, and enters no error record. -/
theorem recordHalt_of_halt (s : State) (c i : Nat) (x : LCore) :
    s.recordHalt c i x x.here 0x05 0x00 0 0 = if ((s.core c).halt ((s.core c).slotOf i)).valid then s
      else s.setCore c ((s.core c).setHalt ((s.core c).slotOf i) (s.haltRecord x)) := rfl

theorem mem_setLcore {s : State} {i j : Nat} {x y : Option LCore} (h : (j, y) ∈ s.lcores) (hj : j ≠ i) :
    (j, y) ∈ (s.setLcore i x).lcores := by
  have kept (m : Sparse (Option LCore)) (v : Option LCore) (hm : (j, y) ∈ m) : (j, y) ∈ sins m i v := by
    induction m with
    | nil => cases hm
    | cons p t ih =>
      unfold sins
      split
      · exact List.mem_cons_of_mem _ hm
      · obtain rfl | ht := List.mem_cons.1 hm
        · simp [Ne.symm hj]
        · split
          · exact List.mem_cons_of_mem _ ht
          · exact List.mem_cons_of_mem _ (ih ht)
  simp only [State.setLcore, sput]
  split
  · exact List.mem_filter.2 ⟨h, by simpa using hj⟩
  · exact kept _ _ h

theorem allHalted_of_running {s : State} {k j : Nat} {y : LCore} (h : (j, some y) ∈ s.lcores) (hk : y.k = k) (hy : y.status ≠ .halted) :
    s.allHalted k = false :=
  List.all_eq_false.2 ⟨(j, some y), h, by simp [hk, hy]⟩

theorem haltEnd_of_running {s : State} {k : Nat} (step : DWord) (h : s.allHalted k = false) : s.haltEnd k step = s := by
  unfold State.haltEnd
  split
  · rfl
  · simp [h]

/-- The state after HALT when other work of the job goes on. -/
def State.halted (s : State) (c i : Nat) (x : LCore) : State :=
  ((s.recordHalt c i x x.here 0x05 0x00 0 0).diag c 1 1 x.diagnostic).setLcore i (some { x with status := .halted })

section halts

variable {s : State} {c i : Nat} {x : LCore}

theorem halted_core : (s.halted c i x).core c = if ((s.core c).halt ((s.core c).slotOf i)).valid then s.core c
    else (s.core c).setHalt ((s.core c).slotOf i) (s.haltRecord x) := by
  rw [State.halted, setLcore_at_core, diag_core, recordHalt_of_halt]
  split
  · rfl
  · exact core_setCore_same ..

theorem recordHalt_lcores (s : State) (c i : Nat) (x : LCore) : (s.recordHalt c i x x.here 0x05 0x00 0 0).lcores = s.lcores := by
  rw [recordHalt_of_halt]; split <;> rfl

theorem halted_lcores : (s.halted c i x).lcores = (s.setLcore i (some { x with status := .halted })).lcores := by
  simp only [State.halted, State.setLcore, diag_lcores, recordHalt_lcores]

theorem halted_errors : (s.halted c i x).errors = s.errors := by
  rw [State.halted, setLcore_errors, diag_errors, recordHalt_of_halt]; split <;> rfl

theorem halted_mem : (s.halted c i x).mem = s.mem := by
  rw [State.halted, setLcore_mem, diag_mem, recordHalt_of_halt]; split <;> rfl

/-- A recorded halt leaves who is on the core and who issues. -/
theorem halted_slots : (∀ n, ((s.halted c i x).core c).res n = (s.core c).res n) ∧ ((s.halted c i x).core c).issuing = (s.core c).issuing ∧
    ((s.halted c i x).core c).fold = (s.core c).fold := by
  rw [halted_core]
  split <;> simp

theorem halted_lcore_same : (s.halted c i x).lcore i = some { x with status := .halted } := lcore_setLcore_same ..

/-- A lone context that has halted has no one to give way to. -/
theorem reschedule_halted (hcur : s.current c = some (i, x)) (ha : s.alone c = true) (hf : (s.core c).fold.length ≤ 1) :
    (s.halted c i x).reschedule c = s.halted c i x := by
  obtain ⟨res, issuing, fold⟩ := halted_slots (s := s) (c := c) (i := i) (x := x)
  refine reschedule_halted_lone (current_of_res ?_ halted_lcore_same) (by rwa [fold]) ?_ rfl
  · rw [res, issuing]
    exact res_of_current hcur
  · rw [res, issuing]
    simpa [State.alone] using ha

theorem allHalted_halted (hj : s.jobGoesOn i x) : (s.halted c i x).allHalted x.k = false := by
  obtain ⟨j, y, hji, mem, hk, hy⟩ := hj
  refine allHalted_of_running (j := j) (y := y) ?_ hk hy
  rw [halted_lcores]
  exact mem_setLcore mem hji

/-- HALT of a lone context whose job has other work. -/
theorem exec_halt {w : IWord} (h : s.issues c i x = true) (ho : opcode w = 0x05) (hm : lowest (reservedBits w []) = none)
    (ha : s.alone c = true) (hf : (s.core c).fold.length ≤ 1) (hj : s.jobGoesOn i x) :
    exec (.halt c w) s = .next (s.halted c i x) := by
  obtain ⟨-, hcur, -, -⟩ := (issues_iff s c i x).1 h
  have hl : ((s.recordHalt c i x x.here 0x05 0x00 0 0).diag c 1 1 x.diagnostic).lcore i = some x := by
    rw [diag_lcore, State.lcore, recordHalt_lcores]
    exact current_lcore hcur
  have status : ((s.recordHalt c i x x.here 0x05 0x00 0 0).diag c 1 1 x.diagnostic).setStatus c i (fun y => { y with status := .halted }) =
      s.halted c i x := (setStatus_eq hl ..).trans (reschedule_halted hcur ha hf)
  refine (issue_next h (by simp [ho]) hm).trans (congrArg _ ?_)
  dsimp only
  rw [status]
  exact haltEnd_of_running _ (allHalted_halted hj)

end halts

/-! ## BANK_LOAD_DONE (R163, R187) -/

/-- The end of a load for which no context waits changes its bank and the object's state alone. -/
theorem exec_bankLoadDone {s : State} {c bank n a : Nat} {b : Word} (hc : c < 1152) (hb : bank < 2)
    (loading : ((s.core c).bank bank).loading = some (b, a, n))
    (free : ∀ i x, ((s.core c).res0 = some i ∨ (s.core c).res1 = some i) → s.lcore i = some x → x.status ≠ .atBank b) :
    exec (.bankLoadDone c bank) s = .next ((s.setCore c ((s.core c).setBank bank { block := b, words := s.wordsAt a n })).setReg (coreObj c 4) 7
      (if s.reg (coreObj c 4) 7 = 1 then 2 else s.reg (coreObj c 4) 7)) := by
  refine (onUnit_array hc hb _).trans (congrArg _ ?_)
  simp only [loading]
  refine foldl_stays fun i hi => ?_
  simp only [setReg_at_lcore, setCore_at_lcore]
  split
  · rfl
  · rename_i x hx
    simp [free i x (mem_residents.1 hi) hx]

/-- Settles O13: boundaries that change nothing, who issues after YIELD and HALT, and a load that no one waits for. -/
theorem boundariesHaltsAndBankLoads : Obligations.BoundariesHaltsAndBankLoads := by
  unfold Obligations.BoundariesHaltsAndBankLoads
  refine ⟨fun s c i x w h ho hm ha hs _ hb hw hl => ?_, fun s c i x w h ho hm ha hs => ?_,
    fun s c i j x y w h ho hm hs _ hj hji hy able => ?_, fun s c i x w h ho hm ha hf hj => ?_,
    fun s c bank n a b hc hb loading free => ?_⟩
  · obtain ⟨-, hcur, ready, -⟩ := (issues_iff s c i x).1 h
    have runs : exec (.bankswap c w) s = .next ((s.swapBank c i (BitVec.ofNat 32 (bits w 119 88))).diag c 1 1 x.diagnostic) :=
      (issue_next h (by simp [ho]) hm).trans (by rw [bankswapRun_swaps (shared_eq_false ha (core_of_stays hs).2) hb hw hl])
    obtain ⟨lcore, mem, errors⟩ := swapBank_of_stays (current_lcore hcur) hs (BitVec.ofNat 32 (bits w 119 88))
    refine ⟨_, runs, ?_, by rw [diag_mem, mem], by rw [diag_errors, errors]⟩
    rw [diag_lcore, lcore, ← ready]
    rfl
  · refine ⟨_, exec_yield_lone h ho hm hs ha, lcore_setLcore_same .., ?_, yielded_mem hs⟩
    rw [setLcore_at_core, yielded_core hs]
  · refine ⟨_, exec_yield_to_ready h ho hm hs hj hji hy able, ?_, ?_, ?_, yielded_mem hs⟩
    · rw [setCore_at_lcore, lcore_setLcore_same]
    · rw [setCore_at_lcore, lcore_setLcore_other _ _ _ _ hji, yielded_lcore_other hs hji, hy]
    · rw [core_setCore_same]
  · refine ⟨_, exec_halt h ho hm ha hf hj, lcore_setLcore_same .., halted_errors, halted_mem, fun invalid => ?_, fun valid => ?_⟩
    · rw [halted_core, if_neg (by simp [invalid]), halt_setHalt_same]
      rfl
    · rw [halted_core, if_pos valid]
  · refine ⟨_, exec_bankLoadDone hc hb loading free, ?_, ?_, rfl, rfl⟩
    · rw [setReg_at_core, core_setCore_same, bank_setBank_same]
    · rw [setReg_at_core, core_setCore_same, bank_setBank_other _ hb]

end Sys2Proof.Machine
end

section
/-! PROOFS. The end of a token wait and of a prefetch refetch on a lone logical core (R155, R160, R254). -/

namespace Sys2Proof.Machine

/-- With no live prefetch entry a sent instruction has nothing to check. -/
theorem gateFor_of_no_prefetch {x : LCore} (hp : x.prefetches = []) (h : Held) : x.gateFor h = ([], .go, []) := by
  unfold LCore.gateFor LCore.oldest
  simp only [hp, gates]
  split
  · rfl
  · split
    · rfl
    · rfl

section resumes

variable {s : State} {c i : Nat} {x : LCore} {h : Held}

/-- The first held instruction runs when no open work holds it back and no prefetch entry is live. -/
theorem attempt_first (hl : s.lcore i = some x) (hb : x.blocked [] h.uses = false) (hp : x.prefetches = [])
    (run : State → Nat → Nat → Held → State) : s.attempt c i [] h run = (run (s.setLcore i (some x)) c i h, true) := by
  simp only [State.attempt, hl, List.any_nil, hb, Bool.or_self, Bool.false_eq_true, if_false, gateFor_of_no_prefetch hp,
    noPrefetches_eq hp, List.foldl_nil, hp, refetch_nil]

/-- The first held instruction runs in its engine and leaves the queue. -/
theorem resume_first {y : LCore} {l : List Held} (hl : s.lcore i = some x) (hq : x.held = h :: l) (hb : x.blocked [] h.uses = false)
    (hp : x.prefetches = []) (hy : (runHeld (s.setLcore i (some x)) c i h).lcore i = some y) :
    s.resume c i = (((runHeld (s.setLcore i (some x)) c i h).setLcore i (some { y with held := y.held.erase h })).settled c i, true) := by
  simp only [State.resume, hl, hq, State.resumeGo, attempt_first hl hb hp, if_true, hy]

/-- A refetched copy that lands ends its prefetch entry. -/
theorem landRefetch_retires (hl : s.lcore i = some x) (e : Prefetch) (bs : Sparse Byte) :
    ∃ y, (s.landRefetch i x e bs).lcore i = some y ∧ y.prefetches = x.prefetches.erase e := by
  unfold State.landRefetch
  simp only [State.putTier, hl, if_true, lcore_setLcore_same]
  exact ⟨_, rfl, rfl⟩

end resumes

/-- Settles O24: on a lone logical core the first held instruction runs, and the copy at hand lands. -/
theorem waitsInEnginesEnd : Obligations.WaitsInEnginesEnd := by
  unfold Obligations.WaitsInEnginesEnd
  refine ⟨fun s c i x y h l hc alone hl hq hb hp hy => ?_, fun s c i x e bs hc alone hl ready kept =>
    ⟨?_, landRefetch_retires hl e bs⟩⟩
  · refine (onUnit_core hc _).trans (congrArg _ ?_)
    simp only [alone, List.foldl_cons, List.foldl_nil, Bool.false_eq_true, if_false, resume_first hl hq hb hp hy]
  · refine (onUnit_core hc _).trans (congrArg _ ?_)
    simp only [alone, List.foldl_cons, List.foldl_nil, Bool.false_eq_true, if_false, hl, ready, kept]

end Sys2Proof.Machine
end

section
/-! PROOFS. The commands of a core's objects and the counter clears (R164, R181, R186 to R188, R306, R307, R385). -/

namespace Sys2Proof.Machine

/-! ## A command that is heard (R542, R587) -/

section heard

variable {s u : State} {m idx sub : Nat} {v : Word} {command : Bool} {f : Rule}

/-- A heard command whose rule is taken has the rule's effect. -/
theorem command_obeyed (hh : s.hears m idx = true) (hf : f s = (u, 0)) : u.obeyed (s.command m idx sub v command f) m 3 idx sub := by
  obtain ⟨-, hr, hs, ha⟩ := (hears_iff s m idx).1 hh
  rw [command_eq s ha, guarded_reached s hr hs, hf]
  exact obeyed_give rfl ..

/-- A heard command that its rule refuses has what the rule notes, and the record of the refusal. -/
theorem command_declined {r : Nat} (hh : s.hears m idx = true) (hf : f s = (u, r)) :
    u.declined (s.command m idx sub v command f) m 3 idx sub r := by
  obtain ⟨-, hr, hs, ha⟩ := (hears_iff s m idx).1 hh
  rw [command_eq s ha, guarded_reached s hr hs, hf]
  exact declined_give rfl ..

theorem onUnit_ordered {p : Bool} (hh : s.hears m idx = true) (hp : p = true) (t : State) : onUnit (masterOk m && p) t = .next t := by
  obtain ⟨hm, -⟩ := (hears_iff s m idx).1 hh
  simp [onUnit, masterOk, hm, hp]

end heard

theorem obeyed_core {u t : State} {m op idx sub : Nat} (h : u.obeyed t m op idx sub) (d : Nat) : t.core d = u.core d := by
  rw [State.core, h.cores]
  rfl

theorem declined_sameWork {s u t : State} {m op idx sub r : Nat} (h : u.declined t m op idx sub r) (w : s.sameWork u) : s.sameWork t := by
  obtain ⟨e, -, -⟩ := h
  rw [e]
  exact w

/-! ## Instruction loads (R164, R187) -/

section load

variable {s : State} {c b src len : Nat} (hb : b = bits (s.reg (coreObj c 4) 1) 0 0) (hsrc : src = s.reg64 (coreObj c 4) 2)
  (hlen : len = (s.reg (coreObj c 4) 5).toNat)

include hb

theorem loadStartRule_executing (he : s.executes c b = true) : loadStartRule c s = (s.setReg (coreObj c 4) 7 3, 5) := by
  subst hb
  simp [loadStartRule, he]

include hsrc hlen

theorem loadStartRule_unreadable (he : s.executes c b = false) (h0 : len ≠ 0) (far : 0x2E80000000 < src + 16 * len) :
    loadStartRule c s = (s.setReg (coreObj c 4) 7 4, 0) := by
  subst hb hsrc hlen
  simp only [loadStartRule, he, h0, far, Bool.false_eq_true, if_false, if_true]

theorem loadStartRule_begins (he : s.executes c b = false) (h0 : len ≠ 0) (near : src + 16 * len ≤ 0x2E80000000) :
    loadStartRule c s = ((s.setCore c ((s.core c).setBank b { (s.core c).bank b with
      loading := some (s.reg (coreObj c 4) 4, src, len) })).setReg (coreObj c 4) 7 1, 0) := by
  subst hb hsrc hlen
  simp only [loadStartRule, he, h0, Nat.not_lt.2 near, Bool.false_eq_true, if_false]

end load

/-! ## Halt records (R181, R186) -/

theorem haltClearRule_clears (s : State) (c n : Nat) : haltClearRule c n 0x800 s = (s.setCore c ((s.core c).setHalt n {}), 0) := by
  have clears : bit (0x800 : Word) 11 = true := by decide
  rw [haltClearRule, if_pos clears]

/-- A heard clear of a halt record empties it. -/
theorem exec_haltRecordClear {s : State} {m c n : Nat} (hc : c < 1152) (hn : n < 2) (hh : s.hears m (coreObj c (1 + n)) = true) :
    ∃ t, exec (.haltRecordClear m c n) s = .next t ∧ (s.setCore c ((s.core c).setHalt n {})).obeyed t m 3 (coreObj c (1 + n)) 1 := by
  obtain ⟨hm, -⟩ := (hears_iff s m _).1 hh
  exact ⟨_, if_pos (by simp [masterOk, hm, hc, hn]), command_obeyed hh (haltClearRule_clears s c n)⟩

/-! ## Counter clears (R188, R306, R307, R385) -/

theorem clearRegs_dict_only (s : State) (idx : Nat) (l : List Nat) : s.clearRegs idx l = { s with dict := (s.clearRegs idx l).dict } :=
  foldl_keeps (fun t : State => t = { s with dict := t.dict }) _ (fun t sub h => by rw [h]; rfl) l s rfl

theorem reg_clearRegs_other (s : State) {idx i j : Nat} {l : List Nat} (h : ∀ sub ∈ l, dkey i j ≠ dkey idx sub) :
    (s.clearRegs idx l).reg i j = s.reg i j := by
  induction l generalizing s with
  | nil => rfl
  | cons a t ih =>
    refine (ih (s.setReg idx a 0) fun sub hsub => h sub (List.mem_cons_of_mem _ hsub)).trans ?_
    exact reg_setReg_other _ _ _ _ _ _ (h a List.mem_cons_self)

/-- A register that has become 0 stays so, and every listed one becomes 0. -/
theorem reg_clearRegs_listed (s : State) {idx sub : Nat} {l : List Nat} (h : sub ∈ l ∨ s.reg idx sub = 0) :
    (s.clearRegs idx l).reg idx sub = 0 := by
  induction l generalizing s with
  | nil => exact h.resolve_left List.not_mem_nil
  | cons a t ih =>
    refine ih (s.setReg idx a 0) ?_
    by_cases e : sub = a
    · exact .inr (e ▸ reg_setReg_same ..)
    · obtain listed | zero := h
      · exact .inl ((List.mem_cons.1 listed).resolve_left e)
      · exact .inr ((reg_setReg_other _ _ _ _ _ _ (by simpa [dkey] using e)).trans zero)

/-- A heard counter clear: the counters 1 to top of its object are 0, and nothing else changes. -/
theorem clearCounters_clears {s : State} {m idx top sub : Nat} {v : Word} {command : Bool} (hh : s.hears m idx = true) (ht : top < 256) {t : State}
    (e : s.command m idx sub v command (clearCountersRule idx top) = t) :
    (∀ a, 1 ≤ a → a ≤ top → t.reg idx a = 0) ∧
      (∀ o a, a < 256 → (o ≠ idx ∨ a = 0 ∨ top < a) → t.reg o a = s.reg o a) ∧
      t = { s with
        dict := t.dict
        serial := t.serial } ∧ t.resultFor m = some (answerOf 3 idx sub 0 0) := by
  have ob : (s.clearRegs idx ((upto top).map (fun i => i + 1))).obeyed t m 3 idx sub := e ▸ command_obeyed hh rfl
  have listed (a : Nat) : a ∈ (upto top).map (fun i => i + 1) ↔ 1 ≤ a ∧ a ≤ top := by
    simp only [upto, List.mem_map, List.mem_range]
    exact ⟨fun ⟨n, hn, e⟩ => by omega, fun h => ⟨a - 1, by omega, by omega⟩⟩
  obtain ⟨same, result⟩ := id ob
  refine ⟨fun a h1 h2 => ?_, fun o a ha apart => ?_, ?_, result⟩
  · rw [reg_congr ob.dict]
    exact reg_clearRegs_listed s (.inl ((listed a).2 ⟨h1, h2⟩))
  · rw [reg_congr ob.dict]
    refine reg_clearRegs_other s fun sub hsub => ?_
    have range := (listed sub).1 hsub
    unfold dkey
    omega
  · rw [same, clearRegs_dict_only]

/-- Settles O58: each command by its rule. -/
theorem coreCommandsAndCounterClears : Obligations.CoreCommandsAndCounterClears := by
  unfold Obligations.CoreCommandsAndCounterClears
  refine ⟨fun s m c hc hh b src len hb hsrc hlen => ⟨fun he h0 near => ?_, fun he h0 far => ?_, fun he => ?_⟩,
    fun s m c n hc hn hh => ?_, fun s m n idx top sub i hh hi => ?_⟩
  · have ob := command_obeyed (sub := 6) (v := 1) (command := true) hh (loadStartRule_begins hb hsrc hlen he h0 near)
    refine ⟨_, onUnit_ordered hh (by simp [hc]) _, ob.lcores.symm, ob.mem, ob.slots, ob.jobs, ?_, ?_, fun d hd => ?_⟩
    · rw [obeyed_core ob, setReg_at_core, core_setCore_same]
    · rw [reg_congr ob.dict, reg_setReg_same]
    · rw [obeyed_core ob, setReg_at_core, core_setCore_other _ _ _ _ hd]
  · have ob := command_obeyed (sub := 6) (v := 1) (command := true) hh (loadStartRule_unreadable hb hsrc hlen he h0 far)
    refine ⟨_, onUnit_ordered hh (by simp [hc]) _, ob.sameWork ⟨rfl, rfl, rfl, rfl, rfl, rfl, rfl⟩, ?_⟩
    rw [reg_congr ob.dict, reg_setReg_same]
  · have refused := command_declined (sub := 6) (v := 1) (command := true) hh (loadStartRule_executing hb he)
    obtain ⟨hm, -⟩ := (hears_iff s m _).1 hh
    obtain ⟨-, regs, result⟩ := id refused
    refine ⟨_, onUnit_ordered hh (by simp [hc]) _, declined_sameWork refused ⟨rfl, rfl, rfl, rfl, rfl, rfl, rfl⟩, ?_, result⟩
    rw [regs _ _ (by decide) (by unfold coreObj; omega), reg_setReg_same]
  · obtain ⟨t, runs, ob⟩ := exec_haltRecordClear hc hn hh
    have core : t.core c = (s.core c).setHalt n {} := by rw [obeyed_core ob, core_setCore_same]
    refine ⟨t, runs, ?_, ?_, core, fun d hd => ?_, ob.mem, ob.lcores, ob.dict⟩
    · rw [core, halt_setHalt_same]
    · rw [core, halt_setHalt_other _ hn]
    · rw [obeyed_core ob, core_setCore_other _ _ _ _ hd]
  · obtain ⟨rfl, hn, rfl, rfl, rfl⟩ | ⟨rfl, hn, rfl, rfl, rfl⟩ | ⟨rfl, hn, rfl, rfl, rfl⟩ | ⟨rfl, hn, rfl, rfl, rfl⟩ := hi
    all_goals exact ⟨_, onUnit_ordered hh (by simp [hn]) _, clearCounters_clears hh (by decide) rfl⟩

end Sys2Proof.Machine
end

section
/-! PROOFS. Writes at device-local addresses, and the answers to this device's requests (R245, R246, R251, R253, R284, R340, R371, R373). -/

namespace Sys2Proof.Machine

/-! ## Changes of every listed logical core -/

/-- A fold over the listed logical cores whose step changes the core that it meets by f, and no other, changes each of them by f. -/
theorem lcore_foldl_listed {step : State → Nat × Option LCore → State} {f : LCore → LCore}
    (own : ∀ t j y, t.lcore j = some y → (step t (j, some y)).lcore j = some (f y))
    (other : ∀ t p j, j ≠ p.1 → (step t p).lcore j = t.lcore j) {l : Sparse (Option LCore)}
    (hl : swf (fun _ => (none : Option LCore)) l = true) {i : Nat} {x : LCore} (hx : sget (fun _ => none) l i = some x) {t : State}
    (ht : t.lcore i = some x) : (l.foldl step t).lcore i = some (f x) := by
  induction l generalizing t with
  | nil => cases hx
  | cons p rest ih =>
    obtain ⟨k, v⟩ := p
    obtain ⟨-, later, hrest⟩ := (swf_cons ..).1 hl
    by_cases e : k = i
    · subst e
      have hv : v = some x := by simpa [sget] using hx
      subst hv
      exact List.foldlRecOn (motive := fun u => u.lcore k = some (f x)) rest step (own t k x ht)
        fun u hu p hp => (other u p k (Nat.ne_of_lt (later p hp))).trans hu
    · exact ih hrest (by simpa [sget, e] using hx) ((other t _ i (Ne.symm e)).trans ht)

/-- The logical core with its live prefetch entries changed by g. -/
def LCore.withEntries (x : LCore) (g : Prefetch → Prefetch) : LCore := { x with prefetches := x.prefetches.map g }

theorem withEntries_same {x : LCore} {g : Prefetch → Prefetch} (h : ∀ e ∈ x.prefetches, g e = e) : x.withEntries g = x := by
  rw [LCore.withEntries, List.map_congr_left (g := id) h, List.map_id]

/-! ## Device writes (R253, R284) -/

theorem fillRepairs_lcores (s : State) (a n : Nat) : (s.fillRepairs a n).lcores = s.lcores := by
  unfold State.fillRepairs
  refine foldl_frame State.lcores _ (fun u p => ?_) s.ctls s
  split
  · exact setCtl_lcores ..
  · rfl

theorem send_lcore (s : State) (p : Packet) (job : Bool) (i : Nat) : (s.send p job).lcore i = s.lcore i := rfl

/-- A write advances the entries of every logical core whose source it touches (R253). -/
theorem lcore_advance {s : State} (hs : swf (fun _ => (none : Option LCore)) s.lcores = true) {i : Nat} {x : LCore} (hx : s.lcore i = some x)
    (gs : List Nat) : (s.advance gs).lcore i = some (x.withEntries (fun e => e.bump gs)) := by
  have notices (t : State) (l : List Watch) :
      (l.foldl (fun (u : State) w => u.send (u.packet 0x14 w.src w.context w.tag 0 0 []) false) t).lcore i = t.lcore i :=
    foldl_frame (fun t : State => t.lcore i) _ (fun _ _ => send_lcore ..) l t
  refine (notices ..).trans ?_
  refine lcore_foldl_listed (f := fun x => x.withEntries (fun e => e.bump gs)) (fun t j y hy => ?_) (fun t p j hj => ?_) hs hx hx
  · dsimp only
    split
    · rename_i empty
      rw [withEntries_same (by simp [List.isEmpty_iff.1 empty])]
      exact hy
    · exact lcore_setLcore_same ..
  · split
    · split
      · rfl
      · exact lcore_setLcore_other _ _ _ _ hj
    · rfl

/-- Settles O8: memory changes as `putBytes` does, and the write, as one step of the generations (log 59), advances the entries of every
core. -/
theorem deviceWriteReadsBack : Obligations.DeviceWriteReadsBack := by
  intro s a bs
  rw [devWrite_mem]
  refine ⟨getBytes_putBytes .., fun b hb => getByte_putBytes_other _ _ _ _ hb, wf_putBytes _ _ _, fun hs i x hx => ?_⟩
  have lcores := fillRepairs_lcores { s with mem := putBytes s.mem a bs } a bs.length
  have advanced : (s.devWrite a bs).lcore i = some (x.withEntries (fun e => e.bump (granules a bs.length))) :=
    lcore_advance (lcores.symm ▸ hs) ((congrArg (fun l => sget (fun _ => none) l i) lcores).trans hx) _
  exact ⟨_, advanced, rfl⟩

/-! ## Read data (R245, R340) -/

section answers

variable {s : State} {p : Packet} {q : Half × Half × Purpose}

/-- Read data for a fetch reach it, and the packet waits no longer once all that is awaited is here. -/
theorem exec_readData {i : Nat} (h : s.arrives 0x10 p = true)
    (hq : s.fabric.purposes.find? (fun q => q.1 = p.src && q.2.1 = p.tag) = some q) (hf : q.2.2 = .fetch i) :
    exec (.readData p) s = .next ((if s.awaited i p.tag.toNat ≤ p.data.length then s.unawait p else s).dataArrive
      i p.tag.toNat p.arg.toNat p.data) := by
  refine congrArg Host.Outcome.next ((inbound_arrives h _).trans ?_)
  simp only [State.purpose, State.answered, hq, hf, Option.map_some, decide_eq_true_eq]
  rfl

theorem awaited_of_ask {i tag : Nat} {x : LCore} {f : Fetch} {a : Ask} (hx : s.lcore i = some x)
    (hf : x.fetches.find? (fun g => g.asks.any (fun b => b.tag = tag)) = some f) (ha : f.asks = [a]) (ht : a.tag = tag) :
    s.awaited i tag = a.length := by
  obtain ⟨-, before, after, parts, others⟩ := List.find?_eq_some_iff_append.1 hf
  have early : (before.flatMap (fun f => f.asks)).find? (fun a => a.tag = tag) = none := by
    refine List.find?_eq_none.2 fun b hb => ?_
    obtain ⟨g, hg, hb⟩ := List.mem_flatMap.1 hb
    simpa using (by simpa using others g hg : ∀ b ∈ g.asks, b.tag ≠ tag) b hb
  have first : (x.fetches.flatMap (fun f => f.asks)).find? (fun a => a.tag = tag) = some a := by
    rw [parts, List.flatMap_append, List.find?_append, early]
    simp [ha, ht]
  simp only [State.awaited, hx, first]

/-- A piece that is not the last leaves its ask open. -/
theorem take_asks_ne_nil {f : Fetch} {a : Ask} {tag offset : Nat} {data : List Byte} (ha : f.asks = [a]) (ht : a.tag = tag)
    (hd : data.length < a.length) : (f.take tag offset data).asks ≠ [] := by
  have left : a.length - data.length ≠ 0 := by omega
  simp [Fetch.take, ha, ht, left]

/-- A piece that does not end its fetch changes that fetch alone. -/
theorem dataArrive_open {i tag offset : Nat} {data : List Byte} {x : LCore} {f : Fetch} (hx : s.lcore i = some x)
    (hf : x.fetches.find? (fun g => g.asks.any (fun b => b.tag = tag)) = some f) (hopen : (f.take tag offset data).asks ≠ []) :
    s.dataArrive i tag offset data = s.setLcore i (some { x with
      fetches := x.fetches.map (fun e => if e = f then f.take tag offset data else e) }) := by
  simp only [State.dataArrive, hx, hf, if_neg hopen]

/-! ## Error answers (R251) -/

/-- An error answer halts the core of the fetch that it answers, with its reason and detail (log 37). -/
theorem exec_errorAnswer {i : Nat} {x : LCore} {f : Fetch} (h : s.arrives 0x13 p = true)
    (hq : s.fabric.purposes.find? (fun q => q.1 = p.src && q.2.1 = p.tag) = some q) (hw : q.2.2 = .fetch i) (hx : s.lcore i = some x)
    (h0 : bits p.arg 39 32 ≠ 0) (h10 : bits p.arg 39 32 ≠ 0x10)
    (hf : x.fetches.find? (fun g => g.asks.any (fun b => b.tag = p.tag.toNat)) = some f) :
    exec (.errorAnswer p) s = .next ((s.unawait p).mistakeOf i f.held.at_ (opcode f.held.w) (bits p.arg 39 32) (bits p.arg 31 0)) := by
  refine congrArg Host.Outcome.next ((inbound_arrives h _).trans ?_)
  have here : (s.unawait p).lcore i = some x := hx
  simp only [State.unawait] at here
  simp only [State.answered, hq, hw, if_true, here, hf, if_neg h0, if_neg h10]
  rfl

/-! ## Completions (R246, R340) -/

/-- Packet q, which the completion p covers, no longer waits. -/
def State.uncover (s : State) (p : Packet) (q : Half × Half × Purpose) : State :=
  { s with fabric := { s.fabric with
      purposes := s.fabric.purposes.filter (fun r => r ≠ q)
      unanswered := s.fabric.unanswered.filter (fun u => !(u.dest = p.src && q.2.1 = u.tag)) } }

theorem exec_completion (h : s.arrives 0x11 p = true) (hc : s.covered p = [q]) :
    exec (.completion p) s = .next ((s.uncover p q).acknowledged q.1 q.2.1 q.2.2 (bits p.arg 15 0 = 0)) := by
  refine congrArg Host.Outcome.next ((inbound_arrives h _).trans ?_)
  simp [hc, State.uncover]

/-- An acknowledged write leaves its core one write less to wait for. -/
theorem acknowledged_write {i opc dst : Nat} {at_ : Address} {x : LCore} (hx : s.lcore i = some x) (hsync : x.syncOut = []) (dest tag : Half)
    (refused : Bool) : s.acknowledged dest tag (.write i at_ opc dst) refused = s.setLcore i (some { x with unacked := x.unacked - 1 }) := by
  simp only [State.acknowledged, hx, State.flushSync, lcore_setLcore_same, hsync, State.flushGo]

/-! ## Generation notices (R253) -/

theorem lcore_mapPrefetch (hs : swf (fun _ => (none : Option LCore)) s.lcores = true) {i : Nat} {x : LCore} (hx : s.lcore i = some x)
    (sel : Prefetch → Bool) (g : Prefetch → Prefetch) :
    (s.mapPrefetch sel g).lcore i = some (x.withEntries (fun e => if sel e then g e else e)) := by
  refine lcore_foldl_listed (f := fun x => x.withEntries (fun e => if sel e then g e else e)) (fun t j y hy => ?_) (fun t p j hj => ?_) hs hx hx
  · dsimp only
    split
    · exact lcore_setLcore_same ..
    · rename_i unhit
      rw [withEntries_same fun e he => if_neg fun hit => unhit (List.any_eq_true.2 ⟨e, he, hit⟩)]
      exact hy
  · split
    · split
      · exact lcore_setLcore_other _ _ _ _ hj
      · rfl
    · rfl

/-- Changing prefetch entries leaves memory and the fabric. -/
theorem mapPrefetch_frame (s : State) (sel : Prefetch → Bool) (g : Prefetch → Prefetch) :
    (s.mapPrefetch sel g).mem = s.mem ∧ (s.mapPrefetch sel g).fabric = s.fabric := by
  have frame : ((s.mapPrefetch sel g).mem, (s.mapPrefetch sel g).fabric) = (s.mem, s.fabric) := by
    refine foldl_frame (fun t : State => (t.mem, t.fabric)) _ (fun t p => ?_) s.lcores s
    split
    · split <;> rfl
    · rfl
  exact Prod.ext_iff.1 frame

/-! ## Answers that nothing takes (R341, R373, R385) -/

theorem discarded_raises (s : State) (p : Packet) : s.raises (s.discarded p) := by
  unfold State.discarded
  split <;> rfl

theorem discarded_sameWork (s : State) (p : Packet) : s.sameWork (s.discarded p) := by
  rw [discarded_raises s p]
  exact ⟨rfl, rfl, rfl, rfl, rfl, rfl, rfl⟩

theorem discarded_ports (s : State) (p : Packet) : (s.discarded p).ports = s.ports := by rw [discarded_raises s p]

theorem addError_sameWork {t : State} (h : s.sameWork t) (kind effect : Nat) (unit job : Word) (op : Nat) (step d0 d1 : DWord) :
    s.sameWork (t.addError kind effect unit job op step d0 d1) := by
  simpa [State.sameWork] using h

theorem addError_ports (s : State) (kind effect : Nat) (unit job : Word) (op : Nat) (step d0 d1 : DWord) :
    (s.addError kind effect unit job op step d0 d1).ports = s.ports := by rw [addError_raises]

theorem inbound_damaged {ty : Nat} (hty : p.ptype = ty) (hdest : p.dest = s.coord) (hgood : p.good = false) (f : State → State) :
    s.inbound ty p f = (s.discarded p).addError 0x0020 0 (unitField 4 0 ((arrivalPort p).getD 0)) noJob p.ptype noStep
      (BitVec.ofNat 64 p.src.toNat) 0 := by
  simp [State.inbound, hty, hdest, hgood]

/-- An answer whose check fails, or that nothing waits for, leaves the work and the ports. -/
theorem readData_unheard (hdest : p.dest = s.coord) (hty : p.ptype = 0x10)
    (h : p.good = false ∨ s.fabric.purposes.find? (fun q => q.1 = p.src && q.2.1 = p.tag) = none) :
    ∃ t, exec (.readData p) s = .next t ∧ s.sameWork t ∧ t.ports = s.ports := by
  cases hgood : p.good with
  | false =>
    exact ⟨_, congrArg Host.Outcome.next (inbound_damaged hty hdest hgood _), addError_sameWork (discarded_sameWork s p) ..,
      (addError_ports ..).trans (discarded_ports s p)⟩
  | true =>
    have unawaited := h.resolve_left (by simp [hgood])
    have arrives : s.arrives 0x10 p = true := by simp [State.arrives, hty, hdest, hgood]
    refine ⟨s.discarded p, congrArg Host.Outcome.next ((inbound_arrives arrives _).trans ?_), discarded_sameWork s p, discarded_ports s p⟩
    simp only [State.answered, unawaited]

end answers

/-- Settles O41: each answer by its own lemma. The bits of an error answer's argument are log 37, the packets that a completion covers
log 83. -/
theorem answersReachTheirWork : Obligations.AnswersReachTheirWork := by
  refine ⟨?_, fun s p q h hc hn => ⟨fun hw => ?_, fun i at_ o d x hw hx hsync => ?_⟩, fun s p h hs => ?_,
    fun s p hdest hfail hty => readData_unheard hdest hty hfail⟩
  · rintro s u p why ⟨q, hq, rfl⟩ rfl
    refine ⟨fun i h hw => ⟨fun hall => ?_, fun x f a hpart hx hf ha ht => ?_⟩, fun i x f h hw hx h0 h10 hf => exec_errorAnswer h hq hw hx h0 h10 hf⟩
    · rw [exec_readData h hq hw, if_pos hall]
      rfl
    · have some_left : p.data.length < a.length := awaited_of_ask hx hf ha ht ▸ hpart
      rw [exec_readData h hq hw, if_neg (Nat.not_le.2 hpart), dataArrive_open hx hf (take_asks_ne_nil ha ht some_left)]
  · refine ⟨s.uncover p q, ?_, ⟨rfl, rfl, rfl, rfl, rfl, rfl, rfl⟩, rfl, rfl⟩
    rw [exec_completion h hc, hw]
    rfl
  · refine ⟨(s.uncover p q).setLcore i (some { x with unacked := x.unacked - 1 }), ?_, lcore_setLcore_same .., rfl, rfl⟩
    rw [exec_completion h hc, hw, acknowledged_write (s := s.uncover p q) hx hsync]
  · obtain ⟨mem, fabric⟩ := mapPrefetch_frame s (fun e => e.watches.contains (p.src, p.tag))
      (fun e => { e with generation := min (2 ^ 32 - 1) (e.generation + 1) })
    exact ⟨_, congrArg Host.Outcome.next (inbound_arrives h _), mem, fabric, fun i x hx => lcore_mapPrefetch hs hx ..⟩

end Sys2Proof.Machine
end

section
/-! PROOFS. Words of the move engine that nothing holds back: a move whose data are at hand takes effect when it is sent, and a DREM word
whose data lie elsewhere asks for them. That a move takes effect when sent is log 56, that a lost granule ends it at once is log 60
(R232 to R241, R247 to R252, R278, R284, R410). -/

namespace Sys2Proof.Machine

/-! ## The operation that a word names -/

theorem kind_copy {h : Held} (ho : opcode h.w = 0x30) : h.kind = .copy := by simp [Held.kind, ho]
theorem kind_transpose {h : Held} (ho : opcode h.w = 0x35) : h.kind = .transpose := by simp [Held.kind, ho]
theorem kind_gather {h : Held} (ho : opcode h.w = 0x31) : h.kind = .gather (moveOp h.w) := by simp [Held.kind, ho]
theorem kind_scatter {h : Held} (ho : opcode h.w = 0x32) : h.kind = .scatter (moveOp h.w = 1) := by simp [Held.kind, ho]
theorem kind_prefetch {h : Held} (ho : opcode h.w = 0x33) : h.kind = .prefetch := by simp [Held.kind, ho]

/-- No DREM word is a prefetch. -/
theorem kind_ne_prefetch {h : Held} (ho : opcode h.w = 0x34) : h.kind ≠ .prefetch := by
  simp only [Held.kind, ho, Nat.reduceEqDiff, if_false]
  repeat' split
  all_goals nofun

theorem indexed_gather {s : State} {y : LCore} {h : Held} {m : Nat} {q : Indexed} (hk : h.kind = .gather m) (hq : s.indexed y h = some q) :
    q.gather = true := by
  simp only [State.indexed, hk, Option.some.injEq] at hq
  rw [← hq]

theorem indexed_scatter {s : State} {y : LCore} {h : Held} {add : Bool} {q : Indexed} (hk : h.kind = .scatter add)
    (hq : s.indexed y h = some q) : q.gather = false ∧ q.add = add := by
  simp only [State.indexed, hk, Option.some.injEq] at hq
  rw [← hq]
  exact ⟨rfl, rfl⟩

/-! ## The effect of a move (R234, R235, R239 to R241) -/

section effect

variable {s : State} {i : Nat} {x : LCore} {h : Held} (hl : s.lcore i = some x) (c : Nat) (bytes : Sparse Byte)

include hl

theorem moveEffect_copy (hk : h.kind = .copy) : s.moveEffect c i h bytes =
    s.copyAll c i (x.asSent h) h (bits h.w 58 54) bytes ((x.asSent h).desc h.w 100) ((x.asSent h).desc h.w 110) := by
  simp only [State.moveEffect, hl, State.indexed, hk]

theorem moveEffect_transpose (hk : h.kind = .transpose) : s.moveEffect c i h bytes =
    s.put i h (bits h.w 58 54) ((x.asSent h).desc h.w 110)
      (s.transposed (x.asSent h) h bytes ((x.asSent h).desc h.w 100) ((x.asSent h).desc h.w 110)) := by
  simp only [State.moveEffect, hl, State.indexed, hk]

variable {c bytes} {q : Indexed} (hq : s.indexed (x.asSent h) h = some q)

include hq

/-- A gather without a bad index writes the rows that its indices name. -/
theorem moveEffect_gather (hg : q.gather = true) (good : (s.gathered (x.asSent h) h bytes q ((x.asSent h).desc h.w 110)).2 = none) :
    s.moveEffect c i h bytes = s.put i h (bits h.w 58 54) ((x.asSent h).desc h.w 110)
      (s.gathered (x.asSent h) h bytes q ((x.asSent h).desc h.w 110)).1 := by
  simp only [State.moveEffect, hl, hq, hg, if_true, good]

variable (hg : q.gather = false) (good : (goodIndices q.table.size (s.indices (x.asSent h) h bytes)).2 = none)

include hg good

/-- A plain scatter without a bad index writes, to each row named, the last entry that names it. -/
theorem moveEffect_scatter (ha : q.add = false) : s.moveEffect c i h bytes = s.put i h (bits h.w 58 54) ((x.asSent h).desc h.w 110)
    ((lastOf (goodIndices q.table.size (s.indices (x.asSent h) h bytes)).1).flatMap
      (fun p => s.moveRow (x.asSent h) h bytes ((x.asSent h).desc h.w 110) p.1 ((x.asSent h).desc h.w 100) p.2)) := by
  simp only [State.moveEffect, hl, hq, hg, ha, Bool.false_eq_true, if_false, good]

theorem moveEffect_scatterAdd (ha : q.add = true) : s.moveEffect c i h bytes =
    s.scatterAdd i (x.asSent h) h bytes q ((x.asSent h).desc h.w 110) (goodIndices q.table.size (s.indices (x.asSent h) h bytes)).1 := by
  simp only [State.moveEffect, hl, hq, hg, ha, Bool.false_eq_true, if_false, if_true, good]

end effect

/-! ## Sending a move -/

section run

variable {s : State} {i : Nat} {x : LCore} {h : Held} (hl : s.lcore i = some x) (c : Nat)

include hl

theorem moveNow_lost {bytes : Sparse Byte} {a : Nat} (lost : s.moveLost (x.asSent h) h bytes = some a) :
    s.moveNow c i h bytes = s.lostRead c i x h a := by
  simp only [State.moveNow, hl, lost]

theorem moveNow_readable {bytes : Sparse Byte} (readable : s.moveLost (x.asSent h) h bytes = none) :
    s.moveNow c i h bytes = s.moveEffect c i h bytes := by
  simp only [State.moveNow, hl, readable]

theorem moveRun_prefetch (hk : h.kind = .prefetch) (here : s.needs (x.asSent h) h [] [] = []) :
    moveRun s c i h = ((s.openEntry i h false).moveNow c i h []).settled c i := by
  simp [moveRun, hl, hk, here]

/-- A move that is no prefetch: a version is asked of its owner, data at hand are moved, and the others are asked for (R245, R251). -/
theorem moveRun_eq (hp : h.kind ≠ .prefetch) : moveRun s c i h =
    if h.kind = .version then s.askVersion i x (x.asSent h) h
    else if s.needs (x.asSent h) h [] [] = [] then (s.moveNow c i h []).settled c i
    else s.openFetch i h (s.needs (x.asSent h) h [] []) := by
  simp only [moveRun, hl, if_neg hp]

variable {k : MoveKind} (hk : h.kind = k) (hp : k ≠ .prefetch) (hv : k ≠ .version) (here : s.needs (x.asSent h) h [] [] = [])

include hk hp hv here

theorem moveRun_lost {a : Nat} (lost : s.moveLost (x.asSent h) h [] = some a) :
    moveRun s c i h = (s.lostRead c i x h a).settled c i := by
  subst hk
  rw [moveRun_eq hl c hp, if_neg hv, if_pos here, moveNow_lost hl c lost]

theorem moveRun_readable (readable : s.moveLost (x.asSent h) h [] = none) :
    moveRun s c i h = (s.moveEffect c i h []).settled c i := by
  subst hk
  rw [moveRun_eq hl c hp, if_neg hv, if_pos here, moveNow_readable hl c readable]

end run

/-- A move word without mistakes that nothing holds back runs in the state in which it has issued. -/
theorem issue_move {s t : State} {c i : Nat} {x : LCore} {w : IWord} {regs : List Nat} {u : Uses} {own : Bool} {mist : LCore → List Mistake}
    {uses : LCore → Uses} (h : s.issues c i x = true) (ho : own = true) (hm : lowest (mist x) = none) (hu : u = uses x)
    (hfree : s.unhindered c x w regs u = true) (run : moveRun (s.issued c i x) c i (x.sent w u) = t) :
    issue s c w own mist (fun i x => s.sendTo c i x w regs (uses x) moveRun) = .next t := by
  subst hu
  exact (issue_next h ho hm).trans (congrArg _ ((sendTo_runs hfree).trans run))

/-- Settles O23: a DREM word that is sent runs as every move that is no prefetch. That op 3 sums at the requester is log 29, and the body
of the request of op 5 is log 28. -/
theorem remoteMovesAskAndRun : Obligations.RemoteMovesAskAndRun := by
  rintro s c i x w u h hiss ho rfl hfree t rfl
  have run := moveRun_eq (h := x.sent w u) (issued_lcore (s := s) (c := c) (i := i) (x := x)) c (kind_ne_prefetch ho)
  exact ⟨fun hop hm hu => issue_move hiss (by simp [ho, hop]) hm hu hfree run, fun hop hm hu => issue_move hiss (by simp [ho, hop]) hm hu hfree run,
    fun hop hm hu => issue_move hiss (by simp [ho, hop]) hm hu hfree run, fun hop hm hu => issue_move hiss (by simp [ho, hop]) hm hu hfree run,
    fun hop hm hu => issue_move hiss (by simp [ho, hop]) hm hu hfree run, fun hop hm hu => issue_move hiss (by simp [ho, hop]) hm hu hfree run⟩

/-- Settles O22: each word runs at once, and its data at hand are moved as its kind says. -/
theorem localMovesTakeEffect : Obligations.LocalMovesTakeEffect := by
  refine ⟨?_, ?_⟩
  · rintro s c i x w h a hiss rfl hfree here lost
    have run {k : MoveKind} := moveRun_lost (k := k) (h := x.sent w (moveUses w x)) (issued_lcore (s := s) (c := c) (i := i) (x := x)) c
    refine ⟨fun ho hm => ?_, fun ho hm => ?_⟩
    · exact issue_move hiss (by simp [ho]) hm rfl hfree (run (kind_copy ho) nofun nofun here lost)
    · exact issue_move hiss (by simp [ho]) hm rfl hfree (run (kind_transpose ho) nofun nofun here lost)
  · rintro s c i x w h d hiss rfl hfree here readable rfl
    have hl := issued_lcore (s := s) (c := c) (i := i) (x := x)
    have run {k : MoveKind} (hk : (x.sent w (moveUses w x)).kind = k) (hp : k ≠ .prefetch) (hv : k ≠ .version) {t : State}
        (effect : (s.issued c i x).moveEffect c i (x.sent w (moveUses w x)) [] = t) :
        moveRun (s.issued c i x) c i (x.sent w (moveUses w x)) = t.settled c i :=
      (moveRun_readable hl c hk hp hv here readable).trans (congrArg (fun t => t.settled c i) effect)
    refine ⟨fun ho hm => ?_, fun ho hm => ?_, fun q hq hm ho good => ?_, fun q hq hm ho => ?_, fun ho hm => ?_⟩
    · have kind := kind_copy (h := x.sent w (moveUses w x)) ho
      exact issue_move hiss (by simp [ho]) hm rfl hfree (run kind nofun nofun (moveEffect_copy hl c [] kind))
    · have kind := kind_transpose (h := x.sent w (moveUses w x)) ho
      exact issue_move hiss (by simp [ho]) hm rfl hfree (run kind nofun nofun (moveEffect_transpose hl c [] kind))
    · rintro t rfl
      have kind := kind_gather (h := x.sent w (moveUses w x)) ho
      have gathers := run kind nofun nofun (moveEffect_gather hl hq (indexed_gather kind hq) good)
      exact ⟨fun h1 h2 => issue_move hiss (by simp [ho, h1, h2]) hm rfl hfree gathers,
        fun h1 => issue_move hiss (by simp [ho, h1]) hm rfl hfree gathers, fun h2 => issue_move hiss (by simp [ho, h2]) hm rfl hfree gathers⟩
    · rintro g rfl good
      have kind := kind_scatter (h := x.sent w (moveUses w x)) ho
      obtain ⟨scatters, adds⟩ := indexed_scatter kind hq
      refine ⟨fun h1 => ?_, fun h1 => ?_⟩
      · have effect := moveEffect_scatter hl (c := c) hq scatters good (adds.trans (decide_eq_false h1))
        exact issue_move hiss (by simp [ho, h1]) hm rfl hfree (run kind nofun nofun effect)
      · have effect := moveEffect_scatterAdd hl (c := c) hq scatters good (adds.trans (decide_eq_true h1))
        exact issue_move hiss (by simp [ho, h1]) hm rfl hfree (run kind nofun nofun effect)
    · exact issue_move hiss (by simp [ho]) hm rfl hfree (moveRun_prefetch hl c (kind_prefetch ho) here)

end Sys2Proof.Machine
end

section
/-! PROOFS. The memory code (R276, R277): in GF(2^8) every symbol but 0 is a power of α = 0x02, and the two syndromes of one
wrong data symbol name its place and its value. -/

namespace Sys2Proof.Machine

/-! ## Products by α -/

/-- The product by α = 0x02. -/
def timesAlpha (a : Nat) : Nat := if a < 128 then 2 * a else (2 * a) ^^^ 0x11D

theorem timesAlpha_lt : ∀ a < 256, timesAlpha a < 256 := by decide +kernel

/-- The product by α is linear. -/
theorem timesAlpha_xor {a b : Nat} (ha : a < 256) (hb : b < 256) : timesAlpha (a ^^^ b) = timesAlpha a ^^^ timesAlpha b := by
  have high {c : Nat} (hc : c < 256) : c < 128 ↔ c.testBit 7 = false := by
    rw [Nat.testBit_eq_decide_div_mod_eq, decide_eq_false_iff_not]
    omega
  have twice : 2 * (a ^^^ b) = 2 * a ^^^ 2 * b := by
    simpa [Nat.shiftLeft_eq, Nat.mul_comm] using Nat.shiftLeft_xor_distrib (a := a) (b := b) (i := 1)
  have sum : a ^^^ b < 256 := Nat.xor_lt_two_pow (n := 8) ha hb
  simp only [timesAlpha, high ha, high hb, high sum, Nat.testBit_xor, twice]
  cases a.testBit 7 <;> cases b.testBit 7
  · rfl
  · exact Nat.xor_assoc ..
  · exact (Nat.xor_assoc ..).trans ((congrArg _ (Nat.xor_comm ..)).trans (Nat.xor_assoc ..).symm)
  · have cancel : 0x11D ^^^ (2 * b ^^^ 0x11D) = 2 * b := by
      rw [Nat.xor_comm (2 * b), ← Nat.xor_assoc, Nat.xor_self, Nat.zero_xor]
    exact ((Nat.xor_assoc ..).trans (congrArg _ cancel)).symm

theorem timesAlpha_injective {a b : Nat} (ha : a < 256) (hb : b < 256) (h : timesAlpha a = timesAlpha b) : a = b := by
  have kernel : ∀ c < 256, timesAlpha c = 0 → c = 0 := by decide +kernel
  have difference : a ^^^ b = 0 := kernel _ (Nat.xor_lt_two_pow (n := 8) ha hb) (by rw [timesAlpha_xor ha hb, h, Nat.xor_self])
  calc a = (a ^^^ b) ^^^ b := by rw [Nat.xor_assoc, Nat.xor_self, Nat.xor_zero]
    _ = b := by rw [difference, Nat.zero_xor]

/-- The product by α^n. -/
def shiftAlpha : Nat → Nat → Nat
  | 0, a => a
  | n + 1, a => timesAlpha (shiftAlpha n a)

theorem shiftAlpha_add (m n a : Nat) : shiftAlpha (m + n) a = shiftAlpha m (shiftAlpha n a) := by
  induction m with
  | zero => rw [Nat.zero_add, shiftAlpha]
  | succ m ih => rw [Nat.succ_add, shiftAlpha, ih, shiftAlpha]

theorem shiftAlpha_timesAlpha (n a : Nat) : shiftAlpha n (timesAlpha a) = shiftAlpha (n + 1) a := (shiftAlpha_add n 1 a).symm

theorem shiftAlpha_zero (n : Nat) : shiftAlpha n 0 = 0 := by
  induction n with
  | zero => rfl
  | succ n ih => rw [shiftAlpha, ih, timesAlpha, if_pos (by decide)]

theorem shiftAlpha_lt (n : Nat) {a : Nat} (h : a < 256) : shiftAlpha n a < 256 := by
  induction n with
  | zero => exact h
  | succ n ih => exact timesAlpha_lt _ ih

theorem shiftAlpha_injective (n : Nat) {a b : Nat} (ha : a < 256) (hb : b < 256) (h : shiftAlpha n a = shiftAlpha n b) : a = b := by
  induction n with
  | zero => exact h
  | succ n ih => exact ih (timesAlpha_injective (shiftAlpha_lt n ha) (shiftAlpha_lt n hb) h)

/-! ## Products (R276) -/

/-- The products by the lowest n bits of b. -/
def gfSum (a b : Nat) : Nat → Nat
  | 0 => 0
  | n + 1 => if b.testBit n then gfSum a b n ^^^ shiftAlpha n a else gfSum a b n

theorem gfMul_eq_gfSum (a b : Nat) : gfMul a b = gfSum a b 8 := by
  have steps (n : Nat) : (upto n).foldl (fun (p : Nat × Nat) i =>
      ((if b.testBit i then p.1 ^^^ p.2 else p.1), (if p.2 < 128 then 2 * p.2 else (2 * p.2) ^^^ 0x11D))) (0, a) =
      (gfSum a b n, shiftAlpha n a) := by
    induction n with
    | zero => rfl
    | succ n ih =>
      rw [upto, List.range_succ, List.foldl_append, ← upto, ih]
      rfl
  exact congrArg Prod.fst (steps 8)

theorem gfSum_lt {a : Nat} (h : a < 256) (b n : Nat) : gfSum a b n < 256 := by
  induction n with
  | zero => exact Nat.zero_lt_succ _
  | succ n ih =>
    unfold gfSum
    split
    · exact Nat.xor_lt_two_pow (n := 8) ih (shiftAlpha_lt n h)
    · exact ih

theorem gfSum_timesAlpha {a : Nat} (h : a < 256) (b n : Nat) : gfSum (timesAlpha a) b n = timesAlpha (gfSum a b n) := by
  induction n with
  | zero => rfl
  | succ n ih =>
    unfold gfSum
    split
    · rw [ih, timesAlpha_xor (gfSum_lt h b n) (shiftAlpha_lt n h), shiftAlpha_timesAlpha, shiftAlpha]
    · exact ih

theorem gfMul_two (a : Nat) : gfMul a 2 = timesAlpha a := (gfMul_eq_gfSum a 2).trans (Nat.zero_xor _)

theorem gfMul_four (a : Nat) : gfMul a 4 = timesAlpha (timesAlpha a) := (gfMul_eq_gfSum a 4).trans (Nat.zero_xor _)

theorem gfMul_one_left : ∀ b < 256, gfMul 1 b = b := by decide +kernel

theorem gfMul_zero_left (b : Nat) : gfMul 0 b = 0 := by
  have zero (n : Nat) : gfSum 0 b n = 0 := by
    induction n with
    | zero => rfl
    | succ n ih => rw [gfSum, ih, shiftAlpha_zero, Nat.xor_self, ite_self]
  rw [gfMul_eq_gfSum, zero]

/-- α^n. -/
def alphaPow (n : Nat) : Nat := shiftAlpha n 1

theorem alphaPow_lt (n : Nat) : alphaPow n < 256 := shiftAlpha_lt n (by decide)

theorem shiftAlpha_alphaPow (m n : Nat) : shiftAlpha m (alphaPow n) = alphaPow (m + n) :=
  (shiftAlpha_add ..).symm

/-- A product by α^n is n products by α. -/
theorem gfMul_alphaPow (n : Nat) {b : Nat} (hb : b < 256) : gfMul (alphaPow n) b = shiftAlpha n b := by
  induction n with
  | zero => exact gfMul_one_left b hb
  | succ n ih =>
    rw [shiftAlpha, ← ih, gfMul_eq_gfSum, gfMul_eq_gfSum, ← gfSum_timesAlpha (alphaPow_lt n), alphaPow, alphaPow, shiftAlpha]

/-! ## The powers of α -/

theorem alphaPow_ne_one : ∀ d < 255, 0 < d → alphaPow d ≠ 1 := by decide +kernel

theorem alphaPow_ne_of_lt {m n : Nat} (hmn : m < n) (hn : n < 255) : alphaPow m ≠ alphaPow n := by
  intro h
  obtain ⟨d, rfl⟩ := Nat.exists_eq_add_of_lt hmn
  rw [Nat.add_assoc, ← shiftAlpha_alphaPow] at h
  exact alphaPow_ne_one (d + 1) (by omega) (Nat.succ_pos d) (shiftAlpha_injective m (by decide) (alphaPow_lt _) h).symm

theorem alphaPow_inj {m n : Nat} (hm : m < 255) (hn : n < 255) (h : alphaPow m = alphaPow n) : m = n := by
  obtain lt | e | lt := Nat.lt_trichotomy m n
  · exact absurd h (alphaPow_ne_of_lt lt hn)
  · exact e
  · exact absurd h.symm (alphaPow_ne_of_lt lt hm)

theorem alphaPow_ne_zero (n : Nat) : alphaPow n ≠ 0 := fun h =>
  absurd (shiftAlpha_injective n (by decide) (by decide) (h.trans (shiftAlpha_zero n).symm) : 1 = 0) (by decide)

theorem nodup_alphaPow : ((upto 255).map alphaPow).Nodup :=
  List.pairwise_map.2 (List.nodup_range.imp_of_mem fun hm hn ne h => ne (alphaPow_inj (List.mem_range.1 hm) (List.mem_range.1 hn) h))

/-- Every symbol but 0 is a power of α: the 255 powers differ, and there are no more than 255 such symbols. -/
theorem exists_alphaPow {e : Nat} (h0 : e ≠ 0) (h : e < 256) : ∃ n, alphaPow n = e := by
  by_cases power : e ∈ (upto 255).map alphaPow
  · obtain ⟨n, -, rfl⟩ := List.mem_map.1 power
    exact ⟨n, rfl⟩
  · have symbols : e :: (upto 255).map alphaPow ⊆ List.range' 1 255 := by
      refine List.cons_subset.2 ⟨List.mem_range'_1.2 (by omega), fun a ha => ?_⟩
      obtain ⟨n, -, rfl⟩ := List.mem_map.1 ha
      have := alphaPow_ne_zero n
      have := alphaPow_lt n
      exact List.mem_range'_1.2 (by omega)
    have short := (List.nodup_cons.2 ⟨power, nodup_alphaPow⟩).length_le_of_subset symbols
    simp [upto] at short

theorem gfPowers_eq_map (n a : Nat) : gfPowers n a = (upto n).map (fun j => shiftAlpha j a) := by
  induction n generalizing a with
  | zero => rfl
  | succ n ih =>
    rw [gfPowers, gfMul_two, ih, upto, upto, List.range_succ_eq_map, List.map_cons, List.map_map]
    simp only [shiftAlpha_timesAlpha]
    rfl

/-! ## One wrong data symbol (R277) -/

/-- The 72 symbols of an error pattern, as the decoder sees them. -/
def errorSymbols (errors : List (Nat × Byte)) : List Nat :=
  (upto 72).map (fun i => (errors.filter (fun e => (if e.1 < 64 then e.1 else e.1 + 6) = i)).foldl (fun n e => n ^^^ e.2.toNat) 0)

theorem errorSymbols_single {i : Nat} (hi : i < 64) (e : Byte) :
    errorSymbols [(i, e)] = (upto 72).map (fun j => if j = i then e.toNat else 0) := by
  refine List.map_congr_left fun j _ => ?_
  by_cases h : j = i
  · simp [h, hi]
  · simp [h, hi, Ne.symm h]

theorem syndromes_concat (sym : List Nat) (b : Nat) :
    syndromes (sym ++ [b]) = (timesAlpha (syndromes sym).1 ^^^ b, timesAlpha (timesAlpha (syndromes sym).2) ^^^ b) := by
  rw [syndromes, List.foldl_append, ← syndromes, ← gfMul_two, ← gfMul_four]
  rfl

/-- A lone symbol e is multiplied by α and α² once for each symbol after it. -/
theorem syndromes_lone (i e n : Nat) : syndromes ((upto n).map (fun j => if j = i then e else 0)) =
    if i < n then (shiftAlpha (n - 1 - i) e, shiftAlpha (2 * (n - 1 - i)) e) else (0, 0) := by
  induction n with
  | zero => rfl
  | succ n ih =>
    rw [upto, List.range_succ, List.map_append, ← upto, List.map_singleton, syndromes_concat, ih]
    obtain h | rfl | h := Nat.lt_trichotomy i n
    · have later : n + 1 - 1 - i = n - 1 - i + 1 := by omega
      simp only [if_pos h, if_pos (Nat.lt_succ_of_lt h), if_neg (Nat.ne_of_gt h), Nat.xor_zero, later, Nat.mul_succ, shiftAlpha]
    · simp [timesAlpha, shiftAlpha]
    · have after : ¬ i < n + 1 := by omega
      simp [Nat.lt_asymm h, after, Nat.ne_of_lt h, timesAlpha]

/-- With error e = α^n in data symbol i, 71 − i symbols before the last one, the syndromes are eα^(71−i) and eα^(2(71−i)). -/
theorem syndromes_single {i n : Nat} (hi : i < 64) {e : Byte} (he : alphaPow n = e.toNat) :
    syndromes (errorSymbols [(i, e)]) = (alphaPow (71 - i + n), alphaPow (2 * (71 - i) + n)) := by
  rw [errorSymbols_single hi, syndromes_lone, if_pos (by omega), ← he, shiftAlpha_alphaPow, shiftAlpha_alphaPow]

/-- The first power of α that leads from one syndrome to the other tells the place. -/
theorem find_place {k n : Nat} (hk : k < 72) :
    ((upto 72).zip (gfPowers 72 1)).find? (fun p => gfMul (alphaPow (k + n)) p.2 = alphaPow (2 * k + n)) = some (k, alphaPow k) := by
  have leads {j : Nat} (hj : j < 72) : gfMul (alphaPow (k + n)) (alphaPow j) = alphaPow (2 * k + n) ↔ j = k := by
    have split : alphaPow (2 * k + n) = shiftAlpha (k + n) (alphaPow k) := by
      rw [shiftAlpha_alphaPow]
      congr 1
      omega
    rw [gfMul_alphaPow _ (alphaPow_lt j), split]
    exact ⟨fun h => alphaPow_inj (by omega) (by omega) (shiftAlpha_injective _ (alphaPow_lt j) (alphaPow_lt k) h),
      congrArg fun j => shiftAlpha (k + n) (alphaPow j)⟩
  have first : (upto 72).find? (fun j => gfMul (alphaPow (k + n)) (alphaPow j) = alphaPow (2 * k + n)) = some k :=
    List.find?_range_eq_some.2 ⟨by simp [leads hk], List.mem_range.2 hk, fun j hj => by simp [leads (Nat.lt_trans hj hk), Nat.ne_of_lt hj]⟩
  have powers : (upto 72).zip (gfPowers 72 1) = (upto 72).map (fun j => (j, alphaPow j)) := by
    rw [gfPowers_eq_map]
    exact (congrArg (List.zip · _) (List.map_id _).symm).trans List.zip_map'
  rw [powers, List.find?_map]
  exact congrArg (Option.map _) first

/-- The value of the error is S1² / S2. -/
theorem find_value (k n : Nat) :
    (upto 256).find? (fun v => gfMul v (alphaPow (2 * k + n)) = gfMul (alphaPow (k + n)) (alphaPow (k + n))) = some (alphaPow n) := by
  have square : gfMul (alphaPow (k + n)) (alphaPow (k + n)) = shiftAlpha (2 * k + n) (alphaPow n) := by
    rw [gfMul_alphaPow _ (alphaPow_lt _), shiftAlpha_alphaPow, shiftAlpha_alphaPow]
    congr 1
    omega
  have product {v : Nat} (hv : v < 256) : gfMul v (alphaPow (2 * k + n)) = shiftAlpha (2 * k + n) v := by
    obtain rfl | h0 := Nat.eq_zero_or_pos v
    · rw [gfMul_zero_left, shiftAlpha_zero]
    · obtain ⟨a, rfl⟩ := exists_alphaPow (Nat.ne_of_gt h0) hv
      rw [gfMul_alphaPow _ (alphaPow_lt _), shiftAlpha_alphaPow, shiftAlpha_alphaPow, Nat.add_comm]
  have value {v : Nat} (hv : v < 256) : gfMul v (alphaPow (2 * k + n)) = gfMul (alphaPow (k + n)) (alphaPow (k + n)) ↔ v = alphaPow n := by
    rw [product hv, square]
    exact ⟨shiftAlpha_injective _ hv (alphaPow_lt n), congrArg _⟩
  exact List.find?_range_eq_some.2 ⟨by simp [value (alphaPow_lt n)], List.mem_range.2 (alphaPow_lt n), fun v hv => by
    simp [value (Nat.lt_trans hv (alphaPow_lt n)), Nat.ne_of_lt hv]⟩

theorem eccDecode_corrected {errors : List (Nat × Byte)} {s1 s2 k a : Nat} (h : syndromes (errorSymbols errors) = (s1, s2)) (h1 : s1 ≠ 0)
    (h2 : s2 ≠ 0) (hf : ((upto 72).zip (gfPowers 72 1)).find? (fun p => gfMul s1 p.2 = s2) = some (k, a)) (hk : 71 - k < 64) :
    eccDecode errors = .corrected (71 - k) := by
  unfold errorSymbols at h
  simp only [eccDecode, h, hf, Prod.mk.injEq, h1, h2, false_and, or_self, if_false, hk, true_or, if_true]

/-- The data with the errors of the read. -/
def misread (data : List Byte) (errors : List (Nat × Byte)) : List Byte :=
  (data.zipIdx).map (fun p => (errors.filter (fun e => e.1 = p.2)).foldl (fun (b : Byte) e => b ^^^ e.2) p.1)

theorem eccData_corrected {errors : List (Nat × Byte)} {s1 s2 i v : Nat} (data : List Byte)
    (h : syndromes (errorSymbols errors) = (s1, s2)) (hd : eccDecode errors = .corrected i)
    (hv : (upto 256).find? (fun v => gfMul v s2 = gfMul s1 s1) = some v) :
    eccData data errors = ((misread data errors).zipIdx).map (fun p => if p.2 = i then p.1 ^^^ BitVec.ofNat 8 v else p.1) := by
  unfold errorSymbols at h
  simp only [eccData, hd, h, hv, misread]

/-- Changing one symbol twice by the same value leaves the data. -/
theorem misread_single_twice (data : List Byte) (i : Nat) (e : Byte) :
    ((misread data [(i, e)]).zipIdx).map (fun p => if p.2 = i then p.1 ^^^ e else p.1) = data := by
  have twice (b : Byte) : b ^^^ e ^^^ e = b := by rw [BitVec.xor_assoc, BitVec.xor_self, BitVec.xor_zero]
  refine List.ext_getElem (by simp [misread]) fun j _ _ => ?_
  by_cases h : i = j
  · simp [misread, h, twice]
  · simp [misread, h, Ne.symm h]

theorem eccDecode_nil : eccDecode [] = .clean := by decide +kernel

theorem eccData_nil (data : List Byte) : eccData data [] = data := by
  simp [eccData, eccDecode_nil]

/-- Settles O10: e = α^n gives the syndromes from which the decoder finds the symbol, and the value that it takes away again. -/
theorem memoryCodeCorrectsOneSymbol : Obligations.MemoryCodeCorrectsOneSymbol := by
  refine ⟨fun i e hi he => ?_, fun data => ⟨eccDecode_nil, eccData_nil data⟩⟩
  obtain ⟨n, power⟩ := exists_alphaPow (e := e.toNat) (by simpa [BitVec.toNat_eq] using he) e.isLt
  have found := syndromes_single hi power
  have place : 71 - (71 - i) = i := by omega
  have decoded := eccDecode_corrected found (alphaPow_ne_zero _) (alphaPow_ne_zero _) (find_place (k := 71 - i) (by omega)) (by omega)
  rw [place] at decoded
  refine ⟨decoded, fun data _ => ?_⟩
  rw [eccData_corrected data found decoded (find_value ..), power, BitVec.ofNat_toNat, BitVec.setWidth_eq]
  exact misread_single_twice data i e

end Sys2Proof.Machine
end

section
/-! PROOFS. Requests at a memory controller, and the slots that they hold (R277, R280, R282, R285 to R288). -/

namespace Sys2Proof.Machine

/-! ## What the controllers alone change -/

/-- Between s and t nothing but the memory controllers, the memory group's timer and the dictionary's counters has changed. -/
def State.onlyControllers (s t : State) : Prop :=
  t = { s with
    ctls := t.ctls
    power := t.power
    dict := t.dict }

namespace State.onlyControllers

variable {s t u : State}

theorem refl (s : State) : s.onlyControllers s := rfl

theorem trans (h : s.onlyControllers t) (g : t.onlyControllers u) : s.onlyControllers u := by
  unfold State.onlyControllers at *
  rw [g, h]

theorem clock (h : s.onlyControllers t) : t.clock = s.clock := by rw [h]
theorem mem (h : s.onlyControllers t) : t.mem = s.mem := by rw [h]
theorem lcores (h : s.onlyControllers t) : t.lcores = s.lcores := by rw [h]
theorem errors (h : s.onlyControllers t) : t.errors = s.errors := by rw [h]

theorem sameWork (h : s.onlyControllers t) : s.sameWork t := by
  rw [h]
  exact ⟨rfl, rfl, rfl, rfl, rfl, rfl, rfl⟩

end State.onlyControllers

variable (s : State)

theorem useMemory_onlyControllers : s.onlyControllers s.useMemory := rfl
theorem setCtl_onlyControllers (n : Nat) (x : Controller) : s.onlyControllers (s.setCtl n x) := rfl
theorem bump64_onlyControllers (idx sub n : Nat) : s.onlyControllers (s.bump64 idx sub n) := rfl

theorem trafficBump_onlyControllers (idx sub : Nat) : s.onlyControllers (s.trafficBump idx sub) := by
  unfold State.trafficBump
  split
  · exact bump64_onlyControllers ..
  · exact .refl s

@[simp] theorem trafficBump_at_ctl (idx sub n : Nat) : (s.trafficBump idx sub).ctl n = s.ctl n := by
  unfold State.trafficBump
  split
  · exact bump64_at_ctl ..
  · rfl

/-! ## Rows and corrections (R280, R282) -/

/-- Opening a row changes the rows of its controller and a counter. -/
theorem openRow_effect (n bank row : Nat) (write : Bool) :
    s.onlyControllers (s.openRow n bank row write) ∧ ∃ r, (s.openRow n bank row write).ctl n = { s.ctl n with rows := r } := by
  unfold State.openRow
  dsimp only
  split
  · split
    · exact ⟨setCtl_onlyControllers .., _, ctl_setCtl_same ..⟩
    · exact ⟨(setCtl_onlyControllers ..).trans (trafficBump_onlyControllers ..), _, (trafficBump_at_ctl ..).trans (ctl_setCtl_same ..)⟩
  · exact ⟨(setCtl_onlyControllers ..).trans (trafficBump_onlyControllers ..), _, (trafficBump_at_ctl ..).trans (ctl_setCtl_same ..)⟩

/-- A corrected read changes the write-back list of its controller and counters. -/
theorem corrected_effect (n h g : Nat) :
    s.onlyControllers (s.corrected n h g) ∧ ∃ l, (s.corrected n h g).ctl n = { s.ctl n with writeBacks := l } := by
  have counted := bump64_onlyControllers s (ctlObj n 1) 0x01 1
  unfold State.corrected
  dsimp only
  split
  · exact ⟨counted, (s.ctl n).writeBacks, bump64_at_ctl ..⟩
  · split
    · refine ⟨counted.trans (setCtl_onlyControllers ..), (s.ctl n).writeBacks ++ [(h, g)], ?_⟩
      rw [ctl_setCtl_same, bump64_at_ctl]
    · exact ⟨counted.trans (bump64_onlyControllers ..), (s.ctl n).writeBacks, (bump64_at_ctl ..).trans (bump64_at_ctl ..)⟩

/-- What a read finds depends on the repair entries of its controller. -/
theorem readGranule_congr {s t : State} {n : Nat} (h : (t.ctl n).repairs = (s.ctl n).repairs) (g : Nat) (errors : List (Nat × Byte)) :
    t.readGranule n g errors = s.readGranule n g errors := by
  rw [State.readGranule, h]
  rfl

/-! ## Device writes (R284) -/

theorem send_errors (p : Packet) (job : Bool) : (s.send p job).errors = s.errors := rfl

/-- A write enters no error record. -/
@[simp] theorem devWrite_errors (a : Nat) (bs : List Byte) : (s.devWrite a bs).errors = s.errors := by
  have advanced (t : State) (gs : List Nat) : (t.advance gs).errors = t.errors := by
    unfold State.advance
    rw [foldl_frame State.errors _ fun u w => send_errors u ..]
    refine foldl_frame State.errors _ (fun u p => ?_) t.lcores t
    split
    · split <;> rfl
    · rfl
  have filled (t : State) (n : Nat) : (t.fillRepairs a n).errors = t.errors :=
    foldl_frame State.errors _ (fun u p => by split <;> rfl) t.ctls t
  rw [State.devWrite, advanced, filled]

/-! ## Requests (R285 to R288) -/

section requests

variable {s} {q : MemReq} {n h : Nat}

/-- A read whose symbols decode changes its controller's write-back list and counters. -/
theorem access_read (hop : q.op = .read) (good : s.readGranule n (q.addr.toNat / 64) q.errors ≠ .uncorrectable) :
    s.onlyControllers (s.access n h q) ∧ ((s.access n h q).ctl n).slots = (s.ctl n).slots := by
  have counted := trafficBump_onlyControllers s (ctlObj n 2) 0x01
  have granule := readGranule_congr (congrArg Controller.repairs (trafficBump_at_ctl s (ctlObj n 2) 0x01 n)) (q.addr.toNat / 64) q.errors
  simp only [State.access, hop, granule]
  cases found : s.readGranule n (q.addr.toNat / 64) q.errors with
  | clean => exact ⟨counted, congrArg Controller.slots (trafficBump_at_ctl ..)⟩
  | corrected i =>
    obtain ⟨noted, l, list⟩ := corrected_effect (s.trafficBump (ctlObj n 2) 0x01) n h (q.addr.toNat / 64)
    refine ⟨counted.trans noted, ?_⟩
    dsimp only [id]
    rw [list, trafficBump_at_ctl]
  | uncorrectable => exact absurd found good

/-- A write stores its bytes. -/
theorem access_write {data : List Byte} (hop : q.op = .write data) :
    s.access n h q = (s.trafficBump (ctlObj n 2) 0x03).devWrite (64 * (q.addr.toNat / 64)) (data.take 64) := by
  simp only [State.access, hop]

/-- A partial write of a granule that reads clean stores the bytes that its mask selects. -/
theorem access_partialWrite {mask : DWord} {data : List Byte} (hop : q.op = .partialWrite mask data)
    (clean : s.readGranule n (q.addr.toNat / 64) q.errors = .clean) :
    s.access n h q = (s.trafficBump (ctlObj n 2) 0x05).devWrite (64 * (q.addr.toNat / 64))
      (maskBytes (getBytes s.mem (64 * (q.addr.toNat / 64)) 64) data mask.toNat) := by
  have granule := readGranule_congr (congrArg Controller.repairs (trafficBump_at_ctl s (ctlObj n 2) 0x05 n)) (q.addr.toNat / 64) q.errors
  simp only [State.access, hop, granule, clean, (trafficBump_onlyControllers s (ctlObj n 2) 0x05).mem]

/-- An active group serves a request for GDDR7 at once. -/
theorem exec_memoryRequest (hq : q.addr.toNat < gddrEnd) (hm : s.memoryActive = true) :
    exec (.memoryRequest q) s = .next (s.useMemory.controllerRequest q) := by
  have unit : requestUnit q.addr.toNat = some 0 := if_pos hq
  refine Eq.trans (b := execMemoryRequest q s) rfl ?_
  simp only [execMemoryRequest, unit, if_true, atMemory_active hm]

section controller

variable {bank : Nat} (hn : n = (gddrDecode q.addr.toNat).1 / 8)
  (hb : bank = (gddrDecode q.addr.toNat).1 % 8 * 16 + (gddrDecode q.addr.toNat).2.1)

include hn hb

/-- A request that finds a free slot takes it and opens its row, and then its granule is accessed. -/
theorem controllerRequest_admitted (room : ((s.ctl n).slots.filter (fun u => u.bank = bank)).length < 64)
    (rooms : (s.ctl n).slots.length < 5440) : ∃ t, s.controllerRequest q = t.access n (gddrDecode q.addr.toNat).1 q ∧
      s.onlyControllers t ∧ (t.ctl n).repairs = (s.ctl n).repairs ∧
      (t.ctl n).slots = (s.ctl n).slots ++ [{ bank := bank, who := q.who, context := q.context, addr := q.addr.toNat }] := by
  subst hn hb
  unfold State.controllerRequest
  simp only [if_neg (Nat.not_le.2 room), if_neg (Nat.not_le.2 rooms)]
  generalize taken : s.setCtl _ _ = u
  generalize noted : (if u.traffic then _ else u) = v
  have slot : s.onlyControllers u := taken ▸ setCtl_onlyControllers ..
  have peak : u.onlyControllers v ∧ ∀ m, v.ctl m = u.ctl m := by
    subst noted
    split
    · exact ⟨rfl, fun _ => rfl⟩
    · exact ⟨.refl u, fun _ => rfl⟩
  refine ⟨_, rfl, ?_⟩
  generalize ((gddrDecode q.addr.toNat).1 % 8 * 16 + (gddrDecode q.addr.toNat).2.1) = bank at *
  generalize row : v.openRow _ _ _ _ = t
  obtain ⟨opened, r, hr⟩ := row ▸ openRow_effect v _ _ _ _
  rw [hr, peak.2, ← taken, ctl_setCtl_same]
  exact ⟨(slot.trans peak.1).trans opened, rfl, rfl⟩

/-- A request that finds no free slot of its bank is noted in the bank's map. -/
theorem controllerRequest_refused (full : 64 ≤ ((s.ctl n).slots.filter (fun u => u.bank = bank)).length) :
    s.onlyControllers (s.controllerRequest q) ∧ (s.controllerRequest q).ctl n = (s.ctl n).refuse bank q.who := by
  have refused : s.controllerRequest q = (s.setCtl n ((s.ctl n).refuse bank q.who)).trafficBump (ctlObj n 2) 0x09 := by
    subst hn hb
    exact if_pos full
  rw [refused, trafficBump_at_ctl, ctl_setCtl_same]
  exact ⟨(setCtl_onlyControllers ..).trans (trafficBump_onlyControllers ..), rfl⟩

end controller

end requests

theorem mem_refuse (x : Controller) (bank : Nat) (who : Requester) : (bank, who) ∈ (x.refuse bank who).refused := by
  unfold Controller.refuse
  split
  · rename_i noted
    exact List.contains_iff_mem.1 noted
  · simp

theorem refuse_slots (x : Controller) (bank : Nat) (who : Requester) : (x.refuse bank who).slots = x.slots := by
  unfold Controller.refuse
  split <;> rfl

/-! ## Freed slots (R286) -/

theorem freeBankSlot_length {bank : Nat} {l : List SlotUse} (h : ∃ u ∈ l, u.bank = bank) : (freeBankSlot bank l).length + 1 = l.length := by
  induction l with
  | nil => simp at h
  | cons u l ih =>
    unfold freeBankSlot
    split
    · rfl
    · rename_i other
      simp only [List.mem_cons, exists_eq_or_imp, other, false_or] at h
      exact congrArg (· + 1) (ih h)

theorem exec_slotFreeNotice_controller {n bank : Nat} (hn : n < 24) (h : ∃ u ∈ (s.ctl n).slots, u.bank = bank) :
    exec (.slotFreeNotice n bank) s = .next (s.setCtl n { s.ctl n with
      slots := freeBankSlot bank (s.ctl n).slots
      refused := (s.ctl n).refused.filter (fun r => r.1 ≠ bank) }) := by
  have held : (s.ctl n).slots.any (fun u => u.bank = bank) = true := by simpa using h
  have unit : n < 26 := by omega
  refine Eq.trans (b := execSlotFreeNotice n bank s) rfl ?_
  simp only [execSlotFreeNotice, onUnit, unit, decide_true, if_true, if_pos hn, if_pos held]

theorem exec_slotFreeNotice_cxl {n : Nat} (bank : Nat) (hn : n = 24 ∨ n = 25) (h : (s.cxlPort (n - 24)).slots ≠ []) :
    exec (.slotFreeNotice n bank) s = .next (s.setCxl (n - 24) { s.cxlPort (n - 24) with
      slots := (s.cxlPort (n - 24)).slots.drop 1
      refused := [] }) := by
  have unit : n < 26 := by omega
  have cxl : ¬ n < 24 := by omega
  refine Eq.trans (b := execSlotFreeNotice n bank s) rfl ?_
  simp only [execSlotFreeNotice, onUnit, unit, decide_true, if_true, if_neg cxl, if_neg h]

/-- Settles O29: a request that finds a free slot by what it does to its granule, a refused one by the map, a freed slot by its unit. -/
theorem memoryRequestsServe : Obligations.MemoryRequestsServe := by
  refine ⟨fun s q n bank g hq hm hn hb hg => ⟨fun room rooms => ?_, fun full => ?_⟩, fun s n bank hn h => ?_, fun s n bank hn h => ?_⟩
  · subst hg
    obtain ⟨t, served, frame, repairs, slots⟩ := controllerRequest_admitted (s := s.useMemory) hn hb room rooms
    have exec := (exec_memoryRequest hq hm).trans (congrArg _ served)
    have same := (useMemory_onlyControllers s).trans frame
    have granule := readGranule_congr (s := s) repairs (q.addr.toNat / 64) q.errors
    refine ⟨fun hop good => ?_, fun data hop => ?_, fun mask data hop clean => ?_⟩
    · obtain ⟨accessed, kept⟩ := access_read (h := (gddrDecode q.addr.toNat).1) hop (granule ▸ good)
      have all := same.trans accessed
      exact ⟨_, exec, all.mem, all.lcores, all.errors, kept.trans slots⟩
    · have counted := same.trans (trafficBump_onlyControllers t (ctlObj n 2) 0x03)
      refine ⟨_, exec, ?_, ?_⟩
      · rw [access_write hop, devWrite_mem, counted.mem]
      · rw [access_write hop, devWrite_errors, counted.errors]
    · have counted := same.trans (trafficBump_onlyControllers t (ctlObj n 2) 0x05)
      have stored := access_partialWrite (h := (gddrDecode q.addr.toNat).1) hop (granule.trans clean)
      refine ⟨_, exec, ?_, ?_⟩
      · rw [stored, devWrite_errors, counted.errors]
      · rw [stored, devWrite_mem, counted.mem, same.mem]
  · obtain ⟨frame, noted⟩ := controllerRequest_refused (s := s.useMemory) hn hb full
    have same := (useMemory_onlyControllers s).trans frame
    refine ⟨_, exec_memoryRequest hq hm, same.sameWork, same.errors, ?_, ?_⟩
    · rw [noted]
      exact refuse_slots ..
    · rw [noted]
      exact mem_refuse ..
  · refine ⟨_, exec_slotFreeNotice_controller s hn h, ⟨rfl, rfl, rfl, rfl, rfl, rfl, rfl⟩, ⟨rfl, rfl⟩, ?_, fun who => ?_, fun b who hb => ?_,
      fun m hm => ctl_setCtl_other _ _ _ _ hm⟩
    · rw [ctl_setCtl_same]
      exact freeBankSlot_length h
    · simp
    · simp [hb]
  · refine ⟨_, exec_slotFreeNotice_cxl s bank hn h, ⟨rfl, rfl, rfl, rfl, rfl, rfl, rfl⟩, ⟨rfl, rfl⟩, ?_, ?_, rfl⟩
    · rw [cxlPort_setCxl_same, List.length_drop]
      exact Nat.sub_add_cancel (List.length_pos_iff.2 h)
    · rw [cxlPort_setCxl_same]

end Sys2Proof.Machine
end

section
/-! PROOFS. Refresh windows and refresh rates (R281, R282, R293, R294). -/

namespace Sys2Proof.Machine

variable (s : State)

/-! ## Time leaves the controllers and the records -/

theorem until_at_ctl (t n : Nat) : (s.until t).ctl n = s.ctl n := by
  rw [until_passes s t]
  rfl

theorem until_errors (t : Nat) : (s.until t).errors = s.errors := by rw [until_passes s t]

/-! ## Windows (R281, R282, R293) -/

/-- The controller when bank's row of channel h has closed. -/
def Controller.closeRow (x : Controller) (h bank : Nat) : Controller :=
  { x with rows := sput (fun _ => none) x.rows (h % 8 * 16 + bank) none }

theorem closeRow_closed (x : Controller) (h bank : Nat) : sget (fun _ => none) (x.closeRow h bank).rows (h % 8 * 16 + bank) = none := by
  simp [Controller.closeRow]

/-- The scrub of a row without wrong symbols moves the bank's row pointer on. -/
theorem scrubRow_clean (h bank : Nat) : s.onlyControllers (s.scrubRow h bank []) ∧
    ∃ passed, (s.scrubRow h bank []).ctl (h / 8) = { s.ctl (h / 8) with
      scrubbed := passed
      scrubRow := sput (fun _ => 0) (s.ctl (h / 8)).scrubRow (h % 8 * 16 + bank)
        ((sget (fun _ => 0) (s.ctl (h / 8)).scrubRow (h % 8 * 16 + bank) + 1) % 32768) } := by
  have still : ∀ l : List Nat, l.foldl (fun (u : State) _ => u) s = s := fun l => foldl_frame id _ (fun _ _ => rfl) l s
  simp only [State.scrubRow, List.filter_nil, List.map_nil, if_true, still, bump64_at_ctl, ctl_setCtl_same]
  exact ⟨(setCtl_onlyControllers ..).trans (bump64_onlyControllers ..), _, rfl⟩

section windows

variable {s} {h bank : Nat} (errors : List (Nat × Nat × Byte)) (hh : h < 192) (hb : bank < 16) (hm : s.memoryActive = true)

include hh hb hm

/-- A listed granule of the bank is written back in the bank's window. -/
theorem exec_refreshWindow_writeBack {w : Nat × Nat}
    (hw : (s.ctl (h / 8)).writeBacks.find? (fun w => w.1 = h && (gddrDecode (64 * w.2)).2.1 = bank) = some w) :
    exec (.refreshWindow h bank errors) s = .next ((s.until (s.windowTick h bank)).setCtl (h / 8)
      { (s.ctl (h / 8)).closeRow h bank with writeBacks := (s.ctl (h / 8)).writeBacks.erase w }) := by
  have active := of_decide_eq_true hm
  refine Eq.trans (b := execRefreshWindow h bank errors s) rfl ?_
  simp only [execRefreshWindow, onUnit, hh, hb, active, until_at_ctl, hw]
  rfl

/-- Else the bank's next row is scrubbed. -/
theorem exec_refreshWindow_scrub
    (hw : (s.ctl (h / 8)).writeBacks.find? (fun w => w.1 = h && (gddrDecode (64 * w.2)).2.1 = bank) = none) :
    exec (.refreshWindow h bank errors) s = .next
      (((s.until (s.windowTick h bank)).setCtl (h / 8) ((s.ctl (h / 8)).closeRow h bank)).scrubRow h bank errors) := by
  have active := of_decide_eq_true hm
  refine Eq.trans (b := execRefreshWindow h bank errors s) rfl ?_
  simp only [execRefreshWindow, onUnit, hh, hb, active, until_at_ctl, hw]
  rfl

end windows

/-! ## Refresh rates (R294) -/

/-- The controller after its channel h has reported a temperature, in 1/16 °C. -/
def Controller.atTemperature (x : Controller) (h : Nat) (temperature : Int) : Controller :=
  if 85 * 16 < temperature && !(x.double.contains h) then { x with double := x.double ++ [h] }
  else if temperature ≤ 80 * 16 then { x with double := x.double.filter (fun d => d ≠ h) }
  else x

/-- A report lets time pass to the next multiple of 96 ticks, and sets the channel's rate. -/
theorem exec_refreshRateChange {h : Nat} (hh : h < 192) (temperature : Int) :
    ∃ t, exec (.refreshRateChange h temperature) s = .next t ∧ t.mem = s.mem ∧ t.lcores = s.lcores ∧ t.errors = s.errors ∧
      t.ctl (h / 8) = (s.ctl (h / 8)).atTemperature h temperature := by
  have passed := until_passes s (next96 s.clock.tick.toNat)
  have errors := until_errors s (next96 s.clock.tick.toNat)
  have run : exec (.refreshRateChange h temperature) s = execRefreshRateChange h temperature s := rfl
  simp only [run, execRefreshRateChange, onUnit, hh, decide_true, if_true, until_at_ctl, Controller.atTemperature]
  split
  · exact ⟨_, rfl, passed.mem, passed.lcores, errors, ctl_setCtl_same ..⟩
  · split
    · exact ⟨_, rfl, passed.mem, passed.lcores, errors, ctl_setCtl_same ..⟩
    · exact ⟨_, rfl, passed.mem, passed.lcores, errors, until_at_ctl ..⟩

section rates

variable {x : Controller} {h : Nat} {temperature : Int}

theorem atTemperature_hot (hot : 85 * 16 < temperature) : h ∈ (x.atTemperature h temperature).double := by
  by_cases double : h ∈ x.double
  · have mild : ¬ temperature ≤ 80 * 16 := by omega
    simp [Controller.atTemperature, double, mild, -Int.reduceMul]
  · simp [Controller.atTemperature, double, hot, -Int.reduceMul]

theorem atTemperature_cool (cool : temperature ≤ 80 * 16) : h ∉ (x.atTemperature h temperature).double := by
  have mild : ¬ 85 * 16 < temperature := by omega
  simp [Controller.atTemperature, mild, cool, -Int.reduceMul]

theorem atTemperature_between (mild : 80 * 16 < temperature) (cool : temperature ≤ 85 * 16) : x.atTemperature h temperature = x := by
  simp [Controller.atTemperature, Int.not_lt.2 cool, Int.not_le.2 mild, -Int.reduceMul]

/-- Only the channel's own mark changes. -/
theorem atTemperature_frame : (∀ d, d ≠ h → (d ∈ (x.atTemperature h temperature).double ↔ d ∈ x.double)) ∧
    (x.atTemperature h temperature).slots = x.slots ∧ (x.atTemperature h temperature).rows = x.rows := by
  unfold Controller.atTemperature
  split
  · exact ⟨fun d hd => by simp [hd], rfl, rfl⟩
  · split
    · exact ⟨fun d hd => by simp [hd], rfl, rfl⟩
    · exact ⟨fun _ _ => .rfl, rfl, rfl⟩

end rates

/-- Settles O31: the window by whether its list holds a granule of the bank, the rate by the temperature in 1/16 °C (log 79). The clock
goes on to the event's tick (log 14). -/
theorem refreshWindowsWork : Obligations.RefreshWindowsWork := by
  refine ⟨fun s h bank errors hh hb hm => ⟨fun w hw => ?_, fun hw clean _ => ?_⟩, fun s h temperature hh => ?_⟩
  · exact ⟨_, exec_refreshWindow_writeBack errors hh hb hm hw, rfl, (until_passes s _).mem, until_errors s _, ctl_setCtl_same ..⟩
  · subst clean
    have closed := setCtl_onlyControllers (s.until (s.windowTick h bank)) (h / 8) ((s.ctl (h / 8)).closeRow h bank)
    obtain ⟨frame, passed, scrubbed⟩ := scrubRow_clean ((s.until (s.windowTick h bank)).setCtl (h / 8) ((s.ctl (h / 8)).closeRow h bank)) h bank
    have same := closed.trans frame
    refine ⟨_, exec_refreshWindow_scrub [] hh hb hm hw, same.clock, same.mem.trans (until_passes s _).mem, same.errors.trans (until_errors s _), ?_⟩
    rw [scrubbed, ctl_setCtl_same]
    exact ⟨closeRow_closed .., sget_sput_same .., rfl⟩
  · obtain ⟨t, run, mem, lcores, errors, rate⟩ := exec_refreshRateChange s hh temperature
    refine ⟨t, run, mem, lcores, errors, ?_⟩
    rw [rate]
    exact ⟨atTemperature_hot, atTemperature_cool, atTemperature_between, atTemperature_frame⟩

end Sys2Proof.Machine
end

section
/-! PROOFS. CXL ports, answers to reads of host memory, and BAR2 accesses (R270, R299 to R302). -/

namespace Sys2Proof.Machine

variable (s : State)

/-! ## What a record leaves as it is (R488, R491) -/

section record

variable (kind effect : Nat) (unit job : Word) (op : Nat) (step d0 d1 : DWord)

/-- What holds of any log, and over the counter of lost records and the alarms of 0x1000.04, holds once a record is entered. -/
theorem addError_keeps (P : State → Prop) (log : ∀ log, P { s with errors := log }) (count : ∀ t : State, P t → P (t.bump 0x1000 0x03 1))
    (rise : ∀ (t : State) i, P t → P (t.alarm 0x1000 0x04 i)) : P (s.addError kind effect unit job op step d0 d1) := by
  have ite_keeps {c : Prop} [Decidable c] {t u : State} (ht : P t) (hu : P u) : P (if c then t else u) := by
    split
    · exact ht
    · exact hu
  have lost {c : Prop} [Decidable c] (l : ErrorLog) := ite_keeps (c := c) (count _ (log l)) (log l)
  have alarmed {c : Prop} [Decidable c] {t : State} (i : Nat) (h : P t) := ite_keeps (c := c) (rise t i h) h
  exact alarmed 3 (alarmed 2 (rise _ 0 (lost _)))

/-- Bit 0 of 0x1000.04 rises with a record of any kind that raises no other bit. -/
theorem addError_alarmed (h5 : kind ≠ 0x0005) (h32 : kind ≠ 0x0032) :
    (s.addError kind effect unit job op step d0 d1).alarmed 0x1000 0x04 0 := by
  simp only [State.addError, if_neg h5, if_neg h32]
  exact alarmed_alarm _ _ _ (by decide)

theorem reg_addError_other (i j : Nat) (h3 : dkey i j ≠ dkey 0x1000 0x03) (h4 : dkey i j ≠ dkey 0x1000 0x04) :
    (s.addError kind effect unit job op step d0 d1).reg i j = s.reg i j :=
  addError_keeps s _ _ _ _ _ _ _ _ (fun t => t.reg i j = s.reg i j) (fun _ => rfl) (fun t ht => (reg_bump_other t _ _ _ _ _ h3).trans ht)
    fun t b ht => (reg_alarm_other t _ _ b _ _ h4).trans ht

theorem msix_asks (f v : Nat) : (s.msix f v).host.asks = s.host.asks := by
  unfold State.msix
  split
  · rfl
  · split <;> rfl

theorem alarm_asks (idx sub i : Nat) : (s.alarm idx sub i).host.asks = s.host.asks := by
  unfold State.alarm
  split
  · rfl
  · dsimp only
    split
    · split <;> simp only [msix_asks] <;> rfl
    · rw [msix_asks]
      rfl

theorem addError_asks : (s.addError kind effect unit job op step d0 d1).host.asks = s.host.asks :=
  addError_keeps s _ _ _ _ _ _ _ _ (fun t => t.host.asks = s.host.asks) (fun _ => rfl) (fun _ ht => ht)
    fun t b ht => (alarm_asks t _ _ b).trans ht

theorem addError_sameFabric : s.sameFabric (s.addError kind effect unit job op step d0 d1) := by
  rw [addError_raises]
  exact ⟨rfl, rfl⟩

end record

/-! ## CXL ports (R299, R300) -/

section ports

variable {s} {n : Nat} (hn : n < 2)

include hn

theorem exec_cxlLinkTrained (speed width : Nat) (h : (s.cxlPort n).state = 2) :
    exec (.cxlLinkTrained n speed width) s = .next (s.setCxl n { s.cxlPort n with state := 1, speed := speed, width := width }) := by
  refine Eq.trans (b := execCxlLinkTrained n speed width s) rfl ?_
  simp only [execCxlLinkTrained, onUnit, hn, decide_true, if_true, if_pos h]

/-- With no request in flight none fails, and with no job none loses tensors. -/
theorem exec_cxlLinkDown (hs : (s.cxlPort n).slots = []) (hj : s.jobs = []) :
    exec (.cxlLinkDown n) s = .next (s.setCxl n { s.cxlPort n with state := 2, slots := [], refused := [] }) := by
  have down : s.cxlDown n = s.setCxl n { s.cxlPort n with state := 2, slots := [], refused := [] } := by
    simp only [State.cxlDown, hs, List.foldl_nil]
  have jobless (k : Nat) : ((s.cxlDown n).job k).isSome = false := by
    rw [down, State.job, setCxl_jobs, hj]
    rfl
  refine Eq.trans (b := execCxlLinkDown n s) rfl ?_
  have kept : (upto 16).foldl (fun (t : State) k => if (t.job k).isSome then t.dropTensors k n else t) (s.cxlDown n) = s.cxlDown n :=
    foldl_keeps (fun t => t = s.cxlDown n) _ (fun t k ht => (if_neg (by rw [ht, jobless]; decide)).trans ht) _ _ rfl
  rw [execCxlLinkDown, kept, down]
  simp only [onUnit, hn, decide_true, if_true]

/-- A read response without poison frees the slot of its request; a device overload is counted. -/
theorem exec_cxlReadResponse {a : CxlAnswer} {u : SlotUse} (clean : a.poisoned = false)
    (hu : (s.cxlPort n).slots.find? (fun v => v.addr = a.addr.toNat) = some u) {t : State}
    (ht : t = s.setCxl n { s.cxlPort n with slots := (s.cxlPort n).slots.erase u, refused := [] }) :
    exec (.cxlReadResponse n a) s = .next (if a.overload then t.bump64 (cxlObj n 1) 0x05 1 else t) := by
  subst ht
  refine Eq.trans (b := execCxlReadResponse n a s) rfl ?_
  simp [execCxlReadResponse, onUnit, hn, clean, hu]

theorem exec_cxlExpanderEvent (first second : DWord) :
    exec (.cxlExpanderEvent n first second) s = .next (s.addError 0x0012 0 (unitField 5 0 n) noJob 0 noStep first second) := by
  refine Eq.trans (b := execCxlExpanderEvent n first second s) rfl ?_
  simp only [execCxlExpanderEvent, onUnit, hn, decide_true, if_true]

end ports

/-! ## Host memory (R301, R302) -/

/-- The device once a read of host memory waits no longer. -/
def State.withoutAsk (s : State) (a : HostAsk) : State :=
  { s with host := { s.host with asks := s.host.asks.filter (fun b => b.tag ≠ a.tag) } }

/-- The device once the job manager has heard of bytes of host memory. -/
def State.fetches (s : State) (k addr : Nat) (bs : List Byte) : State :=
  { s with host := { s.host with fetched := s.host.fetched ++ [(k, addr, bs)] } }

theorem hostReadFailed_manager {a : HostAsk} (manager : managerAsk ≤ a.core) :
    ∃ job, s.hostReadFailed a = ((s.withoutAsk a).addError 0x0010 0 (unitField 6 0 0) job 0 noStep (BitVec.ofNat 64 a.addr)
      (BitVec.ofNat 64 (readDetail 4 0))).fetches (a.core - managerAsk) a.addr [] := by
  simp only [State.hostReadFailed, if_pos manager]
  exact ⟨_, rfl⟩

/-- A failed read of the job manager waits no longer and is recorded. -/
theorem hostReadFailed_effect {a : HostAsk} (manager : managerAsk ≤ a.core) : s.sameWork (s.hostReadFailed a) ∧
    (s.hostReadFailed a).host.asks = s.host.asks.filter (fun b => b.tag ≠ a.tag) ∧
    (∀ j < 256, (s.hostReadFailed a).reg 0x9900 j = s.reg 0x9900 j) ∧
    s.entered (s.hostReadFailed a) 0x0010 0 (unitField 6 0 0) (BitVec.ofNat 64 a.addr) (BitVec.ofNat 64 (readDetail 4 0)) := by
  obtain ⟨job, failed⟩ := hostReadFailed_manager s manager
  have work : s.sameWork (s.withoutAsk a) := ⟨rfl, rfl, rfl, rfl, rfl, rfl, rfl⟩
  rw [failed]
  refine ⟨addError_sameWork work .., addError_asks .., fun j hj => ?_, addError_entered (s.withoutAsk a) ..⟩
  exact reg_addError_other (s.withoutAsk a) _ _ _ _ _ _ _ _ _ _ (dkey_ne_of_index_ne (by decide) hj (by decide))
    (dkey_ne_of_index_ne (by decide) hj (by decide))

theorem bump64_sameWork {s t : State} {idx sub n : Nat} : (s.bump64 idx sub n).sameWork t ↔ s.sameWork t := by
  simp [State.sameWork]

theorem sameWork_bump64 {s t : State} {idx sub n : Nat} : s.sameWork (t.bump64 idx sub n) ↔ s.sameWork t := by
  simp [State.sameWork]

section host

variable {s} {tag : Nat} {a : HostAsk} (ha : s.host.sentAsk tag = some a) (manager : managerAsk ≤ a.core)

include ha manager

/-- What the job manager did not get in time waits no longer, and the timeout is counted and recorded. -/
theorem hostCompletionTimeout_manager : ∃ t, exec (.hostCompletionTimeout tag) s = .next t ∧ s.sameWork t ∧
    t.host.asks = s.host.asks.filter (fun b => b.tag ≠ a.tag) ∧
    t.reg64 0x9900 0x06 = min (2 ^ 64 - 1) (s.reg64 0x9900 0x06 + 1) ∧
    s.entered t 0x0010 0 (unitField 6 0 0) (BitVec.ofNat 64 a.addr) (BitVec.ofNat 64 (readDetail 4 0)) := by
  have run : exec (.hostCompletionTimeout tag) s = .next ((s.bump64 0x9900 0x06 1).hostReadFailed a) := by
    refine Eq.trans (b := execHostCompletionTimeout tag s) rfl ?_
    simp only [execHostCompletionTimeout, ha]
  obtain ⟨work, asks, regs, entered⟩ := hostReadFailed_effect (s.bump64 0x9900 0x06 1) manager
  refine ⟨_, run, bump64_sameWork.1 work, asks, ?_, entered⟩
  rw [State.reg64, regs _ (by decide), regs _ (by decide), ← State.reg64, reg64_bump64]

/-- Data that are complete reach the job manager. -/
theorem exec_hostReadCompletion {bs : List Byte} (all : a.length ≤ bs.length) :
    exec (.hostReadCompletion tag (.data bs)) s = .next { s with host := { s.host with
      asks := s.host.asks.filter (fun b => b.tag ≠ a.tag)
      fetched := s.host.fetched ++ [(a.core - managerAsk, a.addr, bs.take a.length)] } } := by
  have whole : a.length - (bs.take a.length).length = 0 := by
    rw [List.length_take_of_le all, Nat.sub_self]
  refine Eq.trans (b := execHostReadCompletion tag (.data bs) s) rfl ?_
  simp only [execHostReadCompletion, ha, State.hostData, whole, if_true, if_pos manager]

end host

/-! ## BAR2 (R270) -/

section bar2

variable {s} {fn o : Nat} (hf : fn < 16) (takes : s.takesAccess fn = true) (size : o < 2 ^ s.host.bar2Size fn)

include hf takes size

/-- A write into the partition is served by the memory group. -/
theorem exec_bar2Access_write (n : Nat) {bs : List Byte} (hm : s.memoryActive = true) (some_bytes : 0 < bs.length)
    (inside : o + bs.length ≤ (s.partition fn 0).2) :
    exec (.bar2Access fn o n (some bs)) s = .next (s.useMemory.devWrite ((s.partition fn 0).1 + o) bs) := by
  have starts : o < (s.partition fn 0).2 := by omega
  refine Eq.trans (b := execBar2Access fn o n (some bs) s) rfl ?_
  simp [execBar2Access, onUnit, hf, takes, Nat.not_le.2 size, Nat.not_lt.2 inside, Nat.not_le.2 starts, atMemory_active hm]

/-- A read from the partition whose granules have their data is answered with its bytes. -/
theorem exec_bar2Access_read {n : Nat} (hm : s.memoryActive = true) (some_bytes : 0 < n) (inside : o + n ≤ (s.partition fn 0).2)
    (readable : s.unreadable ((s.partition fn 0).1 + o) n = none) :
    exec (.bar2Access fn o n none) s = .next (s.useMemory.barAnswer fn o 0 (getBytes s.mem ((s.partition fn 0).1 + o) n)) := by
  have starts : o < (s.partition fn 0).2 := by omega
  have there : s.useMemory.unreadable ((s.partition fn 0).1 + o) n = none := readable
  refine Eq.trans (b := execBar2Access fn o n none s) rfl ?_
  simp [execBar2Access, onUnit, hf, takes, Nat.not_le.2 size, Nat.not_lt.2 inside, Nat.not_le.2 starts, atMemory_active hm, there,
    (useMemory_onlyControllers s).mem]

/-- A read that leaves the partition gets Unsupported Request. -/
theorem exec_bar2Access_read_outside {n : Nat} (outside : (s.partition fn 0).2 < o + n) :
    exec (.bar2Access fn o n none) s = .next (s.barAnswer fn o 1 []) := by
  refine Eq.trans (b := execBar2Access fn o n none s) rfl ?_
  simp [execBar2Access, onUnit, hf, takes, Nat.not_le.2 size, outside]

omit size in
/-- A write that leaves the partition is dropped. -/
theorem exec_bar2Access_write_outside (n : Nat) {bs : List Byte} (outside : (s.partition fn 0).2 < o + bs.length) :
    exec (.bar2Access fn o n (some bs)) s = .next s := by
  refine Eq.trans (b := execBar2Access fn o n (some bs) s) rfl ?_
  simp [execBar2Access, onUnit, hf, takes, outside]

end bar2

/-- Settles O32: each command by its own lemma. The status numbers of a completion are log 96; the records follow R278 and R490. -/
theorem cxlPortsAndHostMemory : Obligations.CxlPortsAndHostMemory := by
  refine ⟨fun s n speed width hn h => ?_, fun s n hn hs hj => ?_, fun s n a u hn clean hu => ?_, fun s n first second hn => ?_,
    fun s tag a ha manager => ⟨hostCompletionTimeout_manager ha manager, fun bs all => ?_⟩, fun s fn o n hf takes size hm => ⟨fun h0 inside => ?_, ?_⟩⟩
  · exact ⟨_, exec_cxlLinkTrained hn speed width h, ⟨rfl, rfl, rfl, rfl, rfl, rfl, rfl⟩, ⟨rfl, rfl⟩, cxlPort_setCxl_same ..,
      fun m hm => cxlPort_setCxl_other _ _ _ _ hm⟩
  · exact ⟨_, exec_cxlLinkDown hn hs hj, ⟨rfl, rfl, rfl, rfl, rfl, rfl, rfl⟩, ⟨rfl, rfl⟩, cxlPort_setCxl_same ..,
      fun m hm => cxlPort_setCxl_other _ _ _ _ hm⟩
  · refine ⟨_, exec_cxlReadResponse hn clean hu rfl, ?_⟩
    cases a.overload
    · exact ⟨⟨rfl, rfl, rfl, rfl, rfl, rfl, rfl⟩, rfl, cxlPort_setCxl_same .., rfl⟩
    · exact ⟨sameWork_bump64.2 ⟨rfl, rfl, rfl, rfl, rfl, rfl, rfl⟩, bump64_errors .., (bump64_at_cxlPort ..).trans (cxlPort_setCxl_same ..), reg64_bump64 ..⟩
  · exact ⟨_, exec_cxlExpanderEvent hn first second, addError_sameWork ⟨rfl, rfl, rfl, rfl, rfl, rfl, rfl⟩ .., addError_sameFabric ..,
      addError_entered .., addError_alarmed _ _ _ _ _ _ _ _ _ (by decide) (by decide)⟩
  · exact ⟨_, exec_hostReadCompletion ha manager all, ⟨rfl, rfl, rfl, rfl, rfl, rfl, rfl⟩, rfl, rfl, rfl⟩
  · refine ⟨?_, fun readable => ?_⟩
    · rintro bs rfl
      exact ⟨_, exec_bar2Access_write hf takes size _ hm h0 inside, devWrite_mem s.useMemory .., devWrite_errors s.useMemory ..⟩
    · exact ⟨_, exec_bar2Access_read hf takes size hm h0 inside readable, ⟨rfl, rfl, rfl, rfl, rfl, rfl, rfl⟩, rfl⟩
  · intro outside
    refine ⟨exec_bar2Access_read_outside hf takes size outside, ?_⟩
    rintro bs rfl
    exact exec_bar2Access_write_outside hf takes _ outside

end Sys2Proof.Machine
end

section
/-! PROOFS. Semaphore requests at their home, and the messages that reach a barrier's or a semaphore's home and its cores (R313 to
R318, R323 to R327, R414). -/

namespace Sys2Proof.Machine

/-! ## Messages on the mesh (R24) -/

theorem popFlight_front {s : State} {α : Type} {f : Flight → Option α} {m : Flight} {a : α} {rest : List Flight}
    (hs : s.flights = m :: rest) (hm : f m = some a) : s.popFlight f = some (a, { s with flights := rest }) := by
  simp [State.popFlight, hs, hm]

/-- A logical core on no physical core becomes ready, and nothing else happens. -/
theorem wake_absent {s : State} {i : Nat} {x : LCore} (hl : s.lcore i = some x) (absent : s.physOf i = none) (f : LCore → LCore) :
    s.wake i f = s.setLcore i (some { f x with status := .ready }) := by
  have still : (s.setLcore i (some { f x with status := .ready })).physOf i = none := absent
  simp only [State.wake, hl, still]

section messages

variable {s : State} {k r l b q : Nat} {rest : List Flight}

theorem exec_armAnswer {p : BarrierParams} {at_ : Address} (hs : s.flights = .arm k r l b p at_ :: rest) :
    exec (.armAnswer k r l b) s = .next (({ s with flights := rest } : State).armAnswer k r l b p at_) := by
  refine Eq.trans (b := execArmAnswer k r l b s) rfl ?_
  rw [execArmAnswer, popFlight_front (a := (p, at_)) hs (by simp)]

theorem exec_barrierArrival {sense : Bool} {at_ : Address} (flushed : s.flushAll k = s) (hs : s.flights = .arrive k r l b sense at_ :: rest) :
    exec (.barrierArrival k r l b) s = .next (({ s with flights := rest } : State).arrivalAt k r l b sense at_) := by
  refine Eq.trans (b := execBarrierArrival k r l b s) rfl ?_
  rw [execBarrierArrival, flushed, popFlight_front (a := (sense, at_)) hs (by simp)]

theorem exec_barrierRelease {sense : Bool} (hs : s.flights = .release k r l b sense :: rest) :
    exec (.barrierRelease k r l) s = .next (({ s with flights := rest } : State).released (lkey k r l) b sense) := by
  refine Eq.trans (b := execBarrierRelease k r l s) rfl ?_
  rw [execBarrierRelease, popFlight_front (a := (b, sense)) hs (by simp)]

/-- A grant reaches the core that waits for it (R324). -/
theorem exec_semaphoreGrant {x : LCore} (hs : s.flights = .grant k r l q :: rest) (hl : s.lcore (lkey k r l) = some x)
    (waits : x.status = .atSemaphore q) :
    exec (.semaphoreGrant k r l) s = .next (({ s with flights := rest } : State).wake (lkey k r l) id) := by
  have there : ({ s with flights := rest } : State).lcore (lkey k r l) = some x := hl
  refine Eq.trans (b := execSemaphoreGrant k r l s) rfl ?_
  rw [execSemaphoreGrant, popFlight_front (a := q) hs (by simp)]
  simp only [there, waits, if_true]

theorem exec_readyTake {g : Nat} (hs : s.flights = .granted k r g :: rest) :
    exec (.readyTake k r g) s = .next (({ s with flights := rest } : State).readyTaken k r g) := by
  refine Eq.trans (b := execReadyTake k r g s) rfl ?_
  rw [execReadyTake, popFlight_front (a := ()) hs (by simp)]

end messages

/-! ## Requests at the home of a semaphore (R323 to R325, R327) -/

/-- The home has taken the lone request off an entry at which no one waits, and begins to apply it (R327). -/
def State.takenUp (s : State) (k r q : Nat) : State :=
  s.setSem (skey k r q) { value := (s.sem (skey k r q)).value, requests := [], waiters := [], free := s.now + 1 }

section home

variable {s : State} {k r q : Nat} {a : SemReq}

@[simp] theorem takenUp_sem : (s.takenUp k r q).sem (skey k r q) =
    { value := (s.sem (skey k r q)).value, requests := [], waiters := [], free := s.now + 1 } := sem_setSem_same ..

/-- A lone request is the next one, and the home applies it in a cycle in which it is free. -/
theorem semStep_lone (lone : (s.sem (skey k r q)).requests = [a]) (free : (s.sem (skey k r q)).free ≤ s.now)
    (no_waiters : (s.sem (skey k r q)).waiters = []) :
    s.semStep k r q = (s.takenUp k r q).applySem k r q a := by
  have now : s.untilCycle (s.sem (skey k r q)).free = s := if_neg (by omega)
  simp [State.semStep, State.takenUp, lone, nextRequest, now, no_waiters]

/-- A home that no one waits at serves no one. -/
theorem serveSem_no_waiters (h : (s.sem (skey k r q)).waiters = []) :
    s.serveSem k r q = s.setSem (skey k r q) (s.sem (skey k r q)) := by
  simp only [State.serveSem, h, serveGo, List.map_nil, List.append_nil]
  rw [← h]
  rfl

/-- A waiter that the value covers takes its count and is granted it. -/
theorem serveSem_covered {w : Taker} {n : Nat} (h : (s.sem (skey k r q)).waiters = [(w, n)]) (covered : n ≤ (s.sem (skey k r q)).value) :
    s.serveSem k r q = { s.setSem (skey k r q) { s.sem (skey k r q) with waiters := [], value := (s.sem (skey k r q)).value - n } with
      flights := s.flights ++ [w.grant k r q] } := by
  simp [State.serveSem, h, serveGo, covered]

/-- A decrement that the value covers subtracts its count (R325). -/
theorem applySem_dec {l : Nat} {at_ : Address} (ask : a.ask = .dec l at_) (covered : a.k ≤ (s.sem (skey k r q)).value) :
    s.applySem k r q a = s.setSem (skey k r q) { s.sem (skey k r q) with value := (s.sem (skey k r q)).value - a.k } := by
  simp only [State.applySem, ask, if_pos covered]

variable (no_waiters : (s.sem (skey k r q)).waiters = [])

include no_waiters

/-- A signal adds its count, saturating (R323). -/
theorem applySem_signal (ask : a.ask = .signal) :
    (s.applySem k r q a).sem (skey k r q) =
      { s.sem (skey k r q) with value := min (2 ^ 32 - 1) ((s.sem (skey k r q)).value + a.k) } ∧
    (s.applySem k r q a).flights = s.flights ∧ (s.applySem k r q a).mem = s.mem := by
  unfold State.applySem
  simp only [ask]
  rw [serveSem_no_waiters (by simpa using no_waiters)]
  split <;> exact ⟨by simp, rfl, rfl⟩

/-- A core's take that the value covers takes its count and sends the grant (R324). -/
theorem applySem_take {l : Nat} (ask : a.ask = .take (.core l)) (covered : a.k ≤ (s.sem (skey k r q)).value) :
    (s.applySem k r q a).sem (skey k r q) = { s.sem (skey k r q) with value := (s.sem (skey k r q)).value - a.k } ∧
    (s.applySem k r q a).flights = s.flights ++ [.grant k r l q] ∧ (s.applySem k r q a).mem = s.mem := by
  unfold State.applySem
  simp only [ask, no_waiters, List.nil_append]
  rw [serveSem_covered (w := .core l) (n := a.k) (by simp) (by simpa using covered)]
  simp [State.sem, State.setSem, Taker.grant]

end home

/-- Settles O28: the home frees its entry and applies the lone request by what it asks; a grant and a granted ready take are the front
messages. That the next ready take queues when the one before is served is the model's choice (log 77). -/
theorem semaphoreHomesServe : Obligations.SemaphoreHomesServe := by
  refine ⟨fun s k r q a flushed lone free no_waiters => ?_, fun s k r l q rest x hs hl waits absent => ?_,
    fun s k r g rest hs => exec_readyTake hs⟩
  · have runs : exec (.semaphoreRequest k r q) s = .next ((s.takenUp k r q).applySem k r q a) := by
      refine Eq.trans (b := execSemaphoreRequest k r q s) rfl ?_
      rw [execSemaphoreRequest, flushed, semStep_lone lone free no_waiters]
    have idle : ((s.takenUp k r q).sem (skey k r q)).waiters = [] := by simp
    have value : ((s.takenUp k r q).sem (skey k r q)).value = (s.sem (skey k r q)).value := by simp
    refine ⟨fun ask small => ?_, fun ask large => ?_, fun l ask covered => ?_, fun l at_ ask covered => ?_⟩
    · obtain ⟨sem, flights, mem⟩ := applySem_signal idle ask
      refine ⟨_, runs, sem.trans ?_, flights, mem⟩
      simp only [takenUp_sem]
      congr
      omega
    · obtain ⟨sem, flights, mem⟩ := applySem_signal idle ask
      refine ⟨_, runs, (congrArg Sem.value sem).trans ?_, flights, mem⟩
      simp only [takenUp_sem]
      omega
    · obtain ⟨sem, flights, mem⟩ := applySem_take idle ask (Nat.le_trans covered (Nat.le_of_eq value.symm))
      exact ⟨_, runs, sem.trans (by simp), flights, mem⟩
    · have applied := applySem_dec ask (Nat.le_trans covered (Nat.le_of_eq value.symm))
      exact ⟨_, runs.trans (congrArg _ applied), by simp, rfl, rfl⟩
  · rw [exec_semaphoreGrant hs hl waits]
    exact congrArg _ (wake_absent (s := { s with flights := rest }) hl absent id)

/-! ## Arm answers, arrivals and releases (R313 to R316) -/

section barriers

variable {s : State} {k r l b : Nat}

/-- The first arming of a free entry records its parameters and tells the core the phase (R313, R314). -/
theorem armAnswer_first {p : BarrierParams} {at_ : Address} {x : LCore} (unarmed : (s.barrier (bkey k r b)).params = none)
    (hl : s.lcore (lkey k r l) = some x) :
    s.armAnswer k r l b p at_ = (s.setBarrier (bkey k r b) { s.barrier (bkey k r b) with params := some p, armed := [l] }).setLcore (lkey k r l)
      (some (x.setBar b { x.bar b with answered := true, sense := (s.barrier (bkey k r b)).phase })) := by
  simp [State.armAnswer, unarmed, hl]

/-- An arrival in the entry's phase that is not the last is noted (R316). -/
theorem arrivalAt_noted {p : BarrierParams} {at_ : Address} {j : Job} (armed : (s.barrier (bkey k r b)).params = some p) (hj : s.job k = some j)
    (more : ∃ n ∈ groupCores j.cores p.unit p.span, n ∉ (s.barrier (bkey k r b)).arrived ++ [l]) :
    s.arrivalAt k r l b (s.barrier (bkey k r b)).phase at_ =
      s.setBarrier (bkey k r b) { s.barrier (bkey k r b) with arrived := (s.barrier (bkey k r b)).arrived ++ [l] } := by
  have goes_on : (groupCores j.cores p.unit p.span).all (fun n => ((s.barrier (bkey k r b)).arrived ++ [l]).contains n) = false := by
    obtain ⟨n, hn, missing⟩ := more
    exact List.all_eq_false.2 ⟨n, hn, by simpa using missing⟩
  simp only [State.arrivalAt, armed, hj, goes_on, ne_eq, not_true_eq_false, if_false, Bool.false_and, Bool.false_eq_true]

/-- The release of the phase that a core waits for wakes it (R315), but at the step barrier, whose release is a step boundary. -/
theorem released_waiting {i : Nat} {sense : Bool} {x : LCore} (hb : b ≠ 255) (hl : s.lcore i = some x)
    (pending : (x.bar b).waiting = some sense) (stays : (x.bar b).disarming = false) (waits : x.status = .atBarrier b)
    (absent : s.physOf i = none) :
    s.released i b sense = s.setLcore i (some { (x.setBar b { x.bar b with waiting := none }) with status := .ready }) := by
  have woken := wake_absent (lcore_setLcore_same s i (some (x.setBar b { x.bar b with waiting := none }))) absent id
  rw [setLcore_setLcore] at woken
  simpa [State.released, hl, pending, stays, waits, hb] using woken

end barriers

/-- Settles O26: each message is at the front, and its receiver does what the lemma about it says. -/
theorem barrierMessagesReachHomeAndCore : Obligations.BarrierMessagesReachHomeAndCore := by
  refine ⟨fun s k r l b p at_ rest x hs unarmed hl => ?_, fun s k r l b p at_ rest j flushed hs armed hj more => ?_,
    fun s k r l b sense rest x hb hs hl pending stays waits absent => ?_⟩
  · have answered := armAnswer_first (s := { s with flights := rest }) (p := p) (at_ := at_) unarmed hl
    exact ⟨_, (exec_armAnswer hs).trans (congrArg _ answered), rfl, (setLcore_at_barrier ..).trans (barrier_setBarrier_same ..),
      lcore_setLcore_same .., rfl⟩
  · have noted := arrivalAt_noted (s := { s with flights := rest }) (at_ := at_) armed hj more
    exact ⟨_, (exec_barrierArrival flushed hs).trans (congrArg _ noted), rfl, barrier_setBarrier_same .., rfl, rfl⟩
  · have woken := released_waiting (s := { s with flights := rest }) hb hl pending stays waits absent
    exact ⟨_, (exec_barrierRelease hs).trans (congrArg _ woken), rfl, lcore_setLcore_same .., rfl⟩

end Sys2Proof.Machine
end

section
/-! PROOFS. The words of barriers and semaphores at their core: SARM, the three forms of SARR, SSIG, SWAIT and SDEC (R312 to R315, R318,
R321, R323 to R326). -/

namespace Sys2Proof.Machine

/-! ## What counting for diagnosis leaves as it is (R188) -/

section diag

variable (s : State) (c sub n : Nat) (on : Bool)

theorem diag_raises : s.raises (s.diag c sub n on) := by
  unfold State.diag
  split <;> rfl

@[simp] theorem diag_flights : (s.diag c sub n on).flights = s.flights := by rw [diag_raises s c sub n on]
@[simp] theorem diag_now : (s.diag c sub n on).now = s.now := by rw [State.now, (diag_raises s c sub n on).clock, State.now]
@[simp] theorem diag_at_sem (q : Nat) : (s.diag c sub n on).sem q = s.sem q := by rw [State.sem, (diag_raises s c sub n on).sems, State.sem]
@[simp] theorem diag_at_job (k : Nat) : (s.diag c sub n on).job k = s.job k := by rw [State.job, (diag_raises s c sub n on).jobs, State.job]

@[simp] theorem diag_semInput (i k r q : Nat) : (s.diag c sub n on).semInput i k r q = s.semInput i k r q := by
  simp only [State.semInput, State.physOf, State.semHome, diag_at_job, (diag_raises s c sub n on).cores]

end diag

/-! ## The state in which a synchronisation word leaves its core -/

/-- A word has issued and left its logical core i, which was x, as y. -/
def State.issuedAs (s : State) (c i : Nat) (x y : LCore) : State := (s.diag c 1 1 x.diagnostic).setLcore i (some y)

section issuedAs

variable (s : State) (c i : Nat) (x y : LCore)

@[simp] theorem issuedAs_lcore : (s.issuedAs c i x y).lcore i = some y := lcore_setLcore_same ..
@[simp] theorem issuedAs_core (q : Nat) : (s.issuedAs c i x y).core q = s.core q := diag_core ..
@[simp] theorem issuedAs_flights : (s.issuedAs c i x y).flights = s.flights := diag_flights ..
@[simp] theorem issuedAs_mem : (s.issuedAs c i x y).mem = s.mem := diag_mem ..
@[simp] theorem issuedAs_now : (s.issuedAs c i x y).now = s.now := diag_now ..
@[simp] theorem issuedAs_at_sem (q : Nat) : (s.issuedAs c i x y).sem q = s.sem q := diag_at_sem ..
@[simp] theorem issuedAs_at_job (k : Nat) : (s.issuedAs c i x y).job k = s.job k := diag_at_job ..
@[simp] theorem issuedAs_semInput (k r q : Nat) : (s.issuedAs c i x y).semInput i k r q = s.semInput i k r q := diag_semInput ..

end issuedAs

/-- A lone logical core that waits keeps the issue slot (R34, R173). -/
theorem reschedule_lone {s : State} {c i : Nat} {x : LCore} (hcur : s.current c = some (i, x)) (ha : s.alone c = true)
    (hf : (s.core c).fold.length ≤ 1) (stays : x.status ≠ .leaving) (waits : x.status ≠ .yielding) : s.reschedule c = s := by
  have other : (s.core c).res (1 - (s.core c).issuing) = none := by simpa [State.alone] using ha
  have none_leaves := departures_lone hcur other stays
  have small : ¬ 1 < (s.core c).fold.length := by omega
  simp [State.reschedule, none_leaves, hcur, waits, small, other]

/-! ## Messages that wait for no write (R321) -/

theorem sendSync_syncOut (s : State) (i : Nat) (y : LCore) (l : List SyncOut) (m : SyncOut) :
    s.sendSync i { y with syncOut := l } m = s.sendSync i y m := by
  cases m <;> rfl

/-- A message of a core whose earlier writes are complete goes out at once. -/
theorem postSync_sends {s : State} {i : Nat} {y : LCore} {m : SyncOut} (queue : y.syncOut = []) (acked : y.unacked = 0) (after : m.after = []) :
    (s.setLcore i (some y)).postSync i m = (s.setLcore i (some y)).sendSync i y m := by
  have back : ({ y with syncOut := [] } : LCore) = y := by rw [← queue]
  have flushed (z : LCore) (hz : z.unacked = 0) :
      State.flushGo i [m] (s.setLcore i (some z)) = (s.setLcore i (some { z with syncOut := [] })).sendSync i z m := by
    simp [State.flushGo, setLcore_setLcore, hz, after]
  simp only [State.postSync, State.flushSync, lcore_setLcore_same, setLcore_setLcore, queue, List.nil_append]
  rw [flushed { y with syncOut := [m] } acked, sendSync_syncOut]
  exact congrArg (fun z => (s.setLcore i (some z)).sendSync i y m) back

/-- A signal to the core's own rank is a request at the semaphore's home (R323). -/
theorem sendSync_signal_own {s : State} {i : Nat} {y : LCore} {j : Job} (q n : Nat) (after : List Held) (hj : s.job y.k = some j)
    (held : j.held.contains y.r = true) :
    s.sendSync i y (.signal q n [y.r] after) = s.semArrive y.k y.r q .signal n (s.semInput i y.k y.r q) := by
  simp only [State.sendSync, hj, List.foldl_cons, List.foldl_nil, State.signalRank, if_pos held]

/-! ## A request arrives at its home (R327) -/

section semArrive

variable (s : State) (k r q : Nat) (ask : SemAsk) (n input : Nat)

@[simp] theorem sem_semArrive_same : (s.semArrive k r q ask n input).sem (skey k r q) = { s.sem (skey k r q) with
    requests := (s.sem (skey k r q)).requests ++ [{ ask := ask, k := n, cycle := s.now, input := input }] } := sem_setSem_same ..
@[simp] theorem sem_semArrive_other {m : Nat} (h : m ≠ skey k r q) : (s.semArrive k r q ask n input).sem m = s.sem m :=
  sem_setSem_other _ _ _ _ h
@[simp] theorem semArrive_at_lcore (i : Nat) : (s.semArrive k r q ask n input).lcore i = s.lcore i := rfl
@[simp] theorem semArrive_mem : (s.semArrive k r q ask n input).mem = s.mem := rfl

end semArrive

/-! ## SARR (R315) -/

/-- The logical core after its arrival at barrier b. -/
def LCore.arriving (x : LCore) (b : Nat) : LCore := x.next.setBar b { x.bar b with waiting := some (x.bar b).sense, sense := !(x.bar b).sense }

/-- The state in which the arrival of core x at barrier b is on its way and the core is left as y. -/
def State.arrivalSent (s : State) (c i b : Nat) (x y : LCore) : State :=
  { s.issuedAs c i x y with flights := s.flights ++ [.arrive x.k x.r x.l b (x.bar b).sense x.here] }

section arrivalSent

variable (s : State) (c i b : Nat) (x y : LCore)

theorem arrivalSent_lcore : (s.arrivalSent c i b x y).lcore i = some y := issuedAs_lcore s c i x y
theorem arrivalSent_core (q : Nat) : (s.arrivalSent c i b x y).core q = s.core q := issuedAs_core s c i x y q
theorem arrivalSent_mem : (s.arrivalSent c i b x y).mem = s.mem := issuedAs_mem s c i x y

end arrivalSent

section words

variable {s : State} {c i b q : Nat} {x : LCore} {w : IWord}

/-- With its earlier writes complete, the arrival of a SARR is sent when the word issues (R315, R321). -/
theorem arrive_sends (hb : b = bits w 119 112) (answered : (x.bar b).answered = true) (stays : (x.bar b).disarming = false)
    (queue : x.syncOut = []) (writes : x.openWrites = []) (acked : x.unacked = 0) :
    s.arrive c i w x false = s.arrivalSent c i b x (x.arriving b) ∧
    s.arrive c i w x true = (s.arrivalSent c i b x { x.arriving b with status := .atBarrier b }).reschedule c := by
  subst hb
  have goes : (!(x.bar (bits w 119 112)).answered || (x.bar (bits w 119 112)).disarming) = false := by rw [answered, stays]; rfl
  have sent (y : LCore) (hq : y.syncOut = []) (hu : y.unacked = 0) (hk : y.k = x.k) (hr : y.r = x.r) (hl : y.l = x.l) :
      ((s.diag c 1 1 x.diagnostic).setLcore i (some y)).postSync i
        (.arrive (bits w 119 112) (x.bar (bits w 119 112)).sense x.here x.openWrites) = s.arrivalSent c i (bits w 119 112) x y := by
    refine (postSync_sends (m := .arrive _ _ _ x.openWrites) hq hu writes).trans ?_
    simp [State.sendSync, State.arrivalSent, State.issuedAs, hk, hr, hl]
  simp only [State.arrive, goes, Bool.false_eq_true, if_false, if_true]
  exact ⟨sent _ queue acked rfl rfl rfl, congrArg (State.reschedule · c) (sent _ queue acked rfl rfl rfl)⟩

/-- A core that waits at a barrier alone on its physical core stays there. -/
theorem reschedule_atBarrier (h : s.issues c i x = true) (ha : s.alone c = true) (hf : (s.core c).fold.length ≤ 1) {t : State} {y : LCore}
    (core : t.core c = s.core c) (hl : t.lcore i = some y) (waits : y.status = .atBarrier b) : t.reschedule c = t := by
  obtain ⟨-, hcur, -, -⟩ := (issues_iff s c i x).1 h
  have res : (t.core c).res (t.core c).issuing = some i := by rw [core]; exact res_of_current hcur
  exact reschedule_lone (current_of_res res hl) (by rwa [State.alone, core]) (by rwa [core]) (by simp [waits]) (by simp [waits])

variable (h : s.issues c i x = true)

include h

section sarr

variable (ho : opcode w = 0x41) (hm : lowest (sarrMistakes w x) = none) (hb : b = bits w 119 112)
  (answered : (x.bar b).answered = true) (stays : (x.bar b).disarming = false)

include ho hm hb answered stays

/-- SARR sends the core's arrival and holds the core. -/
theorem exec_sarr (op : sarrOp w = 0) (queue : x.syncOut = []) (writes : x.openWrites = []) (acked : x.unacked = 0)
    (ha : s.alone c = true) (hf : (s.core c).fold.length ≤ 1) :
    exec (.sarr c w) s = .next (s.arrivalSent c i b x { x.arriving b with status := .atBarrier b }) := by
  refine (issue_next h (by simp [ho, op]) hm).trans (congrArg _ ?_)
  rw [(arrive_sends hb answered stays queue writes acked).2]
  exact reschedule_atBarrier h ha hf (arrivalSent_core ..) (arrivalSent_lcore ..) rfl

/-- The arrive form sends the core's arrival, and the core goes on. -/
theorem exec_sarrArrive (op : sarrOp w = 1) (queue : x.syncOut = []) (writes : x.openWrites = []) (acked : x.unacked = 0) :
    exec (.sarrArrive c w) s = .next (s.arrivalSent c i b x (x.arriving b)) :=
  (issue_next h (by simp [ho, op]) hm).trans (congrArg _ (arrive_sends hb answered stays queue writes acked).1)

/-- The wait form without a pending phase goes on. -/
theorem exec_sarrWait_goes_on (op : sarrOp w = 2) (idle : (x.bar b).waiting = none) :
    exec (.sarrWait c w) s = .next (s.issuedAs c i x x.next) := by
  subst hb
  refine (issue_next h (by simp [ho, op]) hm).trans ?_
  simp [answered, stays, idle, State.issuedAs]

/-- The wait form holds the core while its phase is pending. -/
theorem exec_sarrWait_waits (op : sarrOp w = 2) (pending : (x.bar b).waiting ≠ none) (ha : s.alone c = true) (hf : (s.core c).fold.length ≤ 1) :
    exec (.sarrWait c w) s = .next (s.issuedAs c i x { x.next with status := .atBarrier b }) := by
  subst hb
  have held := reschedule_atBarrier (b := bits w 119 112) h ha hf (issuedAs_core s c i x _ c)
    (issuedAs_lcore s c i x { x.next with status := .atBarrier (bits w 119 112) }) rfl
  refine (issue_next h (by simp [ho, op]) hm).trans (Eq.trans ?_ (congrArg _ held))
  simp [answered, stays, Option.isSome_iff_ne_none.2 pending, State.issuedAs]

end sarr

/-! ## SARM (R312 to R314, R318) -/

section sarm

variable (ho : opcode w = 0x40) (hm : lowest (s.sarmMistakes w x) = none) (unit : x.pendingS (bits w 111 108) = false)
  (span : x.pendingS (bits w 107 104) = false) (hb : b = bits w 119 112) (stays : (x.bar b).disarming = false)

include ho hm unit span hb stays

/-- SARM with a count sends its parameters to the home. -/
theorem exec_sarm_arms (count : bits w 97 71 ≠ 0) :
    exec (.sarm c w) s = .next { s.issuedAs c i x (x.next.setBar b { x.bar b with armed := true }) with
      flights := s.flights ++ [.arm x.k x.r x.l b (armParams w x) x.here] } := by
  subst hb
  refine (issue_next h (by simp [ho]) hm).trans ?_
  simp [unit, span, stays, count, State.issuedAs]

/-- SARM with count 0 by a core that is not waiting leaves the barrier. -/
theorem exec_sarm_leaves (count : bits w 97 71 = 0) (armed : (x.bar b).armed = true) (idle : (x.bar b).waiting = none) :
    exec (.sarm c w) s = .next ((s.issuedAs c i x x.next).disarm x.k x.r x.l b) := by
  subst hb
  refine (issue_next h (by simp [ho]) hm).trans ?_
  simp [unit, span, stays, count, armed, idle, State.issuedAs]

/-- SARM with count 0 by a core that has not armed has no effect (log 71). -/
theorem exec_sarm_idle (count : bits w 97 71 = 0) (armed : (x.bar b).armed = false) : exec (.sarm c w) s = .next (s.issuedAs c i x x.next) := by
  subst hb
  refine (issue_next h (by simp [ho]) hm).trans ?_
  simp [unit, span, stays, count, armed, State.issuedAs]

end sarm

/-! ## SSIG, SWAIT and SDEC (R323 to R325) -/

/-- A local SSIG of a core whose earlier writes are complete asks at once. -/
theorem exec_ssig_own {j : Job} (ho : opcode w = 0x43) (hm : lowest (s.ssigMistakes w x) = none) (here : bit w 93 = false)
    (hq : q = bits w 119 110) (hj : s.job x.k = some j) (held : j.held.contains x.r = true) (queue : x.syncOut = [])
    (writes : x.openWrites = []) (acked : x.unacked = 0) :
    exec (.ssig c w) s = .next ((s.issuedAs c i x x.next).semArrive x.k x.r q .signal (bits w 109 94) (s.semInput i x.k x.r q)) := by
  subst hq
  refine (issue_next h (by simp [ho]) hm).trans ?_
  simp only [here, hj, Bool.false_and, Bool.false_eq_true, if_false]
  have signalled := sendSync_signal_own (s := s.issuedAs c i x x.next) (i := i) (y := x.next) (bits w 119 110) (bits w 109 94) x.openWrites
    ((issuedAs_at_job ..).trans hj) held
  rw [issuedAs_semInput] at signalled
  exact congrArg _ ((postSync_sends (y := x.next) (m := .signal _ _ _ x.openWrites) queue acked writes).trans signalled)

theorem exec_swait (ho : opcode w = 0x42) (hm : lowest (semMistakes w [(119, 94)]) = none) (hq : q = bits w 119 110) :
    exec (.swait c w) s = .next ((s.issuedAs c i x { x.next with status := .atSemaphore q }).semArrive x.k x.r q (.take (.core x.l))
      (bits w 109 94) (s.semInput i x.k x.r q)) := by
  subst hq
  exact (issue_next h (by simp [ho]) hm).trans rfl

theorem exec_sdec (ho : opcode w = 0x44) (hm : lowest (semMistakes w [(119, 94)]) = none) (hq : q = bits w 119 110) :
    exec (.sdec c w) s = .next ((s.issuedAs c i x x.next).semArrive x.k x.r q (.dec x.l x.here) (bits w 109 94) (s.semInput i x.k x.r q)) := by
  subst hq
  exact (issue_next h (by simp [ho]) hm).trans rfl

end words

/-- Settles O25: each word by its own lemma. That a SARM with count 0 by a core that has not armed has no effect is log 71, and that its
scope is not checked log 38. -/
theorem barrierWordsIssue : Obligations.BarrierWordsIssue := by
  refine ⟨fun s c i b x w h ho hm unit span hb stays => ⟨exec_sarm_arms h ho hm unit span hb stays, exec_sarm_leaves h ho hm unit span hb stays,
    exec_sarm_idle h ho hm unit span hb stays⟩, fun s c i b x w h ho hm hb answered stays queue writes acked => ⟨fun op ha hf => ?_, fun op => ?_,
    exec_sarrWait_goes_on h ho hm hb answered stays, fun op pending ha hf => ?_⟩⟩
  · exact ⟨_, exec_sarr h ho hm hb answered stays op queue writes acked ha hf, arrivalSent_lcore .., rfl, arrivalSent_mem ..⟩
  · exact ⟨_, exec_sarrArrive h ho hm hb answered stays op queue writes acked, arrivalSent_lcore .., rfl, arrivalSent_mem ..⟩
  · exact ⟨_, exec_sarrWait_waits h ho hm hb answered stays op pending ha hf, issuedAs_lcore .., issuedAs_flights ..⟩

/-- Settles O27: each word leaves its core as said, and its request arrives at the home. -/
theorem semaphoreWordsReachTheHome : Obligations.SemaphoreWordsReachTheHome := by
  refine ⟨fun s c i q x w j h ho hm here hq hj held queue writes acked => ?_, fun s c i q x w h hm hq => ⟨fun ho => ?_, fun ho => ?_⟩⟩
  · exact ⟨_, exec_ssig_own h ho hm here hq hj held queue writes acked, by simp, by simp, fun n hn => by simp [hn], by simp⟩
  · exact ⟨_, exec_swait h ho hm hq, by simp, by simp, by simp⟩
  · exact ⟨_, exec_sdec h ho hm hq, by simp, by simp, by simp⟩

end Sys2Proof.Machine
end

section
/-! PROOFS. What the ports, the torus map and the clock of a device keep: messages to the neighbours, the own link record, and passing
time (R343, R365, R380). -/

namespace Sys2Proof.Machine

variable {s t u : State}

/-! ## Passing time (R26) -/

theorem countWaits_clock (s : State) (c : Nat) (x : Core) (n : Nat) : (s.countWaits c x n).clock = s.clock := by
  have stalls (l : List Nat) : (l.foldl (fun (t : State) sub => t.bump64 (coreObj c 0x5) sub n) s).clock = s.clock :=
    foldl_frame State.clock _ (fun t sub => bump64_clock t ..) l s
  unfold State.countWaits
  dsimp only
  split
  · rfl
  · split
    · exact stalls _
    · exact (bump64_clock ..).trans (stalls _)

theorem stallQueues_clock (s : State) (k : Nat) (j : Job) (n : Nat) : (s.stallQueues k j n).clock = s.clock := by
  unfold State.stallQueues
  dsimp only
  split
  · rfl
  · simp only [setReg64_clock, setReg_clock, bump64_clock, setJob_clock]

theorem stallAll_clock (s : State) (n : Nat) : (s.stallAll n).clock = s.clock := by
  refine foldl_frame State.clock _ (fun t p => ?_) s.jobs s
  split
  · split
    · exact stallQueues_clock ..
    · rfl
  · rfl

theorem passCycles_clock (s : State) {n : Nat} (h : n ≠ 0) : (s.passCycles n).clock = s.clock.pass n := by
  rw [State.passCycles, if_neg h]
  have waits : (s.cores.foldl (fun (u : State) p => u.countWaits p.1 p.2 n) (s.stallAll n)).clock = s.clock :=
    (foldl_frame State.clock _ (fun u p => countWaits_clock ..) _ _).trans (stallAll_clock s n)
  exact congrArg (fun k => Clock.pass k n) waits

/-- What time does to a clock: its tick and its cycle alone go on. -/
def Clock.goesOn (k l : Clock) : Prop := l = { k with tick := l.tick, cycle := l.cycle }

theorem passCycles_goesOn (s : State) (n : Nat) : s.clock.goesOn (s.passCycles n).clock := by
  by_cases h : n = 0
  · rw [State.passCycles, if_pos h]
    rfl
  · rw [passCycles_clock s h]
    rfl

theorem until_goesOn (s : State) (n : Nat) : s.clock.goesOn (s.until n).clock := by
  unfold State.until
  split
  · exact passCycles_goesOn ..
  · rfl


theorem State.passes.ports (h : s.passes t) : t.ports = s.ports := by rw [h]
theorem State.passes.fabric (h : s.passes t) : t.fabric = s.fabric := by rw [h]
theorem State.passes.ident (h : s.passes t) : t.ident = s.ident := by rw [h]

theorem untilCycle_passes (s : State) (n : Nat) : s.passes (s.untilCycle n) := by
  unfold State.untilCycle
  split
  · exact passCycles_passes ..
  · rfl

/-! ## Ports after a write -/

theorem port_congr (h : t.ports = s.ports) (p : Nat) : t.port p = s.port p := by simp [State.port, h]

/-- Between s and t only counters of the dictionary have changed. -/
def State.counts (s t : State) : Prop := t = { s with dict := t.dict }

theorem State.counts.refl (s : State) : s.counts s := rfl

theorem State.counts.trans (h : s.counts t) (g : t.counts u) : s.counts u := by
  unfold State.counts at *
  rw [g, h]

theorem State.counts.ports (h : s.counts t) : t.ports = s.ports := by rw [h]

theorem bump64_counts (s : State) (idx sub n : Nat) : s.counts (s.bump64 idx sub n) := rfl

theorem counts_ite {c : Prop} [Decidable c] (ht : s.counts t) (hu : s.counts u) : s.counts (if c then t else u) := by
  split
  · exact ht
  · exact hu

theorem foldl_counts {β : Type} (f : State → β → State) (h : ∀ t x, State.counts t (f t x)) (l : List β) (s : State) : s.counts (l.foldl f s) :=
  foldl_keeps (fun t => s.counts t) f (fun t x ht => ht.trans (h t x)) l s (.refl s)

/-- Between s and t at most port p and counters of the dictionary have changed. -/
def State.onlyPort (p : Nat) (s t : State) : Prop :=
  t = { s with
    ports := t.ports
    dict := t.dict } ∧
  ∀ q, q ≠ p → t.port q = s.port q

namespace State.onlyPort

variable {p : Nat}

theorem refl (p : Nat) (s : State) : onlyPort p s s := ⟨rfl, fun _ _ => rfl⟩

theorem trans (h : onlyPort p s t) (g : onlyPort p t u) : onlyPort p s u := by
  refine ⟨?_, fun q hq => (g.2 q hq).trans (h.2 q hq)⟩
  rw [g.1, h.1]

theorem sameWork (h : onlyPort p s t) : s.sameWork t := by
  rw [h.1]
  exact ⟨rfl, rfl, rfl, rfl, rfl, rfl, rfl⟩

theorem errors (h : onlyPort p s t) : t.errors = s.errors := by rw [h.1]
theorem fabric (h : onlyPort p s t) : t.fabric = s.fabric := by rw [h.1]
theorem clock (h : onlyPort p s t) : t.clock = s.clock := by rw [h.1]
theorem mem (h : onlyPort p s t) : t.mem = s.mem := by rw [h.1]
theorem lcores (h : onlyPort p s t) : t.lcores = s.lcores := by rw [h.1]

end State.onlyPort

theorem setPort_onlyPort (s : State) (p : Nat) (x : Port) : State.onlyPort p s (s.setPort p x) :=
  ⟨rfl, fun _ hq => port_setPort_other s p _ x hq⟩

theorem State.counts.onlyPort (h : s.counts t) (p : Nat) : State.onlyPort p s t := by
  refine ⟨?_, fun q _ => port_congr h.ports q⟩
  rw [h]

/-! ## Messages to the neighbours (R342, R343) -/

/-- Between s and t the device has only told its neighbours something: messages follow those that a port already sends. -/
def State.tells (s t : State) : Prop :=
  t = { s with ports := t.ports } ∧ ∀ p, ∃ more, t.port p = { s.port p with control := (s.port p).control ++ more }

namespace State.tells

theorem refl (s : State) : s.tells s := ⟨rfl, fun p => ⟨[], by rw [List.append_nil]⟩⟩

theorem trans (h : s.tells t) (g : t.tells u) : s.tells u := by
  refine ⟨?_, fun p => ?_⟩
  · rw [g.1, h.1]
  · obtain ⟨l, hl⟩ := h.2 p
    obtain ⟨m, hm⟩ := g.2 p
    exact ⟨l ++ m, by rw [hm, hl, List.append_assoc]⟩

theorem clock (h : s.tells t) : t.clock = s.clock := by rw [h.1]
theorem fabric (h : s.tells t) : t.fabric = s.fabric := by rw [h.1]
theorem radish (h : s.tells t) : t.radish = s.radish := by rw [h.1]
theorem mem (h : s.tells t) : t.mem = s.mem := by rw [h.1]
theorem lcores (h : s.tells t) : t.lcores = s.lcores := by rw [h.1]

theorem sameWork (h : s.tells t) : s.sameWork t := by
  rw [h.1]
  exact ⟨rfl, rfl, rfl, rfl, rfl, rfl, rfl⟩

end State.tells

theorem linkSend_port (s : State) (p sub : Nat) (arg : DWord) (body : List Byte) :
    (s.linkSend p sub arg body).port p = { s.port p with control := (s.port p).control ++ [(sub, arg, body)] } := port_setPort_same ..

theorem linkSend_tells (s : State) (p sub : Nat) (arg : DWord) (body : List Byte) : s.tells (s.linkSend p sub arg body) := by
  refine ⟨rfl, fun q => ?_⟩
  by_cases h : q = p
  · subst h
    exact ⟨_, linkSend_port ..⟩
  · exact ⟨[], by rw [List.append_nil]; exact port_setPort_other s p q _ h⟩

theorem foldl_tells {β : Type} (f : State → β → State) (h : ∀ t x, State.tells t (f t x)) (l : List β) (s : State) : s.tells (l.foldl f s) :=
  foldl_keeps (fun t => s.tells t) f (fun t x ht => ht.trans (h t x)) l s (.refl s)

theorem flood_tells (s : State) (skip : Option Nat) (sub : Nat) (arg : DWord) (body : List Byte) : s.tells (s.flood skip sub arg body) :=
  foldl_tells _ (fun _ _ => linkSend_tells ..) _ s

theorem tellReference_tells (s : State) (p : Nat) : s.tells (s.tellReference p) := by
  unfold State.tellReference
  split
  · exact linkSend_tells ..
  · exact .refl s

theorem tellIdentity_tells (s : State) : s.tells s.tellIdentity := foldl_tells _ (fun _ _ => linkSend_tells ..) _ s

/-- What keeps the work of a state keeps that of the state with another fabric. -/
theorem sameWork_of_fabric {f : Fabric} (h : State.sameWork { s with fabric := f } t) : s.sameWork t := h

/-! ## The torus map and the own record (R365, R371, R380) -/

/-- Between s and t the torus map is renewed: link records, held destinations, the time parent and counters follow it, and neighbours
are told. -/
structure State.maps (s t : State) : Prop where
  rest : t = { s with
    clock := t.clock
    ports := t.ports
    fabric := t.fabric
    dict := t.dict }
  fabric : t.fabric = { s.fabric with
    version := t.fabric.version
    records := t.fabric.records
    holds := t.fabric.holds
    changed := t.fabric.changed }
  ports : ∀ p, ∃ more, t.port p = { s.port p with control := (s.port p).control ++ more }

namespace State.maps

theorem of_tells (h : s.tells t) : s.maps t := by
  refine ⟨?_, ?_, h.2⟩
  · rw [h.1]
  · rw [h.fabric]

theorem trans (h : s.maps t) (g : t.maps u) : s.maps u := by
  refine ⟨?_, ?_, fun p => ?_⟩
  · rw [g.rest, h.rest]
  · rw [g.fabric, h.fabric]
  · obtain ⟨l, hl⟩ := h.ports p
    obtain ⟨m, hm⟩ := g.ports p
    exact ⟨l ++ m, by rw [hm, hl, List.append_assoc]⟩

theorem sameWork (h : s.maps t) : s.sameWork t := by
  rw [h.rest]
  exact ⟨rfl, rfl, rfl, rfl, rfl, rfl, rfl⟩

theorem errors (h : s.maps t) : t.errors = s.errors := by rw [h.rest]
theorem mem (h : s.maps t) : t.mem = s.mem := by rw [h.rest]
theorem lcores (h : s.maps t) : t.lcores = s.lcores := by rw [h.rest]
theorem coord (h : s.maps t) : t.fabric.coord = s.fabric.coord := by rw [h.fabric]
theorem leaving (h : s.maps t) : t.fabric.leaving = s.fabric.leaving := by rw [h.fabric]
theorem discovering (h : s.maps t) : t.fabric.discovering = s.fabric.discovering := by rw [h.fabric]

end State.maps

/-- The time parent that follows the map is a matter of the clock alone. -/
theorem retime_eq (s : State) : s.retime = { s with clock := s.retime.clock } := by
  unfold State.retime
  dsimp only
  repeat' split
  all_goals rfl

/-- A map change takes over fabric f, but for what it holds back and the tick of the change. -/
theorem mapChange_fabric (s : State) (f : Fabric) : (s.mapChange f).fabric = { f with
    holds := (s.mapChange f).fabric.holds
    changed := some s.clock.tick } := by
  unfold State.mapChange
  dsimp only
  rw [retime_eq]
  split <;> rfl

theorem mapChange_maps (s : State) (f : Fabric) : State.maps { s with fabric := f } (s.mapChange f) := by
  have rest : s.mapChange f = { s with
      clock := (s.mapChange f).clock
      fabric := (s.mapChange f).fabric
      dict := (s.mapChange f).dict } := by
    unfold State.mapChange
    dsimp only
    rw [retime_eq]
    split <;> rfl
  refine ⟨?_, ?_, fun p => ⟨[], ?_⟩⟩
  · rw [rest]
  · rw [mapChange_fabric]
  · rw [List.append_nil, rest]
    rfl

/-- The fabric with a new own record: its version and the record of coordinate c. -/
def State.ownRenewed (s : State) (c : Half) : Fabric :=
  { s.fabric with
    version := s.fabric.version + 1
    records := sput (fun _ => none) s.fabric.records c.toNat (some { version := s.fabric.version + 1, ends := s.ownEnds }) }

/-- A map that follows the renewed fabric follows the fabric itself. -/
theorem State.maps.of_ownRenewed {c : Half} (h : State.maps { s with fabric := s.ownRenewed c } t) : s.maps t :=
  ⟨h.rest, h.fabric, h.ports⟩

theorem ownRecord_of_none (h : s.fabric.coord = none) : s.ownRecord = s := by simp [State.ownRecord, h]

theorem ownRecord_of_some {c : Half} (h : s.fabric.coord = some c) :
    s.ownRecord = (s.mapChange (s.ownRenewed c)).flood none 0x08 0 (recordBody c (s.fabric.version + 1) s.ownEnds) := by
  unfold State.ownRecord
  rw [h]
  rfl

/-- The own link record is renewed and told: the device's records and its version change. -/
theorem ownRecord_maps (s : State) : s.maps s.ownRecord := by
  cases h : s.fabric.coord with
  | none =>
    rw [ownRecord_of_none h]
    exact .of_tells (.refl s)
  | some c =>
    rw [ownRecord_of_some h]
    exact ((mapChange_maps s (s.ownRenewed c)).trans (.of_tells (flood_tells ..))).of_ownRenewed

/-- Messages for a port stay among those that it sends. -/
theorem State.maps.mem_control (h : s.maps t) {p : Nat} {m : Nat × DWord × List Byte} (hm : m ∈ (s.port p).control) : m ∈ (t.port p).control := by
  obtain ⟨more, e⟩ := h.ports p
  rw [e]
  exact List.mem_append_left _ hm

end Sys2Proof.Machine
end

section
/-! PROOFS. Received blocks: acceptance in sequence, retry, and release (R337, R346, R349 to R351, R354). -/

namespace Sys2Proof.Machine

variable {s t : State} {p : Nat} {b : FecBlock}

/-! ## What a port counts of a block (R337, R355) -/

/-- The port once a block's corrected symbols are counted. -/
def Port.hears (x : Port) (b : FecBlock) : Port :=
  { x with laneErrors := addLanes x.laneErrors b.corrected, windowBlocks := x.windowBlocks + 1 }

/-- The state once a block's corrected symbols are counted. -/
def State.hearsBlock (s : State) (p : Nat) (b : FecBlock) : State :=
  (s.setPort p ((s.port p).hears b)).bump64 (portObj p 1) 0x01 (b.corrected.foldl (fun n m => n + m) 0)

theorem hearsBlock_port (s : State) (p : Nat) (b : FecBlock) : (s.hearsBlock p b).port p = (s.port p).hears b := port_setPort_same ..

theorem hearsBlock_onlyPort (s : State) (p : Nat) (b : FecBlock) : State.onlyPort p s (s.hearsBlock p b) :=
  (setPort_onlyPort ..).trans ((bump64_counts ..).onlyPort p)

theorem reg64_hearsBlock (s : State) (p : Nat) (b : FecBlock) : (s.hearsBlock p b).reg64 (portObj p 1) 0x03 = s.reg64 (portObj p 1) 0x03 := by
  have apart (i j : Nat) (hi : 3 ≤ i) (hj : j ≤ 2) : dkey (portObj p 1) i ≠ dkey (portObj p 1) j := by
    unfold dkey
    omega
  have reg (i : Nat) (hi : 3 ≤ i) : (s.hearsBlock p b).reg (portObj p 1) i = s.reg (portObj p 1) i :=
    reg_bump64_other _ _ _ _ _ _ (apart i 1 hi (by decide)) (apart i 2 hi (by decide))
  rw [State.reg64, reg 3 (by decide), reg (3 + 1) (by decide), State.reg64]

/-! ## Retry (R349, R350) -/

/-- The port once it asks for a retry. -/
def Port.nak (x : Port) : Port := { x with nakking := true, naksSent := x.naksSent + 1 }

theorem sendNak_port (s : State) (p : Nat) : (s.sendNak p).port p = (s.port p).nak := port_setPort_same ..

theorem sendNak_onlyPort (s : State) (p : Nat) : State.onlyPort p s (s.sendNak p) := setPort_onlyPort ..

/-- A retry is asked for, if it is not asked for already. -/
def State.asksRetry (s : State) (p : Nat) : State := if (s.port p).nakking then s else s.sendNak p

theorem asksRetry_onlyPort (s : State) (p : Nat) : State.onlyPort p s (s.asksRetry p) := by
  unfold State.asksRetry
  split
  · exact .refl p s
  · exact sendNak_onlyPort ..

theorem asksRetry_port (s : State) (p : Nat) : (s.asksRetry p).port p = { s.port p with
    nakking := true
    naksSent := (s.port p).naksSent + (if (s.port p).nakking then 0 else 1) } := by
  unfold State.asksRetry
  cases h : (s.port p).nakking with
  | true =>
    rw [if_pos rfl, if_pos rfl, Nat.add_zero, ← h]
  | false => exact sendNak_port s p

theorem reg64_asksRetry (s : State) (p idx sub : Nat) : (s.asksRetry p).reg64 idx sub = s.reg64 idx sub := by
  unfold State.asksRetry
  split <;> rfl

/-- The port once the blocks that b acknowledges have left its retry buffer. -/
def Port.acked (x : Port) (b : FecBlock) : Port :=
  { x with
    retry := dropAcked b.ack x.retry
    resend := x.resend.filter (fun q => (dropAcked b.ack x.retry).contains q) }

theorem takeAck_of_ack (s : State) (p : Nat) (h : b.nak = false) : s.takeAck p b = s.setPort p ((s.port p).acked b) := by
  simp [State.takeAck, h, Port.acked]

/-! ## Acceptance (R346, R349, R354) -/

/-- The port with the credits that block b returns. -/
def Port.credited (x : Port) (b : FecBlock) : Port :=
  if b.creditClass < 3 then
    x.setCredit (b.creditClass * 4 + b.creditChan)
      (min (creditFull (b.creditClass * 4 + b.creditChan)) (x.credit (b.creditClass * 4 + b.creditChan) + 16 * b.credits))
  else x

theorem credited_eq (x : Port) (b : FecBlock) : x.credited b = { x with credits := (x.credited b).credits } := by
  unfold Port.credited
  split <;> rfl

theorem credited_release (x : Port) (b : FecBlock) : (x.credited b).release = x.release := by rw [credited_eq]

/-- The port once it has accepted block b, whose packets wait until cycle n. -/
def Port.accepts (x : Port) (b : FecBlock) (n : Nat) : Port :=
  { x.credited b with
    expect := (x.credited b).expect + 1
    nakking := false
    naks := if b.nak then (x.credited b).naks else 0
    waiting := (x.credited b).waiting ++ [{ at_ := n, packets := b.packets }] }

theorem accepts_eq (x : Port) (b : FecBlock) (n : Nat) : x.accepts b n = { x with
    credits := (x.credited b).credits
    expect := x.expect + 1
    nakking := false
    naks := if b.nak then x.naks else 0
    waiting := x.waiting ++ [{ at_ := n, packets := b.packets }] } := by rw [Port.accepts, credited_eq]

/-- The cycle at which a block that port p accepts now is due: S + L. -/
def State.blockDue (s : State) (p : Nat) (b : FecBlock) : Nat := extendStamp s.now b.stamp.toNat + ((s.port p).credited b).release

/-- A block that is due before now is counted as late. -/
def State.countLate (s : State) (p due : Nat) : State := if due < s.now then s.bump64 (portObj p 1) 0x07 1 else s

/-- The flits of received packets are counted while the traffic counters count. -/
def State.countFlits (s : State) (p : Nat) (l : List Packet) : State :=
  if s.traffic then l.foldl (fun (u : State) q => if q.cls < 3 then u.bump64 (portObj p 3) (0x07 + 2 * q.cls) (flits q) else u) s else s

theorem countLate_counts (s : State) (p due : Nat) : s.counts (s.countLate p due) := counts_ite (bump64_counts ..) (.refl s)

theorem countFlits_counts (s : State) (p : Nat) (l : List Packet) : s.counts (s.countFlits p l) :=
  counts_ite (foldl_counts _ (fun u _ => counts_ite (bump64_counts ..) (.refl u)) l s) (.refl s)

theorem accept_eq (s : State) (p : Nat) (b : FecBlock) : s.accept p b =
    ((s.setPort p ((s.port p).accepts b (max s.now (s.blockDue p b)))).countLate p (s.blockDue p b)).countFlits p b.packets :=
  rfl

theorem accept_onlyPort (s : State) (p : Nat) (b : FecBlock) : State.onlyPort p s (s.accept p b) := by
  rw [accept_eq]
  exact (setPort_onlyPort ..).trans (((countLate_counts ..).trans (countFlits_counts ..)).onlyPort p)

theorem accept_port (s : State) (p : Nat) (b : FecBlock) : (s.accept p b).port p = (s.port p).accepts b (max s.now (s.blockDue p b)) := by
  rw [accept_eq, port_congr ((countLate_counts ..).trans (countFlits_counts ..)).ports, port_setPort_same]

/-! ## FEC_BLOCK_RECEIVED (R337, R349 to R351) -/

/-- The state once a decodable block without NAK has been counted and its acknowledgement taken (log 62). -/
def State.ackedBlock (s : State) (p : Nat) (b : FecBlock) : State := (s.hearsBlock p b).setPort p (((s.port p).hears b).acked b)

theorem ackedBlock_port (s : State) (p : Nat) (b : FecBlock) : (s.ackedBlock p b).port p = ((s.port p).hears b).acked b := port_setPort_same ..

theorem ackedBlock_onlyPort (s : State) (p : Nat) (b : FecBlock) : State.onlyPort p s (s.ackedBlock p b) :=
  (hearsBlock_onlyPort ..).trans (setPort_onlyPort ..)

section receives

variable (hp : p < 8) (hs : (s.port p).inService = true)
include hp hs

theorem exec_fecBlockReceived_undecodable (h : b.correctable = false) :
    exec (.fecBlockReceived p b) s = .next (((s.hearsBlock p b).bump64 (portObj p 1) 0x03 1).asksRetry p) := by
  show onUnit (decide (p < 8)) _ = _
  simp only [onUnit, hp, hs, h, decide_true, if_true, Bool.not_true, Bool.not_false, Bool.false_eq_true, if_false]
  rfl

theorem exec_fecBlockReceived_decodable (h : b.correctable = true) (hn : b.nak = false) :
    exec (.fecBlockReceived p b) s = .next (if b.seq = (s.port p).expect then (s.ackedBlock p b).accept p b else (s.ackedBlock p b).asksRetry p) := by
  have acked : (s.hearsBlock p b).takeAck p b = s.ackedBlock p b := by
    rw [takeAck_of_ack _ _ hn, hearsBlock_port]
    rfl
  have up : ((s.ackedBlock p b).port p).inService = true := by
    rw [ackedBlock_port]
    exact hs
  have expect : ((s.ackedBlock p b).port p).expect = (s.port p).expect := by
    rw [ackedBlock_port]
    rfl
  have run : exec (.fecBlockReceived p b) s = .next (if !(((s.hearsBlock p b).takeAck p b).port p).inService then (s.hearsBlock p b).takeAck p b
      else if b.seq = (((s.hearsBlock p b).takeAck p b).port p).expect then ((s.hearsBlock p b).takeAck p b).accept p b
      else ((s.hearsBlock p b).takeAck p b).asksRetry p) := by
    show onUnit (decide (p < 8)) _ = _
    simp only [onUnit, hp, hs, h, decide_true, if_true, Bool.not_true, Bool.false_eq_true, if_false]
    rfl
  rw [run, acked, up, expect]
  rfl

theorem fecBlockReceived_inSequence (h : b.correctable = true) (hn : b.nak = false) (hq : b.seq = (s.port p).expect) :
    ∃ t, exec (.fecBlockReceived p b) s = .next t ∧ s.sameWork t ∧ t.errors = s.errors ∧ (t.port p).expect = (s.port p).expect + 1 ∧
      (t.port p).nakking = false ∧ (t.port p).naks = 0 ∧ (t.port p).retry = dropAcked b.ack (s.port p).retry ∧
      (t.port p).waiting = (s.port p).waiting ++
        [{ at_ := max s.now (extendStamp s.now b.stamp.toNat + (s.port p).release), packets := b.packets }] ∧
      (∀ q, q ≠ p → t.port q = s.port q) := by
  have frame := (ackedBlock_onlyPort s p b).trans (accept_onlyPort _ p b)
  have now : (s.ackedBlock p b).now = s.now := by rw [State.now, (ackedBlock_onlyPort s p b).clock, State.now]
  refine ⟨(s.ackedBlock p b).accept p b, ?_, frame.sameWork, frame.errors, ?_⟩
  · rw [exec_fecBlockReceived_decodable hp hs h hn, if_pos hq]
  · rw [accept_port, accepts_eq, hn, State.blockDue, credited_release, now, ackedBlock_port]
    exact ⟨rfl, rfl, rfl, rfl, rfl, frame.2⟩

theorem fecBlockReceived_outOfSequence (h : b.correctable = true) (hn : b.nak = false) (hq : b.seq ≠ (s.port p).expect) :
    ∃ t, exec (.fecBlockReceived p b) s = .next t ∧ s.sameWork t ∧ t.errors = s.errors ∧ (t.port p).expect = (s.port p).expect ∧
      (t.port p).nakking = true ∧ (t.port p).waiting = (s.port p).waiting ∧ (t.port p).retry = dropAcked b.ack (s.port p).retry ∧
      (t.port p).naksSent = (s.port p).naksSent + (if (s.port p).nakking then 0 else 1) ∧ (∀ q, q ≠ p → t.port q = s.port q) := by
  have frame := (ackedBlock_onlyPort s p b).trans (asksRetry_onlyPort _ p)
  refine ⟨(s.ackedBlock p b).asksRetry p, ?_, frame.sameWork, frame.errors, ?_⟩
  · rw [exec_fecBlockReceived_decodable hp hs h hn, if_neg hq]
  · rw [asksRetry_port, ackedBlock_port]
    exact ⟨rfl, rfl, rfl, rfl, rfl, frame.2⟩

theorem fecBlockReceived_undecodable (h : b.correctable = false) :
    ∃ t, exec (.fecBlockReceived p b) s = .next t ∧ s.sameWork t ∧ t.errors = s.errors ∧ (t.port p).expect = (s.port p).expect ∧
      (t.port p).nakking = true ∧ (t.port p).waiting = (s.port p).waiting ∧ (t.port p).retry = (s.port p).retry ∧
      t.reg64 (portObj p 1) 0x03 = min (2 ^ 64 - 1) (s.reg64 (portObj p 1) 0x03 + 1) ∧ (∀ q, q ≠ p → t.port q = s.port q) := by
  have frame := ((hearsBlock_onlyPort s p b).trans ((bump64_counts _ (portObj p 1) 0x03 1).onlyPort p)).trans (asksRetry_onlyPort _ p)
  refine ⟨_, exec_fecBlockReceived_undecodable hp hs h, frame.sameWork, frame.errors, ?_⟩
  have counted : (((s.hearsBlock p b).bump64 (portObj p 1) 0x03 1).asksRetry p).reg64 (portObj p 1) 0x03 =
      ((s.hearsBlock p b).bump64 (portObj p 1) 0x03 1).reg64 (portObj p 1) 0x03 := reg64_asksRetry ..
  have uncounted : (s.hearsBlock p b).reg64 (portObj p 1) 0x03 = s.reg64 (portObj p 1) 0x03 := reg64_hearsBlock ..
  rw [asksRetry_port, bump64_at_port, hearsBlock_port, counted, reg64_bump64, uncounted]
  exact ⟨rfl, rfl, rfl, rfl, rfl, frame.2⟩

theorem exec_nakRepeat (h : (s.port p).nakking = true) :
    exec (.nakRepeat p) s = .next (s.setPort p { s.port p with naksSent := (s.port p).naksSent + 1 }) := by
  have again : (s.port p).nak = { s.port p with naksSent := (s.port p).naksSent + 1 } := by rw [Port.nak, ← h]
  rw [← again]
  show onUnit (decide (p < 8)) _ = _
  simp only [onUnit, hp, hs, h, decide_true, Bool.and_self, if_true]
  rfl

end receives

/-! ## BLOCK_RELEASE (R346, R354) -/

/-- The flits that fall due as credits once a packet has left the receive buffer. -/
def dueAfter (m : Sparse Nat) (q : Packet) : Sparse Nat :=
  if q.cls < 3 then sput (fun _ => 0) m (4 * q.cls + q.channel) (sget (fun _ => 0) m (4 * q.cls + q.channel) + flits q) else m

/-- The port once its oldest waiting block is released. -/
def Port.released (x : Port) (w : Waiting) (rest : List Waiting) : Port :=
  { x with
    waiting := rest
    due := w.packets.foldl dueAfter x.due }

theorem exec_blockRelease {w : Waiting} {rest : List Waiting} (hp : p < 8) (h : (s.port p).waiting = w :: rest) :
    exec (.blockRelease p) s = .next ((s.untilCycle w.at_).setPort p (((s.untilCycle w.at_).port p).released w rest)) := by
  show onUnit (decide (p < 8)) _ = _
  simp only [onUnit, hp, h, decide_true, if_true]
  rfl

theorem blockRelease_releases {w : Waiting} {rest : List Waiting} (hp : p < 8) (h : (s.port p).waiting = w :: rest) :
    ∃ t, exec (.blockRelease p) s = .next t ∧ t.clock = (s.untilCycle w.at_).clock ∧ t.mem = s.mem ∧ t.lcores = s.lcores ∧
      (t.port p).waiting = rest ∧ (t.port p).expect = (s.port p).expect ∧ (t.port p).retry = (s.port p).retry ∧
      (∀ q, w.packets = [q] → q.cls < 3 → sget (fun _ => 0) (t.port p).due (4 * q.cls + q.channel) =
        sget (fun _ => 0) (s.port p).due (4 * q.cls + q.channel) + flits q) ∧ (∀ q, q ≠ p → t.port q = s.port q) := by
  have time := untilCycle_passes s w.at_
  have ports (q : Nat) : (s.untilCycle w.at_).port q = s.port q := port_congr time.ports q
  refine ⟨_, exec_blockRelease hp h, rfl, time.mem, time.lcores, ?_⟩
  rw [port_setPort_same, ports p]
  refine ⟨rfl, rfl, rfl, fun q hq hc => ?_, fun q hq => ?_⟩
  · show sget (fun _ => 0) (w.packets.foldl dueAfter (s.port p).due) _ = _
    rw [hq, List.foldl_cons, List.foldl_nil, dueAfter, if_pos hc, sget_sput_same]
  · rw [port_setPort_other _ _ _ _ hq, ports q]

/-- Settles O33, one lemma for each kind of block. The acknowledgement of a decodable block out of sequence is taken (log 62), and a
repeat moves no time (log 80). -/
theorem linkBlocksInSequenceAreAccepted : Obligations.LinkBlocksInSequenceAreAccepted :=
  ⟨fun _ _ _ hp hs => ⟨fecBlockReceived_inSequence hp hs, fecBlockReceived_outOfSequence hp hs, fecBlockReceived_undecodable hp hs,
    exec_nakRepeat hp hs⟩, fun _ _ _ _ hp h => blockRelease_releases hp h⟩

end Sys2Proof.Machine
end

section
/-! PROOFS. Packets in transit: credits, blocks and the retry buffer of the output (R340, R345, R346, R348, R370, R371). -/

namespace Sys2Proof.Machine

variable {s : State} {q o : Nat} {p p1 : Packet}

/-! ## Blocks that go out (R346, R348) -/

/-- A block takes the next sequence number and stays in the retry buffer; of the rest it changes only the credits that it returns. -/
theorem sendBlock_eq (x : Port) : x.sendBlock = { x with
    nextSeq := x.nextSeq + 1
    retry := x.retry ++ [x.nextSeq]
    due := x.sendBlock.due
    turn := x.sendBlock.turn } := by
  unfold Port.sendBlock
  dsimp only
  split <;> rfl

/-- The port once n blocks have gone out. -/
def Port.sendBlocks (x : Port) (n : Nat) : Port := (upto n).foldl (fun (z : Port) _ => z.sendBlock) x

theorem sendBlocks_succ (x : Port) (n : Nat) : x.sendBlocks (n + 1) = (x.sendBlocks n).sendBlock := by
  simp [Port.sendBlocks, upto, List.range_succ]

theorem sendBlocks_credit (x : Port) (n key : Nat) : (x.sendBlocks n).credit key = x.credit key := by
  induction n with
  | zero => rfl
  | succ n ih => rw [sendBlocks_succ, sendBlock_eq, ← ih]; rfl

theorem sendBlocks_nextSeq (x : Port) (n : Nat) : (x.sendBlocks n).nextSeq = x.nextSeq + BitVec.ofNat 14 n := by
  induction n with
  | zero => exact (BitVec.add_zero _).symm
  | succ n ih => rw [sendBlocks_succ, sendBlock_eq, ih, BitVec.ofNat_add, ← BitVec.add_assoc]; rfl

theorem sendBlocks_retry_length (x : Port) (n : Nat) : (x.sendBlocks n).retry.length = x.retry.length + n := by
  induction n with
  | zero => rfl
  | succ n ih => rw [sendBlocks_succ, sendBlock_eq, List.length_append, ih]; rfl

theorem credit_setCredit (x : Port) (key n : Nat) : (x.setCredit key n).credit key = n := sget_sput_same ..

/-! ## The hop (R369, R370) -/

/-- A hop changes a packet's channel alone. -/
theorem hop_packet {f : Fabric} {at_ : Nat} (h : hop f at_ q p = some (o, p1)) : p1 = { p with channel := p1.channel } := by
  have start (c : Prop) [Decidable c] : (if c then { p with channel := 2 } else p) = { p with channel := (if c then { p with channel := 2 } else p).channel } := by
    split <;> rfl
  unfold hop at h
  dsimp only at h
  split at h
  · cases h
  · injection h with h
    injection h with _ h
    rw [start] at h
    rw [← h]

theorem hop_flits {f : Fabric} {at_ : Nat} (h : hop f at_ q p = some (o, p1)) : flits p1 = flits p := by rw [hop_packet h]; rfl

/-! ## Forwarding (R345, R346, R371) -/

/-- The output port once packet p, in the form p1 in which it leaves, has gone out as blocks of its own (log 44). -/
def Port.takes (x : Port) (p1 : Packet) : Port :=
  (x.setCredit (4 * p1.cls + p1.channel) (x.credit (4 * p1.cls + p1.channel) - flits p1)).sendBlocks ((flits p1 + 59) / 60)

/-- The state once packet p1 has gone out on o, its traffic counter aside. -/
def State.sendsOn (s : State) (o : Nat) (p1 : Packet) : State :=
  { s.setPort o ((s.port o).takes p1) with fabric := { s.fabric with sent := (o, p1) :: s.fabric.sent } }

section transit

variable (hop_ : hop s.fabric s.coord.toNat q p = some (o, p1)) (other : q ≠ o) (up : (s.port o).inService = true)
include hop_ other up

theorem forward_sends (credit : flits p1 ≤ (s.port o).credit (4 * p1.cls + p1.channel))
    (room : (s.port o).retry.length + (flits p1 + 59) / 60 ≤ 512) :
    s.forward q p = if (s.sendsOn o p1).traffic then (s.sendsOn o p1).bump64 (portObj o 3) (1 + 2 * p1.cls) (flits p1) else s.sendsOn o p1 := by
  unfold State.forward
  rw [hop_]
  simp only [other, up, decide_false, Bool.false_and, Bool.not_true, Bool.or_self, Bool.false_eq_true, if_false,
    Nat.not_lt.2 credit, Nat.not_lt.2 room]
  rfl

theorem forward_waits (credit : (s.port o).credit (4 * p1.cls + p1.channel) < flits p1) : s.forward q p = s := by
  unfold State.forward
  rw [hop_]
  simp only [other, up, credit, decide_false, decide_true, Bool.false_and, Bool.not_true, Bool.or_self, Bool.true_or, Bool.false_eq_true, if_false, if_true]

end transit

theorem exec_packetForward (hq : q < 8) (known : reservedType p.ptype = false) (hc : p.cls < 3) :
    exec (.packetForward q p) s = .next (s.forward q p) := by
  show onUnit (decide (q < 8)) _ = _
  simp [onUnit, hq, known, Nat.not_le.2 hc]

theorem exec_packetForward_reserved (hq : q < 8) (reserved : reservedType p.ptype = true) :
    exec (.packetForward q p) s = .next (s.bump64 (portObj q 1) 0x0B 1) := by
  show onUnit (decide (q < 8)) _ = _
  simp [onUnit, hq, reserved]

theorem packetForward_leaves (hq : q < 8) (known : reservedType p.ptype = false) (hc : p.cls < 3)
    (hop_ : hop s.fabric s.coord.toNat q p = some (o, p1)) (other : q ≠ o) (up : (s.port o).inService = true)
    (credit : flits p ≤ (s.port o).credit (4 * p1.cls + p1.channel)) (room : (s.port o).retry.length + (flits p + 59) / 60 ≤ 512) :
    ∃ t, exec (.packetForward q p) s = .next t ∧ s.sameWork t ∧ t.errors = s.errors ∧ t.fabric = { s.fabric with sent := (o, p1) :: s.fabric.sent } ∧
      (t.port o).credit (4 * p1.cls + p1.channel) = (s.port o).credit (4 * p1.cls + p1.channel) - flits p ∧
      (t.port o).nextSeq = (s.port o).nextSeq + BitVec.ofNat 14 ((flits p + 59) / 60) ∧
      (t.port o).retry.length = (s.port o).retry.length + (flits p + 59) / 60 ∧ (∀ n, n ≠ o → t.port n = s.port n) := by
  rw [← hop_flits hop_] at credit room ⊢
  have counted : (s.sendsOn o p1).counts (s.forward q p) := by
    rw [forward_sends hop_ other up credit room]
    exact counts_ite (bump64_counts ..) (.refl _)
  have out : (s.forward q p).port o = (s.port o).takes p1 := (port_congr counted.ports o).trans (port_setPort_same ..)
  refine ⟨s.forward q p, exec_packetForward hq known hc, ?_, ?_, ?_, ?_, ?_, ?_, fun n hn => ?_⟩
  · rw [counted]; exact ⟨rfl, rfl, rfl, rfl, rfl, rfl, rfl⟩
  · rw [counted]; rfl
  · rw [counted]; rfl
  · rw [out, Port.takes, sendBlocks_credit, credit_setCredit]
  · rw [out, Port.takes, sendBlocks_nextSeq]; rfl
  · rw [out, Port.takes, sendBlocks_retry_length]; rfl
  · exact (port_congr counted.ports n).trans (port_setPort_other _ _ _ _ hn)

/-- Settles O34: a packet in transit leaves, waits for credits, or is discarded. It begins blocks of its own (log 44). -/
theorem packetsLeaveOnTheirRoute : Obligations.PacketsLeaveOnTheirRoute := by
  refine ⟨fun s q o p p1 hq known hc hop_ other up => ⟨packetForward_leaves hq known hc hop_ other up, fun credit => ?_⟩,
    fun s q p hq reserved => exec_packetForward_reserved hq reserved⟩
  rw [exec_packetForward hq known hc, forward_waits hop_ other up (by rwa [hop_flits hop_])]

end Sys2Proof.Machine
end

section
/-! PROOFS. Bringing a link up: training bursts, training, and the port that comes into service (R345, R353, R360, R361, R366). -/

namespace Sys2Proof.Machine

variable {s t : State} {p : Nat}

/-! ## Training (R360, R364) -/

/-- A port without a link. -/
def Port.unlinked (x : Port) : Prop := x.state = 0 ∨ x.state = 6

theorem Port.unlinked.decides {x : Port} (h : x.unlinked) : (decide (x.state = 0) || decide (x.state = 6)) = true := by
  simpa [Port.unlinked] using h

section training

variable (hp : p < 8) (free : (s.port p).unlinked) (lit : s.power.txIdle = false)
include hp free lit

theorem exec_trainingBurst : exec (.trainingBurst p) s = .next (s.setPort p { s.port p with burst := some s.clock.tick }) := by
  show onUnit (decide (p < 8)) _ = _
  simp only [onUnit, hp, free.decides, lit, decide_true, Bool.not_false, Bool.and_self, if_true]

theorem exec_linkTraining (wide : ∀ e, s.fabric.extents = some e → digit e.toNat (p / 2) ≠ 0) :
    exec (.linkTraining p) s = .next (s.setPort p { s.port p with state := 1, burst := none }) := by
  show onUnit (decide (p < 8)) _ = _
  cases h : s.fabric.extents with
  | none => simp only [onUnit, hp, free.decides, lit, decide_true, Bool.not_false, Bool.and_self, if_true]
  | some e => simp only [onUnit, hp, free.decides, lit, wide e h, decide_true, decide_false, Bool.not_false, Bool.and_self, if_true]

end training

/-! ## In service (R345, R353, R361) -/

/-- The port as it comes into service. -/
def Port.comesUp (x : Port) (latency : Nat) : Port :=
  { x with
    state := serviceState x.txMask x.rxMask, release := (latency + 60 + 59) / 60 * 60, nextSeq := 0, retry := [], resend := []
    expect := 0, nakking := false, naks := 0, credits := [], due := [], turn := 0, waiting := [], txNext := none, rxNext := none
    rxSwap := none, txSwap := none, laneErrors := [], windowBlocks := 0, nSerial := 0, nCoord := 0, nHeld := false }

theorem inService_serviceState (tx rx : BitVec 13) : inService (serviceState tx rx) = true := by
  unfold serviceState
  split <;> rfl

/-- Masks that agree with a port's state leave the device as it is. -/
theorem portMasks_of_state (htx : 11 ≤ lanes (s.port p).txMask) (hrx : 11 ≤ lanes (s.port p).rxMask)
    (h : (s.port p).state = serviceState (s.port p).txMask (s.port p).rxMask) : s.portMasks p = s := by
  have up : (s.port p).inService = true := by
    rw [Port.inService, h]
    exact inService_serviceState ..
  simp only [State.portMasks, up, h, Nat.not_lt.2 htx, Nat.not_lt.2 hrx, decide_false, Bool.or_self, Bool.not_true, Bool.false_eq_true, if_false, if_true]

/-- The state with the port in service and discovery begun. -/
def State.linkedUp (s : State) (p latency : Nat) : State := (s.setPort p ((s.port p).comesUp latency)).discover

/-- The state once the device has told the new neighbour and everyone else. -/
def State.introduced (s : State) (p : Nat) : State := ((s.linkSend p 0x05 0 (s.identityBody p)).tellReference p).ownRecord

theorem linkedUp_port (s : State) (p latency : Nat) : (s.linkedUp p latency).port p = (s.port p).comesUp latency := port_setPort_same ..

theorem introduced_maps (s : State) (p : Nat) : s.maps (s.introduced p) :=
  ((State.maps.of_tells (linkSend_tells ..)).trans (.of_tells (tellReference_tells ..))).trans (ownRecord_maps _)

/-- The identity is among what the port sends. -/
theorem introduced_sends (s : State) (p : Nat) : (0x05, 0, s.identityBody p) ∈ ((s.introduced p).port p).control := by
  refine ((State.maps.of_tells (tellReference_tells ..)).trans (ownRecord_maps _)).mem_control ?_
  rw [linkSend_port]
  exact List.mem_append_right _ (List.mem_singleton_self _)

theorem exec_linkInService (hp : p < 8) (h : (s.port p).state = 1) (latency : Nat) :
    exec (.linkInService p latency) s = .next (((s.linkedUp p latency).introduced p).portMasks p) := by
  show onUnit (decide (p < 8)) _ = _
  simp only [onUnit, hp, h, decide_true, if_true, ne_eq, not_true_eq_false, if_false]
  rfl

theorem linkInService_comesUp (hp : p < 8) (h : (s.port p).state = 1) (htx : 11 ≤ lanes (s.port p).txMask)
    (hrx : 11 ≤ lanes (s.port p).rxMask) (latency : Nat) :
    ∃ t, exec (.linkInService p latency) s = .next t ∧ s.sameWork t ∧ t.errors = s.errors ∧
      (t.port p).state = serviceState (s.port p).txMask (s.port p).rxMask ∧ (t.port p).release = (latency + 119) / 60 * 60 ∧
      (t.port p).nextSeq = 0 ∧ (t.port p).expect = 0 ∧ (t.port p).retry = [] ∧ (∀ key, (t.port p).credit key = creditFull key) ∧
      t.fabric.discovering = true ∧ (0x05, 0, s.identityBody p) ∈ (t.port p).control := by
  have told := introduced_maps (s.linkedUp p latency) p
  obtain ⟨more, port⟩ := told.ports p
  rw [linkedUp_port] at port
  have settled : ((s.linkedUp p latency).introduced p).portMasks p = (s.linkedUp p latency).introduced p :=
    portMasks_of_state (by rw [port]; exact htx) (by rw [port]; exact hrx) (by rw [port]; rfl)
  refine ⟨(s.linkedUp p latency).introduced p, ?_, told.sameWork, told.errors, ?_, ?_, ?_, ?_, ?_, fun key => ?_, told.discovering,
    introduced_sends (s.linkedUp p latency) p⟩
  · rw [exec_linkInService hp h, settled]
  all_goals rw [port]; rfl

/-- Settles O36. A link that comes into service begins with sequence number 0 (log 8). -/
theorem linksTrainAndComeUp : Obligations.LinksTrainAndComeUp := by
  refine ⟨fun s p hp free lit => ⟨?_, fun wide => ?_⟩, fun s p latency hp h htx hrx => linkInService_comesUp hp h htx hrx latency⟩
  · exact ⟨_, exec_trainingBurst hp free lit, ⟨rfl, rfl, rfl, rfl, rfl, rfl, rfl⟩, rfl, port_setPort_same .., fun q hq => port_setPort_other _ _ _ _ hq⟩
  · exact ⟨_, exec_linkTraining hp free lit wide, ⟨rfl, rfl, rfl, rfl, rfl, rfl, rfl⟩, rfl, port_setPort_same .., fun q hq => port_setPort_other _ _ _ _ hq⟩

end Sys2Proof.Machine
end

section
/-! PROOFS. Discovery: identities, reference candidates, link records, and the end of discovery (R361, R363 to R366, R380). -/

namespace Sys2Proof.Machine

variable {s t : State} {p : Nat}

/-! ## Identities (R361, R364, R378) -/

/-- The port once its neighbour has told its identity. -/
def Port.meets (x : Port) (port : Nat) (serial : DWord) (held : Bool) (c : Half) : Port :=
  { x with nPort := port, nSerial := serial, nCoord := if held then c else 0, nHeld := held }

/-- The state once the neighbour on port p, of the opposite port, has told its identity. -/
def State.meets (s : State) (p : Nat) (serial : DWord) (port : Nat) (held : Bool) (c : Half) (shape : Word) : State :=
  { s.setPort p ((s.port p).meets port serial held c) with fabric := { s.fabric with
      joining := s.fabric.joining || (held && s.fabric.coord.isNone && decide ((s.port p).nSerial = 0))
      heardShape := if held && bit shape 16 && s.fabric.heardShape.isNone then some (BitVec.ofNat 16 shape.toNat) else s.fabric.heardShape } }

theorem adopt_of_no_neighbour (hc : s.fabric.coord = none) (hn : s.heldPorts = []) : s.adopt = s := by simp [State.adopt, hc, hn]

/-- With no neighbour but that of port p holding a coordinate, and that one none either, no port implies a coordinate. -/
theorem heldPorts_meets (serial : DWord) (port : Nat) (c : Half) (shape : Word) (h : s.heldPorts.erase p = []) :
    (s.meets p serial port false c shape).heldPorts = [] := by
  refine List.filter_eq_nil_iff.2 fun q hq held => ?_
  by_cases e : q = p
  · have port : (s.meets p serial port false c shape).port q = (s.port p).meets port serial false c := by
      rw [e]
      exact port_setPort_same ..
    rw [port] at held
    simp [Port.meets] at held
  · have port : (s.meets p serial port false c shape).port q = s.port q := port_setPort_other _ _ _ _ e
    rw [port] at held
    have other : q ∈ s.heldPorts.erase p := (List.mem_erase_of_ne e).2 (List.mem_filter.2 ⟨hq, held⟩)
    rw [h] at other
    exact List.not_mem_nil other

section identity

variable (serial : DWord) (st : Half) (port : Nat) (anchored : Bool) (c a : Half) (shape : Word)
variable (hp : p < 8) (up : (s.port p).inService = true)
include hp up

theorem exec_identity_miscabled (held : Bool) (h : port ≠ opposite p) : exec (.identity p serial st port held anchored c a shape) s =
    .next (s.setPort p { (s.port p).meets port serial held c with state := 4 }).ownRecord := by
  show onUnit (decide (p < 8)) _ = _
  simp only [onUnit, hp, up, h, decide_true, if_true, Bool.not_true, Bool.false_eq_true, if_false, ne_eq, not_false_eq_true]
  rfl

theorem exec_identity_opposite (h : port = opposite p) (hc : s.fabric.coord = none) :
    exec (.identity p serial st port false anchored c a shape) s = .next (s.meets p serial port false c shape).adopt := by
  have unowned : (s.meets p serial port false c shape).ownRecord = s.meets p serial port false c shape := ownRecord_of_none hc
  have run : exec (.identity p serial st port false anchored c a shape) s = .next (if
      decide (((s.port p).meets port serial false c).nCoord = (s.port p).nCoord) && decide (((s.port p).meets port serial false c).nHeld = (s.port p).nHeld)
      then s.meets p serial port false c shape else (s.meets p serial port false c shape).ownRecord).adopt := by
    show onUnit (decide (p < 8)) _ = _
    simp only [onUnit, hp, up, h, decide_true, if_true, Bool.not_true, Bool.false_eq_true, if_false, ne_eq, not_true_eq_false]
    rfl
  rw [run, unowned, ite_self]

theorem identity_noted (h : port = opposite p) (hc : s.fabric.coord = none) (hn : s.heldPorts.erase p = []) :
    ∃ t, exec (.identity p serial st port false anchored c a shape) s = .next t ∧ s.sameWork t ∧ (t.port p).nPort = port ∧
      (t.port p).nSerial = serial ∧ (t.port p).nHeld = false ∧ (t.port p).state = (s.port p).state ∧ t.fabric.coord = none := by
  have meets : (s.meets p serial port false c shape).port p = (s.port p).meets port serial false c := port_setPort_same ..
  refine ⟨s.meets p serial port false c shape, ?_, ⟨rfl, rfl, rfl, rfl, rfl, rfl, rfl⟩, ?_⟩
  · rw [exec_identity_opposite _ _ _ _ _ _ _ hp up h hc, adopt_of_no_neighbour (s := s.meets ..) hc (heldPorts_meets serial port c shape hn)]
  · rw [meets]
    exact ⟨rfl, rfl, rfl, rfl, hc⟩

theorem identity_miscabled (held : Bool) (h : port ≠ opposite p) :
    ∃ t, exec (.identity p serial st port held anchored c a shape) s = .next t ∧ s.sameWork t ∧
      (t.port p).state = 4 ∧ (t.port p).nSerial = serial ∧ (t.port p).nPort = port ∧ t.fabric.coord = s.fabric.coord := by
  have told := ownRecord_maps (s.setPort p { (s.port p).meets port serial held c with state := 4 })
  obtain ⟨more, e⟩ := told.ports p
  rw [port_setPort_same] at e
  refine ⟨_, exec_identity_miscabled serial st port anchored c a shape hp up held h, told.sameWork, ?_⟩
  rw [e, told.coord]
  exact ⟨rfl, rfl, rfl, rfl⟩

end identity

/-! ## Reference candidates (R343, R363) -/

section candidates

variable {serial : DWord} {anchored : Bool} {c : Half} (hp : p < 8)
include hp

theorem referenceCandidate_better (h : ∀ r, s.fabric.reference = some r → betterRef (anchored, serial, c) r = true) :
    ∃ t, exec (.referenceCandidate p serial anchored c) s = .next t ∧ s.sameWork t ∧ t.fabric = { s.fabric with
      reference := some (anchored, serial, c) } := by
  have told := flood_tells { s with fabric := { s.fabric with reference := some (anchored, serial, c) } } (some p) 0x07 0
    (candidateBody (anchored, serial, c))
  refine ⟨_, ?_, sameWork_of_fabric told.sameWork, told.fabric⟩
  show onUnit (decide (p < 8)) _ = _
  cases e : s.fabric.reference with
  | none => simp only [onUnit, hp, decide_true, if_true, Bool.not_true, Bool.false_eq_true, if_false]
  | some r => simp only [onUnit, hp, h r e, decide_true, if_true, Bool.not_true, Bool.false_eq_true, if_false]

theorem referenceCandidate_worse {r : Bool × DWord × Half} (e : s.fabric.reference = some r) (h : betterRef (anchored, serial, c) r = false) :
    exec (.referenceCandidate p serial anchored c) s = .next s := by
  show onUnit (decide (p < 8)) _ = _
  simp only [onUnit, hp, e, h, decide_true, if_true, Bool.not_false]

end candidates

/-! ## Link records (R343, R365) -/

/-- The fabric with a record of coordinate c. -/
def Fabric.withRecord (f : Fabric) (c : Half) (r : LinkRec) : Fabric :=
  { f with records := sput (fun _ => none) f.records c.toNat (some r) }

theorem record_withRecord_same (f : Fabric) (c : Half) (r : LinkRec) : (f.withRecord c r).record c.toNat = some r :=
  sget_sput_same (fun _ => none) f.records c.toNat (some r)

theorem record_withRecord_other (f : Fabric) (c : Half) (r : LinkRec) {d : Nat} (h : d ≠ c.toNat) :
    (f.withRecord c r).record d = f.record d :=
  sget_sput_other (fun _ => none) f.records (some r) h

/-- A map change takes over the link records. -/
theorem record_mapChange (s : State) (f : Fabric) (d : Nat) : (s.mapChange f).fabric.record d = f.record d := by
  rw [mapChange_fabric]
  rfl

section records

variable {c : Half} {v : Word} {ends : List LinkEnd} (hp : p < 8) (other : s.fabric.coord ≠ some c)
include hp other

theorem exec_linkRecord_newer (h : ∀ r, s.fabric.record c.toNat = some r → r.version.toNat < v.toNat) :
    exec (.linkRecord p c v ends) s = .next ((s.mapChange (s.fabric.withRecord c { version := v, ends := ends })).flood (some p) 0x08 0
      (recordBody c v ends)) := by
  show onUnit (decide (p < 8)) _ = _
  cases e : s.fabric.record c.toNat with
  | none =>
    simp only [onUnit, hp, other, decide_true, if_true, Bool.not_true, Bool.false_eq_true, if_false]
    rfl
  | some r =>
    simp only [onUnit, hp, other, h r e, decide_true, if_true, Bool.not_true, Bool.false_eq_true, if_false]
    rfl

theorem linkRecord_newer (h : ∀ r, s.fabric.record c.toNat = some r → r.version.toNat < v.toNat) :
    ∃ t, exec (.linkRecord p c v ends) s = .next t ∧ s.sameWork t ∧ t.fabric.record c.toNat = some { version := v, ends := ends } ∧
      (∀ d, d ≠ c.toNat → t.fabric.record d = s.fabric.record d) := by
  have map := mapChange_maps s (s.fabric.withRecord c { version := v, ends := ends })
  have told := flood_tells (s.mapChange (s.fabric.withRecord c { version := v, ends := ends })) (some p) 0x08 0 (recordBody c v ends)
  refine ⟨_, exec_linkRecord_newer hp other h, sameWork_of_fabric (map.trans (.of_tells told)).sameWork, ?_, fun d hd => ?_⟩
  · rw [told.fabric, record_mapChange, record_withRecord_same]
  · rw [told.fabric, record_mapChange, record_withRecord_other _ _ _ hd]

theorem exec_linkRecord_older {r : LinkRec} (e : s.fabric.record c.toNat = some r) (h : v.toNat ≤ r.version.toNat) :
    exec (.linkRecord p c v ends) s = .next s := by
  show onUnit (decide (p < 8)) _ = _
  simp only [onUnit, hp, other, e, Nat.not_lt.2 h, decide_true, decide_false, if_true, if_false, Bool.not_false]

end records

/-! ## The end of discovery (R362, R363, R366, R380) -/

theorem settleExtents_of_some (h : s.fabric.extents.isSome = true) : s.settleExtents = s := by
  obtain ⟨e, he⟩ := Option.isSome_iff_exists.1 h
  simp [State.settleExtents, he]

/-- The device is the reference: no candidate is better than itself. -/
def State.isReference (s : State) : Prop := ∀ r, s.fabric.reference = some r → r.2.1 = s.ident.serial

theorem takeCoord_maps (s : State) (c : Half) : State.maps { s with fabric := { s.fabric with coord := some c } } (s.takeCoord c) :=
  (State.maps.of_tells (tellIdentity_tells _)).trans (ownRecord_maps _)

section ends

variable {n : DWord} (going : s.fabric.discovering = true) (changed : s.fabric.changed = some n) (sized : s.fabric.extents.isSome = true)
include going changed sized

theorem discoveryEnd_takes (hc : s.fabric.coord = none) (hr : s.isReference) :
    ∃ t, exec .discoveryEnd s = .next t ∧ t.fabric.coord = some (s.fabric.anchorUsed.getD 0) ∧ t.mem = s.mem ∧ t.lcores = s.lcores := by
  have time := until_passes s (n.toNat + 25000)
  have sized' : (s.until (n.toNat + 25000)).settleExtents = s.until (n.toNat + 25000) := settleExtents_of_some (by rw [time.fabric, sized])
  have took := takeCoord_maps (s.until (n.toNat + 25000)) (s.fabric.anchorUsed.getD 0)
  refine ⟨_, ?_, took.coord, took.mem.trans time.mem, took.lcores.trans time.lcores⟩
  show Host.Outcome.next _ = _
  cases e : s.fabric.reference with
  | none =>
    simp only [going, changed, sized', time.fabric, time.ident, hc, sized, e, Option.isNone_none, Bool.and_self, if_true]
  | some r =>
    simp only [going, changed, sized', time.fabric, time.ident, hc, sized, e, hr r e, Option.isNone_none, decide_true, Bool.and_self, if_true]

theorem discoveryEnd_ends (hc : s.fabric.coord.isSome = true) :
    ∃ t, exec .discoveryEnd s = .next t ∧ t.fabric = { s.fabric with discovering := false } ∧ t.mem = s.mem ∧ t.lcores = s.lcores ∧
      t.ports = s.ports := by
  have time := until_passes s (n.toNat + 25000)
  have sized' : (s.until (n.toNat + 25000)).settleExtents = s.until (n.toNat + 25000) := settleExtents_of_some (by rw [time.fabric, sized])
  have owned : s.fabric.coord.isNone = false := by rw [Option.isNone_eq_false_iff, hc]
  refine ⟨State.retime { s.until (n.toNat + 25000) with fabric := { s.fabric with discovering := false } }, ?_, ?_⟩
  · show Host.Outcome.next _ = _
    simp only [going, changed, sized', time.fabric, owned, Bool.false_and, Bool.false_eq_true, if_false]
  · rw [retime_eq]
    exact ⟨rfl, time.mem, time.lcores, time.ports⟩

end ends

/-- Settles O37. What a device tells when it takes a coordinate, and that the reference device takes it at its first end of discovery, is
log 39. -/
theorem discoverySpreadsCoordinatesAndRecords : Obligations.DiscoverySpreadsCoordinatesAndRecords := by
  refine ⟨fun s p serial st port held anchored c a shape hp up => ⟨?_, fun h => identity_miscabled serial st port anchored c a shape hp up held h⟩,
    fun s p serial anchored c hp => ⟨referenceCandidate_better hp, fun r => referenceCandidate_worse hp⟩,
    fun s p c v ends hp other => ⟨linkRecord_newer hp other, fun r => exec_linkRecord_older hp other⟩,
    fun s n going changed sized => ⟨discoveryEnd_takes going changed sized, discoveryEnd_ends going changed sized⟩⟩
  rintro h hc rfl hn
  exact identity_noted serial st port anchored c a shape hp up h hc hn

end Sys2Proof.Machine
end

section
/-! PROOFS. Departure, leave notices, unanswered packets, and the resumption after a route change (R371, R373, R374, R379, R386). -/

namespace Sys2Proof.Machine

variable {s t : State}

/-! ## Departure (R379) -/

theorem departureOrder_departs {c : Half} (m : Nat) (hc : s.fabric.coord = some c) (hl : s.fabric.leaving = none) :
    ∃ t, exec (.departureOrder m) s = .next t ∧ s.sameWork t ∧ t.clock = s.clock ∧ t.fabric = { s.fabric with
      leaving := some (s.clock.tick + 2500000), leaves := s.fabric.leaves ++ [c] } := by
  have told := flood_tells { s with fabric := { s.fabric with leaving := some (s.clock.tick + 2500000), leaves := s.fabric.leaves ++ [c] } }
    none 0x09 0 (leaveBody c (s.clock.tick + 2500000))
  refine ⟨_, ?_, sameWork_of_fabric told.sameWork, told.clock, told.fabric⟩
  show Host.Outcome.next s.depart = _
  simp only [State.depart, hc, hl]
  rfl

/-! ## Leave notices (R343, R379) -/

/-- The version of the record of coordinate c, 0 when none is known. -/
def Fabric.versionOf (f : Fabric) (c : Half) : Word := ((f.record c.toNat).map LinkRec.version).getD 0

/-- The fabric once the device at coordinate c has left: its record keeps its version and shows no link (log 39). -/
def Fabric.without (f : Fabric) (c : Half) : Fabric :=
  { f with leaves := f.leaves ++ [c] }.withRecord c { version := f.versionOf c, ends := [] }

theorem exec_leaveNotice {p : Nat} {c : Half} (tick : DWord) (hp : p < 8) (h : s.fabric.leaves.contains c = false) :
    exec (.leaveNotice p c tick) s = .next ((s.mapChange (s.fabric.without c)).flood (some p) 0x09 0 (leaveBody c tick)) := by
  show onUnit (decide (p < 8)) _ = _
  simp only [onUnit, hp, h, decide_true, if_true, Bool.false_eq_true, if_false, Fabric.without, Fabric.versionOf]
  cases s.fabric.record c.toNat <;> rfl

theorem leaveNotice_removes {p : Nat} {c : Half} (tick : DWord) (hp : p < 8) (h : s.fabric.leaves.contains c = false) :
    ∃ t r, exec (.leaveNotice p c tick) s = .next t ∧ s.sameWork t ∧ t.fabric.record c.toNat = some r ∧ r.ends = [] ∧
      c ∈ t.fabric.leaves ∧ (∀ d, d ≠ c.toNat → t.fabric.record d = s.fabric.record d) := by
  have map := mapChange_maps s (s.fabric.without c)
  have told := flood_tells (s.mapChange (s.fabric.without c)) (some p) 0x09 0 (leaveBody c tick)
  refine ⟨_, { version := s.fabric.versionOf c, ends := [] }, exec_leaveNotice tick hp h, sameWork_of_fabric (map.trans (.of_tells told)).sameWork, ?_, rfl, ?_,
    fun d hd => ?_⟩
  · rw [told.fabric, record_mapChange]
    exact record_withRecord_same ..
  · rw [told.fabric, mapChange_fabric]
    exact List.mem_append_right _ (List.mem_singleton_self c)
  · rw [told.fabric, record_mapChange]
    exact record_withRecord_other _ _ _ hd

/-! ## Ports go idle (R374, R379) -/

/-- A port without a link and with nothing to retry. -/
def Port.idle (x : Port) : Prop := x.state = 0 ∧ x.retry = []

theorem portIdle_idle (s : State) (p : Nat) : ((s.portIdle p).port p).idle := by
  have port : (s.portIdle p).port p = { s.port p with
      state := 0, retry := [], resend := [], nakking := false, naks := 0, txNext := none, rxNext := none, rxSwap := none, txSwap := none } :=
    (bump64_at_port ..).trans (port_setPort_same ..)
  rw [port]
  exact ⟨rfl, rfl⟩

theorem portIdle_other (s : State) {p q : Nat} (h : q ≠ p) : (s.portIdle p).port q = s.port q :=
  (bump64_at_port ..).trans (port_setPort_other _ _ _ _ h)

theorem foldl_portIdle (l : List Nat) (s : State) {p : Nat} (h : p ∈ l ∨ (s.port p).idle) : ((l.foldl State.portIdle s).port p).idle := by
  induction l generalizing s with
  | nil => exact h.resolve_left List.not_mem_nil
  | cons q l ih =>
    rw [List.foldl_cons]
    refine ih (s.portIdle q) ?_
    by_cases e : p = q
    · subst e
      exact .inr (portIdle_idle s p)
    · rw [portIdle_other s e]
      exact h.imp_left fun hp => (List.mem_cons.1 hp).resolve_left e

/-- The state once every port in service has gone idle. -/
def State.portsIdle (s : State) : State := ((upto 8).filter (fun p => (s.port p).inService)).foldl State.portIdle s

theorem portsIdle_mem (s : State) : s.portsIdle.mem = s.mem := foldl_frame State.mem State.portIdle (fun _ _ => bump64_mem ..) _ s
theorem portsIdle_lcores (s : State) : s.portsIdle.lcores = s.lcores := foldl_frame State.lcores State.portIdle (fun _ _ => bump64_lcores ..) _ s
theorem portsIdle_errors (s : State) : s.portsIdle.errors = s.errors := foldl_frame State.errors State.portIdle (fun _ _ => bump64_errors ..) _ s

/-- A departing device without ports in service has left. -/
def State.departed (s : State) : State := { s with fabric := { s.fabric with leaving := none } }

theorem portsIdle_idle {p : Nat} (hp : p < 8) (up : (s.port p).inService = true) : (s.portsIdle.port p).idle :=
  foldl_portIdle _ s (.inl (List.mem_filter.2 ⟨List.mem_range.2 hp, up⟩))

theorem departurePortsIdle_idles {tick : DWord} (h : s.fabric.leaving = some tick) :
    ∃ t, exec .departurePortsIdle s = .next t ∧ t.fabric.leaving = none ∧ t.mem = s.mem ∧ t.lcores = s.lcores ∧ t.errors = s.errors ∧
      (∀ p, p < 8 → (s.port p).inService = true → (t.port p).state = 0 ∧ (t.port p).retry = []) := by
  have time := until_passes s tick.toNat
  have told := ownRecord_maps (s.until tick.toNat).portsIdle.departed
  refine ⟨(s.until tick.toNat).portsIdle.departed.ownRecord, ?_, told.leaving, ?_, ?_, ?_, fun p hp up => ?_⟩
  · show Host.Outcome.next _ = _
    simp only [h]
    rfl
  · exact told.mem.trans ((portsIdle_mem _).trans time.mem)
  · exact told.lcores.trans ((portsIdle_lcores _).trans time.lcores)
  · exact told.errors.trans ((portsIdle_errors _).trans (until_errors ..))
  · have idle : ((s.until tick.toNat).portsIdle.port p).idle := portsIdle_idle hp (by rwa [port_congr time.ports p])
    obtain ⟨more, port⟩ := told.ports p
    rw [port]
    exact idle

/-! ## Unanswered packets (R373) -/

/-- Nothing waits for destination d any more (log 82). -/
def State.forget (s : State) (d : Half) : State :=
  { s with fabric := { s.fabric with
      unanswered := s.fabric.unanswered.filter (fun v => v.dest ≠ d)
      purposes := s.fabric.purposes.filter (fun q => q.1 ≠ d) } }

/-- The record of a packet without an answer that belongs to no job. -/
def State.recordUnanswered (s : State) (u : Unanswered) : State :=
  s.addError 0x0021 0 (unitField 0 0 s.coord.toNat) noJob u.ptype noStep (BitVec.ofNat 64 u.dest.toNat) (BitVec.ofNat 64 u.tag.toNat)

/-- Such a record leaves the work and the clock. -/
theorem recordUnanswered_forget (s : State) (u : Unanswered) (d : Half) :
    ((s.recordUnanswered u).forget d).mem = s.mem ∧ ((s.recordUnanswered u).forget d).lcores = s.lcores ∧
      ((s.recordUnanswered u).forget d).clock = s.clock ∧ s.entered ((s.recordUnanswered u).forget d) 0x0021 0
        (unitField 0 0 s.coord.toNat) (BitVec.ofNat 64 u.dest.toNat) (BitVec.ofNat 64 u.tag.toNat) :=
  ⟨addError_mem .., addError_lcores .., addError_clock .., addError_entered ..⟩

theorem exec_packetUnanswered {u : Unanswered} (hj : u.job = false)
    (hu : s.fabric.unanswered.find? (fun v => v.dest = u.dest && v.tag = u.tag) = some u) :
    exec (.packetUnanswered u.dest u.tag) s = .next (((s.until (u.tick.toNat + 250000)).recordUnanswered u).forget u.dest) := by
  show Host.Outcome.next _ = _
  simp only [hu, hj, Bool.false_eq_true, if_false]
  rfl

theorem packetUnanswered_recorded {u : Unanswered} (hj : u.job = false)
    (hu : s.fabric.unanswered.find? (fun v => v.dest = u.dest && v.tag = u.tag) = some u) :
    ∃ t, exec (.packetUnanswered u.dest u.tag) s = .next t ∧ t.mem = s.mem ∧ t.lcores = s.lcores ∧
      s.entered t 0x0021 0 (unitField 0 0 s.coord.toNat) (BitVec.ofNat 64 u.dest.toNat) (BitVec.ofNat 64 u.tag.toNat) ∧
      (∀ v ∈ t.fabric.unanswered, v.dest ≠ u.dest) ∧ t.clock = (s.until (u.tick.toNat + 250000)).clock := by
  have time := until_passes s (u.tick.toNat + 250000)
  have coord : (s.until (u.tick.toNat + 250000)).coord = s.coord := by rw [State.coord, time.fabric, State.coord]
  obtain ⟨mem, lcores, clock, entered⟩ := recordUnanswered_forget (s.until (u.tick.toNat + 250000)) u u.dest
  refine ⟨_, exec_packetUnanswered hj hu, mem.trans time.mem, lcores.trans time.lcores, ?_, fun v hv => ?_, clock⟩
  · rwa [State.entered, until_errors, coord] at entered
  · simpa using (List.mem_filter.1 hv).2

/-! ## The resumption after a route change (R371) -/

theorem exec_routeChangeResume {dest : Half} (h : s.fabric.holds.contains dest = true) (hu : ∀ u ∈ s.fabric.unanswered, u.dest ≠ dest) :
    exec (.routeChangeResume dest) s = .next { s with fabric := { s.fabric with
      holds := s.fabric.holds.filter (fun d => d ≠ dest)
      tx := s.fabric.tx.map (fun p => if p.dest = dest then s.reroute p else p) } } := by
  have answered : s.fabric.unanswered.any (fun u => u.dest = dest && !(s.fabric.tx.any (fun p => p.dest = dest && p.tag = u.tag))) = false :=
    List.any_eq_false.2 fun u hmem => by simp [hu u hmem]
  show Host.Outcome.next _ = _
  simp only [h, answered, Bool.not_true, Bool.or_self, Bool.false_eq_true, if_false]

/-- Settles O38. A leave notice keeps an empty record (log 39), and an unanswered packet drops every note to its destination (log 82). -/
theorem devicesLeaveAndRoutesResume : Obligations.DevicesLeaveAndRoutesResume :=
  ⟨fun _ m _ hc hl => departureOrder_departs m hc hl, fun _ _ _ tick hp h => leaveNotice_removes tick hp h,
    fun _ _ h => departurePortsIdle_idles h, fun _ _ _ hj hu => packetUnanswered_recorded hj hu,
    fun _ _ h hu => exec_routeChangeResume h hu⟩

end Sys2Proof.Machine
end

section
/-! PROOFS. The global counter and its inputs: timestamps, the correction of the tick edge, REFCLK and EPOCH (R380 to R383, R635 to R637). -/

namespace Sys2Proof.Machine

variable {s : State}

/-! ## A command that is given a while after an earlier event (log 14) -/

/-- The state k ticks after the tick that is noted, and now when none is. -/
def State.after (s : State) (noted : Option DWord) (k : Nat) : State := noted.elim s (fun n => s.until (n.toNat + k))

theorem after_none (s : State) (k : Nat) : s.after none k = s := rfl
theorem after_some (s : State) (n : DWord) (k : Nat) : s.after (some n) k = s.until (n.toNat + k) := rfl

theorem after_passes (s : State) (noted : Option DWord) (k : Nat) : s.passes (s.after noted k) := by
  cases noted with
  | none => rfl
  | some n => exact until_passes ..

theorem after_goesOn (s : State) (noted : Option DWord) (k : Nat) : s.clock.goesOn (s.after noted k).clock := by
  cases noted with
  | none => rfl
  | some n => exact until_goesOn ..

/-! ## Timestamps (R381) -/

/-- The state in which a request to the time parent is under way. -/
def State.asks (s : State) : State :=
  { s with clock := { s.clock with asked := some (BitVec.ofNat 64 s.stamp), askedAt := some s.clock.tick } }

theorem exec_timestampExchange (hp : s.clock.parent ≠ 0xFF) : exec .timestampExchange s =
    .next ((s.after s.clock.askedAt 65536).asks.linkSend (s.after s.clock.askedAt 65536).clock.parent 0x06 (BitVec.ofNat 64 (2 ^ 62))
      (stampBody (s.after s.clock.askedAt 65536).stamp 0 0)) := by
  show Host.Outcome.next _ = _
  rw [if_neg hp]
  cases s.clock.askedAt with
  | none => rw [after_none]; rfl
  | some n => rw [after_some]; rfl

theorem asks_linkSend (s : State) (p sub : Nat) (arg : DWord) (body : List Byte) :
    (s.asks.linkSend p sub arg body).clock = s.asks.clock ∧ (s.asks.linkSend p sub arg body).mem = s.mem ∧
      ((s.asks.linkSend p sub arg body).port p).control = (s.port p).control ++ [(sub, arg, body)] :=
  ⟨rfl, rfl, congrArg Port.control (linkSend_port s.asks p sub arg body)⟩

theorem timestampExchange_asks (hp : s.clock.parent ≠ 0xFF) :
    ∃ t, exec .timestampExchange s = .next t ∧ t.clock = (s.after s.clock.askedAt 65536).asks.clock ∧ t.mem = s.mem ∧
      (t.port s.clock.parent).control = (s.port s.clock.parent).control ++
        [(0x06, 0x4000000000000000, stampBody (s.after s.clock.askedAt 65536).stamp 0 0)] := by
  have time := after_passes s s.clock.askedAt 65536
  have parent : (s.after s.clock.askedAt 65536).clock.parent = s.clock.parent := by rw [after_goesOn s s.clock.askedAt 65536]
  obtain ⟨clock, mem, control⟩ := asks_linkSend (s.after s.clock.askedAt 65536) s.clock.parent 0x06 (BitVec.ofNat 64 (2 ^ 62))
    (stampBody (s.after s.clock.askedAt 65536).stamp 0 0)
  refine ⟨_, exec_timestampExchange hp, ?_⟩
  rw [parent]
  rw [port_congr time.ports] at control
  exact ⟨clock, mem.trans time.mem, control⟩

theorem exec_timestampRequest {p : Nat} (t1 : DWord) (hp : p < 8) (up : (s.port p).inService = true) :
    exec (.timestampRequest p t1) s = .next (s.linkSend p 0x06 (BitVec.ofNat 64 (2 ^ 63)) (stampBody t1.toNat s.stamp s.stamp)) := by
  show onUnit (decide (p < 8)) _ = _
  simp only [onUnit, hp, up, decide_true, if_true]

/-! ## The counter is set (R382) -/

/-- The counter set to count n. -/
def State.countAt (s : State) (n : DWord) : State := { s with clock := { s.clock with tick := n } }

section step

variable (s : State) (n : DWord)

theorem stepCounter_same (h : n = s.clock.tick) : s.stepCounter n = s := if_pos h

/-- The counter takes another count: an alarm rises, and an armed slot has the step recorded. -/
theorem stepCounter_other (h : n ≠ s.clock.tick) : s.stepCounter n = if s.anyArmed then ((s.countAt n).alarm 0x0410 0x05 1).addError 0x0023 0
    (unitField 0 0 s.coord.toNat) noJob 0 noStep s.clock.tick n else (s.countAt n).alarm 0x0410 0x05 1 := by
  have armed : ((s.countAt n).alarm 0x0410 0x05 1).anyArmed = s.anyArmed := by rw [State.anyArmed, alarm_slots]; rfl
  rw [State.stepCounter, if_neg h, ← armed]
  rfl

theorem stepCounter_clock : (s.stepCounter n).clock = { s.clock with tick := n } := by
  by_cases h : n = s.clock.tick
  · rw [stepCounter_same s n h, h]
  · rw [stepCounter_other s n h]
    split
    · exact (addError_clock ..).trans (alarm_clock ..)
    · exact alarm_clock ..

theorem stepCounter_sameWork : s.sameWork (s.stepCounter n) := by
  by_cases h : n = s.clock.tick
  · rw [stepCounter_same s n h]
    exact ⟨rfl, rfl, rfl, rfl, rfl, rfl, rfl⟩
  · have alarmed : s.sameWork ((s.countAt n).alarm 0x0410 0x05 1) := by simp [State.sameWork, State.countAt]
    rw [stepCounter_other s n h]
    split
    · exact addError_sameWork alarmed ..
    · exact alarmed

theorem stepCounter_errors (ha : s.anyArmed = false) : (s.stepCounter n).errors = s.errors := by
  by_cases h : n = s.clock.tick
  · rw [stepCounter_same s n h]
  · rw [stepCounter_other s n h, ha]
    exact alarm_errors ..

theorem stepCounter_entered (ha : s.anyArmed = true) (h : n ≠ s.clock.tick) :
    s.entered (s.stepCounter n) 0x0023 0 (unitField 0 0 s.coord.toNat) s.clock.tick n := by
  have errors : ((s.countAt n).alarm 0x0410 0x05 1).errors = s.errors := alarm_errors ..
  rw [stepCounter_other s n h, ha, if_pos rfl, State.entered, ← errors]
  exact addError_entered ..

end step

/-! ## Replies (R380 to R382) -/

/-- The tick that a first reply with offset d sets. -/
def State.syncTick (s : State) (d : Int) : DWord := BitVec.ofInt 64 ((s.stamp + d) / 64)

/-- The state once the first reply has synchronised it, with offset d. -/
def State.synchronised (s : State) (d : Int) : State :=
  { s.stepCounter (s.syncTick d) with clock := { (s.stepCounter (s.syncTick d)).clock with
      asked := none, theta := d, left := d - 64 * ((s.stamp + d) / 64 - s.clock.tick.toNat), exchanged := true, synced := true, mode := 2
      askedAt := some (s.stepCounter (s.syncTick d)).clock.tick } }

section replies

variable {p : Nat} {t1 : DWord} (t2 t3 : DWord) (hp : p < 8) (parent : s.clock.parent = p) (asked : s.clock.asked = some t1)
include hp parent asked

theorem exec_timestampReply_later (h : s.clock.exchanged = true) : exec (.timestampReply p t1 t2 t3) s = .next { s with clock := { s.clock with
    asked := none
    theta := theta t1.toNat t2.toNat t3.toNat s.stamp
    left := theta t1.toNat t2.toNat t3.toNat s.stamp
    mode := 2 } } := by
  show onUnit (decide (p < 8)) _ = _
  simp only [onUnit, hp, parent, asked, h, decide_true, decide_false, ne_eq, not_true_eq_false, Bool.or_self, Bool.false_eq_true, if_true, if_false]

theorem exec_timestampReply_first (h : s.clock.exchanged = false) :
    exec (.timestampReply p t1 t2 t3) s = .next (s.synchronised (theta t1.toNat t2.toNat t3.toNat s.stamp)) := by
  show onUnit (decide (p < 8)) _ = _
  simp only [onUnit, hp, parent, asked, h, decide_true, decide_false, ne_eq, not_true_eq_false, Bool.or_self, Bool.false_eq_true, if_true, if_false]
  rfl

end replies

theorem synchronised_counts (s : State) (d : Int) : s.sameWork (s.synchronised d) ∧ (s.synchronised d).clock.tick = BitVec.ofInt 64 ((s.stamp + d) / 64) ∧
    (s.synchronised d).clock.theta = d ∧ (s.synchronised d).clock.synced = true ∧ (s.synchronised d).clock.mode = 2 ∧
    (s.anyArmed = false → (s.synchronised d).errors = s.errors) ∧
    (s.anyArmed = true → (s.synchronised d).clock.tick ≠ s.clock.tick →
      s.entered (s.synchronised d) 0x0023 0 (unitField 0 0 s.coord.toNat) s.clock.tick (s.synchronised d).clock.tick) := by
  have tick : (s.synchronised d).clock.tick = s.syncTick d := congrArg Clock.tick (stepCounter_clock s (s.syncTick d))
  refine ⟨stepCounter_sameWork s (s.syncTick d), tick, rfl, rfl, rfl, stepCounter_errors s (s.syncTick d), fun ha h => ?_⟩
  rw [tick] at h ⊢
  exact stepCounter_entered s (s.syncTick d) ha h

/-! ## The tick edge (R382) -/

/-- The step of a correction of offset d: 1/64 tick toward 0. -/
def edgeStep (d : Int) : Int := if 0 < d then 1 else -1

/-- The state with its tick edge corrected by one step. -/
def State.stepEdge (s : State) : State :=
  { s with clock := { s.clock with
      edge := s.clock.edge - edgeStep s.clock.left, left := s.clock.left - edgeStep s.clock.left, corrected := some s.clock.tick } }

theorem natAbs_sub_edgeStep {d : Int} (h : d ≠ 0) : (d - edgeStep d).natAbs + 1 = d.natAbs := by
  unfold edgeStep
  split <;> omega

theorem stepEdge_corrects (s : State) (h : s.clock.left ≠ 0) :
    s.stepEdge.clock.edge = s.clock.edge - edgeStep s.clock.left ∧ s.stepEdge.clock.left = s.clock.left - edgeStep s.clock.left ∧
      s.stepEdge.clock.left.natAbs + 1 = s.clock.left.natAbs ∧ s.stepEdge.clock.corrected = some s.stepEdge.clock.tick :=
  ⟨rfl, rfl, natAbs_sub_edgeStep h, rfl⟩

theorem exec_tickEdgeCorrection (h : s.clock.left ≠ 0) : exec .tickEdgeCorrection s = .next (s.after s.clock.corrected 4096).stepEdge := by
  show Host.Outcome.next _ = _
  rw [if_neg h]
  cases s.clock.corrected with
  | none => rw [after_none]; rfl
  | some n => rw [after_some]; rfl

theorem tickEdgeCorrection_steps (h : s.clock.left ≠ 0) : ∃ t, exec .tickEdgeCorrection s = .next t ∧ t.mem = s.mem ∧ t.lcores = s.lcores ∧
    t.clock.edge = s.clock.edge - edgeStep s.clock.left ∧ t.clock.left = s.clock.left - edgeStep s.clock.left ∧
    t.clock.left.natAbs + 1 = s.clock.left.natAbs ∧ t.clock.corrected = some t.clock.tick := by
  have time := after_passes s s.clock.corrected 4096
  have clock := after_goesOn s s.clock.corrected 4096
  have edge : (s.after s.clock.corrected 4096).clock.edge = s.clock.edge := by rw [clock]
  have left : (s.after s.clock.corrected 4096).clock.left = s.clock.left := by rw [clock]
  have step := stepEdge_corrects (s.after s.clock.corrected 4096) (by rwa [left])
  rw [edge, left] at step
  exact ⟨_, exec_tickEdgeCorrection h, time.mem, time.lcores, step⟩

/-! ## Records of the time inputs (R635, R636) -/

/-- An alarm and a record leave the work and the clock, and the record is the newest one. -/
theorem alarm_addError_entered (s : State) (idx sub i kind : Nat) (unit job : Word) (op : Nat) (step d0 d1 : DWord) :
    ((s.alarm idx sub i).addError kind 0 unit job op step d0 d1).mem = s.mem ∧
    ((s.alarm idx sub i).addError kind 0 unit job op step d0 d1).lcores = s.lcores ∧
    ((s.alarm idx sub i).addError kind 0 unit job op step d0 d1).clock = s.clock ∧
    s.entered ((s.alarm idx sub i).addError kind 0 unit job op step d0 d1) kind 0 unit d0 d1 := by
  refine ⟨(addError_mem ..).trans (alarm_mem ..), (addError_lcores ..).trans (alarm_lcores ..), (addError_clock ..).trans (alarm_clock ..), ?_⟩
  rw [State.entered, ← alarm_errors s idx sub i]
  exact addError_entered ..

/-- The clock runs on the crystal. -/
def State.onCrystal (s : State) : State := { s with clock := { s.clock with refclk := false, crystal := true } }

theorem exec_refclkLoss (h : s.clock.refclk = true) : exec .refclkLoss s =
    .next ((s.nextEdge.onCrystal.alarm 0x0440 0x05 0).addError 0x0300 0 mgmt noJob 0 noStep s.nextEdge.onCrystal.clock.tick 0) := by
  show Host.Outcome.next _ = _
  rw [h]
  rfl

theorem refclkLoss_recorded (h : s.clock.refclk = true) : ∃ t, exec .refclkLoss s = .next t ∧ t.mem = s.mem ∧ t.lcores = s.lcores ∧
    t.clock = { s.nextEdge.clock with refclk := false, crystal := true } ∧ s.entered t 0x0300 0 mgmt t.clock.tick 0 := by
  have time := until_passes s (s.clock.tick.toNat + 1)
  obtain ⟨mem, lcores, clock, entered⟩ := alarm_addError_entered s.nextEdge.onCrystal 0x0440 0x05 0 0x0300 mgmt noJob 0 noStep
    s.nextEdge.onCrystal.clock.tick 0
  refine ⟨_, exec_refclkLoss h, mem.trans time.mem, lcores.trans time.lcores, clock, ?_⟩
  have errors : s.nextEdge.onCrystal.errors = s.errors := until_errors ..
  rw [clock]
  rwa [State.entered, errors] at entered

/-- Holdover has begun. -/
def State.heldOver (s : State) : State :=
  { s with clock := { s.clock with holdover := true, spaced := 0, mode := if s.clock.mode = 2 then 2 else 3 } }

theorem holdOver_begins (why interval : Nat) (h : s.clock.holdover = false) : s.holdOver why interval =
    (s.heldOver.alarm 0x0440 0x05 1).addError 0x0301 0 mgmt noJob why noStep (BitVec.ofNat 64 interval) 0 := by
  rw [State.holdOver, h]
  rfl

/-- Where holdover begins, the work stays, and the record is the newest one. -/
theorem holdOver_recorded (s : State) (why interval : Nat) (h : s.clock.holdover = false) :
    (s.holdOver why interval).mem = s.mem ∧ (s.holdOver why interval).lcores = s.lcores ∧ (s.holdOver why interval).clock.holdover = true ∧
      (s.holdOver why interval).clock.tick = s.clock.tick ∧ s.entered (s.holdOver why interval) 0x0301 0 mgmt (BitVec.ofNat 64 interval) 0 := by
  obtain ⟨mem, lcores, clock, entered⟩ := alarm_addError_entered s.heldOver 0x0440 0x05 1 0x0301 mgmt noJob why noStep (BitVec.ofNat 64 interval) 0
  rw [holdOver_begins _ _ h]
  exact ⟨mem, lcores, congrArg Clock.holdover clock, (congrArg Clock.tick clock : _ = s.heldOver.clock.tick), entered⟩

theorem exec_epochAbsent (ha : s.power.alive = true) (h : s.clock.holdover = false) : exec .epochAbsent s =
    .next ((s.until ((s.clock.epochHeard.getD 0).toNat + 50000000)).holdOver 2 s.clock.epochInterval.toNat) := by
  show Host.Outcome.next _ = _
  simp only [ha, h, Bool.not_true, Bool.or_self, Bool.false_eq_true, if_false]

theorem epochAbsent_recorded (ha : s.power.alive = true) (h : s.clock.holdover = false) :
    ∃ t, exec .epochAbsent s = .next t ∧ t.mem = s.mem ∧ t.lcores = s.lcores ∧ t.clock.holdover = true ∧
      t.clock.tick = (s.until ((s.clock.epochHeard.getD 0).toNat + 50000000)).clock.tick ∧
      s.entered t 0x0301 0 mgmt (BitVec.ofNat 64 s.clock.epochInterval.toNat) 0 := by
  have time := until_passes s ((s.clock.epochHeard.getD 0).toNat + 50000000)
  have holdover : (s.until ((s.clock.epochHeard.getD 0).toNat + 50000000)).clock.holdover = false := by rw [until_goesOn s, h]
  obtain ⟨mem, lcores, held, tick, entered⟩ := holdOver_recorded _ 2 s.clock.epochInterval.toNat holdover
  rw [State.entered, until_errors] at entered
  exact ⟨_, exec_epochAbsent ha h, mem.trans time.mem, lcores.trans time.lcores, held, tick, entered⟩

/-! ## EPOCH edges (R383) -/

/-- An EPOCH edge is heard now. -/
def State.hearsEpoch (s : State) : State := { s with clock := { s.clock with epochHeard := some s.clock.tick } }

theorem useEpoch_aligns {phase : Int} (hr : s.clock.refclk = true) (hp : s.clock.parent = 0xFF) (near : (s.epochOff phase).natAbs ≤ 16) :
    s.useEpoch phase = { s with clock := { s.clock with mode := 1, left := - s.epochOff phase } } := by
  simp only [State.useEpoch, hr, hp, Nat.not_lt.2 near, Bool.not_true, Bool.false_eq_true, if_false, if_true]

theorem exec_epochEdge_first {phase : Int} (ha : s.power.alive = true) (ho : s.clock.holdover = false) (hh : s.clock.epochHeard = none) :
    exec (.epochEdge phase) s = .next (s.hearsEpoch.useEpoch phase) := by
  show Host.Outcome.next _ = _
  rw [ha, hh]
  exact congrArg Host.Outcome.next ((if_neg (by decide)).trans (if_neg (by rw [ho]; decide)))

theorem exec_epochEdge_aligns {phase : Int} (ha : s.power.alive = true) (ho : s.clock.holdover = false) (hh : s.clock.epochHeard = none)
    (hr : s.clock.refclk = true) (hp : s.clock.parent = 0xFF) (near : (s.epochOff phase).natAbs ≤ 16) :
    exec (.epochEdge phase) s = .next { s with clock := { s.clock with
      epochHeard := some s.clock.tick, mode := 1, left := 0 - s.epochOff phase } } := by
  rw [exec_epochEdge_first ha ho hh, useEpoch_aligns (s := s.hearsEpoch) hr hp near, Int.zero_sub]
  rfl

/-- Settles O39. The offset theta is rounded down, a device answers with its own count twice, and theta stays in its register (log 81). -/
theorem counterFollowsItsParent : Obligations.CounterFollowsItsParent := by
  refine ⟨?_, fun s p t1 hp up => ?_, ?_, fun s h => tickEdgeCorrection_steps h, fun s h => refclkLoss_recorded h,
    fun s ha h => epochAbsent_recorded ha h, fun s phase ha ho hh hr hp near => exec_epochEdge_aligns ha ho hh hr hp near⟩
  · rintro s u hp rfl
    exact timestampExchange_asks hp
  · refine ⟨_, exec_timestampRequest t1 hp up, (linkSend_tells ..).sameWork, rfl, ?_⟩
    rw [linkSend_port]
    rfl
  · rintro s p t1 t2 t3 d hp parent asked rfl
    refine ⟨fun h => ⟨_, exec_timestampReply_later t2 t3 hp parent asked h, ⟨rfl, rfl, rfl, rfl, rfl, rfl, rfl⟩, rfl⟩, fun h => ?_⟩
    exact ⟨_, exec_timestampReply_first t2 t3 hp parent asked h, synchronised_counts ..⟩

end Sys2Proof.Machine
end

section
/-! PROOFS. Test packages: staging by one master, the checks, installation, and slices from a neighbour (R342, R343, R484 to R486). -/

namespace Sys2Proof.Machine

variable {s t u : State} {m : Nat}

/-! ## Orders to the objects of the always-on domain (R542, R587) -/

/-- The two masters that reach every index are heard at an index that is always served. -/
theorem hears_always {idx : Nat} (hm : m ≤ 1) (ha : s.power.alive = true) (h : alwaysServed idx = true) : s.hears m idx = true :=
  (hears_iff s m idx).2 ⟨by omega, by simp [reaches, hm], by simp [State.serves, h], ha⟩

theorem State.obeyed.radish {op idx sub : Nat} (h : u.obeyed t m op idx sub) : t.radish = u.radish := by rw [h.1]

/-! ## A package that takes the place of the one held (R486, R570) -/

/-- Noting the pods changes the pods alone. -/
theorem notePods_eq (s : State) : s.notePods = { s with pods := s.notePods.pods } := by
  refine foldl_keeps (fun t : State => t = { s with pods := t.pods }) _ (fun t p ht => ?_) s.pods s rfl
  rw [ht]
  rfl

/-- The state in which the test manager holds package bs and the pair that ran, if any, has ended. -/
def State.holdsPackage (s : State) (bs : List Byte) : State :=
  { s with radish := { s.radish with
      version := packageVersion bs, tiles := (splitTiles (field bs 0x10 4) (packageBody bs)).1.map tileOf, running := none } }

/-- Installing a package ends the pair that runs, and changes else only what the manager holds and the pods. -/
theorem installPackage_eq (s : State) (bs : List Byte) : s.installPackage bs = { s.holdsPackage bs with
    cores := (s.installPackage bs).cores
    pods := (s.installPackage bs).pods } := by
  unfold State.installPackage
  dsimp only
  rw [notePods_eq]
  split <;> rfl

theorem forwardPackage_tells (s : State) (bs : List Byte) : s.tells (s.forwardPackage bs) := by
  unfold State.forwardPackage
  split
  · exact foldl_tells _ (fun _ _ => flood_tells ..) _ s
  · exact .refl s

/-! ## The checks (R484) -/

/-- The checks rest on the version held, the firmware's keys and the dictionary. -/
theorem packageCheck_congr (hr : t.radish.version = s.radish.version) (hf : t.firmware = s.firmware) (hd : t.dict = s.dict) (bs : List Byte) :
    t.packageCheck bs = s.packageCheck bs := by
  have vendor (k : Nat) : t.vendorKey k = s.vendorKey k := by simp [State.vendorKey, State.reg, hd]
  have good (k : Nat) : t.keyGood k = s.keyGood k := by simp [State.keyGood, hf]
  simp only [State.packageCheck, hr, vendor, good]

/-- A package that is not newer than the one held does not pass. -/
theorem packageCheck_old {bs : List Byte} (h : packageVersion bs ≤ s.radish.version) : (s.packageCheck bs).1 ≠ 2 := by
  unfold State.packageCheck
  dsimp only
  rw [if_pos h]
  split
  · decide
  · split <;> decide

/-! ## Staging (R485) -/

/-- The staging has ended, and object 0x3101 shows a result and a refused tile. -/
def State.shows (s : State) (result : Nat) (tile : Word) : State :=
  { s with radish := { s.radish with staging := none, result := result, refusedTile := tile } }

theorem packageBegin_begins (hm : m ≤ 1) (ha : s.power.alive = true) (h : s.stagingOf m ≠ 8) :
    ∃ t, exec (.packageBegin m) s = .next t ∧ { s with radish := { s.radish with
      staging := some (m, []), result := 1, refusedTile := 0xFFFFFFFF } }.obeyed t m 3 0x3101 1 :=
  ⟨_, onUnit_masterOk (by omega) _, command_obeyed (hears_always hm ha rfl) (if_neg h)⟩

theorem packageBegin_declined (hm : m ≤ 1) (ha : s.power.alive = true) (h : s.stagingOf m = 8) :
    ∃ t, exec (.packageBegin m) s = .next t ∧ s.declined t m 3 0x3101 1 8 :=
  ⟨_, onUnit_masterOk (by omega) _, command_declined (hears_always hm ha rfl) (if_pos h)⟩

/-- What a master without the staging gets for every order but to begin. -/
theorem packageRules_refused (v : Word) (h : s.stagingOf m ≠ 0) : packageAcceptRule m s = (s, s.stagingOf m) ∧
    packageAbortRule m s = (s, s.stagingOf m) ∧ packageDataRule m v s = (s, s.stagingOf m) := by
  unfold packageAcceptRule packageAbortRule packageDataRule State.stagingOf at *
  cases e : s.radish.staging with
  | none => exact ⟨rfl, rfl, rfl⟩
  | some q =>
    have other : q.1 ≠ m := fun own => h (by rw [e]; exact if_pos own)
    dsimp only
    rw [if_pos other, if_pos other, if_pos other, if_neg other]
    exact ⟨rfl, rfl, rfl⟩

theorem package_refused (hm : m ≤ 1) (ha : s.power.alive = true) (h : s.stagingOf m ≠ 0) :
    (∃ t, exec (.packageAccept m) s = .next t ∧ s.declined t m 3 0x3101 1 (s.stagingOf m)) ∧
    (∃ t, exec (.packageAbort m) s = .next t ∧ s.declined t m 3 0x3101 1 (s.stagingOf m)) ∧
    ∀ v, ∃ t, exec (.packageData m v) s = .next t ∧ s.declined t m 3 0x3101 2 (s.stagingOf m) := by
  have heard : s.hears m 0x3101 = true := hears_always hm ha rfl
  refine ⟨?_, ?_, fun v => ?_⟩
  · exact ⟨_, onUnit_masterOk (by omega) _, command_declined heard (packageRules_refused 0 h).1⟩
  · exact ⟨_, onUnit_masterOk (by omega) _, command_declined heard (packageRules_refused 0 h).2.1⟩
  · exact ⟨_, onUnit_masterOk (by omega) _, command_declined heard (packageRules_refused v h).2.2⟩

section staged

variable {bs : List Byte} (hm : m ≤ 1) (ha : s.power.alive = true) (staged : s.radish.staging = some (m, bs))
include hm ha staged

theorem packageData_appended (v : Word) (room : bs.length + 4 ≤ packageLimit) : ∃ t, exec (.packageData m v) s = .next t ∧
    { s with radish := { s.radish with staging := some (m, bs ++ leBytes 4 v.toNat) } }.obeyed t m 3 0x3101 2 := by
  refine ⟨_, onUnit_masterOk (by omega) _, command_obeyed (hears_always hm ha rfl) ?_⟩
  simp only [packageDataRule, staged, ne_eq, not_true_eq_false, if_false, Nat.not_lt.2 room]

theorem packageData_full (v : Word) (full : packageLimit < bs.length + 4) :
    ∃ t, exec (.packageData m v) s = .next t ∧ s.declined t m 3 0x3101 2 5 := by
  refine ⟨_, onUnit_masterOk (by omega) _, command_declined (hears_always hm ha rfl) ?_⟩
  simp only [packageDataRule, staged, ne_eq, not_true_eq_false, if_false, full, if_true]

theorem packageAbort_aborts : ∃ t, exec (.packageAbort m) s = .next t ∧ { s with radish := { s.radish with
    staging := none, result := 0 } }.obeyed t m 3 0x3101 1 := by
  refine ⟨_, onUnit_masterOk (by omega) _, command_obeyed (hears_always hm ha rfl) ?_⟩
  simp only [packageAbortRule, staged, ne_eq, not_true_eq_false, if_false]

theorem packageAccept_failed (h : (s.packageCheck bs).1 ≠ 2) : ∃ t, exec (.packageAccept m) s = .next t ∧ { s with radish := { s.radish with
    staging := none, result := (s.packageCheck bs).1, refusedTile := (s.packageCheck bs).2 } }.obeyed t m 3 0x3101 1 := by
  refine ⟨_, onUnit_masterOk (by omega) _, command_obeyed (hears_always hm ha rfl) ?_⟩
  simp only [packageAcceptRule, staged, ne_eq, not_true_eq_false, if_false, h]

theorem packageAccept_installed (h : (s.packageCheck bs).1 = 2) : ∃ t, exec (.packageAccept m) s = .next t ∧
    t.radish.version = packageVersion bs ∧ t.radish.staging = none ∧ t.radish.result = 2 ∧ t.radish.running = none ∧
    t.radish.tiles = (splitTiles (field bs 0x10 4) (packageBody bs)).1.map tileOf ∧ t.mem = s.mem ∧ t.lcores = s.lcores := by
  have rule : packageAcceptRule m s = ((s.shows 2 (s.packageCheck bs).2).installPackage bs |>.forwardPackage bs, 0) := by
    simp only [packageAcceptRule, staged, ne_eq, not_true_eq_false, if_false, h, if_true]
    rfl
  have told : State.tells _ ((s.shows 2 (s.packageCheck bs).2).installPackage bs |>.forwardPackage bs) := forwardPackage_tells ..
  refine ⟨_, onUnit_masterOk (by omega) _, ?_⟩
  have ob := command_obeyed (idx := 0x3101) (sub := 1) (v := 2) (command := true) (hears_always hm ha rfl) rule
  rw [ob.radish, ob.mem, ob.lcores, told.radish, told.mem, told.lcores, installPackage_eq]
  exact ⟨rfl, rfl, rfl, rfl, rfl, rfl, rfl⟩

end staged

/-! ## Slices from a neighbour (R342, R343, R486) -/

/-- The state that keeps the bytes got of the package of a version, and has no other package under way. -/
def State.receives (s : State) (slices : Option (Nat × Sparse Byte)) : State := { s with fabric := { s.fabric with slices := slices } }

section slices

variable {p length offset : Nat} {bytes : List Byte} (hp : p < 8)
include hp

theorem exec_packageSlice_unwanted (h : s.sliceWanted offset bytes = false) : exec (.packageSlice p length offset bytes) s = .next s := by
  show onUnit (decide (p < 8)) _ = _
  simp [onUnit, hp, h]

variable (up : (s.port p).inService = true) (hl : length ≤ packageLimit) (inside : offset + bytes.length ≤ length) (nonempty : bytes ≠ [])
  (wanted : s.sliceWanted offset bytes = true) {q : Nat × Sparse Byte} {got : Sparse Byte}
  (hq : q = if offset = 0 then (packageVersion bytes, []) else s.fabric.slices.getD (0, [])) (hgot : got = addSlice q.2 offset bytes)
include up hl inside nonempty wanted hq hgot

/-- A wanted slice is kept and passed on; a package that it completes is taken from the slices and, if it passes the checks, installed. -/
theorem exec_packageSlice_wanted : ∃ t, State.tells (s.receives (some (q.1, got))) t ∧ exec (.packageSlice p length offset bytes) s =
    .next (match gatherSlices got length with
      | none => t
      | some bs => if ((t.receives none).packageCheck bs).1 = 2 then (t.receives none).installPackage bs else t.receives none) := by
  refine ⟨if s.forwards then (s.receives (some (q.1, got))).flood (some p) 0x0A (sliceArg length offset) bytes
    else s.receives (some (q.1, got)), ?_, ?_⟩
  · split
    · exact flood_tells ..
    · exact .refl _
  · show onUnit (decide (p < 8)) _ = _
    subst hgot hq
    simp only [onUnit, hp, up, Nat.not_lt.2 hl, Nat.not_lt.2 inside, nonempty, wanted, decide_true, decide_false, Bool.not_true, Bool.or_self,
      Bool.false_eq_true, if_true, if_false]
    rfl

theorem packageSlice_kept (h : gatherSlices got length = none) : ∃ t, exec (.packageSlice p length offset bytes) s = .next t ∧
    t.fabric.slices = some (q.1, got) ∧ t.radish = s.radish ∧ t.mem = s.mem ∧ t.lcores = s.lcores := by
  obtain ⟨t, told, exec⟩ := exec_packageSlice_wanted hp up hl inside nonempty wanted hq hgot
  rw [h] at exec
  exact ⟨t, exec, by rw [told.fabric]; rfl, told.radish, told.mem, told.lcores⟩

theorem packageSlice_completes {bs : List Byte} (h : gatherSlices got length = some bs) :
    ∃ t, exec (.packageSlice p length offset bytes) s = .next t ∧ t.fabric.slices = none ∧ t.mem = s.mem ∧ t.lcores = s.lcores ∧
      ((s.packageCheck bs).1 = 2 → t.radish.version = packageVersion bs) ∧ ((s.packageCheck bs).1 ≠ 2 → t.radish = s.radish) := by
  obtain ⟨t, told, exec⟩ := exec_packageSlice_wanted hp up hl inside nonempty wanted hq hgot
  have radish : (t.receives none).radish = s.radish := told.radish
  have same : (t.receives none).packageCheck bs = s.packageCheck bs := by
    refine packageCheck_congr (congrArg _ radish) ?_ ?_ bs
    · rw [told.1]; rfl
    · rw [told.1]; rfl
  rw [h] at exec
  dsimp only at exec
  rw [same] at exec
  refine ⟨_, exec, ?_⟩
  by_cases good : (s.packageCheck bs).1 = 2
  · rw [if_pos good, installPackage_eq]
    exact ⟨rfl, told.mem, told.lcores, fun _ => rfl, fun bad => absurd good bad⟩
  · rw [if_neg good]
    exact ⟨rfl, told.mem, told.lcores, fun h => absurd h good, fun _ => radish⟩

end slices

end Sys2Proof.Machine
end

section
/-! PROOFS. The calibration set: unlocking, staging and commit (R562, R563). -/

namespace Sys2Proof.Machine

variable {s t u : State} {m : Nat}

theorem State.obeyed.calib {op idx sub : Nat} (h : u.obeyed t m op idx sub) : t.calib = u.calib := by rw [h.1]

/-! ## What may be ordered (R562, R563) -/

theorem calibFor_eq_zero : s.calibFor m = 0 ↔ s.calib.state = 1 ∧ s.calib.master = m := by
  unfold State.calibFor
  split
  · simp_all
  · split <;> simp_all

theorem calibFor_ne_zero_of_ne {n : Nat} (h : s.calib.master = m) (hn : n ≠ m) : s.calibFor n ≠ 0 := fun h0 =>
  hn (h ▸ (calibFor_eq_zero.1 h0).2.symm)

/-- The master that has unlocked the set reads what it has staged. -/
theorem calibRead_staged {idx sub : Nat} {v : Word} (h : s.calibFor m = 0)
    (staged : sget (fun _ => none) s.calib.staged (dkey idx sub) = some v) : s.calibRead m idx sub = v := by
  simp only [State.calibRead, h, staged]

/-- Another master reads the stored value. -/
theorem calibRead_stored (idx sub : Nat) (h : s.calibFor m ≠ 0) : s.calibRead m idx sub = s.reg idx sub := by
  unfold State.calibRead
  split
  · exact absurd ‹_› h
  · rfl

section orders

variable (hm : m ≤ 1) (ha : s.power.alive = true)
include hm ha

theorem calibrationUnlock_unlocks (h : s.calib.state = 0) : ∃ t, exec (.calibrationUnlock m unlockValue) s = .next t ∧
    { s with calib := { s.calib with state := 1, master := m, staged := [], written := some s.clock.tick } }.obeyed t m 3 0x0800 2 := by
  refine ⟨_, onUnit_masterOk (by omega) _, command_obeyed (hears_always hm ha rfl) ?_⟩
  simp only [calibUnlockRule, orRefuse, h, decide_true, Bool.and_self, if_true]

theorem calibrationUnlock_declined {v : Word} (h : v ≠ unlockValue ∨ s.calib.state ≠ 0) :
    ∃ t, exec (.calibrationUnlock m v) s = .next t ∧ s.declined t m 3 0x0800 2 5 := by
  refine ⟨_, onUnit_masterOk (by omega) _, command_declined (hears_always hm ha rfl) ?_⟩
  have no : ¬ (v = unlockValue ∧ s.calib.state = 0) := fun hv => h.elim (· hv.1) (· hv.2)
  simp only [calibUnlockRule, orRefuse, Bool.and_eq_true, decide_eq_true_eq, no, if_false]

theorem calibrationAbort_locks (h : s.calibFor m = 0) :
    ∃ t, exec (.calibrationAbort m) s = .next t ∧ s.calibLock.obeyed t m 3 0x0800 4 :=
  ⟨_, onUnit_masterOk (by omega) _, command_obeyed (hears_always hm ha rfl) (if_neg fun hn => hn h)⟩

theorem calibrationCommit_begins (h : s.calibFor m = 0) : ∃ t, exec (.calibrationCommit m) s = .next t ∧
    { s with calib := { s.calib with state := 2, written := none } }.obeyed t m 3 0x0800 3 :=
  ⟨_, onUnit_masterOk (by omega) _, command_obeyed (hears_always hm ha rfl) (if_neg fun hn => hn h)⟩

theorem calibrationAbort_declined (h : s.calibFor m ≠ 0) :
    ∃ t, exec (.calibrationAbort m) s = .next t ∧ s.declined t m 3 0x0800 4 (s.calibFor m) :=
  ⟨_, onUnit_masterOk (by omega) _, command_declined (hears_always hm ha rfl) (if_pos h)⟩

theorem calibrationCommit_declined (h : s.calibFor m ≠ 0) :
    ∃ t, exec (.calibrationCommit m) s = .next t ∧ s.declined t m 3 0x0800 3 (s.calibFor m) :=
  ⟨_, onUnit_masterOk (by omega) _, command_declined (hears_always hm ha rfl) (if_pos h)⟩

end orders

/-! ## A value is staged (R561, R563) -/

/-- The value of sub-index sub of a calibration object: one word, written and read. -/
def calibField (idx sub : Nat) : Field := ⟨sub, 1, if 0x0840 ≤ idx ∧ idx < 0x0880 ∧ sub - 1 ≠ 1 then 3 else 1, 1, 0, true, 0⟩

@[simp] theorem calibField_lo (idx sub : Nat) : (calibField idx sub).lo = sub := rfl
@[simp] theorem calibField_n (idx sub : Nat) : (calibField idx sub).n = 1 := rfl
@[simp] theorem calibField_acc (idx sub : Nat) : (calibField idx sub).acc = 1 := rfl

theorem fieldsOf_calib {idx : Nat} (lo : 0x0810 ≤ idx) (hi : idx < 0x0AC0) :
    fieldsOf idx = (upto (calibSubs idx)).map (fun i => calibField idx (i + 1)) := by
  unfold fieldsOf
  rw [if_neg (by simp; omega), if_neg (by simp; omega), if_neg (by simp; omega), if_neg (by simp; omega), if_pos (by simp; omega)]
  rfl

theorem fieldAt_calib {idx sub : Nat} (lo : 0x0810 ≤ idx) (hi : idx < 0x0AC0) (h1 : 1 ≤ sub) (h2 : sub ≤ calibSubs idx) :
    fieldAt idx sub = some (calibField idx sub) := by
  have here : ((fun f : Field => decide (f.lo ≤ sub) && decide (sub < f.lo + f.n)) ∘ fun i => calibField idx (i + 1)) =
      fun i => decide (i = sub - 1) := by
    funext i
    show (decide (i + 1 ≤ sub) && decide (sub < i + 1 + 1)) = decide (i = sub - 1)
    rw [← Bool.decide_and, decide_eq_decide]
    omega
  have first : (upto (calibSubs idx)).find? (fun i => decide (i = sub - 1)) = some (sub - 1) :=
    List.find?_range_eq_some.2 ⟨by simp, by simp; omega, fun j hj => by simpa using Nat.ne_of_lt hj⟩
  have found : (fieldsOf idx).find? (fun f => f.lo ≤ sub && sub < f.lo + f.n) = some (calibField idx sub) := by
    rw [fieldsOf_calib lo hi, List.find?_map, here, first, Option.map_some, Nat.sub_add_cancel h1]
  have nonempty : fieldsOf idx ≠ [] := fun unstaged => by simp [unstaged] at found
  unfold fieldAt
  rw [if_neg nonempty, if_neg (by omega), found]

theorem wholeValue_calib (s : State) (m idx sub : Nat) (v : Word) : s.wholeValue m idx (calibField idx sub) v = v.toNat := by
  rw [wholeValue_eq]
  simp [wordsValue, upto]

theorem ruleOf_calib {idx : Nat} (m sub : Nat) (v : Word) (lo : 0x0810 ≤ idx) (hi : idx < 0x0AC0) :
    ruleOf m idx (calibField idx sub) v.toNat = calibWriteRule m idx sub v := by
  unfold ruleOf
  rw [if_neg (by simp), if_pos (by simp; omega), BitVec.ofNat_toNat, BitVec.setWidth_eq]
  rfl

/-- The state in which v is staged for a calibration value. -/
def State.stages (s : State) (idx sub : Nat) (v : Word) : State :=
  { s with calib := { s.calib with
      staged := sput (fun _ => none) s.calib.staged (dkey idx sub) (some v), written := some s.clock.tick } }

theorem calibration_staged (hm : m ≤ 1) (ha : s.power.alive = true) (h : s.calibFor m = 0) {idx sub : Nat} (v : Word)
    (lo : 0x0810 ≤ idx) (hi : idx < 0x0AC0) (h1 : 1 ≤ sub) (h2 : sub ≤ calibSubs idx) :
    ∃ t, exec (.write32 m idx sub v) s = .next t ∧ (s.stages idx sub v).obeyed t m 3 idx sub := by
  have heard : s.hears m idx = true := hears_always hm ha (by simp [alwaysServed]; omega)
  have rule : ruleOf m idx (calibField idx sub) (s.wholeValue m idx (calibField idx sub) v) s = (s.stages idx sub v, 0) := by
    rw [wholeValue_calib, ruleOf_calib m sub v lo hi]
    exact if_neg fun hn => hn h
  obtain ⟨t, exec, whole, -⟩ := write32_takes_whole s v heard (fun hm' => absurd hm' (by omega)) (fieldAt_calib lo hi h1 h2)
    (by simp) rfl (Nat.and_zero _) (.inl (by omega)) (by rw [rule])
  rw [rule] at whole
  exact ⟨t, exec, whole rfl⟩

theorem write32_calibration (hm : m ≤ 1) (ha : s.power.alive = true) (h : s.calibFor m = 0) {idx sub : Nat} (v : Word)
    (lo : 0x0810 ≤ idx) (hi : idx < 0x0AC0) (h1 : 1 ≤ sub) (h2 : sub ≤ calibSubs idx) :
    ∃ t, exec (.write32 m idx sub v) s = .next t ∧ t.dict = s.dict ∧ t.resultFor m = some (answerOf 3 idx sub 0 0) ∧
      t.calibRead m idx sub = v ∧ (∀ n, n ≠ m → t.calibRead n idx sub = s.reg idx sub) ∧ t.calib.written = some s.clock.tick ∧
      s.sameWork t := by
  obtain ⟨state, master⟩ := calibFor_eq_zero.1 h
  obtain ⟨t, exec, ob⟩ := calibration_staged hm ha h v lo hi h1 h2
  have calib : t.calib = (s.stages idx sub v).calib := ob.calib
  have own : t.calib.master = m := by rw [calib]; exact master
  have unlocked : t.calibFor m = 0 := calibFor_eq_zero.2 ⟨by rw [calib]; exact state, own⟩
  refine ⟨t, exec, ob.dict, ob.2, calibRead_staged unlocked ?_, fun n hn => ?_, by rw [calib]; rfl,
    ob.sameWork ⟨rfl, rfl, rfl, rfl, rfl, rfl, rfl⟩⟩
  · rw [calib]
    exact sget_sput_same (fun _ => (none : Option Word)) s.calib.staged (dkey idx sub) (some v)
  · rw [calibRead_stored idx sub (calibFor_ne_zero_of_ne own hn)]
    exact reg_congr ob.dict idx sub

/-! ## The lock after 25,000,000 ticks (R563) -/

theorem State.passes.calib (h : s.passes t) : t.calib = s.calib := by rw [h]

theorem exec_calibrationLockTimeout {n : DWord} (ha : s.power.alive = true) (unlocked : s.calib.state = 1) (written : s.calib.written = some n) :
    exec .calibrationLockTimeout s = .next (s.until (n.toNat + 25000000)).calibLock := by
  show Host.Outcome.next _ = _
  simp only [ha, unlocked, written, decide_true, Bool.and_self]

theorem calibLock_after (h : s.passes t) : t.calibLock.calib = { s.calib with state := 0, staged := [], written := none } ∧
    t.calibLock.clock = t.clock ∧ t.calibLock.mem = s.mem ∧ t.calibLock.lcores = s.lcores := by
  refine ⟨?_, rfl, h.mem, h.lcores⟩
  rw [State.calibLock, h.calib]

/-! ## The staged values take their places (R563) -/

/-- A staged value takes its place. -/
def State.storeStaged (s : State) (p : Nat × Option Word) : State := p.2.elim s (fun v => s.setReg (p.1 / 256) (p.1 % 256) v)

theorem calibStore_eq (s : State) : s.calibStore = s.calib.staged.foldl State.storeStaged s := by
  refine congrArg (fun f => List.foldl f s s.calib.staged) ?_
  funext t p
  obtain ⟨k, v⟩ := p
  cases v <;> rfl

theorem storeStaged_counts (s : State) (p : Nat × Option Word) : s.counts (s.storeStaged p) := by
  obtain ⟨k, v⟩ := p
  cases v <;> rfl

theorem dkey_div_mod (k : Nat) : dkey (k / 256) (k % 256) = k := Nat.div_add_mod' ..

theorem reg_storeStaged_other (s : State) {p : Nat × Option Word} {i j : Nat} (h : dkey i j ≠ p.1) : (s.storeStaged p).reg i j = s.reg i j := by
  obtain ⟨k, v⟩ := p
  cases v with
  | none => rfl
  | some v => exact reg_setReg_other _ _ _ _ _ _ (by rwa [dkey_div_mod])

theorem storeStaged_some (s : State) (i j : Nat) (v : Word) : s.storeStaged (dkey i j, some v) = s.setReg i j v := by
  show s.setReg (dkey i j / 256) (dkey i j % 256) v = _
  rw [State.setReg, dkey_div_mod, State.setReg]

/-- Storing a list of values leaves each listed place with its value, and every other as it is. -/
theorem reg_foldl_storeStaged {l : Sparse (Option Word)} (hl : swf (fun _ => none) l = true) (s : State) (i j : Nat) :
    (l.foldl State.storeStaged s).reg i j = (sget (fun _ => none) l (dkey i j)).getD (s.reg i j) := by
  induction l generalizing s with
  | nil => rfl
  | cons p l ih =>
    obtain ⟨k, v⟩ := p
    obtain ⟨listed, rising, hl⟩ := (swf_cons _ k v l).1 hl
    rw [List.foldl_cons, ih hl, sget]
    by_cases h : k = dkey i j
    · have last : sget (fun _ => none) l (dkey i j) = none := by
        refine sget_of_not_listed _ l fun mem => ?_
        obtain ⟨q, hq, e⟩ := List.mem_map.1 mem
        have later := rising q hq
        omega
      obtain ⟨w, rfl⟩ := Option.ne_none_iff_exists'.1 listed
      rw [if_pos h, last, h, storeStaged_some, reg_setReg_same]
      rfl
    · rw [if_neg h, reg_storeStaged_other s (Ne.symm h)]

/-- The state in which the staged values are stored, and the set is locked. -/
def State.calibStored (s : State) : State :=
  { s.calibStore with calib := { s.calib with state := 0, staged := [], commits := min (2 ^ 32 - 1) (s.calib.commits + 1) } }

theorem exec_calibrationCommitDone (ha : s.power.alive = true) (h : s.calib.state = 2) : exec .calibrationCommitDone s = .next s.calibStored := by
  show Host.Outcome.next _ = _
  rw [if_pos (by simp [ha, h])]
  rfl

theorem calibStored_sameWork (s : State) : s.sameWork s.calibStored := by
  have stored : s.counts s.calibStore := by
    rw [calibStore_eq]
    exact foldl_counts _ storeStaged_counts ..
  rw [State.calibStored, stored]
  exact ⟨rfl, rfl, rfl, rfl, rfl, rfl, rfl⟩

theorem reg_calibStored (hl : swf (fun _ => (none : Option Word)) s.calib.staged = true) (i j : Nat) :
    s.calibStored.reg i j = (sget (fun _ => none) s.calib.staged (dkey i j)).getD (s.reg i j) := by
  rw [← reg_foldl_storeStaged hl s i j, ← calibStore_eq]
  rfl

/-! ## O59 -/

/-- Settles O59: an order to object 0x3101 or 0x0800 has its rule's effect or its refusal (result and refusal codes are logs 31 and 32), a
complete package is checked by what the slices leave unchanged, and a commit stores the staged values one after another. -/
theorem packagesAndCalibrationAreStaged : Obligations.PackagesAndCalibrationAreStaged := by
  unfold Obligations.PackagesAndCalibrationAreStaged
  refine ⟨fun s m hm ha => ⟨packageBegin_begins hm ha, packageBegin_declined hm ha, package_refused hm ha, fun bs staged =>
      ⟨packageData_appended hm ha staged, packageData_full hm ha staged, packageAbort_aborts hm ha staged,
        packageAccept_failed hm ha staged, packageAccept_installed hm ha staged, packageCheck_old⟩⟩,
    fun s p length offset bytes hp up hl inside nonempty => ⟨exec_packageSlice_unwanted hp, fun q got wanted hq hgot =>
      ⟨packageSlice_kept hp up hl inside nonempty wanted hq hgot, fun bs => packageSlice_completes hp up hl inside nonempty wanted hq hgot⟩⟩,
    fun s m hm ha => ⟨calibrationUnlock_unlocks hm ha, fun v => calibrationUnlock_declined hm ha, fun h => ⟨calibrationAbort_locks hm ha h,
        calibrationCommit_begins hm ha h, fun idx sub v => write32_calibration hm ha h v⟩,
      fun h => ⟨calibrationAbort_declined hm ha h, calibrationCommit_declined hm ha h⟩⟩,
    fun s ha => ⟨fun n unlocked written => ⟨_, exec_calibrationLockTimeout ha unlocked written, calibLock_after (until_passes ..)⟩,
      fun h hl => ⟨s.calibStored, exec_calibrationCommitDone ha h, rfl, fun i j v _ staged => ?_, fun i j _ unstaged => ?_,
        calibStored_sameWork s⟩⟩⟩
  · rw [reg_calibStored hl, staged, Option.getD_some]
  · rw [reg_calibStored hl, unstaged, Option.getD_none]

end Sys2Proof.Machine
end

section
/-! PROOFS. Reduction trees: operands of nodes and roots on their way, and the update that follows (R392 to R394, R409, R412, R421). -/

namespace Sys2Proof.Machine

variable {s : State} {p : Packet} {k : Nat} {j : Job} {d : Shard} {g : Group} {second : Bool}

/-! ## Updates that have become possible (R406, R409) -/

/-- A device that owns no shard of the job has no update to run. -/
theorem tryUpdates_of_no_owner (hj : s.job k = some j) (away : ∀ e ∈ j.shards, j.owns e = false) : s.tryUpdates k = s := by
  have own : j.shards.filter (fun e => j.owns e) = [] := List.filter_eq_nil_iff.2 (by simpa using away)
  simp only [State.tryUpdates, hj, own, List.foldl_nil]

section freed

variable {n : Nat} (hj : s.job k = some j) (hd : j.shards.find? (fun e => e.shard = n) = some d)
include hj hd

theorem exec_updateSlotFreed_ready {ps : List Pos} (ready : s.updateReady k j d = true) (free : d.slotFree (d.newest + 1) = true)
    (hps : j.stepPositions d = some ps) : exec (.updateSlotFreed k n) s = .next (s.updateShard k j d ps) := by
  refine congrArg Host.Outcome.next (?_ : s.tryUpdate k n = _)
  simp only [State.tryUpdate, hj, hd, ready, free, Bool.and_self, if_true, hps]

theorem exec_updateSlotFreed_waits (h : s.updateReady k j d = false ∨ d.slotFree (d.newest + 1) = false) :
    exec (.updateSlotFreed k n) s = .next s := by
  have waits : ¬ (s.updateReady k j d && d.slotFree (d.newest + 1)) = true :=
    Bool.not_eq_true _ ▸ Bool.and_eq_false_iff.2 h
  refine congrArg Host.Outcome.next (?_ : s.tryUpdate k n = s)
  simp only [State.tryUpdate, hj, hd, if_neg waits]

end freed

/-! ## A node's value at its site (R393, R394) -/

section rise

variable {step : DWord} {ps : List Pos} {n level i sib : Nat} {vals : List (Nat × Word)} (hj : s.job k = some j)
  (below : level + 1 < treeHeight ps) (hsib : sib = if i % 2 = 0 then i + 1 else i - 1) (present : nodePresent ps level sib = true)
  (site : j.held.contains (ps.getD (nodeSite ps second (level + 1) (i / 2)) { rank := 0, present := false, origin := none }).rank = true)
include hj below hsib present site

/-- None of the sibling's values is there: the node's values wait. -/
theorem rise_waits (some_vals : vals ≠ []) (none_there : j.partner second d.shard step level sib vals = ([], j)) :
    State.rise k d second step ps (n + 1) level i vals s = s.setJob k (some (j.stash
      { second := second, shard := d.shard, step := step, level := level, node := i, values := vals })) := by
  subst hsib
  simp only [State.rise, hj, if_neg (Nat.not_le.2 below), present, site, none_there, Bool.not_true, Bool.false_eq_true, if_false, if_true,
    List.any_nil, Bool.not_false, List.filter_true, List.filter_false, List.map_nil, if_neg some_vals]

/-- The sibling's values for all elements are there: the sums, left operand first, go on from the parent. -/
theorem rise_adds {wait : List (Nat × Word)} {j1 : Job} (some_vals : vals ≠ [])
    (there : j.partner second d.shard step level sib vals = (wait, j1)) (all_there : ∀ v ∈ vals, wait.any (fun w => w.1 = v.1) = true) :
    State.rise k d second step ps (n + 1) level i vals s = State.rise k d second step ps n (level + 1) (i / 2)
      (vals.map (fun v => (v.1, if i % 2 = 0 then add32 v.2 (valAt wait v.1) else add32 (valAt wait v.1) v.2))) (s.setJob k (some j1)) := by
  subst hsib
  have done : vals.filter (fun v => wait.any (fun w => w.1 = v.1)) = vals := List.filter_eq_self.2 all_there
  have rest : vals.filter (fun v => !wait.any (fun w => w.1 = v.1)) = [] := List.filter_eq_nil_iff.2 fun v hv => by simp [all_there v hv]
  simp only [State.rise, hj, if_neg (Nat.not_le.2 below), present, site, there, Bool.not_true, Bool.false_eq_true, if_false, if_true,
    done, rest, List.map_eq_nil_iff, if_neg some_vals]

end rise

/-! ## An operand packet (R394, R421) -/

theorem exec_nodeOperand (i : Nat) (hfirst : second = false → s.arrives 0x20 p = true) (hsecond : second = true → s.arrives 0x27 p = true) :
    exec (if second then .nodeOperandSecondTree p i else .nodeOperand p i) s =
      .next (((s.operand p.context p i second).tryUpdates p.context).complete p) := by
  cases second with
  | false => exact congrArg Host.Outcome.next (inbound_arrives (hfirst rfl) _)
  | true => exact congrArg Host.Outcome.next (inbound_arrives (hsecond rfl) _)

theorem exec_rootOperand (h : s.arrives 0x21 p = true) :
    exec (.rootOperand p second) s = .next (((s.operand p.context p 0 second).tryUpdates p.context).complete p) :=
  congrArg Host.Outcome.next (inbound_arrives h _)

theorem ptype_of_arrives {ty : Nat} (h : s.arrives ty p = true) : p.ptype = ty := by
  simp only [State.arrives, Bool.and_eq_true, decide_eq_true_eq] at h
  exact h.1.1

section operand

variable {i : Nat} (hj : s.job k = some j) (hd : j.shards.find? (fun e => e.shard = bits p.arg 31 0) = some d)
  (hg : j.group d.group = some g)
include hj hd hg

theorem operand_undecided (h : g.decision (fullStep j.earliest (bits p.arg 63 40)) = none) :
    s.operand k p i second = s.setJob k (some { j with undecided := j.undecided ++ [(p, i, second)] }) := by
  simp only [State.operand, hj, hd, hg, h]

variable {es : List DecisionEntry} (decided : g.decision (fullStep j.earliest (bits p.arg 63 40)) = some es)
include decided

theorem operand_rises (node : p.ptype ≠ 0x21) :
    s.operand k p i second = State.rise k d second (fullStep j.earliest (bits p.arg 63 40)) (j.positions g es) riseFuel (bits p.arg 39 32) i
      (operandValues p (d.cfmt = 2 && nodeSingle (j.positions g es) (bits p.arg 39 32) i)) s := by
  simp only [State.operand, hj, hd, hg, decided, if_neg node]

theorem operand_kept {right : Bool} (root : p.ptype = 0x21) (owned : j.owns d = true) (tall : 0 < treeHeight (j.positions g es))
    (hright : right = decide (bits p.arg 39 32 = 0xFE)) :
    s.operand k p i second = s.setJob k (some (j.stash
      { second := second, shard := d.shard, step := fullStep j.earliest (bits p.arg 63 40), level := 0xFF, node := if right then 1 else 0
        values := operandValues p (d.cfmt = 2 &&
          nodeSingle (j.positions g es) (treeHeight (j.positions g es) - 1) (if right then 1 else 0)) })) := by
  have held : j.held.contains d.owner = true := owned
  subst hright
  simp only [State.operand, hj, hd, hg, decided, if_pos root, State.rootSend, held, if_true, if_neg tall.ne', decide_eq_true_eq]

end operand

/-- Keeping values for later changes the job's waiting operands alone. -/
theorem stash_eq (j : Job) (v : NodeVal) : j.stash v = { j with nodes := (j.stash v).nodes } := by
  unfold Job.stash
  dsimp only
  split <;> rfl

theorem stash_shards (j : Job) (v : NodeVal) : (j.stash v).shards = j.shards := by rw [stash_eq]
theorem stash_held (j : Job) (v : NodeVal) : (j.stash v).held = j.held := by rw [stash_eq]
theorem stash_groups (j : Job) (v : NodeVal) : (j.stash v).groups = j.groups := by rw [stash_eq]

/-- A device that owns no shard of a job owns none of one that differs in its waiting operands alone. -/
theorem tryUpdates_setJob_of_no_owner {j1 : Job} (away : ∀ e ∈ j.shards, j.owns e = false) (shards : j1.shards = j.shards)
    (held : j1.held = j.held) : (s.setJob k (some j1)).tryUpdates k = s.setJob k (some j1) :=
  tryUpdates_of_no_owner (job_setJob_same ..) (by simpa only [shards, Job.owns, held] using away)

/-! ## O43 -/

/-- Settles O43: each operand by what becomes of its values, and a freed slot by what the update waits for. That the index names the
operand's own node is log 42, and the step from the low 24 bits of the argument is log 76. -/
theorem operandsRiseToTheRoot : Obligations.OperandsRiseToTheRoot := by
  unfold Obligations.OperandsRiseToTheRoot
  refine ⟨?_, ?_, fun s k n j d hj hd => ⟨fun ps => exec_updateSlotFreed_ready hj hd, exec_updateSlotFreed_waits hj hd⟩⟩
  · rintro s p i _ second j d g _ _ rfl hj away hd hg rfl rfl hfirst hsecond
    have node : p.ptype ≠ 0x21 := by
      cases second with
      | false => rw [ptype_of_arrives (hfirst rfl)]; decide
      | true => rw [ptype_of_arrives (hsecond rfl)]; decide
    rw [exec_nodeOperand i hfirst hsecond]
    refine ⟨fun undecided => ?_, ?_⟩
    · rw [operand_undecided hj hd hg undecided, tryUpdates_setJob_of_no_owner away] <;> rfl
    · rintro es _ _ _ sib decided rfl below hsib present rfl site rfl some_vals
      rw [operand_rises hj hd hg decided node]
      refine ⟨fun none_there => ?_, fun wait j1 there all_there => ?_⟩
      · rw [riseFuel, rise_waits hj below hsib present site some_vals none_there,
          tryUpdates_setJob_of_no_owner away (stash_shards ..) (stash_held ..)]
      · rw [riseFuel, rise_adds hj below hsib present site some_vals there all_there]
  · rintro s p _ second right j d g _ es _ rfl arrives hj hd owned hg rfl decided rfl tall hright
    rw [exec_rootOperand arrives, operand_kept hj hd hg decided (ptype_of_arrives arrives) owned tall hright]

end Sys2Proof.Machine
end

section
/-! PROOFS. Readiness and decisions of reduction groups: notices, deadlines, and what reaching a decision keeps (R414 to R417, R420). -/

namespace Sys2Proof.Machine

variable {s : State} {p : Packet} {k n : Nat} {j : Job} {g : Group}

/-! ## The coordinator decides (R415, R416) -/

section decides

variable {q : Readiness} (hj : s.job k = some j) (hg : j.group n = some g) (hq : g.ready.find? (fun e => e.step = q.step) = some q)
include hj hg hq

theorem tryDecide_decided (h : q.decided = true) : s.tryDecide k n q.step = s := by
  simp only [State.tryDecide, hj, hg, hq, if_pos h]

variable (own : j.follows = false) (undecided : q.decided = false)
include own undecided

theorem tryDecide_waits (h : j.decisionFor g q (g.lateAt q s.clock.tick) = none) : s.tryDecide k n q.step = s := by
  simp only [State.tryDecide, hj, hg, hq, own, undecided, Bool.false_eq_true, if_false, h]

theorem tryDecide_announces {es : List DecisionEntry} (h : j.decisionFor g q (g.lateAt q s.clock.tick) = some es) :
    s.tryDecide k n q.step = s.announce k g q.step es := by
  simp only [State.tryDecide, hj, hg, hq, own, undecided, Bool.false_eq_true, if_false, h]

end decides

theorem exec_coordinatorDeadline {q : Readiness} (hj : s.job k = some j) (hg : j.group n = some g) (hq : g.awaited = some q) :
    exec (.coordinatorDeadline k n) s = .next ((s.until (q.first.toNat + g.deadline)).tryDecide k n q.step) := by
  refine Eq.trans (b := execCoordinatorDeadline k n s) rfl ?_
  simp only [execCoordinatorDeadline, hj, hg, hq]

/-! ## Ready notices (R415) -/

/-- The readiness that the first notice of a step opens: rank r, a backup or not, is ready at this tick. -/
def Readiness.opened (step tick : DWord) (backup : Bool) (r : Nat) : Readiness :=
  { step := step, first := tick, members := if backup then [] else [r], backups := if backup then [r] else [], decided := false }

/-- The readiness once rank r, a backup or not, has joined it. -/
def Readiness.joined (q : Readiness) (backup : Bool) (r : Nat) : Readiness :=
  if backup then { q with backups := q.backups ++ [r] } else { q with members := q.members ++ [r] }

theorem exec_readyNotice (h : s.arrives 0x22 p = true) (hj : s.job p.context = some j) :
    exec (.readyNotice p) s = .next ((s.noteReady p.context (bits p.arg 31 0) (fullStep j.earliest (bits p.arg 63 40)) (bit p.arg 32)
      (field p.data 0 4)).complete p) := by
  refine congrArg Host.Outcome.next ((inbound_arrives h _).trans ?_)
  simp only [hj]

section notices

variable {step : DWord} {backup : Bool} {r : Nat} (hj : s.job k = some j) (hg : j.group n = some g)
include hj hg

theorem noteReady_opens (new : g.ready.find? (fun q => q.step = step) = none) :
    s.noteReady k n step backup r = (s.setJob k (some (j.setGroup { g with
      ready := g.ready ++ [.opened step s.clock.tick backup r] }))).tryDecide k n step := by
  have onTime : g.ready.any (fun q => q.step = step && g.lateAt q s.clock.tick) = false :=
    List.any_eq_false.2 fun q hq => by simp [show q.step ≠ step by simpa using List.find?_eq_none.1 new q hq]
  simp only [State.noteReady, hj, hg, onTime, Bool.false_eq_true, if_false, new]
  rfl

theorem noteReady_joins {q : Readiness} (hq : g.ready.find? (fun q => q.step = step) = some q) (undecided : q.decided = false)
    (onTime : g.ready.any (fun q => q.step = step && g.lateAt q s.clock.tick) = false) :
    s.noteReady k n step backup r = (s.setJob k (some (j.setGroup { g with
      ready := g.ready.map (fun e => if e.step = step then q.joined backup r else e) }))).tryDecide k n step := by
  simp only [State.noteReady, hj, hg, onTime, hq, Bool.false_eq_true, if_false, if_neg (ne_true_of_eq_false undecided)]
  rfl

end notices

/-! ## What operands on their way leave as it is -/

/-- The reduction groups of context k's job. -/
def State.jobGroups (s : State) (k : Nat) : Option (List Group) := (s.job k).map (fun j => j.groups)

theorem jobGroups_job (hj : s.job k = some j) : s.jobGroups k = some j.groups := by rw [State.jobGroups, hj, Option.map_some]

theorem jobGroups_setJob {j1 : Job} (hj : s.job k = some j) (h : j1.groups = j.groups) :
    (s.setJob k (some j1)).jobGroups k = s.jobGroups k := by
  rw [jobGroups_job hj, ← h, jobGroups_job (job_setJob_same ..)]

theorem jobGroups_ite {c : Prop} [Decidable c] {t u : State} (ht : t.jobGroups k = s.jobGroups k) (hu : u.jobGroups k = s.jobGroups k) :
    (if c then t else u).jobGroups k = s.jobGroups k := by
  split
  · exact ht
  · exact hu

theorem partner_groups (j : Job) (second : Bool) (shard : Nat) (step : DWord) (level node : Nat) (mine : List (Nat × Word)) :
    (j.partner second shard step level node mine).2.groups = j.groups := by
  unfold Job.partner
  dsimp only
  split <;> rfl

/-- The job that is left when a node has taken its partner's values, and keeps those of its own that found none. -/
theorem rest_groups (j : Job) (second : Bool) (shard : Nat) (step : DWord) (level node : Nat) (mine : List (Nat × Word)) (c : Prop) [Decidable c]
    (v : NodeVal) : (if c then (j.partner second shard step level node mine).2
      else (j.partner second shard step level node mine).2.stash v).groups = j.groups := by
  split
  · exact partner_groups ..
  · exact (stash_groups ..).trans (partner_groups ..)

theorem addDigest_groups (j : Job) (step : DWord) (r : Nat) (c o : DWord) : (j.addDigest step r c o).groups = j.groups := by
  unfold Job.addDigest
  split <;> rfl

theorem ask_at_job (s : State) (ty : Nat) (dest : Half) (m addr : Nat) (arg : DWord) (data : List Byte) (job : Bool) (why : Purpose) (k : Nat) :
    (s.ask ty dest m addr arg data job why).1.job k = s.job k := rfl

theorem sendOperand_at_job (s : State) (k ty : Nat) (dest : Half) (d : Shard) (step : DWord) (level : Nat) (narrow : Bool)
    (vals : List (Nat × Word)) : (s.sendOperand k ty dest d step level narrow vals).job k = s.job k := by
  unfold State.sendOperand
  exact foldl_frame (fun t : State => t.job k) _ (fun _ _ => ask_at_job ..) _ s

theorem sendOperand_jobGroups (s : State) (k ty : Nat) (dest : Half) (d : Shard) (step : DWord) (level : Nat) (narrow : Bool)
    (vals : List (Nat × Word)) : (s.sendOperand k ty dest d step level narrow vals).jobGroups k = s.jobGroups k :=
  congrArg (Option.map _) (sendOperand_at_job ..)

theorem rootSend_jobGroups (hj : s.job k = some j) (d : Shard) (second : Bool) (step : DWord) (right narrow : Bool)
    (vals : List (Nat × Word)) : (s.rootSend k j d second step right narrow vals).jobGroups k = s.jobGroups k := by
  unfold State.rootSend
  split
  · exact jobGroups_setJob hj (stash_groups ..)
  · exact sendOperand_jobGroups ..

theorem rise_jobGroups (k : Nat) (d : Shard) (second : Bool) (step : DWord) (ps : List Pos) (fuel level i : Nat)
    (vals : List (Nat × Word)) (s : State) : (State.rise k d second step ps fuel level i vals s).jobGroups k = s.jobGroups k := by
  induction fuel generalizing level i vals s with
  | zero => rfl
  | succ fuel ih =>
    rw [State.rise]
    split
    · rfl
    next j hj =>
      refine jobGroups_ite (rootSend_jobGroups hj ..) (jobGroups_ite (ih ..) (jobGroups_ite (jobGroups_ite ?_ ((ih ..).trans ?_))
        (sendOperand_jobGroups ..))) <;>
        exact jobGroups_setJob hj (rest_groups ..)

theorem operand_jobGroups (s : State) (k : Nat) (p : Packet) (node : Nat) (second : Bool) :
    (s.operand k p node second).jobGroups k = s.jobGroups k := by
  unfold State.operand
  split
  · rfl
  next j hj =>
    split
    · rfl
    split
    · rfl
    dsimp only
    split
    · exact jobGroups_setJob hj rfl
    split
    · exact rootSend_jobGroups hj ..
    · exact rise_jobGroups ..

theorem startLeaf_jobGroups (s : State) (k : Nat) (d : Shard) (step : DWord) (ps : List Pos) (n : Nat) (q : Pos) (second : Bool) :
    (s.startLeaf k d step ps n q second).jobGroups k = s.jobGroups k := by
  unfold State.startLeaf
  split
  · rfl
  next j hj =>
    split
    · rfl
    refine (rise_jobGroups ..).trans ?_
    split
    · rfl
    · exact jobGroups_setJob hj (addDigest_groups ..)

theorem holdContributions_jobGroups (s : State) (k g r : Nat) (v : DWord) : (s.holdContributions k g r v).jobGroups k = s.jobGroups k := by
  unfold State.holdContributions
  split
  · rfl
  next j hj => exact jobGroups_setJob hj rfl

/-! ## A decision is noted (R416) -/

/-- A group with the decision of one more step. -/
def Group.noted (g : Group) (step : DWord) (es : List DecisionEntry) : Group := { g with decisions := g.decisions ++ [(step, es)] }

theorem decision_noted {step : DWord} (new : g.decision step = none) (es : List DecisionEntry) :
    (g.noted step es).decision step = some es := by
  have absent : g.decisions.find? (fun d => d.1 = step) = none := by
    unfold Group.decision at new
    split at new
    · cases new
    · assumption
  simp only [Group.decision, Group.noted, List.find?_append, absent, Option.none_or, List.find?_cons_of_pos, decide_true]

/-- Reaching a decision changes the groups by noting it, and its contributions on their way change no group. -/
theorem decided_jobGroups {step : DWord} (hj : s.job k = some j) (hg : j.group n = some g) (new : g.decision step = none)
    (es : List DecisionEntry) : (s.decided k n step es).jobGroups k =
      some (j.groups.map (fun x => if x.group = n then x.noted step es else x)) := by
  simp only [State.decided, hj, hg, new, Option.isSome_none, Bool.false_eq_true, if_false]
  rw [foldl_frame (fun t : State => t.jobGroups k) _ (fun t m => operand_jobGroups ..),
    foldl_frame (fun t : State => t.jobGroups k) _ (fun t d => ?leaves),
    foldl_frame (fun t : State => t.jobGroups k) _ (fun t r => holdContributions_jobGroups ..)]
  case leaves =>
    refine foldl_frame (fun t : State => t.jobGroups k) _ (fun u q => ?_) _ t
    split
    · exact (startLeaf_jobGroups ..).trans (startLeaf_jobGroups ..)
    · exact startLeaf_jobGroups ..
  exact jobGroups_job (job_setJob_same ..)

theorem decided_notes {step : DWord} (hj : s.job k = some j) (hg : j.group n = some g) (new : g.decision step = none)
    (es : List DecisionEntry) :
    ∃ j1 g1, (s.decided k n step es).job k = some j1 ∧ j1.group n = some g1 ∧ g1.decision step = some es := by
  obtain ⟨j1, hj1, groups⟩ := Option.map_eq_some_iff.1 (decided_jobGroups hj hg new es)
  refine ⟨j1, g.noted step es, hj1, ?_, decision_noted new es⟩
  have number : g.group = n := of_decide_eq_true (List.find?_some (p := fun x : Group => decide (x.group = n)) hg)
  have same : (fun x : Group => decide (x.group = n)) ∘ (fun x => if x.group = n then x.noted step es else x) =
      fun x => decide (x.group = n) := by
    funext x
    simp only [Function.comp_apply, apply_ite Group.group, Group.noted, ite_self]
  have hg' : j.groups.find? (fun x => decide (x.group = n)) = some g := hg
  rw [Job.group, groups, List.find?_map, same, hg', Option.map_some, if_pos number]

theorem exec_decision (h : s.arrives 0x23 p = true) (hj : s.job p.context = some j) :
    exec (.decision p) s = .next (((s.decided p.context (bits p.arg 31 0) (fullStep j.earliest (bits p.arg 63 40))
      (decisionEntries p.data)).tryUpdates p.context).complete p) := by
  refine congrArg Host.Outcome.next ((inbound_arrives h _).trans ?_)
  simp only [hj]

/-! ## O44 -/

/-- Settles O44: a notice by the readiness that it opens or joins, a decision by its note, which the contributions on their way leave as
it is. That a notice's data name its rank is log 36, and the step from the low 24 bits of the argument is log 76. -/
theorem readinessIsDecidedOnce : Obligations.ReadinessIsDecidedOnce := by
  unfold Obligations.ReadinessIsDecidedOnce
  refine ⟨?_, fun s k n j g q es hj hg own hq => ⟨tryDecide_decided hj hg hq, tryDecide_waits hj hg hq own,
      fun undecided => tryDecide_announces hj hg hq own undecided⟩,
    fun s k n j g q => exec_coordinatorDeadline, ?_⟩
  · rintro s p _ _ j g _ arrives rfl hj hg rfl rfl
    rw [exec_readyNotice arrives hj]
    refine ⟨fun new => ?_, fun q hq undecided onTime => ?_⟩
    · rw [noteReady_opens hj hg new, Readiness.opened]
    · rw [noteReady_joins hj hg hq undecided onTime]
      rfl
  · rintro s p _ _ j g _ arrives rfl hj rfl hg rfl new
    exact ⟨exec_decision arrives hj, decided_notes hj hg new _⟩

end Sys2Proof.Machine
end

section
/-! PROOFS. Versions from their commit to their end: releases, reports and notices of a commit, ratios, and checkpoint parts (R403 to
R408, R461, R468, R469). -/

namespace Sys2Proof.Machine

variable {s : State} {p : Packet} {k : Nat} {j : Job}

@[simp] theorem complete_mem (s : State) (p : Packet) : (s.complete p).mem = s.mem := rfl
@[simp] theorem complete_lcores (s : State) (p : Packet) : (s.complete p).lcores = s.lcores := rfl
@[simp] theorem complete_at_job (s : State) (p : Packet) (k : Nat) : (s.complete p).job k = s.job k := rfl

/-! ## Releases (R408) -/

/-- The shards once rank r has released them for step e: version e − δ of each shard owned here whose consumers hold the rank. -/
def Job.releasedShards (j : Job) (r : Nat) (e tick : DWord) : List Shard :=
  j.shards.map (fun d =>
    if j.owns d && inBlock j.shape d.consumerUnit d.consumerSpan r && d.lag ≤ e.toNat then
      (d.release r (e - BitVec.ofNat 64 d.lag)).retireAll tick
    else d)

theorem releaseAt_counts (hj : s.job k = some j) (r : Nat) (e : DWord) : ∃ n, s.releaseAt k r e =
    (s.setJob k (some { j with shards := j.releasedShards r e s.clock.tick })).bump64 (ctxObj k 0x22) 0x11 n := by
  unfold State.releaseAt
  rw [hj]
  exact ⟨_, rfl⟩

theorem release_releases (h : s.arrives 0x24 p = true) (hj : s.job p.context = some j) :
    ∃ t, exec (.release p) s = .next t ∧ t.mem = s.mem ∧ t.lcores = s.lcores ∧
      t.job p.context = some { j with shards := j.releasedShards (field p.data 0 4) p.arg s.clock.tick } := by
  obtain ⟨n, eq⟩ := releaseAt_counts hj (field p.data 0 4) p.arg
  refine ⟨(s.releaseAt p.context (field p.data 0 4) p.arg).complete p, congrArg Host.Outcome.next (inbound_arrives h _), ?_⟩
  simp only [eq, complete_mem, complete_lcores, complete_at_job, bump64_mem, bump64_lcores, bump64_at_job, setJob_mem, setJob_lcores,
    job_setJob_same, and_self]

/-! ## Reports and notices of a commit (R406, R461) -/

section reports

variable (h : s.arrives 0x26 p = true) (hj : s.job p.context = some j)
include h hj

theorem exec_completionReport_first (new : j.reports.any (fun r => r.1 = p.arg && r.2.1 = p.src) = false) :
    exec (.completionReport p) s = .next (((s.setJob p.context (some { j with
      reports := j.reports ++ [(p.arg, p.src, reportPairs p.data)] })).tryCommit p.context).complete p) := by
  refine congrArg Host.Outcome.next ((inbound_arrives h _).trans ?_)
  simp only [State.reportArrive, hj, new, Bool.false_eq_true, if_false]

theorem exec_completionReport_again (known : j.reports.any (fun r => r.1 = p.arg && r.2.1 = p.src) = true) :
    exec (.completionReport p) s = .next (s.complete p) := by
  refine congrArg Host.Outcome.next ((inbound_arrives h _).trans ?_)
  simp only [State.reportArrive, hj, known, if_true]

theorem exec_commitNotice : exec (.commitNotice p) s = .next ((s.setJob p.context (some { j with
    commit := some (BitVec.ofNat 64 (field p.data 0 8), p.arg) })).complete p) := by
  refine congrArg Host.Outcome.next ((inbound_arrives h _).trans ?_)
  simp only [hj]

end reports

/-- The lead of an unshielded job has no digest to report to others. -/
theorem reportDigest_unshielded (alone : j.replicas = 0) (free : j.forced = []) (v : DWord) : s.reportDigest k j v = s := by
  simp [State.reportDigest, Job.comparison, alone, free]

theorem job_tryCommit (hj : s.job k = some j) (alone : j.replicas = 0) (free : j.forced = [])
    (ready : s.commitReady k j j.nextCommit = true) :
    (s.tryCommit k).job k = some { j with commit := some (s.clock.tick + 2500, j.nextCommit) } := by
  simp only [State.tryCommit, hj, reportDigest_unshielded alone free, ite_self, ready, if_true]
  exact (foldl_frame (fun t : State => t.job k) _ (fun _ _ => ask_at_job ..) _ _).trans (job_setJob_same ..)

/-! ## The commit (R406, R408) -/

theorem exec_commitTick {tick v : DWord} (hj : s.job k = some j) (noted : j.commit = some (tick, v)) :
    exec (.commitTick k) s = .next ((s.until tick.toNat).commitStep k tick v) := by
  refine Eq.trans (b := execCommitTick k s) rfl ?_
  simp only [execCommitTick, hj, noted]

/-- A shard whose version v is committed. -/
def Shard.commits (d : Shard) (v : DWord) : Shard :=
  { d with versions := d.versions.map (fun w => if w.v = v then { w with committed := true } else w) }

theorem mem_commits {d : Shard} {w : Version} (hw : w ∈ d.versions) : { w with committed := true } ∈ (d.commits w.v).versions :=
  List.mem_map.2 ⟨w, hw, if_pos rfl⟩

/-- Retiring changes nothing of a version but the tick in which it retired. -/
theorem mem_retireAll {d : Shard} {w : Version} (hw : w ∈ d.versions) (tick : DWord) :
    ∃ at_, { w with retiredAt := at_ } ∈ (d.retireAll tick).versions := by
  by_cases h : w.retiredAt.isNone && d.consumers ≤ w.released.length && d.versions.any (fun n => n.committed && w.v.toNat < n.v.toNat)
  · exact ⟨some tick, List.mem_map.2 ⟨w, hw, if_pos h⟩⟩
  · exact ⟨w.retiredAt, List.mem_map.2 ⟨w, hw, if_neg h⟩⟩

theorem commitVersions_counts (hj : s.job k = some j) (v : DWord) : ∃ n, s.commitVersions k v = (s.setJob k (some { j with
    shards := j.shards.map (fun d => (d.commits (v + 1)).retireAll s.clock.tick) })).bump64 (ctxObj k 0x22) 0x11 n := by
  unfold State.commitVersions
  rw [hj]
  exact ⟨_, rfl⟩

theorem commitVersions_commits {v : DWord} {d : Shard} {w : Version} (hj : s.job k = some j) (hd : d ∈ j.shards) (hw : w ∈ d.versions)
    (hv : w.v = v + 1) : ∃ j1 d1 w1, (s.commitVersions k v).job k = some j1 ∧ d1 ∈ j1.shards ∧ d1.shard = d.shard ∧ w1 ∈ d1.versions ∧
      w1.v = v + 1 ∧ w1.committed = true ∧ w1.released = w.released ∧ (s.commitVersions k v).mem = s.mem := by
  obtain ⟨n, eq⟩ := commitVersions_counts hj v
  obtain ⟨at_, hw1⟩ := mem_retireAll (mem_commits hw) s.clock.tick
  rw [hv] at hw1
  rw [eq]
  exact ⟨_, _, _, (bump64_at_job ..).trans (job_setJob_same ..), List.mem_map.2 ⟨d, hd, rfl⟩, rfl, hw1, rfl, rfl, rfl, bump64_mem ..⟩

/-! ## Ratio partials (R403) -/

theorem exec_ratioPartial (h : s.arrives 0x2B p = true) : exec (.ratioPartial p) s =
    .next ((s.ratioArrive p.context (bits p.arg 31 0) (BitVec.ofNat 32 (field p.data 0 4)) (BitVec.ofNat 32 (field p.data 4 4))).complete p) :=
  congrArg Host.Outcome.next (inbound_arrives h _)

/-- While partials of other shards of the layer are missing, a partial is kept. -/
theorem ratioArrive_keeps {layer : Nat} (a b : Word) (hj : s.job k = some j)
    (missing : (j.partials.filter (fun q => q.1 = layer)).length + 1 < (j.shards.filter (fun d => d.layer = layer)).length) :
    s.ratioArrive k layer a b = s.setJob k (some { j with partials := j.partials ++ [(layer, a, b)] }) := by
  simp only [State.ratioArrive, hj, List.length_append, List.length_singleton, if_pos missing]

/-! ## Checkpoint parts (R468, R469) -/

theorem hostWrites_raises (s : State) (fn : Nat) (ws : List (Nat × List Byte)) : s.raises (s.hostWrites fn ws) := by
  unfold State.hostWrites
  split <;> rfl

theorem hostWrites_active {fn : Nat} (h : s.host.d3.contains fn = false) (ws : List (Nat × List Byte)) :
    (s.hostWrites fn ws).host.writes = s.host.writes ++ ws := by
  simp only [State.hostWrites, h, Bool.false_eq_true, if_false]

theorem hostWrites_asleep {fn : Nat} (h : s.host.d3.contains fn = true) (ws : List (Nat × List Byte)) :
    (s.hostWrites fn ws).host.writes = s.host.writes ∧
      (s.hostWrites fn ws).host.heldWrites = s.host.heldWrites ++ ws.map (fun w => (fn, w)) := by
  simp only [State.hostWrites, h, if_true, and_self]

theorem msix_writes (s : State) (f v : Nat) :
    (s.msix f v).host.writes = s.host.writes ∧ (s.msix f v).host.heldWrites = s.host.heldWrites := by
  unfold State.msix
  split
  · exact ⟨rfl, rfl⟩
  · split <;> exact ⟨rfl, rfl⟩

theorem send_host (s : State) (q : Packet) (b : Bool) : (s.send q b).host = s.host := rfl

@[simp] theorem advance_host (s : State) (gs : List Nat) : (s.advance gs).host = s.host := by
  unfold State.advance
  rw [foldl_frame State.host _ (fun _ _ => send_host ..)]
  refine foldl_frame State.host _ (fun u q => ?_) s.lcores s
  split
  · split <;> rfl
  · rfl

@[simp] theorem fillRepairs_host (s : State) (a n : Nat) : (s.fillRepairs a n).host = s.host := by
  refine foldl_frame State.host _ (fun u q => ?_) s.ctls s
  split <;> rfl

@[simp] theorem devWrite_host (s : State) (a : Nat) (bs : List Byte) : (s.devWrite a bs).host = s.host :=
  (advance_host ..).trans (fillRepairs_host ..)

theorem devWrite_at_job (s : State) (a : Nat) (bs : List Byte) (k : Nat) : (s.devWrite a bs).job k = s.job k :=
  congrArg (fun m : Sparse (Option Job) × Sparse Word => sget (fun _ => none) m.1 k) (devWrite_mapping s a bs)

theorem writePart_host (s : State) (k a : Nat) (bs : List Byte) : s.writePart k 4 a bs = s.hostWrites k [(a, bs)] := rfl

theorem writePart_device {tier : Nat} (h : tier ≠ 4) (s : State) (k a : Nat) (bs : List Byte) : s.writePart k tier a bs = s.devWrite a bs :=
  if_neg h

theorem writePart_at_job (s : State) (k tier a : Nat) (bs : List Byte) : (s.writePart k tier a bs).job k = s.job k := by
  unfold State.writePart
  split
  · rw [State.job, (hostWrites_raises ..).jobs, State.job]
  · exact devWrite_at_job ..

/-- The state once a part of n bytes is in place: state 3 and its length are shown, and vector 3 is signalled (R468, R630). -/
def State.partShown (s : State) (k n : Nat) : State := ((s.setReg (ctxObj k 0x25) 0x08 3).setReg64 (ctxObj k 0x25) 0x09 n).msix k 3

theorem partShown_raises (s : State) (k n : Nat) : s.raises (s.partShown k n) :=
  ((setReg_raises ..).trans (setReg64_raises ..)).trans (msix_raises ..)

theorem partShown_at_job (s : State) (k n i : Nat) : (s.partShown k n).job i = s.job i := by
  rw [State.job, (partShown_raises s k n).jobs, State.job]

theorem partShown_writes (s : State) (k n : Nat) :
    (s.partShown k n).host.writes = s.host.writes ∧ (s.partShown k n).host.heldWrites = s.host.heldWrites := msix_writes ..

theorem reg_partShown (s : State) (k n : Nat) : ((s.partShown k n).reg (ctxObj k 0x25) 0x08).toNat = 3 := by
  rw [State.partShown, reg_congr (msix_dict ..), reg_setReg64_other _ _ _ _ _ _ (by simp [dkey]) (by simp [dkey]), reg_setReg_same]
  rfl

theorem reg64_partShown (s : State) (k : Nat) {n : Nat} (h : n < 2 ^ 64) : (s.partShown k n).reg64 (ctxObj k 0x25) 0x09 = n := by
  rw [State.partShown, State.reg64, reg_congr (msix_dict ..), reg_congr (msix_dict ..)]
  exact reg64_setReg64 _ _ _ _ h

/-- A part whose write ends well is in place, and at a device that owns no shard nothing else goes on. -/
theorem exec_checkpointWriteDone_good {tier a : Nat} {bs : List Byte} {rest : List (Bool × Nat × Nat × List Byte)} (hj : s.job k = some j)
    (hp : j.parts = (false, tier, a, bs) :: rest) (away : ∀ d ∈ j.shards, j.owns d = false)
    (inRange : tier = 4 ∨ s.inPartition k a (a + bs.length) = true) : exec (.checkpointWriteDone k true) s =
      .next (((s.setJob k (some { j with parts := rest })).writePart k tier a bs).partShown k bs.length) := by
  refine congrArg Host.Outcome.next (?_ : s.partDone k true = _)
  have ok : (tier = 4 || s.inPartition k a (a + bs.length)) = true := by simpa using inRange
  simp only [State.partDone, hj, hp, ok, Bool.and_self, if_true, Bool.false_eq_true, if_false]
  refine tryUpdates_of_no_owner (j := { j with parts := rest }) ?_ away
  exact (partShown_at_job ..).trans ((writePart_at_job ..).trans (job_setJob_same ..))

/-! ## O45 -/

/-- Settles O45: each command by its own lemma, a checkpoint part by its write and by what is shown of it. That a release names the step
that has ended is log 75, and the body of a commit notice is log 73. -/
theorem versionsCommitAndRetire : Obligations.VersionsCommitAndRetire := by
  unfold Obligations.VersionsCommitAndRetire
  refine ⟨?_, ?_, fun s k j => job_tryCommit, fun s k j tick v => exec_commitTick, fun s k j v d w => commitVersions_commits,
    fun s p => exec_ratioPartial, fun s k layer j a b hj => ratioArrive_keeps a b hj, ?_⟩
  · rintro s p _ _ j rfl rfl arrives hj
    exact release_releases arrives hj
  · rintro s p _ j rfl arrives hj
    exact ⟨exec_completionReport_first arrives hj, exec_completionReport_again arrives hj, _, exec_commitNotice arrives hj, rfl, rfl,
      (complete_at_job ..).trans (job_setJob_same ..)⟩
  · intro s k tier a j bs rest _ hj hp away inRange short
    refine ⟨_, exec_checkpointWriteDone_good hj hp away inRange, ?_, reg_partShown .., reg64_partShown _ _ short, ?_, ?_⟩
    · exact (partShown_at_job ..).trans ((writePart_at_job ..).trans (job_setJob_same ..))
    · rintro rfl
      rw [(partShown_raises ..).mem, (partShown_writes ..).1, (partShown_writes ..).2, writePart_host]
      exact ⟨(hostWrites_raises ..).mem, fun awake => hostWrites_active (s := s.setJob k _) awake _,
        fun asleep => hostWrites_asleep (s := s.setJob k _) asleep _⟩
    · intro device
      rw [(partShown_raises ..).mem, (partShown_writes ..).1, writePart_device device, devWrite_mem, devWrite_host]
      exact ⟨rfl, rfl⟩

end Sys2Proof.Machine
end

section
/-! PROOFS. What a step runs, and the state that reset leaves (R468, R487, R503, R534, R569, R590). -/

namespace Sys2Proof.Machine

variable {s t : State}

/-! ## O6: the reset state -/

/-- Settles O6: the reset state's stores are empty, so that each read falls through to what reset shows; only 16 contexts are asked for. The
memory's fill 0 is the model's choice (log 5). -/
theorem resetStateIsCanonicalAndShowsStatedValues : Obligations.ResetStateIsCanonicalAndShowsStatedValues := by
  unfold Obligations.ResetStateIsCanonicalAndShowsStatedValues
  refine ⟨rfl, fun _ => rfl, rfl, fun _ => rfl, fun _ => rfl, rfl, rfl, ?_⟩
  decide

/-! ## O1 and O2: what a step runs -/

/-- Settles O1: the two cases of `step` by the queue. -/
theorem stepRunsFrontCommand : Obligations.StepRunsFrontCommand := fun _ _ _ => rfl

/-- The global cycle number is one further when one cycle passes; the 64 bit tick counter wraps (R569). -/
theorem pass_one_now (k : Clock) : (60 * (k.pass 1).tick.toNat + (k.pass 1).cycle) % (60 * 2 ^ 64) =
    (60 * k.tick.toNat + k.cycle + 1) % (60 * 2 ^ 64) := by
  have ticks : (k.tick + BitVec.ofNat 64 ((k.cycle + 1) / 60)).toNat = (k.tick.toNat + (k.cycle + 1) / 60) % 2 ^ 64 := by
    rw [BitVec.toNat_add, BitVec.toNat_ofNat, Nat.add_mod_mod]
  have cycles := Nat.div_add_mod (k.cycle + 1) 60
  simp only [Clock.pass, ticks]
  omega

theorem passCycles_one_now (s : State) : (s.passCycles 1).now % (60 * 2 ^ 64) = (s.now + 1) % (60 * 2 ^ 64) := by
  rw [State.now, passCycles_clock s one_ne_zero]
  exact pass_one_now s.clock

theorem State.passes.pending (h : s.passes t) : t.pending = s.pending := by rw [h]

theorem step_of_empty (h : s.pending = []) : step s = .next s.idle := by rw [step, h]

theorem idle_of_alive (h : s.power.alive = true) : s.idle = s.passCycles 1 := if_pos h

theorem idle_of_dead (h : s.power.alive = false) : s.idle = s := if_neg (by simp [h])

theorem idle_passes (s : State) : s.passes s.idle := by
  cases h : s.power.alive with
  | true => exact idle_of_alive h ▸ passCycles_passes s 1
  | false => exact (idle_of_dead h).symm ▸ (rfl : s.passes s)

/-- Settles O2: an idle device passes one cycle, which reaches neither the queue, memory, logical cores, ports nor slots. That an empty queue
lets a cycle pass is the model's choice (log 14). -/
theorem idleStepPassesOneCycle : Obligations.IdleStepPassesOneCycle := by
  intro s empty
  have time := idle_passes s
  refine ⟨_, step_of_empty empty, time.pending.trans empty, time.mem, time.lcores, time.ports, time.slots, fun alive => ?_, idle_of_dead⟩
  rw [idle_of_alive alive]
  exact passCycles_one_now s

end Sys2Proof.Machine
end

section
/-! PROOFS. Which operations leave the outer state (the queue, the identity and device memory) as it is: one equation per operation that no
memory write is part of, in the order in which the model defines them. -/

namespace Sys2Proof.Machine

/-- A change of any other fields leaves the outer state. -/
theorem outer_with (t : State) (clock pins cores lcores pods barriers sems flights ctls cxl host ports fabric slots rankMaps jobs nextSequence
    radish power firmware calib errors masters serial dict) :
    ({ t with
        clock := clock, pins := pins, cores := cores, lcores := lcores, pods := pods, barriers := barriers, sems := sems
        flights := flights, ctls := ctls, cxl := cxl, host := host, ports := ports, fabric := fabric, slots := slots
        rankMaps := rankMaps, jobs := jobs, nextSequence := nextSequence, radish := radish, power := power
        firmware := firmware, calib := calib, errors := errors, masters := masters, serial := serial, dict := dict } : State).outer =
      t.outer :=
  outer_of_mem rfl rfl rfl

theorem foldl_outer_fst {β γ : Type} (f : State × γ → β → State × γ) (h : ∀ q x, (f q x).1.outer = q.1.outer) (l : List β) (q : State × γ) :
    (l.foldl f q).1.outer = q.1.outer :=
  foldl_frame (fun q => q.1.outer) f h l q

variable (s : State)

@[simp] theorem nextEdge_outer : s.nextEdge.outer = s.outer := by simp [State.nextEdge]

@[simp] theorem readFailed_outer (who : Requester) (k a detail : Nat) : (s.readFailed who k a detail).outer = s.outer := by
  unfold State.readFailed
  dsimp only
  repeat' split
  all_goals simp [foldl_outer, ↓outer_with]

@[simp] theorem uncorrectable_outer (unit : Word) (who : Requester) (k a detail : Nat) : (s.uncorrectable unit who k a detail).outer = s.outer := by
  simp [State.uncorrectable]

@[simp] theorem linkSend_outer (p sub : Nat) (arg : DWord) (body : List Byte) : (s.linkSend p sub arg body).outer = s.outer := by
  simp [State.linkSend]

@[simp] theorem putScalar_outer (i : Nat) (h : Held) (e : ElemW) : (s.putScalar i h e).outer = s.outer := by
  unfold State.putScalar
  repeat' split
  all_goals simp

@[simp] theorem trafficBump_outer (idx sub : Nat) : (s.trafficBump idx sub).outer = s.outer := by
  simp [State.trafficBump, apply_ite State.outer]

@[simp] theorem releaseLocal_outer (k r b : Nat) : (s.releaseLocal k r b).outer = s.outer := by simp [State.releaseLocal, ↓outer_with]

@[simp] theorem rootRelease_outer (k r b : Nat) (p : BarrierParams) : (s.rootRelease k r b p).outer = s.outer := by
  unfold State.rootRelease
  dsimp only
  repeat' split
  all_goals simp [foldl_outer, apply_ite State.outer]

@[simp] theorem rootCheck_outer (k r b : Nat) : (s.rootCheck k r b).outer = s.outer := by
  unfold State.rootCheck
  dsimp only
  repeat' split
  all_goals simp

@[simp] theorem deviceArrive_outer (k r b rank number : Nat) (p : BarrierParams) : (s.deviceArrive k r b rank number p).1.outer = s.outer := by
  unfold State.deviceArrive
  dsimp only
  repeat' split
  all_goals simp

@[simp] theorem localComplete_outer (k r b : Nat) (p : BarrierParams) (l : Nat) (at_ : Address) : (s.localComplete k r b p l at_).outer = s.outer := by
  unfold State.localComplete
  dsimp only
  repeat' split
  all_goals simp

@[simp] theorem discarded_outer (p : Packet) : (s.discarded p).outer = s.outer := by
  unfold State.discarded
  repeat' split
  all_goals simp

@[simp] theorem sendError_outer (k : Nat) (dest tag : Half) (reason detail : Nat) : (s.sendError k dest tag reason detail).outer = s.outer := by
  simp [State.sendError]

@[simp] theorem useMemory_outer : s.useMemory.outer = s.outer := by simp [State.useMemory, ↓outer_with]

@[simp] theorem memoryWoken_outer : s.memoryWoken.outer = s.outer := by
  unfold State.memoryWoken
  dsimp only
  repeat' split
  all_goals simp [↓outer_with]

@[simp] theorem wakeMemory_outer : s.wakeMemory.outer = s.outer := by
  simp [State.wakeMemory, ↓outer_with, apply_ite State.outer]

@[simp] theorem repair_outer (n h g : Nat) (written : Bool) : (s.repair n h g written).outer = s.outer := by
  simp [State.repair, apply_ite State.outer]

@[simp] theorem lost_outer (n h g : Nat) : (s.lost n h g).outer = s.outer := by simp [State.lost]

@[simp] theorem remoteLost_outer (p : Packet) (b : Nat) : (s.remoteLost p b).outer = s.outer := by
  unfold State.remoteLost
  dsimp only
  repeat' split
  all_goals simp

@[simp] theorem noteRefusal_outer (k result idx sub : Nat) : (s.noteRefusal k result idx sub).outer = s.outer :=
  (alarm_outer ..).trans ((setReg64_outer ..).trans ((setReg_outer ..).trans (bump_outer ..)))

@[simp] theorem give_outer (m : Nat) (a : WAnswer) : (s.give m a).outer = s.outer := by
  simp [State.give, ↓outer_with, apply_ite State.outer]

@[simp] theorem noteApplied_outer (m idx sub : Nat) (v : Word) (result : Nat) (command : Bool) :
    (s.noteApplied m idx sub v result command).outer = s.outer := by
  simp [State.noteApplied, ↓outer_with]

@[simp] theorem clearCountersRule_outer (idx top : Nat) : (clearCountersRule idx top s).1.outer = s.outer := by simp [clearCountersRule]

@[simp] theorem setLatch_outer (m : Nat) (l : Option Wide) : (s.setLatch m l).outer = s.outer := by simp [State.setLatch]

@[simp] theorem sendData_outer (k : Nat) (dest tag : Half) (bs : List Byte) : (s.sendData k dest tag bs).outer = s.outer := by
  unfold State.sendData
  exact foldl_outer _ (fun _ _ => by simp) _ _

@[simp] theorem gather_outer (k : Nat) (g : Gather) : (s.gather k g).outer = s.outer := by
  unfold State.gather
  repeat' split
  all_goals simp

@[simp] theorem semArrive_outer (k r q : Nat) (ask : SemAsk) (n input : Nat) : (s.semArrive k r q ask n input).outer = s.outer := by
  simp [State.semArrive]

@[simp] theorem remoteRun_outer (why : Purpose) (i : Nat) (x : LCore) (a : Nat) (bs : List Byte) : (s.remoteRun why i x a bs).outer = s.outer := by
  unfold State.remoteRun
  split
  · rfl
  · refine foldl_outer _ (fun t p => ?_) _ s
    dsimp only
    repeat' split
    all_goals simp

@[simp] theorem hostWrites_outer (fn : Nat) (ws : List (Nat × List Byte)) : (s.hostWrites fn ws).outer = s.outer := by
  simp [State.hostWrites, ↓outer_with, apply_ite State.outer]

@[simp] theorem replayDone_outer (k : Nat) (j : Job) (w : DWord) : (s.replayDone k j w).outer = s.outer := by simp [State.replayDone]

@[simp] theorem finishJob_outer (k j : Nat) (tick last digest : DWord) : (s.finishJob k j tick last digest).outer = s.outer := by
  simp [State.finishJob]

@[simp] theorem tryDone_outer (k : Nat) : (s.tryDone k).outer = s.outer := by
  unfold State.tryDone
  dsimp only
  repeat' split
  all_goals simp [foldl_outer, apply_ite State.outer]

@[simp] theorem releaseAt_outer (k r : Nat) (e : DWord) : (s.releaseAt k r e).outer = s.outer := by
  unfold State.releaseAt
  dsimp only
  repeat' split
  all_goals simp

@[simp] theorem releaseFor_outer (k : Nat) (j : Job) (r : Nat) (e : DWord) : (s.releaseFor k j r e).outer = s.outer := by
  unfold State.releaseFor
  dsimp only
  rw [foldl_outer _ (fun _ _ => by simp)]
  split <;> simp

@[simp] theorem releaseStep_outer (k : Nat) (j : Job) (e : DWord) : (s.releaseStep k j e).outer = s.outer := by
  simp [State.releaseStep, foldl_outer]

@[simp] theorem releaseRest_outer (k : Nat) (j : Job) (from_ : DWord) : (s.releaseRest k j from_).outer = s.outer := by
  simp [State.releaseRest, foldl_outer]

@[simp] theorem ranksEnd_outer (k : Nat) (last : Option DWord) : (s.ranksEnd k last).outer = s.outer := by
  unfold State.ranksEnd
  dsimp only
  repeat' split
  all_goals simp

@[simp] theorem haltEnd_outer (k : Nat) (step : DWord) : (s.haltEnd k step).outer = s.outer := by
  unfold State.haltEnd
  repeat' split
  all_goals simp

@[simp] theorem settled_outer (c i : Nat) : (s.settled c i).outer = s.outer := by
  unfold State.settled
  repeat' split
  all_goals simp

@[simp] theorem post_outer (k base len : Nat) (bs : List Byte) : (s.post k base len bs).outer = s.outer := by simp [State.post]

@[simp] theorem writeRecord_outer (k : Nat) (j : Job) (seq : Nat) (r : Nat × Nat × DWord × List Byte) : (s.writeRecord k j seq r).outer = s.outer := by
  simp [State.writeRecord, ↓outer_with, apply_ite State.outer]

@[simp] theorem writeRecords_outer (k : Nat) (j : Job) (rs : List (Nat × Nat × DWord × List Byte)) : (s.writeRecords k j rs).outer = s.outer := by
  simp [State.writeRecords, foldl_outer]

@[simp] theorem commitLedger_outer (k : Nat) (tick v digest : DWord) : (s.commitLedger k tick v digest).outer = s.outer := by
  unfold State.commitLedger
  dsimp only
  repeat' split
  all_goals simp

@[simp] theorem commitVersions_outer (k : Nat) (v : DWord) : (s.commitVersions k v).outer = s.outer := by
  unfold State.commitVersions
  dsimp only
  repeat' split
  all_goals simp

@[simp] theorem shieldCheckpoint_outer (k : Nat) (v : DWord) : (s.shieldCheckpoint k v).outer = s.outer := by
  unfold State.shieldCheckpoint
  dsimp only
  repeat' split
  all_goals simp

@[simp] theorem checkpointLost_outer (k state : Nat) (v : DWord) : (s.checkpointLost k state v).outer = s.outer := by simp [State.checkpointLost]

@[simp] theorem checkpoint_outer (k : Nat) (v : DWord) : (s.checkpoint k v).outer = s.outer := by
  unfold State.checkpoint
  dsimp only
  repeat' split
  all_goals simp

@[simp] theorem serveWaiting_outer (k : Nat) : (s.serveWaiting k).outer = s.outer := by
  unfold State.serveWaiting
  dsimp only
  repeat' split
  all_goals simp [foldl_outer]

@[simp] theorem agree_outer (k : Nat) (v : DWord) : (s.agree k v).outer = s.outer := by
  unfold State.agree
  repeat' split
  all_goals simp [foldl_outer]

@[simp] theorem orderReplay_outer (k : Nat) (v w : DWord) : (s.orderReplay k v w).outer = s.outer := by
  unfold State.orderReplay
  dsimp only
  repeat' split
  all_goals simp [foldl_outer]

@[simp] theorem findStep_outer (k : Nat) : (s.findStep k).outer = s.outer := by
  unfold State.findStep
  dsimp only
  repeat' split
  all_goals simp

@[simp] theorem dispute_outer (k : Nat) (v : DWord) : (s.dispute k v).outer = s.outer := by
  unfold State.dispute
  dsimp only
  repeat' split
  all_goals simp [foldl_outer]

@[simp] theorem compareDigests_outer (k : Nat) (v : DWord) : (s.compareDigests k v).outer = s.outer := by
  unfold State.compareDigests
  dsimp only
  repeat' split
  all_goals simp

@[simp] theorem reportDigest_outer (k : Nat) (j : Job) (v : DWord) : (s.reportDigest k j v).outer = s.outer := by
  simp [State.reportDigest, apply_ite State.outer]

@[simp] theorem tryCommit_outer (k : Nat) : (s.tryCommit k).outer = s.outer := by
  unfold State.tryCommit
  split
  · rfl
  next j _ =>
    dsimp only
    have same {c : Bool} : (if c = true then s.reportDigest k j j.nextCommit else s).outer = s.outer := by split <;> simp
    split
    · exact same
    · rw [apply_ite State.outer, foldl_outer _ (fun _ _ => by simp), setJob_outer, same, ite_self]

@[simp] theorem sampleCheck_outer (k : Nat) (j : Job) (d : Shard) (ps : List Pos) : (s.sampleCheck k j d ps).1.outer = s.outer := by
  unfold State.sampleCheck
  dsimp only
  repeat' split
  all_goals simp

@[simp] theorem updateLost_outer (k : Nat) (d : Shard) (b : Nat) : (s.updateLost k d b).outer = s.outer := by
  unfold State.updateLost
  dsimp only
  repeat' split
  all_goals simp

@[simp] theorem forceComparison_outer (k : Nat) (v : DWord) : (s.forceComparison k v).outer = s.outer := by
  unfold State.forceComparison
  dsimp only
  repeat' split
  all_goals simp

@[simp] theorem record_outer (k kind : Nat) (step : DWord) (body : List Byte) : (s.record k kind step body).outer = s.outer := by
  unfold State.record
  dsimp only
  repeat' split
  all_goals simp [foldl_outer]

@[simp] theorem reportArrive_outer (k : Nat) (step : DWord) (from_ : Half) (pairs : List (Nat × DWord)) :
    (s.reportArrive k step from_ pairs).outer = s.outer := by
  unfold State.reportArrive
  repeat' split
  all_goals simp

@[simp] theorem reportStep_outer (k : Nat) (v : DWord) : (s.reportStep k v).outer = s.outer := by
  unfold State.reportStep
  dsimp only
  repeat' split
  all_goals simp

@[simp] theorem sendOperand_outer (k t : Nat) (dest : Half) (d : Shard) (step : DWord) (level : Nat) (narrow : Bool) (vals : List (Nat × Word)) :
    (s.sendOperand k t dest d step level narrow vals).outer = s.outer := by
  unfold State.sendOperand
  exact foldl_outer _ (fun _ _ => by simp) _ _

@[simp] theorem rootSend_outer (k : Nat) (j : Job) (d : Shard) (second : Bool) (step : DWord) (right narrow : Bool) (vals : List (Nat × Word)) :
    (s.rootSend k j d second step right narrow vals).outer = s.outer := by
  simp [State.rootSend, apply_ite State.outer]

@[simp] theorem askTier3_outer (i : Nat) (x : LCore) (g n : Nat) : (s.askTier3 i x g n).1.outer = s.outer := by
  unfold State.askTier3
  dsimp only
  repeat' split
  all_goals simp

@[simp] theorem hostAsk_outer (fn : Nat) (a : HostAsk) : (s.hostAsk fn a).outer = s.outer := by simp [State.hostAsk, ↓outer_with]

@[simp] theorem askHost_outer (i : Nat) (x : LCore) (g n : Nat) : (s.askHost i x g n).1.outer = s.outer := by simp [State.askHost]

@[simp] theorem askAll_outer (i : Nat) (x : LCore) (gs : List Nat) : (s.askAll i x gs).1.outer = s.outer :=
  (foldl_outer_fst _ (fun _ _ => by simp) _ _).trans (foldl_outer_fst _ (fun _ _ => by simp) _ _)

@[simp] theorem openFetch_outer (i : Nat) (h : Held) (gs : List Nat) : (s.openFetch i h gs).outer = s.outer := by
  unfold State.openFetch
  dsimp only
  repeat' split
  all_goals simp

@[simp] theorem refetch_outer (i : Nat) (before after : List Prefetch) : (s.refetch i before after).outer = s.outer := by
  unfold State.refetch
  refine foldl_outer _ (fun t p => ?_) _ _
  repeat' split
  all_goals simp

@[simp] theorem mistakeAt_outer (c i : Nat) (h : Held) (m : Mistake) : (s.mistakeAt c i h m).outer = s.outer := by simp [State.mistakeAt]

@[simp] theorem startPods_outer (cs : List Nat) : (s.startPods cs).outer = s.outer := by
  unfold State.startPods
  exact foldl_outer _ (fun _ _ => by simp) _ _

@[simp] theorem noteRead_outer (idx : Nat) : (s.noteRead idx).outer = s.outer := by
  unfold State.noteRead
  dsimp only
  repeat' split
  all_goals simp [↓outer_with]

@[simp] theorem fetchWord_outer (m idx sub : Nat) (f : Field) : (s.fetchWord m idx sub f).1.outer = s.outer := by
  unfold State.fetchWord
  dsimp only
  repeat' split
  all_goals simp

@[simp] theorem read32_outer (m idx sub : Nat) : (s.read32 m idx sub).1.outer = s.outer := by
  unfold State.read32
  dsimp only
  repeat' split
  all_goals simp

@[simp] theorem read64_outer (m idx sub : Nat) : (s.read64 m idx sub).1.outer = s.outer := by
  unfold State.read64
  dsimp only
  repeat' split
  all_goals simp

@[simp] theorem readOp_outer (m idx sub : Nat) (wide : Bool) : (s.readOp m idx sub wide).1.outer = s.outer := by
  unfold State.readOp
  dsimp only
  repeat' split
  all_goals simp

@[simp] theorem holdPart_outer (m idx sub : Nat) (f : Field) (v : Word) : (s.holdPart m idx sub f v).outer = s.outer := by simp [State.holdPart]

@[simp] theorem objectDone_outer (m : Nat) (es : List WAnswer) : (s.objectDone m es).outer = s.outer := by
  unfold State.objectDone
  dsimp only
  repeat' split
  all_goals simp

@[simp] theorem reply_outer (f : WFrame) (result : Nat) (es : List WAnswer) : (s.reply f result es).outer = s.outer := by
  simp [State.reply, ↓outer_with]

@[simp] theorem forwardDone_outer (q : Forwarded) : (s.forwardDone q).outer = s.outer := by
  simp [State.forwardDone, ↓outer_with, apply_ite State.outer]

@[simp] theorem forwardFrame_outer (m : Nat) (f : WFrame) (object : Bool) : (s.forwardFrame m f object).outer = s.outer := by
  unfold State.forwardFrame
  dsimp only
  split
  · simp
  · exact foldl_outer_fst _ (fun _ _ => by simp) _ _

@[simp] theorem aggregateStartRule_outer (m v : Nat) : (aggregateStartRule m v s).1.outer = s.outer := by
  unfold aggregateStartRule
  dsimp only
  repeat' split
  all_goals simp

@[simp] theorem calibWriteRule_outer (m idx sub : Nat) (v : Word) : (calibWriteRule m idx sub v s).1.outer = s.outer := by
  unfold calibWriteRule
  dsimp only
  repeat' split
  all_goals simp [↓outer_with]

@[simp] theorem within_outer {f : State → State} (ok : Bool) (h : ∀ t, (f t).outer = t.outer) : (within ok f s).1.outer = s.outer := by
  unfold within
  split
  · exact h s
  · rfl

@[simp] theorem orRefuse_outer {t : State} (ok : Bool) (h : t.outer = s.outer) : (orRefuse ok s t).1.outer = s.outer := by
  unfold orRefuse
  split
  · exact h
  · rfl

@[simp] theorem partitionRule_outer (k sub n : Nat) : (partitionRule k sub n s).1.outer = s.outer :=
  orRefuse_outer s _ rfl

@[simp] theorem flushTail_outer : s.flushTail.outer = s.outer := by
  simp [State.flushTail, foldl_outer, ↓outer_with]

@[simp] theorem contextRule_outer (k o lo n v : Nat) : (contextRule k o lo n v s).1.outer = s.outer := by
  have store (t : State) : (if n = 2 then t.setReg64 (ctxObj k o) lo v else t.setReg (ctxObj k o) lo (BitVec.ofNat 32 v)).outer = t.outer := by
    split <;> simp
  unfold contextRule
  split <;> simp [store]

@[simp] theorem giveUp_outer (k j : Nat) : (s.giveUp k j).outer = s.outer := by
  simp [State.giveUp, apply_ite State.outer]

@[simp] theorem armRule_outer (k j : Nat) : (armRule k j s).1.outer = s.outer := by
  unfold armRule
  dsimp only
  repeat' split
  all_goals simp

@[simp] theorem setRankMap_outer (k j : Nat) (m : List Half) : (s.setRankMap k j m).outer = s.outer := by simp [State.setRankMap, ↓outer_with]

@[simp] theorem dropFetched_outer (k : Nat) : (s.dropFetched k).outer = s.outer := by simp [State.dropFetched, ↓outer_with]

@[simp] theorem refuseSlot_outer (k j cause : Nat) : (s.refuseSlot k j cause).outer = s.outer := by simp [State.refuseSlot]

@[simp] theorem withdrawRule_outer (k j : Nat) : (withdrawRule k j s).1.outer = s.outer := by
  unfold withdrawRule
  dsimp only
  repeat' split
  all_goals simp

@[simp] theorem abortRule_outer (k j : Nat) : (abortRule k j s).1.outer = s.outer := by
  unfold abortRule
  repeat' split
  all_goals simp

@[simp] theorem clearRule_outer (k j : Nat) : (clearRule k j s).1.outer = s.outer := by
  unfold clearRule
  dsimp only
  repeat' split
  all_goals simp

@[simp] theorem slotCommandRule_outer (k j : Nat) (v : Word) : (slotCommandRule k j v s).1.outer = s.outer := by
  unfold slotCommandRule
  repeat' split
  all_goals simp

@[simp] theorem jobFieldRule_outer (k j sub n : Nat) : (jobFieldRule k j sub n s).1.outer = s.outer := by
  unfold jobFieldRule
  dsimp only
  repeat' split
  all_goals simp

@[simp] theorem slotRule_outer (k j o lo v : Nat) : (slotRule k j o lo v s).1.outer = s.outer := by
  unfold slotRule
  repeat' split
  all_goals simp

@[simp] theorem haltClearRule_outer (c i : Nat) (v : Word) : (haltClearRule c i v s).1.outer = s.outer := by
  simp [haltClearRule, apply_ite State.outer]

@[simp] theorem one_outer {f : Rule} (v : Word) (h : (f s).1.outer = s.outer) : (one v f s).1.outer = s.outer := by
  unfold one
  split
  · exact h
  · rfl

@[simp] theorem loadStartRule_outer (c : Nat) : (loadStartRule c s).1.outer = s.outer := by
  unfold loadStartRule
  dsimp only
  repeat' split
  all_goals simp

@[simp] theorem coreRule_outer (c o lo n v : Nat) : (coreRule c o lo n v s).1.outer = s.outer := by
  have store (t : State) : (if n = 2 then t.setReg64 (coreObj c o) lo v else t.setReg (coreObj c o) lo (BitVec.ofNat 32 v)).outer = t.outer := by
    split <;> simp
  unfold coreRule
  split <;> simp [store]

@[simp] theorem flood_outer (skip : Option Nat) (sub : Nat) (arg : DWord) (body : List Byte) : (s.flood skip sub arg body).outer = s.outer :=
  foldl_outer _ (fun _ _ => by simp) _ s

@[simp] theorem retime_outer : s.retime.outer = s.outer := by
  unfold State.retime
  dsimp only
  repeat' split
  all_goals simp [↓outer_with]

@[simp] theorem mapChange_outer (f : Fabric) : (s.mapChange f).outer = s.outer := by
  simp [State.mapChange, ↓outer_with, apply_ite State.outer]

@[simp] theorem ownRecord_outer : s.ownRecord.outer = s.outer := by
  unfold State.ownRecord
  dsimp only
  repeat' split
  all_goals simp

@[simp] theorem portDown_outer (p : Nat) : (s.portDown p).outer = s.outer := by
  simp [State.portDown, ↓outer_with, apply_ite State.outer]

@[simp] theorem portMasks_outer (p : Nat) : (s.portMasks p).outer = s.outer := by
  simp [State.portMasks, apply_ite State.outer]

@[simp] theorem recordLane_outer (p l : Nat) (sprout : Option Nat) (left : Nat) : (s.recordLane p l sprout left).outer = s.outer := by
  unfold State.recordLane
  dsimp only
  repeat' split
  all_goals simp

@[simp] theorem dropLane_outer (p l : Nat) : (s.dropLane p l).outer = s.outer := by
  simp [State.dropLane, apply_ite State.outer]

@[simp] theorem requestLane_outer (p : Nat) (weak : Option Nat) : (s.requestLane p weak).outer = s.outer := by
  unfold State.requestLane
  dsimp only
  repeat' split
  all_goals simp

@[simp] theorem laneRule_outer (p : Nat) (v : Word) : (laneRule p v s).1.outer = s.outer := by
  unfold laneRule
  dsimp only
  repeat' split
  all_goals simp

@[simp] theorem floorRule_outer (v : Word) : (floorRule v s).1.outer = s.outer := by
  unfold floorRule
  dsimp only
  split
  · exact orRefuse_outer s _ rfl
  · split <;> rfl

@[simp] theorem setRec_outer (n : Nat) (r : StepRec) : (s.setRec n r).outer = s.outer := by simp [State.setRec, ↓outer_with]

@[simp] theorem discover_outer : s.discover.outer = s.outer := by simp [State.discover, ↓outer_with]

@[simp] theorem rerunSlot_outer (k j : Nat) : (s.rerunSlot k j).outer = s.outer := by simp [State.rerunSlot]

@[simp] theorem askLead_outer (k j : Nat) : (s.askLead k j).outer = s.outer := by
  simp [State.askLead, ↓outer_with, apply_ite State.outer]

@[simp] theorem restoreSlot_outer (k j : Nat) : (s.restoreSlot k j).outer = s.outer := by
  simp [State.restoreSlot, apply_ite State.outer]

@[simp] theorem restoreSlots_outer : s.restoreSlots.outer = s.outer := by
  simp [State.restoreSlots, foldl_outer]

@[simp] theorem beginStep_outer (n : Nat) : (s.beginStep n).outer = s.outer := by
  simp [State.beginStep, ↓outer_with, apply_ite State.outer]

@[simp] theorem beginAttempt_outer (cause : Nat) : (s.beginAttempt cause).outer = s.outer := by simp [State.beginAttempt, ↓outer_with]

@[simp] theorem leaveRule_outer : (leaveRule s).1.outer = s.outer := by
  simp [leaveRule, foldl_outer, apply_ite State.outer, ↓outer_with]

@[simp] theorem calibUnlockRule_outer (m : Nat) (v : Word) : (calibUnlockRule m v s).1.outer = s.outer :=
  orRefuse_outer s _ rfl

@[simp] theorem calibCommitRule_outer (m : Nat) : (calibCommitRule m s).1.outer = s.outer := by
  unfold calibCommitRule
  dsimp only
  repeat' split
  all_goals simp [↓outer_with]

@[simp] theorem calibLock_outer : s.calibLock.outer = s.outer := by simp [State.calibLock, ↓outer_with]

@[simp] theorem calibAbortRule_outer (m : Nat) : (calibAbortRule m s).1.outer = s.outer := by
  unfold calibAbortRule
  repeat' split
  all_goals simp

@[simp] theorem firmwareBeginRule_outer (m : Nat) : (firmwareBeginRule m s).1.outer = s.outer := by
  unfold firmwareBeginRule
  dsimp only
  repeat' split
  all_goals simp [↓outer_with]

@[simp] theorem imageRefused_outer (result version : Nat) (b : Bool) : (s.imageRefused result version b).outer = s.outer := by
  simp [State.imageRefused]

@[simp] theorem firmwareCheckRule_outer (m : Nat) : (firmwareCheckRule m s).1.outer = s.outer := by
  unfold firmwareCheckRule
  dsimp only
  repeat' split
  all_goals simp [↓outer_with]

@[simp] theorem firmwareAbortRule_outer (m : Nat) : (firmwareAbortRule m s).1.outer = s.outer := by
  unfold firmwareAbortRule
  dsimp only
  repeat' split
  all_goals simp [↓outer_with]

@[simp] theorem startMove_outer (state cause : Nat) : (s.startMove state cause).outer = s.outer := by simp [State.startMove, ↓outer_with]

@[simp] theorem activateRule_outer : (activateRule s).1.outer = s.outer := by
  unfold activateRule
  dsimp only
  repeat' split
  all_goals simp [↓outer_with]

@[simp] theorem confirmRule_outer : (confirmRule s).1.outer = s.outer := by
  unfold confirmRule
  dsimp only
  repeat' split
  all_goals simp [↓outer_with]

@[simp] theorem movedAll_outer : s.movedAll.outer = s.outer := by
  simp [State.movedAll, ↓outer_with, apply_ite State.outer]

@[simp] theorem fallBackFor_outer (cause : Nat) : (s.fallBackFor cause).outer = s.outer := by
  simp [State.fallBackFor, apply_ite State.outer]

@[simp] theorem fallBackRule_outer : (fallBackRule s).1.outer = s.outer := by simp [fallBackRule]

@[simp] theorem headerArrived_outer (m : Nat) (bs : List Byte) : (s.headerArrived m bs).outer = s.outer := by
  simp [State.headerArrived, ↓outer_with, apply_ite State.outer]

@[simp] theorem firmwareDataRule_outer (m : Nat) (v : Word) : (firmwareDataRule m v s).1.outer = s.outer := by
  unfold firmwareDataRule
  dsimp only
  repeat' split
  all_goals simp [↓outer_with]

@[simp] theorem nonceRule_outer (m v : Nat) : (nonceRule m v s).1.outer = s.outer :=
  orRefuse_outer s _ rfl

@[simp] theorem attestRule_outer (m : Nat) (v : Word) : (attestRule m v s).1.outer = s.outer :=
  orRefuse_outer s _ rfl

@[simp] theorem packageBeginRule_outer (m : Nat) : (packageBeginRule m s).1.outer = s.outer := by
  unfold packageBeginRule
  dsimp only
  repeat' split
  all_goals simp [↓outer_with]

@[simp] theorem forwardPackage_outer (bs : List Byte) : (s.forwardPackage bs).outer = s.outer := by
  simp [State.forwardPackage, foldl_outer, apply_ite State.outer]

@[simp] theorem installPackage_outer (bs : List Byte) : (s.installPackage bs).outer = s.outer := by
  unfold State.installPackage
  dsimp only
  repeat' split
  all_goals simp [↓outer_with]

@[simp] theorem packageAcceptRule_outer (m : Nat) : (packageAcceptRule m s).1.outer = s.outer := by
  unfold packageAcceptRule
  dsimp only
  repeat' split
  all_goals simp [↓outer_with]

@[simp] theorem packageAbortRule_outer (m : Nat) : (packageAbortRule m s).1.outer = s.outer := by
  unfold packageAbortRule
  dsimp only
  repeat' split
  all_goals simp [↓outer_with]

@[simp] theorem packageDataRule_outer (m : Nat) (v : Word) : (packageDataRule m v s).1.outer = s.outer := by
  unfold packageDataRule
  dsimp only
  repeat' split
  all_goals simp [↓outer_with]

@[simp] theorem dropParts_outer (idx lo : Nat) : (s.dropParts idx lo).outer = s.outer := by
  unfold State.dropParts
  exact foldl_outer _ (fun _ _ => by simp) _ _

@[simp] theorem barAnswer_outer (fn offset status : Nat) (data : List Byte) : (s.barAnswer fn offset status data).outer = s.outer := by
  simp [State.barAnswer, ↓outer_with]

@[simp] theorem runLoads_outer (c i n : Nat) (no : List Nat) : (State.runLoads c i n no s).outer = s.outer := by
  induction n generalizing no s with
  | zero => rfl
  | succ n ih =>
    unfold State.runLoads
    dsimp only
    repeat' split
    all_goals simp [ih, foldl_outer]

@[simp] theorem loadNow_outer (c i : Nat) : (s.loadNow c i).outer = s.outer := by
  unfold State.loadNow
  split <;> simp

@[simp] theorem mwtRun_outer (c i : Nat) (h : Held) : (mwtRun s c i h).outer = s.outer := by
  unfold mwtRun
  repeat' split
  all_goals simp

@[simp] theorem mstrRun_outer (_c i : Nat) (h : Held) : (mstrRun s _c i h).outer = s.outer := by
  unfold mstrRun
  dsimp only
  repeat' split
  all_goals simp

@[simp] theorem moutRun_outer (_c i : Nat) (h : Held) : (moutRun s _c i h).outer = s.outer := by
  unfold moutRun
  dsimp only
  repeat' split
  all_goals simp

@[simp] theorem mswapRun_outer (_c i : Nat) (h : Held) : (mswapRun s _c i h).outer = s.outer := by
  unfold mswapRun
  repeat' split
  all_goals simp

@[simp] theorem askVersion_outer (i : Nat) (x y : LCore) (h : Held) : (s.askVersion i x y h).outer = s.outer := by
  unfold State.askVersion
  dsimp only
  repeat' split
  all_goals simp

@[simp] theorem askWatches_outer (i : Nat) (x : LCore) (d : Desc) : (s.askWatches i x d).1.outer = s.outer := by
  unfold State.askWatches
  dsimp only
  repeat' split
  · rfl
  · rfl
  · exact foldl_outer_fst _ (fun _ _ => by simp) _ _

@[simp] theorem openEntry_outer (i : Nat) (h : Held) (arrived : Bool) : (s.openEntry i h arrived).outer = s.outer := by
  unfold State.openEntry
  dsimp only
  repeat' split
  all_goals simp

@[simp] theorem lostRead_outer (c i : Nat) (x : LCore) (h : Held) (a : Nat) : (s.lostRead c i x h a).outer = s.outer := by
  unfold State.lostRead
  dsimp only
  repeat' split
  all_goals simp

@[simp] theorem addTaps_outer (i : Nat) (y : LCore) (h : Held) (bytes : Sparse Byte) (src d : Desc) (ix : List Int) :
    (s.addTaps i y h bytes src d ix).outer = s.outer := by
  unfold State.addTaps
  dsimp only
  repeat' split
  all_goals simp

@[simp] theorem sendScatter_outer (i : Nat) (x : LCore) (h : Held) (p : Desc × Nat) (ts : List ScatterTerm) :
    (s.sendScatter i x h p ts).outer = s.outer := by
  unfold State.sendScatter
  dsimp only
  repeat' split
  all_goals simp

@[simp] theorem putBank_outer (c : Nat) (bs : List (Nat × Byte)) (stop : Nat) : (s.putBank c bs stop).outer = s.outer := by simp [State.putBank]

@[simp] theorem queueArrival_outer (m : Nat) (a : Arrival) : (s.queueArrival m a).outer = s.outer := by simp [State.queueArrival, ↓outer_with]

@[simp] theorem tryStart_outer : s.tryStart.outer = s.outer := by
  simp [State.tryStart, apply_ite State.outer]

@[simp] theorem resetJob_outer (k : Nat) : (s.resetJob k).outer = s.outer := by
  unfold State.resetJob
  dsimp only
  repeat' split
  all_goals simp

@[simp] theorem corrected_outer (n h g : Nat) : (s.corrected n h g).outer = s.outer := by
  unfold State.corrected
  dsimp only
  repeat' split
  all_goals simp

@[simp] theorem openRow_outer (n bank row : Nat) (write : Bool) : (s.openRow n bank row write).outer = s.outer := by
  unfold State.openRow
  dsimp only
  repeat' split
  all_goals simp

@[simp] theorem doSwap_outer (c i : Nat) (x : LCore) (n arr : Nat) : (s.doSwap c i x n arr).outer = s.outer := by simp [State.doSwap]

@[simp] theorem rise_outer (k : Nat) (d : Shard) (second : Bool) (step : DWord) (ps : List Pos) (n level i : Nat) (vals : List (Nat × Word)) :
    (State.rise k d second step ps n level i vals s).outer = s.outer := by
  induction n generalizing level i vals s with
  | zero => rfl
  | succ n ih =>
    unfold State.rise
    dsimp only
    repeat' split
    all_goals simp [ih]

@[simp] theorem startLeaf_outer (k : Nat) (d : Shard) (step : DWord) (ps : List Pos) (n : Nat) (p : Pos) (second : Bool) :
    (s.startLeaf k d step ps n p second).outer = s.outer := by
  unfold State.startLeaf
  dsimp only
  repeat' split
  all_goals simp

@[simp] theorem scrubGranule_outer (n h g : Nat) (errors : List (Nat × Byte)) : (s.scrubGranule n h g errors).outer = s.outer := by
  unfold State.scrubGranule
  dsimp only
  repeat' split
  all_goals simp

@[simp] theorem scrubRow_outer (h bank : Nat) (errors : List (Nat × Nat × Byte)) : (s.scrubRow h bank errors).outer = s.outer := by
  simp [State.scrubRow, foldl_outer, apply_ite State.outer]

@[simp] theorem faultSlot_outer (k j cause : Nat) : (s.faultSlot k j cause).outer = s.outer := by
  unfold State.faultSlot
  repeat' split
  all_goals simp

@[simp] theorem noteTemps_outer (pods devices : List Int) : (s.noteTemps pods devices).outer = s.outer := by
  simp [State.noteTemps, apply_ite State.outer]

@[simp] theorem throttleBegins_outer (why : Nat) : (s.throttleBegins why).outer = s.outer := by simp [State.throttleBegins]

@[simp] theorem disarm_outer (k r l b : Nat) : (s.disarm k r l b).outer = s.outer := by
  unfold State.disarm
  dsimp only
  repeat' split
  all_goals simp

@[simp] theorem noteWatches_outer (k : Nat) (cs : List Counts) : (s.noteWatches k cs).outer = s.outer := by
  simp [State.noteWatches, foldl_outer, apply_ite State.outer]

@[simp] theorem scaleWatch_outer (k : Nat) (step : DWord) (n : Nat) (c : Counts) : (s.scaleWatch k step n c).outer = s.outer := by
  unfold State.scaleWatch
  dsimp only
  repeat' split
  all_goals simp

@[simp] theorem tapArrive_outer (k : Nat) (src : Half) (step : DWord) (sums : List (DWord × DWord)) : (s.tapArrive k src step sums).outer = s.outer := by
  unfold State.tapArrive
  dsimp only
  repeat' split
  all_goals simp [foldl_outer, apply_ite State.outer]

@[simp] theorem stepAccounts_outer (k : Nat) (v : DWord) : (s.stepAccounts k v).outer = s.outer := by
  unfold State.stepAccounts
  dsimp only
  repeat' split
  all_goals simp

@[simp] theorem hostReadFailed_outer (a : HostAsk) : (s.hostReadFailed a).outer = s.outer := by
  unfold State.hostReadFailed
  dsimp only
  repeat' split
  all_goals simp [↓outer_with]

@[simp] theorem failHostAsks_outer : s.failHostAsks.outer = s.outer := by
  simp [State.failHostAsks, foldl_outer, apply_ite State.outer]

@[simp] theorem holdContributions_outer (k g r : Nat) (v : DWord) : (s.holdContributions k g r v).outer = s.outer := by
  unfold State.holdContributions
  dsimp only
  repeat' split
  all_goals simp

@[simp] theorem tellIdentity_outer : s.tellIdentity.outer = s.outer := foldl_outer _ (fun _ _ => by simp) _ s

@[simp] theorem windowEnd_outer : s.windowEnd.outer = s.outer := by simp [State.windowEnd]

@[simp] theorem serveSem_outer (k r q : Nat) : (s.serveSem k r q).outer = s.outer := by simp [State.serveSem, ↓outer_with]

@[simp] theorem applySem_outer (k r q : Nat) (a : SemReq) : (s.applySem k r q a).outer = s.outer := by
  unfold State.applySem
  dsimp only
  repeat' split
  all_goals simp

@[simp] theorem noteContradiction_outer (c : Applied × Applied) : (s.noteContradiction c).outer = s.outer := by simp [State.noteContradiction]

@[simp] theorem releaseHalted_outer (k : Nat) : (s.releaseHalted k).outer = s.outer := by
  unfold State.releaseHalted
  rw [foldl_outer]
  · refine foldl_outer _ (fun t p => ?_) _ s
    repeat' split
    all_goals simp
  · intro t p
    repeat' split
    all_goals simp

@[simp] theorem boundary_outer (c i : Nat) : (s.boundary c i).outer = s.outer := by
  unfold State.boundary
  dsimp only
  repeat' split
  all_goals simp

@[simp] theorem swapBank_outer (c i : Nat) (b : Word) : (s.swapBank c i b).outer = s.outer := by
  unfold State.swapBank
  dsimp only
  repeat' split
  all_goals simp

@[simp] theorem signalRank_outer (k : Nat) (j : Job) (i r q n : Nat) : (s.signalRank k j i r q n).outer = s.outer := by
  simp [State.signalRank, apply_ite State.outer]

@[simp] theorem sendSync_outer (i : Nat) (x : LCore) (m : SyncOut) : (s.sendSync i x m).outer = s.outer := by
  unfold State.sendSync
  repeat' split
  all_goals simp [foldl_outer, ↓outer_with]

@[simp] theorem flushGo_outer (i : Nat) (ms : List SyncOut) : (State.flushGo i ms s).outer = s.outer := by
  induction ms generalizing s with
  | nil => rfl
  | cons m ms ih =>
    unfold State.flushGo
    split
    · rfl
    · split <;> simp [ih]

@[simp] theorem flushSync_outer (i : Nat) : (s.flushSync i).outer = s.outer := by
  unfold State.flushSync
  split <;> simp

@[simp] theorem postSync_outer (i : Nat) (m : SyncOut) : (s.postSync i m).outer = s.outer := by
  unfold State.postSync
  repeat' split
  all_goals simp

@[simp] theorem arrive_outer (c i : Nat) (w : IWord) (x : LCore) (wait : Bool) : (s.arrive c i w x wait).outer = s.outer := by
  simp [State.arrive, apply_ite State.outer]

@[simp] theorem hostUp_outer : s.hostUp.outer = s.outer := by simp [State.hostUp, ↓outer_with]

@[simp] theorem useEpoch_outer (phase : Int) : (s.useEpoch phase).outer = s.outer := by
  simp [State.useEpoch, ↓outer_with, apply_ite State.outer]

@[simp] theorem semStep_outer (k r q : Nat) : (s.semStep k r q).outer = s.outer := by
  unfold State.semStep
  dsimp only
  repeat' split
  all_goals simp

@[simp] theorem clockPods_outer (cs : List Nat) : (s.clockPods cs).outer = s.outer := by
  unfold State.clockPods
  exact foldl_outer _ (fun _ _ => by simp) _ _

@[simp] theorem mapPrefetch_outer (sel : Prefetch → Bool) (f : Prefetch → Prefetch) : (s.mapPrefetch sel f).outer = s.outer := by
  refine foldl_outer _ (fun t p => ?_) s.lcores s
  repeat' split
  all_goals simp

@[simp] theorem releaseHeld_outer (k : Nat) : (s.releaseHeld k).outer = s.outer := by
  unfold State.releaseHeld
  repeat' split
  · rfl
  · rfl
  · refine foldl_outer _ (fun t r => ?_) _ s
    dsimp only
    split <;> simp

@[simp] theorem scaleWritten_outer (k : Nat) : (s.scaleWritten k).outer = s.outer := by
  unfold State.scaleWritten
  repeat' split
  all_goals simp

@[simp] theorem acknowledged_outer (dest tag : Half) (why : Purpose) (refused : Bool) : (s.acknowledged dest tag why refused).outer = s.outer := by
  unfold State.acknowledged
  repeat' split
  all_goals simp

@[simp] theorem resetRamps_outer (p : Nat) : (s.resetRamps p).outer = s.outer := by
  simp [State.resetRamps, foldl_outer, apply_ite State.outer]

@[simp] theorem askArea_outer (k : Nat) (j : Job) (d : Nat) (c : Half) (f off n : Nat) : (s.askArea k j d c f off n).outer = s.outer := by
  induction f generalizing off n s with
  | zero => rfl
  | succ f ih =>
    unfold State.askArea
    dsimp only
    split
    · rfl
    · rw [ih, askAt_outer]

@[simp] theorem askHeads_outer (k : Nat) (j : Job) (d : Nat) : (s.askHeads k j d).outer = s.outer :=
  foldl_outer _ (fun _ _ => by simp) _ s

@[simp] theorem seatCores_outer (k : Nat) (j : Job) : (s.seatCores k j).outer = s.outer :=
  (foldl_outer _ (fun _ _ => by simp) _ _).trans (foldl_outer _ (fun _ _ => by simp) _ s)

@[simp] theorem recordPages_outer (k : Nat) (step : DWord) : (s.recordPages k step).outer = s.outer := by
  unfold State.recordPages
  repeat' split
  all_goals simp [foldl_outer]

@[simp] theorem operand_outer (k : Nat) (p : Packet) (node : Nat) (second : Bool) : (s.operand k p node second).outer = s.outer := by
  unfold State.operand
  dsimp only
  repeat' split
  all_goals simp

@[simp] theorem decided_outer (k gn : Nat) (step : DWord) (es : List DecisionEntry) : (s.decided k gn step es).outer = s.outer := by
  unfold State.decided
  dsimp only
  repeat' split
  all_goals simp [foldl_outer, apply_ite State.outer]

@[simp] theorem clearCounts_outer (k : Nat) : (s.clearCounts k).outer = s.outer := by simp [State.clearCounts, ↓outer_with]

@[simp] theorem queueTake_outer (k : Nat) (g : Group) (r : Nat) : (s.queueTake k g r).outer = s.outer := by simp [State.queueTake]

@[simp] theorem firstIssue_outer (i : Nat) : (s.firstIssue i).outer = s.outer := by
  unfold State.firstIssue
  repeat' split
  all_goals simp

@[simp] theorem startJob_outer (k : Nat) : (s.startJob k).outer = s.outer := by
  unfold State.startJob
  split
  · rfl
  · dsimp only
    rw [foldl_outer _ (fun _ _ => by simp), setReg_outer, foldl_outer _ (fun _ _ => foldl_outer _ (fun _ _ => by simp) _ _)]
    simp

@[simp] theorem sendNak_outer (p : Nat) : (s.sendNak p).outer = s.outer := by simp [State.sendNak]

@[simp] theorem tellReference_outer (p : Nat) : (s.tellReference p).outer = s.outer := by
  unfold State.tellReference
  repeat' split
  all_goals simp

@[simp] theorem flushAll_outer (k : Nat) : (s.flushAll k).outer = s.outer := by
  refine foldl_outer _ (fun t p => ?_) s.lcores s
  repeat' split
  all_goals simp

@[simp] theorem arrivalAt_outer (k r l b : Nat) (sense : Bool) (at_ : Address) : (s.arrivalAt k r l b sense at_).outer = s.outer := by
  unfold State.arrivalAt
  dsimp only
  repeat' split
  all_goals simp

@[simp] theorem armAnswer_outer (k r l b : Nat) (p : BarrierParams) (at_ : Address) : (s.armAnswer k r l b p at_).outer = s.outer := by
  unfold State.armAnswer
  dsimp only
  repeat' split
  all_goals simp

@[simp] theorem portIdle_outer (p : Nat) : (s.portIdle p).outer = s.outer := by simp [State.portIdle, ↓outer_with]

@[simp] theorem frameAnswer_outer (p : Packet) : (s.frameAnswer p).outer = s.outer := by
  unfold State.frameAnswer
  dsimp only
  repeat' split
  all_goals simp [↓outer_with]

@[simp] theorem markMiscabled_outer : s.markMiscabled.outer = s.outer := by
  unfold State.markMiscabled
  split
  · rfl
  · dsimp only
    split
    · rfl
    · rw [ownRecord_outer, foldl_outer _ (fun _ _ => by simp)]

@[simp] theorem settleExtents_outer : s.settleExtents.outer = s.outer := by
  unfold State.settleExtents
  dsimp only
  repeat' split
  all_goals simp [↓outer_with]

@[simp] theorem takeCoord_outer (c : Half) : (s.takeCoord c).outer = s.outer := by simp [State.takeCoord, ↓outer_with]

@[simp] theorem adopt_outer : s.adopt.outer = s.outer := by
  unfold State.adopt
  dsimp only
  repeat' split
  all_goals simp

@[simp] theorem forward_outer (q : Nat) (p : Packet) : (s.forward q p).outer = s.outer := by
  unfold State.forward
  dsimp only
  repeat' split
  all_goals simp [↓outer_with]

@[simp] theorem preempt_outer (k : Nat) : (s.preempt k).outer = s.outer := by
  unfold State.preempt
  split
  · rfl
  · dsimp only
    rw [releaseHalted_outer, foldl_outer _ (fun _ _ => by simp)]
    simp

@[simp] theorem readSave_outer : s.readSave.outer = s.outer := by
  unfold State.readSave
  dsimp only
  repeat' split
  all_goals simp [foldl_outer, apply_ite State.outer, ↓outer_with]

@[simp] theorem endRecord_outer (n status : Nat) (detail : Word) : (s.endRecord n status detail).outer = s.outer := by simp [State.endRecord]

@[simp] theorem rejoin_outer (k : Nat) (e : PlacedCore) : (s.rejoin k e).outer = s.outer := by
  unfold State.rejoin
  dsimp only
  repeat' split
  all_goals simp

@[simp] theorem bankswapRun_outer (c : Nat) (w : IWord) (i : Nat) (x : LCore) : (bankswapRun s c w i x).outer = s.outer := by
  unfold bankswapRun
  dsimp only
  repeat' split
  all_goals simp

@[simp] theorem cxlDown_outer (n : Nat) : (s.cxlDown n).outer = s.outer := by
  simp [State.cxlDown, foldl_outer]

@[simp] theorem takeAck_outer (p : Nat) (b : FecBlock) : (s.takeAck p b).outer = s.outer := by
  simp [State.takeAck, apply_ite State.outer]

@[simp] theorem accept_outer (p : Nat) (b : FecBlock) : (s.accept p b).outer = s.outer := by
  simp [State.accept, foldl_outer, apply_ite State.outer]

@[simp] theorem applyRx_outer (p : Nat) : (s.applyRx p).outer = s.outer := by
  unfold State.applyRx
  dsimp only
  repeat' split
  all_goals simp [foldl_outer]

@[simp] theorem applyTx_outer (p : Nat) : (s.applyTx p).outer = s.outer := by
  unfold State.applyTx
  dsimp only
  repeat' split
  all_goals simp [foldl_outer]

@[simp] theorem depart_outer : s.depart.outer = s.outer := by
  unfold State.depart
  dsimp only
  repeat' split
  all_goals simp [↓outer_with]

@[simp] theorem stepCounter_outer (n : DWord) : (s.stepCounter n).outer = s.outer := by
  simp [State.stepCounter, ↓outer_with, apply_ite State.outer]

@[simp] theorem newMap_outer (k : Nat) (j : Job) (m : List Half) : (s.newMap k j m).outer = s.outer := by
  simp [State.newMap, apply_ite State.outer]

@[simp] theorem headOfRotation_outer (j : Job) : (s.headOfRotation j).outer = s.outer := by
  unfold State.headOfRotation
  exact foldl_outer _ (fun _ _ => by simp) _ _

@[simp] theorem sendDigests_outer (k : Nat) (j : Job) : (s.sendDigests k j).outer = s.outer := by
  simp [State.sendDigests, foldl_outer]

@[simp] theorem noteExpulsions_outer (k : Nat) (j : Job) (v : DWord) (out : List (Nat × Nat)) : (s.noteExpulsions k j v out).outer = s.outer := by
  simp [State.noteExpulsions, foldl_outer]

@[simp] theorem shareInput_outer (k : Nat) (j : Job) : (s.shareInput k j).outer = s.outer := by
  simp [State.shareInput, foldl_outer]

@[simp] theorem withdrawTile_outer (c d tile : Nat) (got expected : DWord) : (s.withdrawTile c d tile got expected).outer = s.outer := by
  unfold State.withdrawTile
  dsimp only
  repeat' split
  all_goals simp [↓outer_with]

@[simp] theorem attemptFailed_outer : s.attemptFailed.outer = s.outer := by
  simp [State.attemptFailed, ↓outer_with, apply_ite State.outer]

@[simp] theorem runImage_outer (b : Bool) : (s.runImage b).outer = s.outer := by
  simp [State.runImage, ↓outer_with, apply_ite State.outer]

@[simp] theorem trainCxl_outer (n : Nat) (e : Expander) : (s.trainCxl n e).outer = s.outer := by
  simp [State.trainCxl, apply_ite State.outer]

@[simp] theorem becomeReady_outer : s.becomeReady.outer = s.outer := by
  unfold State.becomeReady
  dsimp only
  rw [outer_with]
  exact foldl_outer _ (fun _ _ => by split <;> simp) _ s

@[simp] theorem holdOver_outer (why : Nat) (interval : Nat) : (s.holdOver why interval).outer = s.outer := by
  simp [State.holdOver, ↓outer_with, apply_ite State.outer]

@[simp] theorem spacedEdge_outer (interval : Nat) (phase : Int) : (s.spacedEdge interval phase).outer = s.outer := by
  simp [State.spacedEdge, ↓outer_with, apply_ite State.outer]

@[simp] theorem notice_outer : s.notice.outer = s.outer := by
  simp [State.notice, ↓outer_with, apply_ite State.outer]

@[simp] theorem settleWindows_outer : s.settleWindows.outer = s.outer := by
  simp [State.settleWindows, foldl_outer, ↓outer_with]

@[simp] theorem cleanly_outer {f : Rule} (mask : Nat) (v : Word) (h : (f s).1.outer = s.outer) : (cleanly mask v f s).1.outer = s.outer := by
  unfold cleanly
  split
  · rfl
  · exact h

@[simp] theorem calibStore_outer : s.calibStore.outer = s.outer := by
  unfold State.calibStore
  refine foldl_outer _ (fun t p => ?_) _ _
  repeat' split
  all_goals simp

end Sys2Proof.Machine
end

section
/-! PROOFS. What every operation keeps of the outer state: the queue, the manufactured part of the identity, and the canonical form of device
memory (08_memory_system.md, 18_firmware_and_identity.md). One lemma per operation that may write memory, in the order in which the model
defines them. -/

namespace Sys2Proof.Machine

/-- What the outer state holds: the queue of commands, the identity and device memory. -/
abbrev Outer := List Instr × Identity × Sparse Byte

/-- The queue and what manufacture wrote into the identity are the same in p as in o, and a memory in canonical form stays so. -/
structure Keeps (o p : Outer) : Prop where
  pending : p.1 = o.1
  serial : p.2.1.serial = o.2.1.serial
  mac : p.2.1.mac = o.2.1.mac
  stepping : p.2.1.stepping = o.2.1.stepping
  grade : p.2.1.grade = o.2.1.grade
  wf : Memory.wf o.2.2 = true → Memory.wf p.2.2 = true

namespace Keeps
@[simp] theorem refl (o : Outer) : Keeps o o := ⟨rfl, rfl, rfl, rfl, rfl, id⟩
theorem trans {o p q : Outer} (h : Keeps o p) (g : Keeps p q) : Keeps o q :=
  ⟨g.pending.trans h.pending, g.serial.trans h.serial, g.mac.trans h.mac, g.stepping.trans h.stepping, g.grade.trans h.grade, g.wf ∘ h.wf⟩
end Keeps

theorem keeps_ite {o : Outer} {t u : State} {c : Prop} [Decidable c] (ht : Keeps o t.outer) (hu : Keeps o u.outer) :
    Keeps o (if c then t else u).outer := by
  split
  · exact ht
  · exact hu

section
variable {o : Outer} {s : State} (hs : Keeps o s.outer)
include hs

@[simp] theorem foldl_keeps_outer {β : Type} {f : State → β → State} (l : List β) (h : ∀ t x, Keeps t.outer (f t x).outer) :
    Keeps o (l.foldl f s).outer :=
  foldl_keeps (fun t => Keeps o t.outer) f (fun t x ht => ht.trans (h t x)) l s hs

@[simp] theorem devWrite_kept (a : Nat) (bs : List Byte) : Keeps o (s.devWrite a bs).outer := by
  rw [devWrite_outer]
  exact ⟨hs.pending, hs.serial, hs.mac, hs.stepping, hs.grade, fun h => wf_putBytes _ _ _ (hs.wf h)⟩

@[simp] theorem drainOut_kept (x : LCore) (ds : List Drained) : Keeps o (s.drainOut x ds).outer := by
  have same : (s.drainOut x ds).pending = s.pending ∧ (s.drainOut x ds).ident = s.ident := by
    unfold State.drainOut
    split <;> exact ⟨rfl, rfl⟩
  refine hs.trans ⟨same.1, ?_, ?_, ?_, ?_, wf_drainOut s x ds⟩
  all_goals exact congrArg _ same.2

@[simp] theorem stopAll_kept : Keeps o s.stopAll.outer := 
  ⟨hs.pending, hs.serial, hs.mac, hs.stepping, hs.grade, fun _ => wf_nil⟩

@[simp] theorem atMemory_kept {f : State → State} (h : ∀ t, Keeps t.outer (f t).outer) : Keeps o (s.atMemory f).outer := by
  unfold State.atMemory
  repeat' split
  · exact (show Keeps o s.useMemory.outer by simpa).trans (h _)
  · exact hs
  · exact (show Keeps o s.wakeMemory.memoryWoken.outer by simpa).trans (h _)

@[simp] theorem inbound_kept {f : State → State} (ty : Nat) (p : Packet) (h : ∀ t, Keeps t.outer (f t).outer) : Keeps o (s.inbound ty p f).outer := by
  unfold State.inbound
  repeat' split
  · exact hs
  · simpa
  · exact hs.trans (h s)

@[simp] theorem served_kept {f : State → State} (ty : Nat) (p : Packet) (h : ∀ t, Keeps t.outer (f t).outer) : Keeps o (s.served ty p f).outer := by
  exact inbound_kept hs ty p fun t => by simpa using h t

@[simp] theorem answered_kept {f : State → Purpose → State} (p : Packet) (last : Bool) (h : ∀ t q, Keeps t.outer (f t q).outer) :
    Keeps o (s.answered p last f).outer := by
  unfold State.answered
  split
  · simpa
  · refine Keeps.trans ?_ (h _ _)
    split <;> exact hs

@[simp] theorem serve_kept {f : Nat → State → State} (p : Packet) (a n : Nat) (reads : Bool) (h : ∀ r t, Keeps t.outer (f r t).outer) :
    Keeps o (s.serve p a n reads f).outer := by
  unfold State.serve
  dsimp only
  split
  · simpa
  · refine atMemory_kept hs fun t => ?_
    split <;> simp [h]

@[simp] theorem gatherFrom_kept (p : Packet) (k r a : Nat) (g : Gather) (now : Bool) : Keeps o (s.gatherFrom p k r a g now).outer := by
  unfold State.gatherFrom
  split
  · simpa
  · refine atMemory_kept hs fun t => ?_
    split <;> simp

@[simp] theorem attempt_kept {run : State → Nat → Nat → Held → State} (c i : Nat) (before : List Held) (h : Held)
    (hr : ∀ t c i h, Keeps t.outer (run t c i h).outer) : Keeps o (s.attempt c i before h run).1.outer := by
  unfold State.attempt
  dsimp only
  repeat' split
  · exact hs
  · exact hs
  · refine Keeps.trans ?_ (hr ..)
    simpa [foldl_outer]
  all_goals simpa [foldl_outer]

@[simp] theorem sendTo_kept {run : State → Nat → Nat → Held → State} (c i : Nat) (x : LCore) (w : IWord) (sregs : List Nat) (u : Uses)
    (hr : ∀ t c i h, Keeps t.outer (run t c i h).outer) : Keeps o (s.sendTo c i x w sregs u run).outer := by
  unfold State.sendTo
  dsimp only
  repeat' split
  all_goals simp [hs, hr]

@[simp] theorem sendElem_kept {run : State → Nat → Nat → Held → State} (c i : Nat) (x : LCore) (w : IWord) (ops : List Nat)
    (hr : ∀ t c i h, Keeps t.outer (run t c i h).outer) : Keeps o (s.sendElem c i x w ops run).outer :=
  sendTo_kept hs _ _ _ _ _ _ hr

theorem guarded_kept {f : Rule} (m idx : Nat) (h : ∀ t, Keeps t.outer (f t).1.outer) : Keeps o (s.guarded m idx f).1.outer := by
  unfold State.guarded
  repeat' split
  · exact hs
  · exact hs
  · exact hs.trans (h s)

@[simp] theorem command_kept {f : Rule} (m idx sub : Nat) (v : Word) (c : Bool) (h : ∀ t, Keeps t.outer (f t).1.outer) :
    Keeps o (s.command m idx sub v c f).outer := by
  unfold State.command
  split
  · exact hs
  · simpa using guarded_kept hs m idx h

@[simp] theorem perform_kept {f : State → State × WAnswer} (m : Nat) (h : ∀ t, Keeps t.outer (f t).1.outer) :
    Keeps o (s.perform m f).outer := by
  unfold State.perform
  split
  · simpa using hs.trans (h s)
  · exact hs

end

section
variable {o : Outer} {s : State} (hs : Keeps o s.outer)
include hs

@[simp] theorem cxlRequest_kept (n : Nat) (q : MemReq) : Keeps o (s.cxlRequest n q).outer := by
  unfold State.cxlRequest
  dsimp only
  repeat' split
  all_goals simp [hs]

@[simp] theorem rankWrite_kept (k r a : Nat) (bs : List Byte) : Keeps o (s.rankWrite k r a bs).outer := by
  simp [State.rankWrite, hs]

@[simp] theorem putTier_kept (why : Purpose) (i tier : Nat) (bs : List (Nat × Byte)) : Keeps o (s.putTier why i tier bs).outer := by
  unfold State.putTier
  repeat' split
  · exact hs
  · simpa
  · exact foldl_keeps_outer (by exact hs) _ fun t p => by simp
  · refine foldl_keeps_outer (by exact hs) _ fun t p => ?_
    split
    · exact foldl_keeps_outer (.refl _) _ fun u q => by simp
    · simp
  · simpa

@[simp] theorem put_kept (i : Nat) (h : Held) (cset : Nat) (d : Desc) (es : List ElemW) : Keeps o (s.put i h cset d es).outer := by
  unfold State.put
  split
  · exact hs
  · dsimp only
    exact putTier_kept (by exact hs) ..

@[simp] theorem vecGroups_kept (make : State → LCore → List Nat → List ElemW) (c i : Nat) (h : Held) :
    Keeps o (vecGroups make s c i h).outer := by
  unfold vecGroups
  dsimp only
  split
  · exact hs
  · rw [settled_outer]
    refine foldl_keeps_outer (by exact hs) _ fun t g => ?_
    repeat' split
    all_goals simp

@[simp] theorem vecRun_kept (f : State → LCore → Held → Nat → Exact) (c i : Nat) (h : Held) : Keeps o (vecRun f s c i h).outer :=
  vecGroups_kept (by exact hs) ..

@[simp] theorem sqrtRun_kept (c i : Nat) (h : Held) : Keeps o (sqrtRun s c i h).outer := vecRun_kept (by exact hs) ..

@[simp] theorem writeAtRank_kept (k : Nat) (j : Job) (r a : Nat) (bs : List Byte) (why : Purpose) :
    Keeps o (s.writeAtRank k j r a bs why).outer := by
  unfold State.writeAtRank
  split
  · exact foldl_keeps_outer (by exact hs) _ fun t p => by simp
  · refine foldl_keeps_outer (by exact hs) _ fun t p => ?_
    split <;> simp

@[simp] theorem ratioArrive_kept (k layer : Nat) (a b : Word) : Keeps o (s.ratioArrive k layer a b).outer := by
  unfold State.ratioArrive
  split
  · exact hs
  extract_lets mine shards
  split
  · simpa
  next ratio step t1 body lead t2 above _ =>
  have h1 : Keeps o t1.outer := by simpa [t1]
  split
  · exact h1
  have h2 : Keeps o t2.outer := keeps_ite (by simp [h1]) (by simp [h1])
  exact keeps_ite (by simpa) h2

@[simp] theorem pushTo_kept (k : Nat) (j : Job) (d : Shard) (v : DWord) (slot : List Byte) (r : Nat) :
    Keeps o (s.pushTo k j d v slot r).outer := by
  unfold State.pushTo
  split
  · simp [hs]
  · exact foldl_keeps_outer (by exact hs) _ fun t p => by simp

@[simp] theorem pushAll_kept (k : Nat) (v : DWord) : Keeps o (s.pushAll k v).outer := by
  unfold State.pushAll
  split
  · exact hs
  · exact foldl_keeps_outer (by exact hs) _ fun t d => foldl_keeps_outer (.refl _) _ fun u r => by simp

@[simp] theorem sendRatio_kept (k : Nat) (j : Job) (d : Shard) (a b : Word) : Keeps o (s.sendRatio k j d a b).outer := by
  unfold State.sendRatio
  dsimp only
  repeat' split
  all_goals simp [hs]

@[simp] theorem updateShard_kept (k : Nat) (j : Job) (d : Shard) (ps : List Pos) : Keeps o (s.updateShard k j d ps).outer := by
  have checked (q) (hq : q = s.sampleCheck k j d ps) : Keeps o q.1.outer := by
    rw [hq]
    simpa
  unfold State.updateShard
  extract_lets v h q s1
  have h1 : Keeps o s1.outer := checked q rfl
  clear_value s1 q h v
  split
  · rwa [faultJob_outer]
  split
  · rwa [faultJob_outer]
  next at_ word sums held x old res es sigma copy md slot nb ma t1 t2 t3 t4 t5 t6 ns d1 diffs _ _ =>
  have h2 : Keeps o t2.outer := keeps_ite (by simp [t1, h1]) (by simp [t1, h1])
  have h5 : Keeps o t5.outer := by simp [t5, t4, t3, h2]
  have h6 : Keeps o t6.outer := keeps_ite (by simpa) h5
  clear_value diffs d1 t6 held at_ ns sigma md
  split
  · rwa [updateLost_outer]
  split
  · exact h6
  extract_lets j1 src j2 t7 t8 t9 t10 t11
  clear_value j2 src j1
  have h7 : Keeps o t7.outer := by simpa [t7]
  have h8 : Keeps o t8.outer := keeps_ite (by simpa) h7
  have h9 : Keeps o t9.outer := keeps_ite (by simpa) h8
  have h10 : Keeps o t10.outer := keeps_ite (by simpa) h9
  simp [t11, h10]

@[simp] theorem tryUpdate_kept (k n : Nat) : Keeps o (s.tryUpdate k n).outer := by
  unfold State.tryUpdate
  repeat' split
  all_goals simp [hs]

@[simp] theorem tryUpdates_kept (k : Nat) : Keeps o (s.tryUpdates k).outer := by
  unfold State.tryUpdates
  repeat' split
  all_goals simp [hs]

@[simp] theorem commitStep_kept (k : Nat) (tick v : DWord) : Keeps o (s.commitStep k tick v).outer := by
  unfold State.commitStep
  dsimp only
  repeat' split
  all_goals simp [hs]

@[simp] theorem tabRun_kept (f : LCore → Held → TableBytes → Nat → Exact) (c i : Nat) (h : Held) : Keeps o (tabRun f s c i h).outer := by
  unfold tabRun
  repeat' split
  · exact hs
  · simpa
  · exact vecRun_kept (by exact hs) ..

@[simp] theorem tabProduct_kept (c i : Nat) (h : Held) : Keeps o (tabProduct s c i h).outer := tabRun_kept (by exact hs) ..

@[simp] theorem writePlacement_kept (k : Nat) (step : DWord) : Keeps o (s.writePlacement k step).outer := by
  unfold State.writePlacement
  split
  · exact hs
  · refine foldl_keeps_outer ?_ _ fun u b => by simp
    rw [setReg64_outer, setReg_outer]
    exact devWrite_kept (by rwa [setJob_outer]) ..

@[simp] theorem replaceCores_kept (k : Nat) (cores : List PlacedCore) : Keeps o (s.replaceCores k cores).outer := by
  unfold State.replaceCores
  split
  · exact hs
  · refine foldl_keeps_outer (by simp [hs]) _ fun u q => ?_
    repeat' split
    all_goals simp

@[simp] theorem replaceJob_kept (k : Nat) : Keeps o (s.replaceJob k).outer := by
  unfold State.replaceJob
  dsimp only
  repeat' split
  all_goals simp [hs]

@[simp] theorem deviceReset_kept (cause : Nat) : Keeps o (s.deviceReset cause).outer := by
  unfold State.deviceReset
  rw [addError_outer, outer_with]
  exact stopAll_kept hs

@[simp] theorem resetRule_kept : Keeps o (resetRule s).1.outer := by
  unfold resetRule
  repeat' split
  all_goals simp [hs]

theorem commandRule_kept {l : List Rule} (v : Nat) (h : ∀ f ∈ l, Keeps o (f s).1.outer) : Keeps o (commandRule l v s).1.outer := by
  unfold commandRule
  split
  · exact hs
  · rw [List.getD_eq_getElem?_getD]
    cases hf : l[v - 1]? with
    | none => exact hs
    | some f => exact h f (List.mem_of_getElem? hf)

theorem within_kept (ok : Bool) {f : State → State} (h : Keeps o (f s).outer) : Keeps o (within ok f s).1.outer := by
  unfold within
  split
  · exact h
  · exact hs

@[simp] theorem deviceRule_kept (m idx : Nat) (f : Field) (v : Nat) : Keeps o (deviceRule m idx f v s).1.outer := by
  unfold deviceRule
  generalize (if bit (BitVec.ofNat 32 v) 16 = true then some (BitVec.ofNat 16 v) else none) = z
  generalize f.lo = lo
  dsimp only
  split
  case h_8 => exact commandRule_kept hs _ (by simp [hs])
  case h_14 => exact commandRule_kept hs _ (by simp [hs])
  case h_18 => exact commandRule_kept hs _ (by simp [hs])
  case h_7 | h_11 | h_12 | h_13 | h_15 | h_16 | h_17 | h_19 => simp [hs]
  all_goals exact within_kept hs _ (by by_cases width : f.n = 2 <;> simp [width, hs, ↓outer_with])

@[simp] theorem ruleOf_kept (m idx : Nat) (f : Field) (v : Nat) : Keeps o (ruleOf m idx f v s).1.outer := by
  unfold ruleOf
  repeat' split
  all_goals simp [hs]

@[simp] theorem writeWhole_kept (m idx : Nat) (f : Field) (v : Nat) : Keeps o (writeWhole m idx f v s).1.outer := by
  unfold writeWhole
  dsimp only
  repeat' split
  all_goals simp [hs]

@[simp] theorem writeRule_kept (m idx sub : Nat) (v : Word) : Keeps o (writeRule m idx sub v s).1.outer := by
  unfold writeRule
  repeat' split
  all_goals simp [hs]

@[simp] theorem writeRule64_kept (m idx sub : Nat) (v : DWord) : Keeps o (writeRule64 m idx sub v s).1.outer := by
  unfold writeRule64
  dsimp only
  repeat' split
  all_goals simp [hs]

@[simp] theorem writeOp_kept (m idx sub : Nat) (v : DWord) (wide : Bool) : Keeps o (s.writeOp m idx sub v wide).1.outer := by
  unfold State.writeOp
  repeat' split
  all_goals simp [hs]

@[simp] theorem apply_kept (m : Nat) (w : WOp) : Keeps o (s.apply m w).1.outer := by
  unfold State.apply
  split <;> simp [hs]

@[simp] theorem applyOps_kept (m : Nat) (ws : List WOp) : Keeps o (s.applyOps m ws).1.outer := by
  induction ws generalizing s with
  | nil => exact hs
  | cons w ws ih => exact ih (apply_kept (by exact hs) m w)

@[simp] theorem serveFrame_kept (m : Nat) (f : WFrame) : Keeps o (s.serveFrame m f).1.outer := by
  unfold State.serveFrame
  repeat' split
  all_goals simp [hs]

@[simp] theorem barAccess_kept (m : Nat) (write : Bool) (offset size : Nat) (v : DWord) : Keeps o (s.barAccess m write offset size v).outer := by
  unfold State.barAccess
  dsimp only
  repeat' split
  all_goals simp [hs]

@[simp] theorem applyArrival_kept (a : Nat × Nat × Arrival) : Keeps o (s.applyArrival a).outer := by
  unfold State.applyArrival
  repeat' split
  all_goals simp [hs]

@[simp] theorem applyNoted_kept (a : Nat × Nat × Arrival) : Keeps o (s.applyNoted a).outer := by
  unfold State.applyNoted
  simp [hs, ↓outer_with]

@[simp] theorem subRun_kept (c i : Nat) (h : Held) : Keeps o (subRun s c i h).outer := vecRun_kept (by exact hs) ..

@[simp] theorem addRun_kept (c i : Nat) (h : Held) : Keeps o (addRun s c i h).outer := vecRun_kept (by exact hs) ..

@[simp] theorem mulRun_kept (c i : Nat) (h : Held) : Keeps o (mulRun s c i h).outer := vecRun_kept (by exact hs) ..

@[simp] theorem fmsRun_kept (c i : Nat) (h : Held) : Keeps o (fmsRun s c i h).outer := vecRun_kept (by exact hs) ..

@[simp] theorem fmaRun_kept (c i : Nat) (h : Held) : Keeps o (fmaRun s c i h).outer := vecRun_kept (by exact hs) ..

@[simp] theorem divRun_kept (c i : Nat) (h : Held) : Keeps o (divRun s c i h).outer := vecRun_kept (by exact hs) ..

@[simp] theorem cvtRun_kept (c i : Nat) (h : Held) : Keeps o (cvtRun s c i h).outer := vecGroups_kept (by exact hs) ..

@[simp] theorem tabPlain_kept (c i : Nat) (h : Held) : Keeps o (tabPlain s c i h).outer := tabRun_kept (by exact hs) ..

@[simp] theorem redRowRun_kept (c i : Nat) (h : Held) : Keeps o (redRowRun s c i h).outer := by
  unfold redRowRun
  split
  · exact hs
  · rw [settled_outer]
    refine foldl_keeps_outer (by exact hs) _ fun t g => ?_
    dsimp only
    repeat' split
    all_goals simp

@[simp] theorem redRun_kept (c i : Nat) (h : Held) : Keeps o (redRun s c i h).outer := by
  unfold redRun
  dsimp only
  repeat' split
  all_goals simp [hs]

@[simp] theorem topkRun_kept (c i : Nat) (h : Held) : Keeps o (topkRun s c i h).outer := by
  unfold topkRun
  split
  · exact hs
  · rw [settled_outer]
    refine foldl_keeps_outer (by exact hs) _ fun t g => ?_
    dsimp only
    repeat' split
    all_goals simp

@[simp] theorem rngUniformRun_kept (c i : Nat) (h : Held) : Keeps o (rngUniformRun s c i h).outer := vecRun_kept (by exact hs) ..

@[simp] theorem rngThresholdRun_kept (c i : Nat) (h : Held) : Keeps o (rngThresholdRun s c i h).outer := vecRun_kept (by exact hs) ..

@[simp] theorem rngIntRun_kept (c i : Nat) (h : Held) : Keeps o (rngIntRun s c i h).outer := vecRun_kept (by exact hs) ..

@[simp] theorem scaleRun_kept (c i : Nat) (h : Held) : Keeps o (scaleRun s c i h).outer := vecRun_kept (by exact hs) ..

@[simp] theorem scatterAdd_kept (i : Nat) (y : LCore) (h : Held) (bytes : Sparse Byte) (q : Indexed) (d : Desc) (ix : List Int) :
    Keeps o (s.scatterAdd i y h bytes q d ix).outer := by
  unfold State.scatterAdd
  refine foldl_keeps_outer (by simpa) _ fun t p => ?_
  dsimp only
  repeat' split
  · simp
  · simp
  · exact putTier_kept (by simp) ..

@[simp] theorem copyAll_kept (c i : Nat) (y : LCore) (h : Held) (cset : Nat) (bytes : Sparse Byte) (sd d : Desc) :
    Keeps o (s.copyAll c i y h cset bytes sd d).outer := by
  unfold State.copyAll
  repeat' split
  all_goals simp [hs]

@[simp] theorem landPrefetch_kept (i : Nat) (h : Held) (bytes : Sparse Byte) : Keeps o (s.landPrefetch i h bytes).outer := by
  unfold State.landPrefetch
  dsimp only
  repeat' split
  all_goals simp [hs]

@[simp] theorem deliver_kept (why : Purpose) (i : Nat) (x : LCore) (r : Nat) (l : Option Nat) (bs : List (Nat × Byte)) :
    Keeps o (s.deliver why i x r l bs).outer := by
  unfold State.deliver
  split
  · exact hs
  · split
    · split
      · exact foldl_keeps_outer (by exact hs) _ fun t p => by simp
      · split <;> simpa
    · refine foldl_keeps_outer (by exact hs) _ fun t p => foldl_keeps_outer (.refl _) _ fun u q => ?_
      dsimp only
      split <;> simp

@[simp] theorem broadcast_kept (i : Nat) (y : LCore) (h : Held) (bytes : Sparse Byte) : Keeps o (s.broadcast i y h bytes).outer := by
  unfold State.broadcast
  refine foldl_keeps_outer hs _ fun t p => ?_
  dsimp only
  split
  · simp
  · exact deliver_kept (by simp) ..

@[simp] theorem moveEffect_kept (c i : Nat) (h : Held) (bytes : Sparse Byte) : Keeps o (s.moveEffect c i h bytes).outer := by
  unfold State.moveEffect
  dsimp only
  repeat' split
  all_goals simp [hs]

@[simp] theorem moveNow_kept (c i : Nat) (h : Held) (bytes : Sparse Byte) : Keeps o (s.moveNow c i h bytes).outer := by
  unfold State.moveNow
  repeat' split
  all_goals simp [hs]

@[simp] theorem moveRun_kept (c i : Nat) (h : Held) : Keeps o (moveRun s c i h).outer := by
  unfold moveRun
  dsimp only
  repeat' split
  all_goals simp [hs]

@[simp] theorem runHeld_kept (c i : Nat) (h : Held) : Keeps o (runHeld s c i h).outer := by
  unfold runHeld
  simp [hs, apply_ite State.outer, apply_ite (Keeps _)]

@[simp] theorem resumeGo_kept (c i : Nat) (before later : List Held) : Keeps o (State.resumeGo c i before later s).1.outer := by
  induction later generalizing before s with
  | nil => exact hs
  | cons h later ih =>
    have tried : Keeps o (s.attempt c i before h runHeld).1.outer := attempt_kept (by exact hs) _ _ _ _ fun _ _ _ _ => by simp
    unfold State.resumeGo
    dsimp only
    split
    · split <;> simpa
    · exact ih tried _

@[simp] theorem resume_kept (c i : Nat) : Keeps o (s.resume c i).1.outer := by
  unfold State.resume
  split <;> simp [hs]

@[simp] theorem landRefetch_kept (i : Nat) (x : LCore) (p : Prefetch) (bytes : Sparse Byte) : Keeps o (s.landRefetch i x p bytes).outer := by
  unfold State.landRefetch
  dsimp only
  repeat' split
  all_goals simp [hs]

@[simp] theorem access_kept (n h : Nat) (q : MemReq) : Keeps o (s.access n h q).outer := by
  unfold State.access
  dsimp only
  repeat' split
  all_goals simp [hs]

@[simp] theorem controllerRequest_kept (q : MemReq) : Keeps o (s.controllerRequest q).outer := by
  unfold State.controllerRequest
  dsimp only
  repeat' split
  all_goals simp [hs]

@[simp] theorem retireCore_kept (c cause : Nat) : Keeps o (s.retireCore c cause).outer := by
  unfold State.retireCore
  extract_lets x
  split
  · exact hs
  · next p n slots s1 src s2 s3 spare new src' t1 t2 t3 t4 t5 _ =>
    have h3 : s3.outer = s.outer := by
      unfold s3
      split <;> simp [s2, s1]
    have h1 : t1.outer = s3.outer := by
      unfold t1
      split
      · obtain ⟨y, hy⟩ : ∃ y, y = spare := ⟨_, rfl⟩
        rw [← hy]
        cases y <;> simp
      · simp
    have h5 : t5.outer = t1.outer := by
      have e3 : t3.outer = t1.outer := by
        unfold t3
        split <;> simp [t2]
      have e4 : t4.outer = t3.outer := by
        unfold t4
        split <;> simp
      unfold t5
      split <;> simp [e4, e3]
    have same : Keeps o t5.outer := by rwa [h5, h1, h3]
    split
    · refine foldl_keeps_outer same _ fun u k => ?_
      split <;> simp
    · exact same

@[simp] theorem coreFails_kept (c partner tile : Nat) (got : Option DWord) (expected : DWord) :
    Keeps o (s.coreFails c partner tile got expected).outer := by
  unfold State.coreFails
  dsimp only
  repeat' split
  all_goals simp [hs]

@[simp] theorem admitRow_kept (c i : Nat) (x : LCore) (h : Held) (row sa sb : Nat) (first : Bool) :
    Keeps o (s.admitRow c i x h row sa sb first).outer := by
  unfold State.admitRow
  extract_lets d x1 arrs x2 r stall y t p t1 t2
  have h1 : Keeps o t1.outer := drainOut_kept (by simpa [t]) ..
  have h2 : Keeps o t2.outer := keeps_ite (by simpa) h1
  simpa

@[simp] theorem writeScale_kept (k : Nat) (j : Job) (bank : Nat) (es : List Int) : Keeps o (s.writeScale k j bank es).outer := by
  simp [State.writeScale, hs]

@[simp] theorem scaleUpdate_kept (k : Nat) (step : DWord) (cs : List Counts) : Keeps o (s.scaleUpdate k step cs).outer := by
  unfold State.scaleUpdate
  dsimp only
  repeat' split
  all_goals simp [hs]

@[simp] theorem watchArrive_kept (k : Nat) (src : Half) (step : DWord) (cs : List Counts) : Keeps o (s.watchArrive k src step cs).outer := by
  unfold State.watchArrive
  dsimp only
  repeat' split
  · exact hs
  · exact hs
  · rw [tryCommit_outer]
    exact scaleUpdate_kept (by exact hs) ..
  · exact hs

@[simp] theorem sendHarvest_kept (k : Nat) (v : DWord) : Keeps o (s.sendHarvest k v).outer := by
  unfold State.sendHarvest
  repeat' split
  all_goals simp [hs]

@[simp] theorem stepBoundary_kept (k : Nat) : Keeps o (s.stepBoundary k).outer := by
  unfold State.stepBoundary
  dsimp only
  repeat' split
  all_goals simp [hs]

@[simp] theorem released_kept (i b : Nat) (sense : Bool) : Keeps o (s.released i b sense).outer := by
  unfold State.released
  repeat' split
  all_goals simp [hs, apply_ite State.outer, apply_ite (Keeps _)]

@[simp] theorem fetchDone_kept (c i : Nat) (f : Fetch) : Keeps o (s.fetchDone c i f).outer := by
  unfold State.fetchDone
  dsimp only
  repeat' split
  · exact hs
  · exact hs
  · rw [settled_outer, loadNow_outer]
    exact moveNow_kept (by exact hs) ..
  all_goals simpa

@[simp] theorem dataArrive_kept (i tag offset : Nat) (data : List Byte) : Keeps o (s.dataArrive i tag offset data).outer := by
  unfold State.dataArrive
  dsimp only
  repeat' split
  · exact hs
  · exact hs
  · exact fetchDone_kept (by exact hs) ..
  all_goals exact hs

@[simp] theorem writeShard_kept (k : Nat) (d : Shard) (body : List Byte) : Keeps o (s.writeShard k d body).outer := by
  unfold State.writeShard
  exact foldl_keeps_outer (by simp [hs]) _ fun u i => by simp

@[simp] theorem applySection_kept (k : Nat) (q : PartSection) : Keeps o (s.applySection k q).outer := by
  unfold State.applySection
  dsimp only
  repeat' split
  · exact hs
  · exact writeShard_kept (by exact hs) ..
  · exact hs
  · exact hs
  · simp [hs]
  · exact hs
  · exact hs
  · exact foldl_keeps_outer (by exact hs) _ fun u r => by simp
  all_goals exact hs

@[simp] theorem applyParts_kept (k : Nat) (ps : List Part) : Keeps o (s.applyParts k ps).outer := by
  simp [State.applyParts, hs]

@[simp] theorem writeScales_kept (k : Nat) (j : Job) : Keeps o (s.writeScales k j).outer := by
  unfold State.writeScales
  split
  · exact hs
  · exact foldl_keeps_outer (by exact hs) _ fun t r => by simp

@[simp] theorem writeInitial_kept (k : Nat) (j : Job) (base : Nat) : Keeps o (s.writeInitial k j base).outer := by
  unfold State.writeInitial
  refine foldl_keeps_outer (by exact hs) _ fun t e => ?_
  split
  · simp
  · refine foldl_keeps_outer (.refl _) _ fun u r => ?_
    split <;> simp

@[simp] theorem announce_kept (k : Nat) (g : Group) (step : DWord) (es : List DecisionEntry) : Keeps o (s.announce k g step es).outer := by
  unfold State.announce
  split
  · exact hs
  · extract_lets ob count held g1 t1 t2 t3
    have h2 : Keeps o t2.outer := keeps_ite (by simpa [t1]) (by simpa [t1])
    have h3 : Keeps o t3.outer := foldl_keeps_outer (by exact h2) _ fun u c => by simp
    simp [h3]

@[simp] theorem tryDecide_kept (k gn : Nat) (step : DWord) : Keeps o (s.tryDecide k gn step).outer := by
  unfold State.tryDecide
  repeat' split
  all_goals simp [hs]

@[simp] theorem applyInput_kept (k : Nat) : Keeps o (s.applyInput k).outer := by
  unfold State.applyInput
  split
  · exact hs
  · exact tryUpdates_kept (foldl_keeps_outer (by exact hs) _ fun u g => foldl_keeps_outer (.refl _) _ fun v q => by simp) _

@[simp] theorem restart_kept (k : Nat) (j : Job) (u w : DWord) (parts : List Part) : Keeps o (s.restart k j u w parts).outer := by
  unfold State.restart
  extract_lets all base map held lead t diag
  split
  · simpa
  · split
    · simpa
    · extract_lets j1 t1 t2 t3 t4 t5
      have h1 : Keeps o t1.outer := by simpa [t1, t]
      have h2 : Keeps o t2.outer := applyParts_kept (by exact writeScales_kept (by exact writeInitial_kept h1 ..) ..) ..
      have h3 : Keeps o t3.outer := by simp [t3, h2]
      have h4 : Keeps o t4.outer := keeps_ite h3 (by simpa)
      have h5 : Keeps o t5.outer := keeps_ite (by simpa) h4
      simp [h5]

@[simp] theorem restoreStep_kept (k : Nat) : Keeps o (s.restoreStep k).outer := by
  unfold State.restoreStep
  dsimp only
  repeat' split
  all_goals simp [hs]

@[simp] theorem noteReady_kept (k gn : Nat) (step : DWord) (backup : Bool) (r : Nat) : Keeps o (s.noteReady k gn step backup r).outer := by
  unfold State.noteReady
  split
  · exact hs
  · split
    · exact hs
    · extract_lets late s1
      have h1 : Keeps o s1.outer := keeps_ite (by simp [hs]) hs
      repeat' split
      · exact h1
      · exact h1
      · exact tryDecide_kept (by exact h1) ..
      · dsimp only
        exact foldl_keeps_outer (by exact h1) _ fun v q => by simp
      · exact h1
      all_goals
        dsimp only
        exact tryDecide_kept (by exact h1) ..

@[simp] theorem sendReady_kept (k : Nat) (j : Job) (g : Group) (r : Nat) (step : DWord) : Keeps o (s.sendReady k j g r step).outer := by
  unfold State.sendReady
  repeat' split
  all_goals simp [hs]

@[simp] theorem readyTaken_kept (k r gn : Nat) : Keeps o (s.readyTaken k r gn).outer := by
  unfold State.readyTaken
  split
  · exact hs
  split
  · exact hs
  split
  · exact hs
  extract_lets late g1 t1 t2
  have h2 : Keeps o t2.outer := keeps_ite (by simpa [t1]) (by simpa [t1])
  rw [queueTake_outer]
  exact sendReady_kept h2 ..

@[simp] theorem acceptSlot_kept (k j : Nat) (whole : List Half) (plan : Plan) (parts : List Part) (input : List Byte) :
    Keeps o (s.acceptSlot k j whole plan parts input).outer := by
  unfold State.acceptSlot
  extract_lets q base digest start seat job seq t1 t2 t3 t4 t5 t6 t7 t8 t9
  have h1 : Keeps o t1.outer := keeps_ite hs hs
  have h4 : Keeps o t4.outer := applyParts_kept (by simp [t3, t2, h1]) ..
  have h7 : Keeps o t7.outer := keeps_ite (by simpa [t6, t5]) (by simpa [t6, t5])
  have h8 : Keeps o t8.outer := keeps_ite h7 (by simp [h7])
  have h9 : Keeps o t9.outer := by simpa [t9]
  repeat' split
  all_goals simpa

@[simp] theorem placeSlot_kept (k j : Nat) (whole : List Half) (parts : List Part) (input : List Byte) :
    Keeps o (s.placeSlot k j whole parts input).outer := by
  unfold State.placeSlot
  dsimp only
  repeat' split
  all_goals simp [hs]

@[simp] theorem writePart_kept (k tier a : Nat) (bs : List Byte) : Keeps o (s.writePart k tier a bs).outer := by
  unfold State.writePart
  repeat' split
  all_goals simp [hs]

@[simp] theorem partDone_kept (k : Nat) (ok : Bool) : Keeps o (s.partDone k ok).outer := by
  unfold State.partDone
  split
  · exact hs
  · split
    · exact hs
    · extract_lets t inRange u t1
      have ht : Keeps o t.outer := by simpa [t]
      refine tryUpdates_kept ?_ _
      unfold t1
      split
      · have hu : Keeps o u.outer := writePart_kept ht ..
        split
        · exact hu
        · simpa
      · split <;> simpa

@[simp] theorem areaArrive_kept (k : Nat) (src : Half) (off : Nat) (bs : List Byte) : Keeps o (s.areaArrive k src off bs).outer := by
  unfold State.areaArrive
  repeat' split
  · exact hs
  · exact hs
  · exact restoreStep_kept (by exact hs) _

@[simp] theorem corePasses_kept (c : Nat) : Keeps o (s.corePasses c).outer := by
  unfold State.corePasses
  dsimp only
  repeat' split
  · exact hs
  · exact retireCore_kept (by exact hs) ..
  · exact hs

omit hs in
theorem askManager_outer (k a f n : Nat) : (s.askManager k a f n).outer = s.outer := by
  induction f generalizing s a n with
  | zero => rfl
  | succ f ih =>
    unfold State.askManager
    split
    · rfl
    · exact (ih ..).trans (hostAsk_outer ..)

omit hs in
theorem readHost_waiting {k a n : Nat} {t : State} (h : s.readHost k a n = .waiting t) : t.outer = s.outer := by
  unfold State.readHost at h
  dsimp only at h
  repeat' split at h
  all_goals cases h
  · rfl
  · exact askManager_outer ..

omit hs in
theorem restoreSource_waiting {k : Nat} {t : State} (h : s.restoreSource k = .waiting t) : t.outer = s.outer := by
  unfold State.restoreSource State.readTier at h
  dsimp only at h
  repeat' split at h
  case isFalse.isTrue => exact readHost_waiting h
  all_goals cases h

omit hs in
theorem ledgerInput_waiting {k j : Nat} {t : State} (h : s.ledgerInput k j = .waiting t) : t.outer = s.outer := by
  unfold State.ledgerInput at h
  dsimp only at h
  split at h
  · exact readHost_waiting h
  · cases h

@[simp] theorem beginAcceptance_kept (k j : Nat) : Keeps o (s.beginAcceptance k j).outer := by
  unfold State.beginAcceptance
  extract_lets s1
  have h1 : Keeps o s1.outer := by simpa [s1]
  split
  · simpa
  split
  · next t hw => rwa [restoreSource_waiting hw]
  · simpa
  split
  · simpa
  split
  · next t hw => rwa [ledgerInput_waiting hw]
  · simpa
  split
  · simpa
  · exact h1
  · exact placeSlot_kept h1 ..

@[simp] theorem outRow_kept (c i : Nat) (x : LCore) (at_ : Nat) (h : Held) (a row n : Nat) : Keeps o (s.outRow c i x at_ h a row n).outer := by
  unfold State.outRow
  extract_lets d es record back q slots key j k y1 y2 fin src z t1 bs t2 cost t3
  have h1 : Keeps o t1.outer := put_kept (drainOut_kept (by simpa) ..) ..
  have h2 : Keeps o t2.outer := keeps_ite (putTier_kept h1 ..) h1
  simpa [t3]

@[simp] theorem dropTensors_kept (k n : Nat) : Keeps o (s.dropTensors k n).outer := by
  unfold State.dropTensors
  split
  · exact hs
  · dsimp only
    split
    · exact hs
    · exact writePlacement_kept (by exact hs) ..

@[simp] theorem ledgerArrive_kept (k : Nat) (src : Half) (bytes : List Byte) : Keeps o (s.ledgerArrive k src bytes).outer := by
  unfold State.ledgerArrive
  split
  · exact hs
  · split
    · exact foldl_keeps_outer hs _ fun t r => by simp
    · extract_lets t
      have ht : Keeps o t.outer := by simpa [t]
      exact applyInput_kept (keeps_ite (by simpa) ht) _

@[simp] theorem takeOrder_kept (k : Nat) (u w : DWord) (d : Nat) : Keeps o (s.takeOrder k u w d).outer := by
  unfold State.takeOrder
  split
  · exact hs
  · dsimp only
    split
    · exact restart_kept (by exact hs) ..
    · simpa

@[simp] theorem carryOut_kept (k : Nat) (j : Job) (v : DWord) (a : Nat) (bad : List Nat) (x : Verdict) :
    Keeps o (s.carryOut k j v a bad x).outer := by
  unfold State.carryOut
  extract_lets t1 t2
  have h2 : Keeps o t2.outer := foldl_keeps_outer (by simpa [t1]) _ fun u c => by simp
  split
  · exact h2
  · extract_lets left alone map j2 t3 again t4 t5
    have h4 : Keeps o t4.outer :=
      foldl_keeps_outer (by simpa [t3]) _ fun u d => foldl_keeps_outer (.refl _) _ fun y c => by simp
    have h5 : Keeps o t5.outer := by simpa [t5]
    split
    · simp [h5]
    · exact h5

@[simp] theorem judge_kept (k : Nat) : Keeps o (s.judge k).outer := by
  unfold State.judge
  dsimp only
  repeat' split
  all_goals simp [hs]

@[simp] theorem judgeCore_kept (c partner tile : Nat) (got : Option DWord) (expected : DWord) :
    Keeps o (s.judgeCore c partner tile got expected).outer := by
  unfold State.judgeCore
  repeat' split
  all_goals simp [hs]

@[simp] theorem failStep_kept (n : Nat) (unit : Word) : Keeps o (s.failStep n unit).outer := by
  simp [State.failStep, hs]

theorem stepWork_node : Keeps o { s with ident := { s.ident with node := s.pins.mgmtId } }.outer :=
  ⟨hs.pending, hs.serial, hs.mac, hs.stepping, hs.grade, hs.wf⟩

@[simp] theorem stepWork_kept (n : Nat) (f : StepFacts) : Keeps o (s.stepWork n f).outer := by
  have image : Keeps o ({ s with
      clock := { s.clock with refclk := f.refclk, crystal := !f.refclk }
      ident := { s.ident with node := s.pins.mgmtId }
      power := { s.power with refclkSource := f.refclk } }.runImage (s.imageFor 1)).outer := by
    rw [runImage_outer]
    exact stepWork_node hs
  unfold State.stepWork
  refine keeps_ite image (keeps_ite (by simpa) (keeps_ite ?_ (keeps_ite hs (keeps_ite hs (keeps_ite hs (keeps_ite ?_ (keeps_ite ?_ ?_)))))))
  · exact keeps_ite (by simpa [↓outer_with]) (by simpa [↓outer_with])
  · refine keeps_ite hs (foldl_keeps_outer hs _ fun u c => ?_)
    split <;> simp
  · exact keeps_ite hs (by simpa)
  · refine keeps_ite ?_ hs
    refine foldl_keeps_outer (by exact hs) _ fun u e => ?_
    split <;> simp

@[simp] theorem finishStep_kept (n : Nat) (f : StepFacts) : Keeps o (s.finishStep n f).outer := by
  unfold State.finishStep
  repeat' split
  all_goals simp [hs]

@[simp] theorem goOn_kept (f : StepFacts) : Keeps o (s.goOn f).outer := by
  unfold State.goOn
  dsimp only
  repeat' split
  all_goals simp [hs]

@[simp] theorem hostData_kept (a : HostAsk) (bytes : List Byte) : Keeps o (s.hostData a bytes).outer := by
  unfold State.hostData
  extract_lets bs left asks host t
  have ht : Keeps o t.outer := hs
  repeat' split
  · exact hs
  · exact ht
  · exact ht
  · exact dataArrive_kept (by exact ht) ..
end

end Sys2Proof.Machine
end

section
/-! PROOFS. What every command keeps of the outer state, and the four statements about all commands: one lemma per command. -/

namespace Sys2Proof.Machine

section
variable {s : State}

/-- The next state that an answer gives, if it gives one, keeps the queue, the manufactured identity and memory's form of s. -/
structure Leaves (s : State) (r : Host.Outcome State Fault Refusal) : Prop where
  keeps : ∀ t, r = .next t → Keeps s.outer t.outer

theorem leaves_next {t : State} (h : Keeps s.outer t.outer) : Leaves s (.next t) := by
  refine ⟨?_⟩
  rintro _ ⟨⟩
  exact h

theorem leaves_onUnit {ok : Bool} {t : State} (h : Keeps s.outer t.outer) : Leaves s (onUnit ok t) := by
  refine ⟨fun u hu => ?_⟩
  unfold onUnit at hu
  split at hu <;> cases hu
  exact h

theorem leaves_issue {own : Bool} {c : Nat} {w : IWord} {mist : LCore → List Mistake} {run : Nat → LCore → State}
    (h : ∀ i x, Keeps s.outer (run i x).outer) : Leaves s (issue s c w own mist run) := by
  refine leaves_onUnit ?_
  split
  · exact .refl _
  · dsimp only
    repeat' split
    · exact .refl _
    · simp
    · simp
    · exact h ..

end

section
variable (s : State)

/-! ## Commands whose answer is seen by its branches alone -/

theorem execLoop_leaves (c : Nat) (w : IWord) : Leaves s (execLoop c w s) := by
  unfold execLoop
  refine leaves_issue (fun i x => ?_)
  repeat' split
  all_goals simp

theorem execJump_leaves (c : Nat) (w : IWord) : Leaves s (execJump c w s) := by
  unfold execJump
  refine leaves_issue (fun i x => ?_)
  repeat' split
  all_goals simp

theorem execBankswap_leaves (c : Nat) (w : IWord) : Leaves s (execBankswap c w s) :=
  leaves_issue fun i x => by simp

theorem execYield_leaves (c : Nat) (w : IWord) : Leaves s (execYield c w s) := by
  unfold execYield
  refine leaves_issue (fun i x => ?_)
  dsimp only
  repeat' split
  all_goals simp

theorem execHalt_leaves (c : Nat) (w : IWord) : Leaves s (execHalt c w s) :=
  leaves_issue fun i x => by simp

theorem execMwt_leaves (c : Nat) (w : IWord) : Leaves s (execMwt c w s) :=
  leaves_issue fun i x => by simp

theorem execMstr_leaves (c : Nat) (w : IWord) : Leaves s (execMstr c w s) :=
  leaves_issue fun i x => by simp

theorem execMout_leaves (c : Nat) (w : IWord) : Leaves s (execMout c w s) :=
  leaves_issue fun i x => by simp

theorem execMswap_leaves (c : Nat) (w : IWord) : Leaves s (execMswap c w s) :=
  leaves_issue fun i x => by simp

theorem execTileSwapEffect_leaves (c : Nat) : Leaves s (execTileSwapEffect c s) := by
  unfold execTileSwapEffect
  refine leaves_onUnit ?_
  repeat' split
  all_goals simp

theorem execPassAdmitted_leaves (c : Nat) : Leaves s (execPassAdmitted c s) := by
  unfold execPassAdmitted
  refine leaves_onUnit ?_
  dsimp only
  repeat' split
  all_goals simp [foldl_outer]

theorem execActivityRise_leaves (c a : Nat) : Leaves s (execActivityRise c a s) := by
  unfold execActivityRise
  refine leaves_onUnit ?_
  dsimp only
  repeat' split
  all_goals simp

theorem execActivityFall_leaves (c a : Nat) : Leaves s (execActivityFall c a s) := by
  unfold execActivityFall
  refine leaves_onUnit ?_
  dsimp only
  repeat' split
  all_goals simp

theorem execMoutRowRead_leaves (c a : Nat) : Leaves s (execMoutRowRead c a s) := by
  unfold execMoutRowRead
  refine leaves_onUnit ?_
  dsimp only
  repeat' split
  all_goals simp

theorem execVadd_leaves (c : Nat) (w : IWord) : Leaves s (execVadd c w s) :=
  leaves_issue fun i x => by simp

theorem execVaddSubtract_leaves (c : Nat) (w : IWord) : Leaves s (execVaddSubtract c w s) :=
  leaves_issue fun i x => by simp

theorem execVfma_leaves (c : Nat) (w : IWord) : Leaves s (execVfma c w s) :=
  leaves_issue fun i x => by simp

theorem execVfmaMultiply_leaves (c : Nat) (w : IWord) : Leaves s (execVfmaMultiply c w s) :=
  leaves_issue fun i x => by simp

theorem execVfmaSubtract_leaves (c : Nat) (w : IWord) : Leaves s (execVfmaSubtract c w s) :=
  leaves_issue fun i x => by simp

theorem execVdiv_leaves (c : Nat) (w : IWord) : Leaves s (execVdiv c w s) :=
  leaves_issue fun i x => by simp

theorem execVsqrt_leaves (c : Nat) (w : IWord) : Leaves s (execVsqrt c w s) :=
  leaves_issue fun i x => by simp

theorem execVcvt_leaves (c : Nat) (w : IWord) : Leaves s (execVcvt c w s) :=
  leaves_issue fun i x => by simp

theorem execVtab_leaves (c : Nat) (w : IWord) : Leaves s (execVtab c w s) :=
  leaves_issue fun i x => by simp

theorem execVtabd_leaves (c : Nat) (w : IWord) : Leaves s (execVtabd c w s) :=
  leaves_issue fun i x => by simp

theorem execVtabdProduct_leaves (c : Nat) (w : IWord) : Leaves s (execVtabdProduct c w s) :=
  leaves_issue fun i x => by simp

theorem execVred_leaves (c : Nat) (w : IWord) : Leaves s (execVred c w s) :=
  leaves_issue fun i x => by simp

theorem execVredRows_leaves (c : Nat) (w : IWord) : Leaves s (execVredRows c w s) :=
  leaves_issue fun i x => by simp

theorem execVtopk_leaves (c : Nat) (w : IWord) : Leaves s (execVtopk c w s) :=
  leaves_issue fun i x => by simp

theorem execVrngInt_leaves (c : Nat) (w : IWord) : Leaves s (execVrngInt c w s) :=
  leaves_issue fun i x => by simp

theorem execVrngUniform_leaves (c : Nat) (w : IWord) : Leaves s (execVrngUniform c w s) :=
  leaves_issue fun i x => by simp

theorem execVrngThreshold_leaves (c : Nat) (w : IWord) : Leaves s (execVrngThreshold c w s) :=
  leaves_issue fun i x => by simp

theorem execVscale_leaves (c : Nat) (w : IWord) : Leaves s (execVscale c w s) :=
  leaves_issue fun i x => by simp

theorem execDcopy_leaves (c : Nat) (w : IWord) : Leaves s (execDcopy c w s) :=
  leaves_issue fun i x => by simp

theorem execDxpose_leaves (c : Nat) (w : IWord) : Leaves s (execDxpose c w s) :=
  leaves_issue fun i x => by simp

theorem execDgath_leaves (c : Nat) (w : IWord) : Leaves s (execDgath c w s) :=
  leaves_issue fun i x => by simp

theorem execDgathPooledSum_leaves (c : Nat) (w : IWord) : Leaves s (execDgathPooledSum c w s) :=
  leaves_issue fun i x => by simp

theorem execDgathPooledMean_leaves (c : Nat) (w : IWord) : Leaves s (execDgathPooledMean c w s) :=
  leaves_issue fun i x => by simp

theorem execDscat_leaves (c : Nat) (w : IWord) : Leaves s (execDscat c w s) :=
  leaves_issue fun i x => by simp

theorem execDscatAdd_leaves (c : Nat) (w : IWord) : Leaves s (execDscatAdd c w s) :=
  leaves_issue fun i x => by simp

theorem execDpref_leaves (c : Nat) (w : IWord) : Leaves s (execDpref c w s) :=
  leaves_issue fun i x => by simp

theorem execDremBroadcast_leaves (c : Nat) (w : IWord) : Leaves s (execDremBroadcast c w s) :=
  leaves_issue fun i x => by simp

theorem execDremRead_leaves (c : Nat) (w : IWord) : Leaves s (execDremRead c w s) :=
  leaves_issue fun i x => by simp

theorem execDremShardedGather_leaves (c : Nat) (w : IWord) : Leaves s (execDremShardedGather c w s) :=
  leaves_issue fun i x => by simp

theorem execDremFabricPooledGather_leaves (c : Nat) (w : IWord) : Leaves s (execDremFabricPooledGather c w s) :=
  leaves_issue fun i x => by simp

theorem execDremShardedScatterAdd_leaves (c : Nat) (w : IWord) : Leaves s (execDremShardedScatterAdd c w s) :=
  leaves_issue fun i x => by simp

theorem execDremParameterGather_leaves (c : Nat) (w : IWord) : Leaves s (execDremParameterGather c w s) :=
  leaves_issue fun i x => by simp

theorem execSarm_leaves (c : Nat) (w : IWord) : Leaves s (execSarm c w s) := by
  unfold execSarm
  refine leaves_issue (fun i x => ?_)
  dsimp only
  repeat' split
  all_goals simp [↓outer_with]

theorem execSarr_leaves (c : Nat) (w : IWord) : Leaves s (execSarr c w s) :=
  leaves_issue fun i x => by simp

theorem execSarrArrive_leaves (c : Nat) (w : IWord) : Leaves s (execSarrArrive c w s) :=
  leaves_issue fun i x => by simp

theorem execSarrWait_leaves (c : Nat) (w : IWord) : Leaves s (execSarrWait c w s) := by
  unfold execSarrWait
  refine leaves_issue (fun i x => ?_)
  dsimp only
  repeat' split
  all_goals simp

theorem execSsig_leaves (c : Nat) (w : IWord) : Leaves s (execSsig c w s) := by
  unfold execSsig
  refine leaves_issue (fun i x => ?_)
  repeat' split
  all_goals simp

theorem execSwait_leaves (c : Nat) (w : IWord) : Leaves s (execSwait c w s) :=
  leaves_issue fun i x => by simp

theorem execSdec_leaves (c : Nat) (w : IWord) : Leaves s (execSdec c w s) :=
  leaves_issue fun i x => by simp

theorem execSemaphoreRequest_leaves (k r q : Nat) : Leaves s (execSemaphoreRequest k r q s) :=
  leaves_next (by simp)

theorem execSlotFreeNotice_leaves (unit bank : Nat) : Leaves s (execSlotFreeNotice unit bank s) := by
  unfold execSlotFreeNotice
  refine leaves_onUnit ?_
  dsimp only
  repeat' split
  all_goals simp

theorem execRefreshWindow_leaves (h bank : Nat) (errors : List (Nat × Nat × Byte)) : Leaves s (execRefreshWindow h bank errors s) := by
  unfold execRefreshWindow
  refine leaves_onUnit ?_
  dsimp only
  repeat' split
  all_goals simp

theorem execRefreshRateChange_leaves (h : Nat) (temperature : Int) : Leaves s (execRefreshRateChange h temperature s) := by
  unfold execRefreshRateChange
  refine leaves_onUnit ?_
  dsimp only
  repeat' split
  all_goals simp

theorem execCxlLinkDown_leaves (n : Nat) : Leaves s (execCxlLinkDown n s) := by
  unfold execCxlLinkDown
  refine leaves_onUnit ?_
  simp [apply_ite State.outer, apply_ite (Keeps _)]

theorem execCxlExpanderEvent_leaves (n : Nat) (first second : DWord) : Leaves s (execCxlExpanderEvent n first second s) :=
  leaves_onUnit (by simp)

theorem execHostCompletionTimeout_leaves (tag : Nat) : Leaves s (execHostCompletionTimeout tag s) := by
  unfold execHostCompletionTimeout
  refine leaves_next ?_
  repeat' split
  all_goals simp

theorem execMemoryGroupWake_leaves : Leaves s (execMemoryGroupWake s) :=
  leaves_next (by simp)

theorem execFloorTick_leaves : Leaves s (execFloorTick s) := by
  unfold execFloorTick
  refine leaves_next ?_
  repeat' split
  all_goals simp [↓outer_with]

theorem execFecBlockReceived_leaves (p : Nat) (b : FecBlock) : Leaves s (execFecBlockReceived p b s) := by
  unfold execFecBlockReceived
  refine leaves_onUnit ?_
  dsimp only
  repeat' split
  all_goals simp

theorem execNakRepeat_leaves (p : Nat) : Leaves s (execNakRepeat p s) := by
  unfold execNakRepeat
  refine leaves_onUnit ?_
  repeat' split
  all_goals simp

theorem execBlockRelease_leaves (p : Nat) : Leaves s (execBlockRelease p s) := by
  unfold execBlockRelease
  refine leaves_onUnit ?_
  repeat' split
  all_goals simp

theorem execLaneRequest_leaves (p weak sprout : Nat) : Leaves s (execLaneRequest p weak sprout s) := by
  unfold execLaneRequest
  refine leaves_onUnit ?_
  dsimp only
  repeat' split
  all_goals simp

theorem execEqualiserAdapted_leaves (p : Nat) : Leaves s (execEqualiserAdapted p s) := by
  unfold execEqualiserAdapted
  refine leaves_onUnit ?_
  dsimp only
  repeat' split
  all_goals simp

theorem execLaneReady_leaves (p sprout : Nat) : Leaves s (execLaneReady p sprout s) := by
  unfold execLaneReady
  refine leaves_onUnit ?_
  dsimp only
  repeat' split
  all_goals simp

theorem execLaneSwitch_leaves (p : Nat) (n : BitVec 14) (mask : BitVec 13) : Leaves s (execLaneSwitch p n mask s) := by
  unfold execLaneSwitch
  refine leaves_onUnit ?_
  dsimp only
  repeat' split
  all_goals simp

theorem execLaneSwitchApply_leaves (p : Nat) : Leaves s (execLaneSwitchApply p s) := by
  unfold execLaneSwitchApply
  refine leaves_onUnit ?_
  repeat' split
  all_goals simp

theorem execMaskChange_leaves (p : Nat) (n : BitVec 14) (mask : BitVec 13) : Leaves s (execMaskChange p n mask s) := by
  unfold execMaskChange
  refine leaves_onUnit ?_
  simp [foldl_outer, apply_ite State.outer]

theorem execLaneFailure_leaves (p l : Nat) : Leaves s (execLaneFailure p l s) := by
  unfold execLaneFailure
  refine leaves_onUnit ?_
  dsimp only
  repeat' split
  all_goals simp

theorem execTrainingBurst_leaves (p : Nat) : Leaves s (execTrainingBurst p s) := by
  unfold execTrainingBurst
  refine leaves_onUnit ?_
  dsimp only
  repeat' split
  all_goals simp

theorem execLinkTraining_leaves (p : Nat) : Leaves s (execLinkTraining p s) := by
  unfold execLinkTraining
  refine leaves_onUnit ?_
  dsimp only
  repeat' split
  all_goals simp

theorem execLinkInService_leaves (p latency : Nat) : Leaves s (execLinkInService p latency s) := by
  unfold execLinkInService
  refine leaves_onUnit ?_
  dsimp only
  repeat' split
  all_goals simp

theorem execIdentity_leaves (p : Nat) (serial : DWord) (_stepping : Half) (port : Nat) (held _anchored : Bool) (coord _anchor : Half) (shape : Word) :
    Leaves s (execIdentity p serial _stepping port held _anchored coord _anchor shape s) := by
  unfold execIdentity
  refine leaves_onUnit ?_
  dsimp only
  repeat' split
  all_goals simp [↓outer_with]

theorem execReferenceCandidate_leaves (p : Nat) (serial : DWord) (anchored : Bool) (coord : Half) :
    Leaves s (execReferenceCandidate p serial anchored coord s) := by
  unfold execReferenceCandidate
  refine leaves_onUnit ?_
  dsimp only
  repeat' split
  all_goals simp [↓outer_with]

theorem execLinkRecord_leaves (p : Nat) (coord : Half) (version : Word) (ends : List LinkEnd) : Leaves s (execLinkRecord p coord version ends s) := by
  unfold execLinkRecord
  refine leaves_onUnit ?_
  dsimp only
  repeat' split
  all_goals simp [↓outer_with]

theorem execDiscoveryEnd_leaves : Leaves s (execDiscoveryEnd s) := by
  unfold execDiscoveryEnd
  refine leaves_next ?_
  dsimp only
  repeat' split
  all_goals simp [↓outer_with]

theorem execDepartureOrder_leaves (_m : Nat) : Leaves s (execDepartureOrder _m s) :=
  leaves_next (by simp)

theorem execLeaveNotice_leaves (p : Nat) (coord : Half) (tick : DWord) : Leaves s (execLeaveNotice p coord tick s) := by
  unfold execLeaveNotice
  refine leaves_onUnit ?_
  repeat' split
  all_goals simp

theorem execDeparturePortsIdle_leaves : Leaves s (execDeparturePortsIdle s) := by
  unfold execDeparturePortsIdle
  refine leaves_next ?_
  repeat' split
  all_goals simp [↓outer_with]

theorem execPackageSlice_leaves (p length offset : Nat) (bytes : List Byte) : Leaves s (execPackageSlice p length offset bytes s) := by
  unfold execPackageSlice
  refine leaves_onUnit ?_
  dsimp only
  repeat' split
  all_goals simp [↓outer_with]

theorem execTimestampExchange_leaves : Leaves s (execTimestampExchange s) := by
  unfold execTimestampExchange
  refine leaves_next ?_
  repeat' split
  all_goals simp [↓outer_with]

theorem execTimestampRequest_leaves (p : Nat) (t1 : DWord) : Leaves s (execTimestampRequest p t1 s) := by
  unfold execTimestampRequest
  refine leaves_onUnit ?_
  repeat' split
  all_goals simp

theorem execTimestampReply_leaves (p : Nat) (t1 t2 t3 : DWord) : Leaves s (execTimestampReply p t1 t2 t3 s) := by
  unfold execTimestampReply
  refine leaves_onUnit ?_
  repeat' split
  all_goals simp [↓outer_with]

theorem execTickEdgeCorrection_leaves : Leaves s (execTickEdgeCorrection s) := by
  unfold execTickEdgeCorrection
  refine leaves_next ?_
  dsimp only
  repeat' split
  all_goals simp [↓outer_with]

theorem execPacketForward_leaves (q : Nat) (p : Packet) : Leaves s (execPacketForward q p s) := by
  unfold execPacketForward
  refine leaves_onUnit ?_
  repeat' split
  all_goals simp

theorem execRouteChangeResume_leaves (dest : Half) : Leaves s (execRouteChangeResume dest s) := by
  unfold execRouteChangeResume
  refine leaves_next ?_
  repeat' split
  all_goals simp [↓outer_with]

theorem execRead_leaves (p : Packet) : Leaves s (execRead p s) :=
  leaves_next (by simp)

theorem execPrefetchWatch_leaves (p : Packet) : Leaves s (execPrefetchWatch p s) := by
  unfold execPrefetchWatch
  refine leaves_next ?_
  simp [↓outer_with, apply_ite State.outer]

theorem execDictionaryRequest_leaves (p : Packet) (m : Nat) (f : WFrame) : Leaves s (execDictionaryRequest p m f s) := by
  unfold execDictionaryRequest
  refine leaves_onUnit ?_
  simp [apply_ite State.outer]

theorem execCompletion_leaves (p : Packet) : Leaves s (execCompletion p s) := by
  unfold execCompletion
  refine leaves_next ?_
  simp [foldl_outer, ↓outer_with, apply_ite State.outer]

theorem execGenerationNotice_leaves (p : Packet) : Leaves s (execGenerationNotice p s) :=
  leaves_next (by simp)

theorem execNodeOperand_leaves (p : Packet) (i : Nat) : Leaves s (execNodeOperand p i s) :=
  leaves_next (by simp)

theorem execNodeOperandSecondTree_leaves (p : Packet) (i : Nat) : Leaves s (execNodeOperandSecondTree p i s) :=
  leaves_next (by simp)

theorem execRootOperand_leaves (p : Packet) (second : Bool) : Leaves s (execRootOperand p second s) :=
  leaves_next (by simp)

theorem execUpdateSlotFreed_leaves (k n : Nat) : Leaves s (execUpdateSlotFreed k n s) :=
  leaves_next (by simp)

theorem execCoordinatorDeadline_leaves (k g : Nat) : Leaves s (execCoordinatorDeadline k g s) := by
  unfold execCoordinatorDeadline
  refine leaves_next ?_
  repeat' split
  all_goals simp

theorem execRelease_leaves (p : Packet) : Leaves s (execRelease p s) :=
  leaves_next (by simp)

theorem execCompletionReport_leaves (p : Packet) : Leaves s (execCompletionReport p s) :=
  leaves_next (by simp)

theorem execCommitTick_leaves (k : Nat) : Leaves s (execCommitTick k s) := by
  unfold execCommitTick
  refine leaves_next ?_
  repeat' split
  all_goals simp

theorem execRatioPartial_leaves (p : Packet) : Leaves s (execRatioPartial p s) :=
  leaves_next (by simp)

theorem execCheckpointWriteDone_leaves (k : Nat) (ok : Bool) : Leaves s (execCheckpointWriteDone k ok s) :=
  leaves_next (by simp)

theorem execRankMap_leaves (k j : Nat) (entries : List Half) : Leaves s (execRankMap k j entries s) := by
  unfold execRankMap
  refine leaves_onUnit ?_
  dsimp only
  repeat' split
  all_goals simp

theorem execAcceptanceNotice_leaves (k j : Nat) (src : Half) (_sequence : DWord) : Leaves s (execAcceptanceNotice k j src _sequence s) := by
  unfold execAcceptanceNotice
  refine leaves_onUnit ?_
  repeat' split
  all_goals simp

theorem execLaunchConfirmation_leaves (k j : Nat) (tick : DWord) : Leaves s (execLaunchConfirmation k j tick s) := by
  unfold execLaunchConfirmation
  refine leaves_onUnit ?_
  repeat' split
  all_goals simp

theorem execCancel_leaves (k j cause : Nat) : Leaves s (execCancel k j cause s) := by
  unfold execCancel
  refine leaves_onUnit ?_
  repeat' split
  all_goals simp

theorem execLedgerRecord_leaves (k : Nat) (src : Half) (bytes : List Byte) : Leaves s (execLedgerRecord k src bytes s) :=
  leaves_next (by simp)

theorem execWatchPartials_leaves (k : Nat) (src : Half) (step : DWord) (counts : List Counts) : Leaves s (execWatchPartials k src step counts s) :=
  leaves_next (by simp)

theorem execTapSums_leaves (k : Nat) (src : Half) (step : DWord) (sums : List (DWord × DWord)) : Leaves s (execTapSums k src step sums s) :=
  leaves_next (by simp)

theorem execEndNotice_leaves (k : Nat) (src : Half) (_last : DWord) : Leaves s (execEndNotice k src _last s) := by
  unfold execEndNotice
  refine leaves_next ?_
  repeat' split
  all_goals simp

theorem execDoneNotice_leaves (k : Nat) (tick last digest : DWord) : Leaves s (execDoneNotice k tick last digest s) := by
  unfold execDoneNotice
  refine leaves_next ?_
  repeat' split
  all_goals simp

theorem execTeardown_leaves (k cause : Nat) (coord : Half) : Leaves s (execTeardown k cause coord s) := by
  unfold execTeardown
  refine leaves_next ?_
  repeat' split
  all_goals simp

theorem execReplicaDigest_leaves (k replica : Nat) (step digest : DWord) : Leaves s (execReplicaDigest k replica step digest s) := by
  unfold execReplicaDigest
  refine leaves_onUnit ?_
  repeat' split
  all_goals simp

theorem execAgreement_leaves (k : Nat) (step : DWord) (agree : Bool) : Leaves s (execAgreement k step agree s) := by
  unfold execAgreement
  refine leaves_onUnit ?_
  repeat' split
  all_goals simp [foldl_outer]

theorem execStatusQuery_leaves (k : Nat) (src : Half) (_sequence : DWord) : Leaves s (execStatusQuery k src _sequence s) := by
  unfold execStatusQuery
  refine leaves_onUnit ?_
  repeat' split
  all_goals simp

theorem execStatusAnswer_leaves (k j state : Nat) (tick last digest : DWord) : Leaves s (execStatusAnswer k j state tick last digest s) := by
  unfold execStatusAnswer
  refine leaves_onUnit ?_
  dsimp only
  repeat' split
  all_goals simp [↓outer_with]

theorem execReplayOrder_leaves (k : Nat) (u v : DWord) (replica : Nat) : Leaves s (execReplayOrder k u v replica s) := by
  unfold execReplayOrder
  refine leaves_onUnit ?_
  repeat' split
  all_goals simp

theorem execAcceptanceBegin_leaves (k j : Nat) : Leaves s (execAcceptanceBegin k j s) := by
  unfold execAcceptanceBegin
  refine leaves_onUnit ?_
  repeat' split
  all_goals simp

theorem execLaunchDecision_leaves (k j : Nat) : Leaves s (execLaunchDecision k j s) := by
  unfold execLaunchDecision
  refine leaves_onUnit ?_
  dsimp only
  repeat' split
  all_goals simp

theorem execFastClockStart_leaves (k j : Nat) : Leaves s (execFastClockStart k j s) := by
  unfold execFastClockStart
  refine leaves_onUnit ?_
  dsimp only
  repeat' split
  all_goals simp

theorem execLaunch_leaves (k j : Nat) : Leaves s (execLaunch k j s) := by
  unfold execLaunch
  refine leaves_onUnit ?_
  dsimp only
  repeat' split
  all_goals simp

theorem execJobResume_leaves (k : Nat) : Leaves s (execJobResume k s) := by
  unfold execJobResume
  refine leaves_onUnit ?_
  repeat' split
  all_goals simp

theorem execRadishTileStart_leaves (c tile : Nat) : Leaves s (execRadishTileStart c tile s) := by
  unfold execRadishTileStart
  refine leaves_onUnit ?_
  repeat' split
  all_goals simp [↓outer_with]

theorem execRadishTileEnd_leaves (a b : Option DWord) : Leaves s (execRadishTileEnd a b s) := by
  unfold execRadishTileEnd
  refine leaves_next ?_
  dsimp only
  repeat' split
  all_goals simp [↓outer_with]

theorem execPodClockStart_leaves (p : Nat) : Leaves s (execPodClockStart p s) := by
  unfold execPodClockStart
  refine leaves_onUnit ?_
  repeat' split
  all_goals simp

theorem execPodClockStop_leaves (p : Nat) : Leaves s (execPodClockStop p s) := by
  unfold execPodClockStop
  refine leaves_onUnit ?_
  repeat' split
  all_goals simp

theorem execSag_leaves (millivolts : Nat) : Leaves s (execSag millivolts s) := by
  unfold execSag
  refine leaves_next ?_
  repeat' split
  all_goals simp [↓outer_with]

theorem execSaveComplete_leaves : Leaves s (execSaveComplete s) := by
  unfold execSaveComplete
  refine leaves_next ?_
  repeat' split
  all_goals simp [↓outer_with]

theorem execSupplyQualified_leaves : Leaves s (execSupplyQualified s) := by
  unfold execSupplyQualified
  refine leaves_next ?_
  repeat' split
  all_goals simp [↓outer_with]

theorem execStartUp_leaves (f : StepFacts) : Leaves s (execStartUp f s) := by
  unfold execStartUp
  refine leaves_next ?_
  repeat' split
  all_goals simp

theorem execStartupStepTimeout_leaves (unit : Word) : Leaves s (execStartupStepTimeout unit s) := by
  unfold execStartupStepTimeout
  refine leaves_next ?_
  repeat' split
  all_goals simp

theorem execStartupRetry_leaves : Leaves s (execStartupRetry s) := by
  unfold execStartupRetry
  refine leaves_next ?_
  repeat' split
  all_goals simp

theorem execResetNDeassert_leaves : Leaves s (execResetNDeassert s) :=
  leaves_next (by simp [↓outer_with])

theorem execResetCommand_leaves (m : Nat) : Leaves s (execResetCommand m s) :=
  leaves_onUnit (by simp)

theorem execLeaveManagementOnly_leaves (m : Nat) : Leaves s (execLeaveManagementOnly m s) :=
  leaves_onUnit (by simp)

theorem execWatchdog_leaves : Leaves s (execWatchdog s) := by
  unfold execWatchdog
  refine leaves_next ?_
  repeat' split
  all_goals simp

theorem execPerstNAssert_leaves : Leaves s (execPerstNAssert s) := by
  unfold execPerstNAssert
  refine leaves_next ?_
  repeat' split
  all_goals simp [↓outer_with]

theorem execPerstNDeassert_leaves : Leaves s (execPerstNDeassert s) := by
  unfold execPerstNDeassert
  refine leaves_next ?_
  repeat' split
  all_goals simp [↓outer_with]

theorem execFunctionLevelReset_leaves (k : Nat) : Leaves s (execFunctionLevelReset k s) :=
  leaves_onUnit (by simp)

theorem execPowerStateChange_leaves (fn : Nat) (d3 : Bool) : Leaves s (execPowerStateChange fn d3 s) := by
  unfold execPowerStateChange
  refine leaves_onUnit ?_
  repeat' split
  all_goals simp [↓outer_with]

theorem execThrottleNAssert_leaves : Leaves s (execThrottleNAssert s) := by
  unfold execThrottleNAssert
  refine leaves_next ?_
  repeat' split
  all_goals simp [↓outer_with]

theorem execThrottleNDeassert_leaves : Leaves s (execThrottleNDeassert s) := by
  unfold execThrottleNDeassert
  refine leaves_next ?_
  repeat' split
  all_goals simp [↓outer_with]

theorem execThermalLevel1Entry_leaves (pods devices : List Int) : Leaves s (execThermalLevel1Entry pods devices s) := by
  unfold execThermalLevel1Entry
  refine leaves_next ?_
  repeat' split
  all_goals simp [↓outer_with]

theorem execThermalLevel2Entry_leaves (pods : List Int) (inlet : Int) : Leaves s (execThermalLevel2Entry pods inlet s) := by
  unfold execThermalLevel2Entry
  refine leaves_next ?_
  repeat' split
  all_goals simp [↓outer_with]

theorem execThermalLevelExit_leaves (pods devices : List Int) : Leaves s (execThermalLevelExit pods devices s) := by
  unfold execThermalLevelExit
  refine leaves_next ?_
  dsimp only
  repeat' split
  all_goals simp [↓outer_with]

theorem execRefclkLoss_leaves : Leaves s (execRefclkLoss s) := by
  unfold execRefclkLoss
  refine leaves_next ?_
  repeat' split
  all_goals simp [↓outer_with]

theorem execEpochEdge_leaves (phase : Int) : Leaves s (execEpochEdge phase s) := by
  unfold execEpochEdge
  refine leaves_next ?_
  dsimp only
  repeat' split
  all_goals simp [↓outer_with]

theorem execEpochAbsent_leaves : Leaves s (execEpochAbsent s) := by
  unfold execEpochAbsent
  refine leaves_next ?_
  repeat' split
  all_goals simp

theorem execWaizerFrame_leaves (f : WFrame) : Leaves s (execWaizerFrame f s) := by
  unfold execWaizerFrame
  refine leaves_next ?_
  repeat' split
  all_goals simp [↓outer_with]

theorem execRemoteAnswerTimeout_leaves (tag : Half) : Leaves s (execRemoteAnswerTimeout tag s) := by
  unfold execRemoteAnswerTimeout
  refine leaves_next ?_
  repeat' split
  all_goals simp

theorem execSerialiserWindowEnd_leaves : Leaves s (execSerialiserWindowEnd s) := by
  unfold execSerialiserWindowEnd
  refine leaves_next ?_
  repeat' split
  all_goals simp [↓outer_with]

theorem execRead32_leaves (m index sub : Nat) : Leaves s (execRead32 m index sub s) :=
  leaves_onUnit (by simp)

theorem execRead64_leaves (m index sub : Nat) : Leaves s (execRead64 m index sub s) :=
  leaves_onUnit (by simp)

theorem execWrite32_leaves (m index sub : Nat) (v : Word) : Leaves s (execWrite32 m index sub v s) :=
  leaves_onUnit (by simp)

theorem execWrite64_leaves (m index sub : Nat) (v : DWord) : Leaves s (execWrite64 m index sub v s) :=
  leaves_onUnit (by simp)

theorem execAggregateRead32_leaves (m index sub instances : Nat) : Leaves s (execAggregateRead32 m index sub instances s) :=
  leaves_onUnit (by simp)

theorem execAggregateRead64_leaves (m index sub instances : Nat) : Leaves s (execAggregateRead64 m index sub instances s) :=
  leaves_onUnit (by simp)

theorem execDescribe_leaves (m index sub : Nat) : Leaves s (execDescribe m index sub s) :=
  leaves_onUnit (by simp)

theorem execBar0Read_leaves (fn offset size : Nat) : Leaves s (execBar0Read fn offset size s) := by
  unfold execBar0Read
  refine leaves_onUnit ?_
  repeat' split
  all_goals simp

theorem execBar0Write_leaves (fn offset size : Nat) (v : DWord) : Leaves s (execBar0Write fn offset size v s) := by
  unfold execBar0Write
  refine leaves_onUnit ?_
  repeat' split
  all_goals simp

theorem execRegisterWrite_leaves (m index sub : Nat) (v : Word) : Leaves s (execRegisterWrite m index sub v s) :=
  leaves_onUnit (by simp)

theorem execAggregateStart_leaves (m : Nat) : Leaves s (execAggregateStart m s) :=
  leaves_onUnit (by simp)

theorem execPartitionWrite_leaves (m k sub : Nat) (v : Word) : Leaves s (execPartitionWrite m k sub v s) :=
  leaves_onUnit (by simp)

theorem execJobFieldWrite_leaves (m k j sub : Nat) (v : Word) : Leaves s (execJobFieldWrite m k j sub v s) :=
  leaves_onUnit (by simp)

theorem execArm_leaves (m k j : Nat) : Leaves s (execArm m k j s) :=
  leaves_onUnit (by simp)

theorem execWithdraw_leaves (m k j : Nat) : Leaves s (execWithdraw m k j s) :=
  leaves_onUnit (by simp)

theorem execAbort_leaves (m k j : Nat) : Leaves s (execAbort m k j s) :=
  leaves_onUnit (by simp)

theorem execClear_leaves (m k j : Nat) : Leaves s (execClear m k j s) :=
  leaves_onUnit (by simp)

theorem execInstructionLoadStart_leaves (m c : Nat) : Leaves s (execInstructionLoadStart m c s) :=
  leaves_onUnit (by simp)

theorem execHaltRecordClear_leaves (m c slot : Nat) : Leaves s (execHaltRecordClear m c slot s) :=
  leaves_onUnit (by simp)

theorem execCoreCounterClear_leaves (m c : Nat) : Leaves s (execCoreCounterClear m c s) :=
  leaves_onUnit (by simp)

theorem execControllerCounterClear_leaves (m n : Nat) : Leaves s (execControllerCounterClear m n s) :=
  leaves_onUnit (by simp)

theorem execCxlCounterClear_leaves (m n : Nat) : Leaves s (execCxlCounterClear m n s) :=
  leaves_onUnit (by simp)

theorem execPortCounterClear_leaves (m p : Nat) : Leaves s (execPortCounterClear m p s) :=
  leaves_onUnit (by simp)

theorem execLaneAction_leaves (m p lane : Nat) : Leaves s (execLaneAction m p lane s) :=
  leaves_onUnit (by simp)

theorem execLaneRetire_leaves (m p lane : Nat) : Leaves s (execLaneRetire m p lane s) :=
  leaves_onUnit (by simp)

theorem execFloorWrite_leaves (m : Nat) (v : Word) : Leaves s (execFloorWrite m v s) :=
  leaves_onUnit (by simp)

theorem execPackageBegin_leaves (m : Nat) : Leaves s (execPackageBegin m s) :=
  leaves_onUnit (by simp)

theorem execPackageData_leaves (m : Nat) (v : Word) : Leaves s (execPackageData m v s) :=
  leaves_onUnit (by simp)

theorem execPackageAccept_leaves (m : Nat) : Leaves s (execPackageAccept m s) :=
  leaves_onUnit (by simp)

theorem execPackageAbort_leaves (m : Nat) : Leaves s (execPackageAbort m s) :=
  leaves_onUnit (by simp)

theorem execCalibrationUnlock_leaves (m : Nat) (v : Word) : Leaves s (execCalibrationUnlock m v s) :=
  leaves_onUnit (by simp)

theorem execCalibrationCommit_leaves (m : Nat) : Leaves s (execCalibrationCommit m s) :=
  leaves_onUnit (by simp)

theorem execCalibrationAbort_leaves (m : Nat) : Leaves s (execCalibrationAbort m s) :=
  leaves_onUnit (by simp)

theorem execCalibrationLockTimeout_leaves : Leaves s (execCalibrationLockTimeout s) := by
  unfold execCalibrationLockTimeout
  refine leaves_next ?_
  repeat' split
  all_goals simp

theorem execFirmwareBegin_leaves (m : Nat) : Leaves s (execFirmwareBegin m s) :=
  leaves_onUnit (by simp)

theorem execFirmwareData_leaves (m : Nat) (v : Word) : Leaves s (execFirmwareData m v s) :=
  leaves_onUnit (by simp)

theorem execFirmwareCheck_leaves (m : Nat) : Leaves s (execFirmwareCheck m s) :=
  leaves_onUnit (by simp)

theorem execFirmwareAbort_leaves (m : Nat) : Leaves s (execFirmwareAbort m s) :=
  leaves_onUnit (by simp)

theorem execActivate_leaves (m : Nat) : Leaves s (execActivate m s) :=
  leaves_onUnit (by simp)

theorem execHandoverSwitch_leaves : Leaves s (execHandoverSwitch s) := by
  unfold execHandoverSwitch
  refine leaves_next ?_
  dsimp only
  repeat' split
  all_goals simp [↓outer_with]

theorem execManagementSwitch_leaves : Leaves s (execManagementSwitch s) := by
  unfold execManagementSwitch
  refine leaves_next ?_
  repeat' split
  all_goals simp

theorem execConfirm_leaves (m : Nat) : Leaves s (execConfirm m s) :=
  leaves_onUnit (by simp)

theorem execFallBack_leaves (m : Nat) : Leaves s (execFallBack m s) :=
  leaves_onUnit (by simp)

theorem execTrialLimitExpiry_leaves : Leaves s (execTrialLimitExpiry s) := by
  unfold execTrialLimitExpiry
  refine leaves_next ?_
  dsimp only
  repeat' split
  all_goals simp

theorem execAttestationCommand_leaves (m : Nat) (v : Word) : Leaves s (execAttestationCommand m v s) :=
  leaves_onUnit (by simp)

theorem execUndefinedOpcode_leaves (c : Nat) (w : IWord) : Leaves s (execUndefinedOpcode c w s) :=
  leaves_issue fun i x => by simp

theorem execCxlReadResponse_leaves (n : Nat) (a : CxlAnswer) : Leaves s (execCxlReadResponse n a s) := by
  unfold execCxlReadResponse
  refine leaves_onUnit ?_
  dsimp only
  repeat' split
  all_goals simp

theorem execCxlLinkTrained_leaves (n speed width : Nat) : Leaves s (execCxlLinkTrained n speed width s) := by
  unfold execCxlLinkTrained
  refine leaves_onUnit ?_
  dsimp only
  repeat' split
  all_goals simp

theorem execHostReadCompletion_leaves (tag : Nat) (a : HostAnswer) : Leaves s (execHostReadCompletion tag a s) := by
  unfold execHostReadCompletion
  refine leaves_next ?_
  repeat' split
  all_goals simp

theorem execPcieLinkDown_leaves : Leaves s (execPcieLinkDown s) := by
  unfold execPcieLinkDown
  refine leaves_next ?_
  repeat' split
  all_goals simp [↓outer_with]

theorem execHoldUpBankEmpty_leaves : Leaves s (execHoldUpBankEmpty s) := by
  unfold execHoldUpBankEmpty
  refine leaves_next ?_
  repeat' split
  all_goals simp [↓outer_with]

theorem execCalibrationCommitDone_leaves : Leaves s (execCalibrationCommitDone s) := by
  unfold execCalibrationCommitDone
  refine leaves_next ?_
  repeat' split
  all_goals simp [↓outer_with]

theorem execAttestationReportReady_leaves (m : Nat) : Leaves s (execAttestationReportReady m s) := by
  unfold execAttestationReportReady
  refine leaves_onUnit ?_
  dsimp only
  repeat' split
  all_goals simp

theorem execInletAbove45C_leaves (inlet : Int) : Leaves s (execInletAbove45C inlet s) := by
  unfold execInletAbove45C
  refine leaves_next ?_
  repeat' split
  all_goals simp

/-! ## Commands that use a lemma of their own -/

theorem popFlight_outer {α : Type} {f : Flight → Option α} {q : α × State} (h : s.popFlight f = some q) : q.2.outer = s.outer := by
  unfold State.popFlight at h
  repeat' split at h
  all_goals cases h
  rfl

theorem execBankLoadDone_leaves (c bank : Nat) : Leaves s (execBankLoadDone c bank s) := by
  unfold execBankLoadDone
  refine leaves_onUnit ?_
  split
  · exact .refl _
  · refine foldl_keeps_outer (by simp) _ fun u i => ?_
    repeat' split
    all_goals simp

theorem execTokenWaitEnd_leaves (c : Nat) : Leaves s (execTokenWaitEnd c s) := by
  refine leaves_onUnit (foldl_keeps (fun (p : State × Bool) => Keeps s.outer p.1.outer) _ (fun p i hp => ?_) _ _ (Keeps.refl _))
  split
  · exact hp
  · exact resume_kept hp ..

theorem execPrefetchRefetchDone_leaves (c : Nat) : Leaves s (execPrefetchRefetchDone c s) := by
  refine leaves_onUnit (foldl_keeps (fun (p : State × Bool) => Keeps s.outer p.1.outer) _ (fun p i hp => ?_) _ _ (Keeps.refl _))
  repeat' split
  · exact hp
  · exact hp
  · exact hp
  · simpa
  · exact resume_kept (by simpa using landRefetch_kept hp ..) ..

theorem execBarrierArrival_leaves (k r l b : Nat) : Leaves s (execBarrierArrival k r l b s) := by
  refine leaves_next ?_
  split
  · simp
  · next hq => simp [popFlight_outer _ hq]

theorem execBarrierRelease_leaves (k r l : Nat) : Leaves s (execBarrierRelease k r l s) := by
  refine leaves_next ?_
  split
  · simp
  · next hq => simp [popFlight_outer _ hq]

theorem execSemaphoreGrant_leaves (k r l : Nat) : Leaves s (execSemaphoreGrant k r l s) := by
  refine leaves_next ?_
  split
  · simp
  · next hq =>
    repeat' split
    all_goals simp [popFlight_outer _ hq]

theorem execReadyTake_leaves (k r g : Nat) : Leaves s (execReadyTake k r g s) := by
  refine leaves_next ?_
  split
  · simp
  · next hq => exact readyTaken_kept (by simp [popFlight_outer _ hq]) ..

theorem execArmAnswer_leaves (k r l b : Nat) : Leaves s (execArmAnswer k r l b s) := by
  refine leaves_next ?_
  split
  · simp
  · next hq => simp [popFlight_outer _ hq]

theorem execMemoryRequest_leaves (q : MemReq) : Leaves s (execMemoryRequest q s) := by
  unfold execMemoryRequest
  split
  · exact ⟨fun _ h => by cases h⟩
  · refine leaves_next (atMemory_kept (.refl _) fun t => ?_)
    split <;> simp

theorem execBar2Access_leaves (fn offset length : Nat) (data : Option (List Byte)) : Leaves s (execBar2Access fn offset length data s) := by
  refine leaves_onUnit (keeps_ite (.refl _) (keeps_ite ?_ ?_))
  · split <;> simp
  · refine atMemory_kept (.refl _) fun t => ?_
    repeat' split
    all_goals simp

theorem execLaneWindowEnd_leaves (p : Nat) : Leaves s (execLaneWindowEnd p s) := by
  unfold execLaneWindowEnd
  refine leaves_onUnit ?_
  have counted (l : List Nat) (f : Nat → Word) : (l.foldl (fun (u : State) l => u.setReg (portObj p 2) (l + 1) (f l)) s).outer = s.outer :=
    foldl_outer _ (fun _ _ => by simp) _ s
  dsimp only
  repeat' split
  all_goals simp [counted]

theorem execPacketUnanswered_leaves (dest tag : Half) : Leaves s (execPacketUnanswered dest tag s) := by
  unfold execPacketUnanswered
  refine leaves_next ?_
  split
  · exact .refl _
  · extract_lets t seq job t1 src t2
    have h : t2.outer = s.outer := by
      unfold t2
      rw [outer_with]
      simp [t1, t]
    split
    · rw [faultJob_outer, h]
      exact .refl _
    · rw [h]
      exact .refl _

theorem rankWrite_complete_kept (t : State) (k r a : Nat) (bs : List Byte) (p : Packet) : Keeps t.outer ((t.rankWrite k r a bs).complete p).outer := by
  simp

theorem execWrite_leaves (p : Packet) : Leaves s (execWrite p s) :=
  leaves_next (inbound_kept (.refl _) _ _ fun _ => serve_kept (.refl _) _ _ _ _ fun _ _ => rankWrite_complete_kept ..)

theorem execPartialWrite_leaves (p : Packet) : Leaves s (execPartialWrite p s) :=
  leaves_next (inbound_kept (.refl _) _ _ fun _ => serve_kept (.refl _) _ _ _ _ fun _ _ => rankWrite_complete_kept ..)

theorem execVersionPush_leaves (p : Packet) : Leaves s (execVersionPush p s) :=
  leaves_next (inbound_kept (.refl _) _ _ fun _ => serve_kept (.refl _) _ _ _ _ fun _ _ => rankWrite_complete_kept ..)

theorem execScatterAdd_leaves (p : Packet) (fmt : Nat) (terms : List ScatterTerm) : Leaves s (execScatterAdd p fmt terms s) := by
  refine leaves_next (inbound_kept (.refl _) _ _ fun t => serve_kept (.refl _) _ _ _ _ fun r u => ?_)
  rw [complete_outer]
  exact foldl_keeps_outer (.refl _) _ fun v q => by simp

theorem execBroadcastDelivery_leaves (p : Packet) : Leaves s (execBroadcastDelivery p s) := by
  refine leaves_next (inbound_kept (.refl _) _ _ fun t => ?_)
  dsimp only
  split
  · exact serve_kept (.refl _) _ _ _ _ fun r u => rankWrite_complete_kept ..
  · repeat' split
    all_goals simp

theorem execParameterGather_leaves (p : Packet) : Leaves s (execParameterGather p s) := by
  refine leaves_next (inbound_kept (.refl _) _ _ fun t => ?_)
  dsimp only
  repeat' split
  · simp
  · simp
  · exact gatherFrom_kept (.refl _) ..
  · simp

theorem execReadData_leaves (p : Packet) : Leaves s (execReadData p s) := by
  refine leaves_next (inbound_kept (.refl _) _ _ fun t => answered_kept (.refl _) _ _ fun u why => ?_)
  split <;> simp

theorem execDictionaryAnswer_leaves (p : Packet) : Leaves s (execDictionaryAnswer p s) := by
  refine leaves_next (inbound_kept (.refl _) _ _ fun t => answered_kept (.refl _) _ _ fun u why => ?_)
  split <;> simp

theorem execErrorAnswer_leaves (p : Packet) : Leaves s (execErrorAnswer p s) := by
  refine leaves_next (inbound_kept (.refl _) _ _ fun t => answered_kept (.refl _) _ _ fun u why => ?_)
  split
  · repeat' split
    all_goals simp
  all_goals simp

theorem execBarrierDeviceArrival_leaves (p : Packet) : Leaves s (execBarrierDeviceArrival p s) := by
  refine leaves_next (inbound_kept (.refl _) _ _ fun t => ?_)
  dsimp only
  repeat' split
  all_goals simp

theorem execBarrierReleaseMessage_leaves (p : Packet) : Leaves s (execBarrierReleaseMessage p s) := by
  refine leaves_next (served_kept (.refl _) _ _ fun t => ?_)
  dsimp only
  repeat' split
  all_goals simp

theorem execRemoteSemaphoreSignal_leaves (p : Packet) : Leaves s (execRemoteSemaphoreSignal p s) := by
  refine leaves_next (served_kept (.refl _) _ _ fun t => ?_)
  dsimp only
  repeat' split
  all_goals simp

theorem execReadyNotice_leaves (p : Packet) : Leaves s (execReadyNotice p s) := by
  refine leaves_next (served_kept (.refl _) _ _ fun t => ?_)
  split <;> simp

theorem execDecision_leaves (p : Packet) : Leaves s (execDecision p s) := by
  refine leaves_next (served_kept (.refl _) _ _ fun t => ?_)
  split
  · exact .refl _
  · exact tryUpdates_kept (by simp) _

theorem execCommitNotice_leaves (p : Packet) : Leaves s (execCommitNotice p s) := by
  refine leaves_next (served_kept (.refl _) _ _ fun t => ?_)
  split <;> simp

theorem execReplayDigests_leaves (k : Nat) (src : Half) (step : DWord) (ranks : List (Nat × DWord × DWord)) :
    Leaves s (execReplayDigests k src step ranks s) := by
  refine leaves_onUnit ?_
  repeat' split
  · exact .refl _
  · exact .refl _
  · exact judge_kept (by simp) _

theorem execControlCoreRetired_leaves (n : Nat) : Leaves s (execControlCoreRetired n s) := by
  unfold execControlCoreRetired
  refine leaves_onUnit ?_
  extract_lets f
  split
  · exact .refl _
  · next spare _ _ _ _ =>
    extract_lets left s1
    have h : s1.outer = s.outer := addError_outer ..
    clear_value s1 spare
    repeat' split
    all_goals simp [↓outer_with, h]

theorem execPowerOnReset_leaves : Leaves s (execPowerOnReset s) := by
  unfold execPowerOnReset
  refine leaves_next ?_
  extract_lets t kept src src' t1
  have h : Keeps s.outer t1.outer := stopAll_kept (s := s) (.refl _)
  simpa

theorem execResetNAssert_leaves : Leaves s (execResetNAssert s) := by
  unfold execResetNAssert
  refine leaves_next ?_
  extract_lets src t
  split
  · exact .refl _
  · exact keeps_ite (t := t) (.refl _) (deviceReset_kept (s := t) (.refl _) 2)

theorem execSelfRefreshEntry_leaves : Leaves s (execSelfRefreshEntry s) := by
  unfold execSelfRefreshEntry
  generalize next96 (s.power.memoryUsed.toNat + 25000000) = n
  refine leaves_next (keeps_ite ?_ (.refl _))
  simp [↓outer_with]

theorem execCoreOverdue_leaves (c : Nat) : Leaves s (execCoreOverdue c s) := by
  unfold execCoreOverdue
  generalize s.core c = x
  dsimp only
  generalize x.visited.toNat + 15000000000 = n
  refine leaves_onUnit (keeps_ite (.refl _) ?_)
  rw [bump_outer, addError_outer, setCore_outer, until_outer]
  exact .refl _

theorem execStatusQueryTimeout_leaves (k j : Nat) : Leaves s (execStatusQueryTimeout k j s) := by
  unfold execStatusQueryTimeout
  refine leaves_onUnit ?_
  split
  · exact .refl _
  · next q _ =>
    generalize q.2.2.toNat + 12500000 = n
    simp [↓outer_with]

theorem execThrottleStuck_leaves : Leaves s (execThrottleStuck s) := by
  unfold execThrottleStuck
  refine leaves_next ?_
  split
  · next n _ _ =>
    generalize n.toNat + 250000000 = m
    simp [↓outer_with]
  · exact .refl _

theorem execHandoverTimeout_leaves : Leaves s (execHandoverTimeout s) := by
  unfold execHandoverTimeout
  refine leaves_next ?_
  split
  · next n _ _ =>
    generalize n.toNat + 2500000 = m
    simp [↓outer_with]
  · exact .refl _

end

section
variable {s t : State}

/-! ## O3, O4, O5 and O7 -/

/-- Whatever the command, the next state that exec answers keeps the queue, the manufactured identity and memory's form. -/
theorem exec_leaves (s : State) : ∀ i, Leaves s (exec i s)
  | .loop _ _ => execLoop_leaves ..
  | .jump _ _ => execJump_leaves ..
  | .bankswap _ _ => execBankswap_leaves ..
  | .yield _ _ => execYield_leaves ..
  | .halt _ _ => execHalt_leaves ..
  | .mwt _ _ => execMwt_leaves ..
  | .mstr _ _ => execMstr_leaves ..
  | .mout _ _ => execMout_leaves ..
  | .mswap _ _ => execMswap_leaves ..
  | .tileSwapEffect _ => execTileSwapEffect_leaves ..
  | .passAdmitted _ => execPassAdmitted_leaves ..
  | .activityRise _ _ => execActivityRise_leaves ..
  | .activityFall _ _ => execActivityFall_leaves ..
  | .moutRowRead _ _ => execMoutRowRead_leaves ..
  | .bankLoadDone _ _ => execBankLoadDone_leaves ..
  | .tokenWaitEnd _ => execTokenWaitEnd_leaves ..
  | .vadd _ _ => execVadd_leaves ..
  | .vaddSubtract _ _ => execVaddSubtract_leaves ..
  | .vfma _ _ => execVfma_leaves ..
  | .vfmaMultiply _ _ => execVfmaMultiply_leaves ..
  | .vfmaSubtract _ _ => execVfmaSubtract_leaves ..
  | .vdiv _ _ => execVdiv_leaves ..
  | .vsqrt _ _ => execVsqrt_leaves ..
  | .vcvt _ _ => execVcvt_leaves ..
  | .vtab _ _ => execVtab_leaves ..
  | .vtabd _ _ => execVtabd_leaves ..
  | .vtabdProduct _ _ => execVtabdProduct_leaves ..
  | .vred _ _ => execVred_leaves ..
  | .vredRows _ _ => execVredRows_leaves ..
  | .vtopk _ _ => execVtopk_leaves ..
  | .vrngInt _ _ => execVrngInt_leaves ..
  | .vrngUniform _ _ => execVrngUniform_leaves ..
  | .vrngThreshold _ _ => execVrngThreshold_leaves ..
  | .vscale _ _ => execVscale_leaves ..
  | .dcopy _ _ => execDcopy_leaves ..
  | .dxpose _ _ => execDxpose_leaves ..
  | .dgath _ _ => execDgath_leaves ..
  | .dgathPooledSum _ _ => execDgathPooledSum_leaves ..
  | .dgathPooledMean _ _ => execDgathPooledMean_leaves ..
  | .dscat _ _ => execDscat_leaves ..
  | .dscatAdd _ _ => execDscatAdd_leaves ..
  | .dpref _ _ => execDpref_leaves ..
  | .prefetchRefetchDone _ => execPrefetchRefetchDone_leaves ..
  | .dremBroadcast _ _ => execDremBroadcast_leaves ..
  | .dremRead _ _ => execDremRead_leaves ..
  | .dremShardedGather _ _ => execDremShardedGather_leaves ..
  | .dremFabricPooledGather _ _ => execDremFabricPooledGather_leaves ..
  | .dremShardedScatterAdd _ _ => execDremShardedScatterAdd_leaves ..
  | .dremParameterGather _ _ => execDremParameterGather_leaves ..
  | .sarm _ _ => execSarm_leaves ..
  | .sarr _ _ => execSarr_leaves ..
  | .sarrArrive _ _ => execSarrArrive_leaves ..
  | .sarrWait _ _ => execSarrWait_leaves ..
  | .ssig _ _ => execSsig_leaves ..
  | .swait _ _ => execSwait_leaves ..
  | .sdec _ _ => execSdec_leaves ..
  | .barrierArrival _ _ _ _ => execBarrierArrival_leaves ..
  | .barrierRelease _ _ _ => execBarrierRelease_leaves ..
  | .semaphoreRequest _ _ _ => execSemaphoreRequest_leaves ..
  | .semaphoreGrant _ _ _ => execSemaphoreGrant_leaves ..
  | .readyTake _ _ _ => execReadyTake_leaves ..
  | .memoryRequest _ => execMemoryRequest_leaves ..
  | .slotFreeNotice _ _ => execSlotFreeNotice_leaves ..
  | .refreshWindow _ _ _ => execRefreshWindow_leaves ..
  | .refreshRateChange _ _ => execRefreshRateChange_leaves ..
  | .cxlLinkDown _ => execCxlLinkDown_leaves ..
  | .cxlExpanderEvent _ _ _ => execCxlExpanderEvent_leaves ..
  | .hostCompletionTimeout _ => execHostCompletionTimeout_leaves ..
  | .bar2Access _ _ _ _ => execBar2Access_leaves ..
  | .selfRefreshEntry => execSelfRefreshEntry_leaves ..
  | .memoryGroupWake => execMemoryGroupWake_leaves ..
  | .floorTick => execFloorTick_leaves ..
  | .fecBlockReceived _ _ => execFecBlockReceived_leaves ..
  | .nakRepeat _ => execNakRepeat_leaves ..
  | .blockRelease _ => execBlockRelease_leaves ..
  | .laneRequest _ _ _ => execLaneRequest_leaves ..
  | .equaliserAdapted _ => execEqualiserAdapted_leaves ..
  | .laneReady _ _ => execLaneReady_leaves ..
  | .laneSwitch _ _ _ => execLaneSwitch_leaves ..
  | .laneSwitchApply _ => execLaneSwitchApply_leaves ..
  | .maskChange _ _ _ => execMaskChange_leaves ..
  | .laneFailure _ _ => execLaneFailure_leaves ..
  | .laneWindowEnd _ => execLaneWindowEnd_leaves ..
  | .trainingBurst _ => execTrainingBurst_leaves ..
  | .linkTraining _ => execLinkTraining_leaves ..
  | .linkInService _ _ => execLinkInService_leaves ..
  | .identity p serial stepping port held anchored coord anchor shape => execIdentity_leaves s p serial stepping port held anchored coord anchor shape
  | .referenceCandidate _ _ _ _ => execReferenceCandidate_leaves ..
  | .linkRecord _ _ _ _ => execLinkRecord_leaves ..
  | .discoveryEnd => execDiscoveryEnd_leaves ..
  | .departureOrder m => execDepartureOrder_leaves s m
  | .leaveNotice _ _ _ => execLeaveNotice_leaves ..
  | .departurePortsIdle => execDeparturePortsIdle_leaves ..
  | .packageSlice _ _ _ _ => execPackageSlice_leaves ..
  | .timestampExchange => execTimestampExchange_leaves ..
  | .timestampRequest _ _ => execTimestampRequest_leaves ..
  | .timestampReply _ _ _ _ => execTimestampReply_leaves ..
  | .tickEdgeCorrection => execTickEdgeCorrection_leaves ..
  | .packetForward _ _ => execPacketForward_leaves ..
  | .packetUnanswered _ _ => execPacketUnanswered_leaves ..
  | .routeChangeResume _ => execRouteChangeResume_leaves ..
  | .read _ => execRead_leaves ..
  | .write _ => execWrite_leaves ..
  | .partialWrite _ => execPartialWrite_leaves ..
  | .scatterAdd _ _ _ => execScatterAdd_leaves ..
  | .broadcastDelivery _ => execBroadcastDelivery_leaves ..
  | .parameterGather _ => execParameterGather_leaves ..
  | .prefetchWatch _ => execPrefetchWatch_leaves ..
  | .dictionaryRequest _ _ _ => execDictionaryRequest_leaves ..
  | .readData _ => execReadData_leaves ..
  | .completion _ => execCompletion_leaves ..
  | .dictionaryAnswer _ => execDictionaryAnswer_leaves ..
  | .errorAnswer _ => execErrorAnswer_leaves ..
  | .generationNotice _ => execGenerationNotice_leaves ..
  | .barrierDeviceArrival _ => execBarrierDeviceArrival_leaves ..
  | .barrierReleaseMessage _ => execBarrierReleaseMessage_leaves ..
  | .remoteSemaphoreSignal _ => execRemoteSemaphoreSignal_leaves ..
  | .nodeOperand _ _ => execNodeOperand_leaves ..
  | .nodeOperandSecondTree _ _ => execNodeOperandSecondTree_leaves ..
  | .rootOperand _ _ => execRootOperand_leaves ..
  | .updateSlotFreed _ _ => execUpdateSlotFreed_leaves ..
  | .readyNotice _ => execReadyNotice_leaves ..
  | .coordinatorDeadline _ _ => execCoordinatorDeadline_leaves ..
  | .decision _ => execDecision_leaves ..
  | .release _ => execRelease_leaves ..
  | .versionPush _ => execVersionPush_leaves ..
  | .completionReport _ => execCompletionReport_leaves ..
  | .commitNotice _ => execCommitNotice_leaves ..
  | .commitTick _ => execCommitTick_leaves ..
  | .ratioPartial _ => execRatioPartial_leaves ..
  | .checkpointWriteDone _ _ => execCheckpointWriteDone_leaves ..
  | .rankMap _ _ _ => execRankMap_leaves ..
  | .acceptanceNotice k j src sequence => execAcceptanceNotice_leaves s k j src sequence
  | .launchConfirmation _ _ _ => execLaunchConfirmation_leaves ..
  | .cancel _ _ _ => execCancel_leaves ..
  | .ledgerRecord _ _ _ => execLedgerRecord_leaves ..
  | .watchPartials _ _ _ _ => execWatchPartials_leaves ..
  | .tapSums _ _ _ _ => execTapSums_leaves ..
  | .endNotice k src last => execEndNotice_leaves s k src last
  | .doneNotice _ _ _ _ => execDoneNotice_leaves ..
  | .teardown _ _ _ => execTeardown_leaves ..
  | .replicaDigest _ _ _ _ => execReplicaDigest_leaves ..
  | .agreement _ _ _ => execAgreement_leaves ..
  | .statusQuery k src sequence => execStatusQuery_leaves s k src sequence
  | .statusAnswer _ _ _ _ _ _ => execStatusAnswer_leaves ..
  | .replayOrder _ _ _ _ => execReplayOrder_leaves ..
  | .replayDigests _ _ _ _ => execReplayDigests_leaves ..
  | .acceptanceBegin _ _ => execAcceptanceBegin_leaves ..
  | .launchDecision _ _ => execLaunchDecision_leaves ..
  | .fastClockStart _ _ => execFastClockStart_leaves ..
  | .launch _ _ => execLaunch_leaves ..
  | .jobResume _ => execJobResume_leaves ..
  | .controlCoreRetired _ => execControlCoreRetired_leaves ..
  | .radishTileStart _ _ => execRadishTileStart_leaves ..
  | .radishTileEnd _ _ => execRadishTileEnd_leaves ..
  | .coreOverdue _ => execCoreOverdue_leaves ..
  | .podClockStart _ => execPodClockStart_leaves ..
  | .podClockStop _ => execPodClockStop_leaves ..
  | .sag _ => execSag_leaves ..
  | .saveComplete => execSaveComplete_leaves ..
  | .supplyQualified => execSupplyQualified_leaves ..
  | .powerOnReset => execPowerOnReset_leaves ..
  | .startUp _ => execStartUp_leaves ..
  | .startupStepTimeout _ => execStartupStepTimeout_leaves ..
  | .startupRetry => execStartupRetry_leaves ..
  | .statusQueryTimeout _ _ => execStatusQueryTimeout_leaves ..
  | .resetNAssert => execResetNAssert_leaves ..
  | .resetNDeassert => execResetNDeassert_leaves ..
  | .resetCommand _ => execResetCommand_leaves ..
  | .leaveManagementOnly _ => execLeaveManagementOnly_leaves ..
  | .watchdog => execWatchdog_leaves ..
  | .perstNAssert => execPerstNAssert_leaves ..
  | .perstNDeassert => execPerstNDeassert_leaves ..
  | .functionLevelReset _ => execFunctionLevelReset_leaves ..
  | .powerStateChange _ _ => execPowerStateChange_leaves ..
  | .throttleNAssert => execThrottleNAssert_leaves ..
  | .throttleNDeassert => execThrottleNDeassert_leaves ..
  | .throttleStuck => execThrottleStuck_leaves ..
  | .thermalLevel1Entry _ _ => execThermalLevel1Entry_leaves ..
  | .thermalLevel2Entry _ _ => execThermalLevel2Entry_leaves ..
  | .thermalLevelExit _ _ => execThermalLevelExit_leaves ..
  | .refclkLoss => execRefclkLoss_leaves ..
  | .epochEdge _ => execEpochEdge_leaves ..
  | .epochAbsent => execEpochAbsent_leaves ..
  | .waizerFrame _ => execWaizerFrame_leaves ..
  | .remoteAnswerTimeout _ => execRemoteAnswerTimeout_leaves ..
  | .serialiserWindowEnd => execSerialiserWindowEnd_leaves ..
  | .read32 _ _ _ => execRead32_leaves ..
  | .read64 _ _ _ => execRead64_leaves ..
  | .write32 _ _ _ _ => execWrite32_leaves ..
  | .write64 _ _ _ _ => execWrite64_leaves ..
  | .aggregateRead32 _ _ _ _ => execAggregateRead32_leaves ..
  | .aggregateRead64 _ _ _ _ => execAggregateRead64_leaves ..
  | .describe _ _ _ => execDescribe_leaves ..
  | .bar0Read _ _ _ => execBar0Read_leaves ..
  | .bar0Write _ _ _ _ => execBar0Write_leaves ..
  | .registerWrite _ _ _ _ => execRegisterWrite_leaves ..
  | .aggregateStart _ => execAggregateStart_leaves ..
  | .partitionWrite _ _ _ _ => execPartitionWrite_leaves ..
  | .jobFieldWrite _ _ _ _ _ => execJobFieldWrite_leaves ..
  | .arm _ _ _ => execArm_leaves ..
  | .withdraw _ _ _ => execWithdraw_leaves ..
  | .abort _ _ _ => execAbort_leaves ..
  | .clear _ _ _ => execClear_leaves ..
  | .instructionLoadStart _ _ => execInstructionLoadStart_leaves ..
  | .haltRecordClear _ _ _ => execHaltRecordClear_leaves ..
  | .coreCounterClear _ _ => execCoreCounterClear_leaves ..
  | .controllerCounterClear _ _ => execControllerCounterClear_leaves ..
  | .cxlCounterClear _ _ => execCxlCounterClear_leaves ..
  | .portCounterClear _ _ => execPortCounterClear_leaves ..
  | .laneAction _ _ _ => execLaneAction_leaves ..
  | .laneRetire _ _ _ => execLaneRetire_leaves ..
  | .floorWrite _ _ => execFloorWrite_leaves ..
  | .packageBegin _ => execPackageBegin_leaves ..
  | .packageData _ _ => execPackageData_leaves ..
  | .packageAccept _ => execPackageAccept_leaves ..
  | .packageAbort _ => execPackageAbort_leaves ..
  | .calibrationUnlock _ _ => execCalibrationUnlock_leaves ..
  | .calibrationCommit _ => execCalibrationCommit_leaves ..
  | .calibrationAbort _ => execCalibrationAbort_leaves ..
  | .calibrationLockTimeout => execCalibrationLockTimeout_leaves ..
  | .firmwareBegin _ => execFirmwareBegin_leaves ..
  | .firmwareData _ _ => execFirmwareData_leaves ..
  | .firmwareCheck _ => execFirmwareCheck_leaves ..
  | .firmwareAbort _ => execFirmwareAbort_leaves ..
  | .activate _ => execActivate_leaves ..
  | .handoverSwitch => execHandoverSwitch_leaves ..
  | .managementSwitch => execManagementSwitch_leaves ..
  | .handoverTimeout => execHandoverTimeout_leaves ..
  | .confirm _ => execConfirm_leaves ..
  | .fallBack _ => execFallBack_leaves ..
  | .trialLimitExpiry => execTrialLimitExpiry_leaves ..
  | .attestationCommand _ _ => execAttestationCommand_leaves ..
  | .undefinedOpcode _ _ => execUndefinedOpcode_leaves ..
  | .armAnswer _ _ _ _ => execArmAnswer_leaves ..
  | .cxlReadResponse _ _ => execCxlReadResponse_leaves ..
  | .cxlLinkTrained _ _ _ => execCxlLinkTrained_leaves ..
  | .hostReadCompletion _ _ => execHostReadCompletion_leaves ..
  | .pcieLinkDown => execPcieLinkDown_leaves ..
  | .holdUpBankEmpty => execHoldUpBankEmpty_leaves ..
  | .calibrationCommitDone => execCalibrationCommitDone_leaves ..
  | .attestationReportReady _ => execAttestationReportReady_leaves ..
  | .inletAbove45C _ => execInletAbove45C_leaves ..

theorem exec_keeps {i : Instr} (h : exec i s = .next t) : Keeps s.outer t.outer := (exec_leaves s i).keeps t h

/-- A step takes the front command from the queue, if there is one, and keeps the rest of the outer state. -/
theorem step_keeps (h : step s = .next t) : Keeps (s.pending.tail, s.ident, s.mem) t.outer := by
  unfold step at h
  split at h
  · next empty =>
    cases h
    rw [idle_outer, State.outer, empty]
    exact .refl _
  · next full =>
    rw [full]
    exact exec_keeps h

/-- Settles O4: every command's answer keeps the queue. -/
theorem commandsLeaveTheQueue : Obligations.CommandsLeaveTheQueue := fun _ _ _ h => (exec_keeps h).pending

/-- Settles O5: every write of device memory goes through operations that keep its form. -/
theorem everyStepKeepsMemoryCanonical : Obligations.EveryStepKeepsMemoryCanonical := fun _ _ canonical h => (step_keeps h).wf canonical

/-- Settles O7: of the identity, only start-up's node field is ever written. -/
theorem identityNeverChanges : Obligations.IdentityNeverChanges := by
  intro s t h
  have kept := step_keeps h
  exact ⟨kept.serial, kept.mac, kept.stepping, kept.grade⟩

/-- Refutes O3: a partition write to sub-index 0 of context 0 names master 0 and context 0, which exist, so that it is well formed; but the
sub-index is none of the partition's 12, and the answer is a fault. -/
theorem not_everyWellFormedCommandCompletes : ¬ Obligations.EveryWellFormedCommandCompletes := by
  rintro ⟨completes, -⟩
  obtain ⟨t, answers⟩ := completes (.partitionWrite 0 0 0 0) State.reset rfl (by rintro _ ⟨⟩)
  have faults : exec (.partitionWrite 0 0 0 0) State.reset = .fault .noSuchUnit := rfl
  rw [faults] at answers
  cases answers

end

end Sys2Proof.Machine
end

section
/-! PROOFS. Self-refresh, waking and the floor of device memory, and time that passes to a tick (R26, R571, R572). -/

namespace Sys2Proof.Machine

variable {s t u : State}

theorem State.passes.errors (h : s.passes t) : t.errors = s.errors := by rw [h]

theorem State.obeyed.sameFabric {m op idx sub : Nat} (h : u.obeyed t m op idx sub) (w : s.sameFabric u) : s.sameFabric t := by
  unfold State.sameFabric
  rw [h.1]
  exact w

/-! ## Time that passes to a tick (R26) -/

/-- As many cycles as lie before tick n end at its first one. -/
theorem Clock.pass_to {k : Clock} {n : Nat} (hn : n < 2 ^ 64) (ahead : k.tick.toNat < n) (hc : k.cycle < 60) :
    (k.pass (60 * n - (60 * k.tick.toNat + k.cycle))).tick.toNat = n ∧ (k.pass (60 * n - (60 * k.tick.toNat + k.cycle))).cycle = 0 := by
  have cycles : k.cycle + (60 * n - (60 * k.tick.toNat + k.cycle)) = (n - k.tick.toNat) * 60 := by omega
  simp only [Clock.pass, cycles, Nat.mul_div_cancel _ (Nat.succ_pos 59), Nat.mul_mod_left, and_true, BitVec.toNat_add, BitVec.toNat_ofNat]
  omega

theorem until_clock {n : Nat} (hn : n < 2 ^ 64) (ahead : s.clock.tick.toNat < n) (hc : s.clock.cycle < 60) :
    (s.until n).clock.tick.toNat = n ∧ (s.until n).clock.cycle = 0 := by
  have some : 60 * n - s.now ≠ 0 := by
    simp only [State.now]
    omega
  rw [State.until, if_pos ahead, passCycles_clock s some]
  exact Clock.pass_to hn ahead hc

/-! ## The memory group (R571, R572) -/

/-- The state in which the memory group is in self-refresh. -/
def State.slept (s : State) : State := { s with power := { s.power with memory := 0 } }

theorem slept_after (h : s.passes u) :
    u.slept.power.memory = 0 ∧ u.slept.mem = s.mem ∧ u.slept.lcores = s.lcores ∧ u.slept.errors = s.errors ∧ u.slept.clock = u.clock :=
  ⟨rfl, h.mem, h.lcores, h.errors, rfl⟩

/-- The state in which the memory group is active since now. -/
def State.woken (s : State) : State := { s with power := { s.power with memory := 2, wakeAt := none, memoryUsed := s.clock.tick } }

theorem woken_after (h : s.passes u) :
    u.woken.power.memory = 2 ∧ u.woken.power.wakeAt = none ∧ u.woken.mem = s.mem ∧ u.woken.lcores = s.lcores ∧ u.woken.clock = u.clock ∧
      u.woken.power.memoryUsed = u.woken.clock.tick :=
  ⟨rfl, rfl, h.mem, h.lcores, rfl, rfl⟩

/-- The state in which the floor is as ordered. -/
def State.floored (s : State) (on : Bool) : State :=
  { s with power := { s.power with
      floor := on, floorNext := none, memory := if on then 2 else s.power.memory, wakeAt := if on then none else s.power.wakeAt
      memoryUsed := s.clock.tick } }

theorem floored_after (h : s.passes u) (on : Bool) :
    (u.floored on).power.floor = on ∧ (u.floored on).power.floorNext = none ∧ (u.floored on).mem = s.mem ∧ (u.floored on).lcores = s.lcores ∧
      (on = true → (u.floored on).power.memory = 2) ∧ (u.floored on).clock = u.clock :=
  ⟨rfl, rfl, h.mem, h.lcores, fun up => if_pos up, rfl⟩

theorem exec_selfRefreshEntry (active : s.memoryActive = true) (ready : s.power.phase = 1) (free : s.noJobs = true) (off : s.power.floor = false) :
    exec .selfRefreshEntry s = .next (s.until (next96 (s.power.memoryUsed.toNat + 25000000))).slept := by
  have two : s.power.memory = 2 := of_decide_eq_true active
  refine congrArg Host.Outcome.next (if_pos ?_)
  simp [two, ready, free, off]

theorem exec_memoryGroupWake {w : DWord} (h : s.power.wakeAt = some w) :
    exec .memoryGroupWake s = .next (s.until (next96 (w.toNat + 2400))).woken := by
  refine congrArg Host.Outcome.next (?_ : s.memoryWoken = _)
  rw [State.memoryWoken, h]
  rfl

theorem exec_floorTick {on : Bool} {tick : DWord} (h : s.power.floorNext = some (on, tick)) :
    exec .floorTick s = .next ((s.until tick.toNat).floored on) := by
  rw [show exec .floorTick s = execFloorTick s from rfl, execFloorTick, h]
  rfl

/-- The floor ordered on from tick n on. -/
def State.floorOrdered (s : State) (n : Nat) : State :=
  { s.setReg 0x0300 0x05 1 with power := { s.power with floorNext := some (true, BitVec.ofNat 64 n) } }

theorem reg_floorOrdered (s : State) (n : Nat) : (s.floorOrdered n).reg 0x0300 0x05 = 1 :=
  (reg_congr rfl ..).trans (reg_setReg_same s 0x0300 0x05 1)

theorem floorRule_on {n : Nat} (hn : n = s.reg64 0x0300 0x06) (whole : n % 96 = 0) (ahead : s.clock.tick.toNat + 2400 ≤ n) :
    cleanly 0xFFFFFFFE 1 (floorRule 1) s = (s.floorOrdered n, 0) := by
  have ok : (decide (n % 96 = 0) && decide (s.clock.tick.toNat + 2400 ≤ n)) = true := by simp [whole, ahead]
  rw [cleanly, if_neg (by decide), floorRule, if_pos (by decide), ← hn, ok]
  rfl

theorem exec_floorWrite_on {m n : Nat} (hm : m ≤ 1) (alive : s.power.alive = true) (hn : n = s.reg64 0x0300 0x06) (whole : n % 96 = 0)
    (ahead : s.clock.tick.toNat + 2400 ≤ n) : ∃ t, exec (.floorWrite m 1) s = .next t ∧ (s.floorOrdered n).obeyed t m 3 0x0300 0x05 :=
  ⟨_, onUnit_masterOk (by omega) _, command_obeyed (hears_always hm alive (by decide)) (floorRule_on hn whole ahead)⟩

/-! ## O30 -/

/-- Settles O30: each command by its own equation. That time which lies ahead passes is log 14. -/
theorem memoryGroupSleepsAndWakes : Obligations.MemoryGroupSleepsAndWakes := by
  unfold Obligations.MemoryGroupSleepsAndWakes
  refine ⟨fun s active ready free off => ?_, fun s w h => ?_, fun s on tick h => ?_, fun s m n hm alive hn whole ahead => ?_,
    fun s n ahead hn hc => ?_⟩
  · exact ⟨_, exec_selfRefreshEntry active ready free off, slept_after (until_passes ..)⟩
  · exact ⟨_, exec_memoryGroupWake h, woken_after (until_passes ..)⟩
  · exact ⟨_, exec_floorTick h, floored_after (until_passes ..) on⟩
  · obtain ⟨t, answer, done⟩ := exec_floorWrite_on hm alive hn whole ahead
    refine ⟨t, answer, done.power, done.sameWork ?_, ?_, ?_⟩
    · exact ⟨rfl, rfl, rfl, rfl, rfl, rfl, rfl⟩
    · exact done.sameFabric ⟨rfl, rfl⟩
    · rw [reg_congr done.dict]
      exact reg_floorOrdered s n
  · have time := until_passes s n
    obtain ⟨tick, cycle⟩ := until_clock hn ahead hc
    exact ⟨tick, cycle, time.mem, time.lcores, time.ports, time.slots⟩

end Sys2Proof.Machine
end

section
/-! PROOFS. Messages of the control type, changes of a slot, and status queries (R327, R531, R583). -/

namespace Sys2Proof.Machine

variable {s t u : State} {k j : Nat}

/-! ## Control messages (R327) -/

theorem State.onlyForwards.refl (s : State) : s.onlyForwards s := rfl
theorem State.onlyForwards.power (h : s.onlyForwards t) : t.power = s.power := by rw [h]
theorem State.onlyForwards.errors (h : s.onlyForwards t) : t.errors = s.errors := by rw [h]

theorem foldl_onlyForwards {β : Type} (f : State → β → State) (h : ∀ t x, State.onlyForwards t (f t x)) (l : List β) (s : State) :
    s.onlyForwards (l.foldl f s) :=
  foldl_keeps (fun t => s.onlyForwards t) f (fun t x ht => ht.trans (h t x)) l s rfl

theorem control_onlyForwards (s : State) (k : Nat) (tag : DWord) (dest : Half) (sub : Nat) (body : List Byte) :
    s.onlyForwards (s.control k tag dest sub body) :=
  foldl_onlyForwards _ (fun _ _ => ask_onlyForwards ..) _ s

/-! ## A change of a slot (R526, R630) -/

theorem changeSlot_raises (s : State) (k j : Nat) (f : Slot → Slot) : (s.setSlot k j (f (s.slot k j))).raises (s.changeSlot k j f) := by
  unfold State.changeSlot
  dsimp only
  split
  · exact .refl _
  · exact msix_raises ..

theorem slot_changeSlot_same (s : State) (k j : Nat) (f : Slot → Slot) : (s.changeSlot k j f).slot k j = f (s.slot k j) := by
  rw [State.slot, (changeSlot_raises s k j f).slots]
  exact slot_setSlot_same ..

theorem changeSlot_mem (s : State) (k j : Nat) (f : Slot → Slot) : (s.changeSlot k j f).mem = s.mem := (changeSlot_raises ..).mem
theorem changeSlot_jobs (s : State) (k j : Nat) (f : Slot → Slot) : (s.changeSlot k j f).jobs = s.jobs := (changeSlot_raises ..).jobs
theorem changeSlot_power (s : State) (k j : Nat) (f : Slot → Slot) : (s.changeSlot k j f).power = s.power := (changeSlot_raises ..).power
theorem changeSlot_clock (s : State) (k j : Nat) (f : Slot → Slot) : (s.changeSlot k j f).clock = s.clock := (changeSlot_raises ..).clock

/-! ## Status queries (R531, R583) -/

theorem onUnit_slotOk (hk : k < 16) (hj : j < 8) (t : State) : onUnit (slotOk k j) t = .next t := by simp [onUnit, slotOk, hk, hj]

theorem onUnit_context (hk : k < 16) (t : State) : onUnit (decide (k < 16)) t = .next t := by simp [onUnit, hk]

/-- The state in which no query of slot j of context k waits. -/
def State.unasked (s : State) (k j : Nat) : State :=
  { s with power := { s.power with queries := s.power.queries.filter (fun q => !(q.1 = k && q.2.1 = j)) } }

theorem unasked_queries (s : State) (k j : Nat) : ∀ q ∈ (s.unasked k j).power.queries, q.1 ≠ k ∨ q.2.1 ≠ j := by
  intro q hq
  have kept := (List.mem_filter.1 hq).2
  simpa [Decidable.imp_iff_not_or] using kept

/-- What an interrupted slot becomes when its lead does not say that it is done: it waits to run again. -/
def Slot.reopened (q : Slot) : Slot := { q with state := 3, rerun := true, launchReg := 0, launch := 0, preempted := false }

/-- What an interrupted slot becomes when its lead says that it is done. -/
def Slot.ended (q : Slot) (tick last digest : DWord) : Slot :=
  { q with state := 5, endTick := tick, lastStep := last, digest := digest, preempted := false }

theorem exec_statusQuery {q : Slot} (hk : k < 16) (lead : s.leadSlot k = some q) (src : Half) (n : DWord) :
    exec (.statusQuery k src n) s = .next (s.control k q.tag src 0x0E
      (leBytes 4 q.state ++ leBytes 4 0 ++ leBytes 8 q.endTick.toNat ++ leBytes 8 q.lastStep.toNat ++ leBytes 8 q.digest.toNat)) := by
  refine (onUnit_context hk _).trans (congrArg _ ?_)
  simp only [lead]

theorem exec_statusAnswer_done (hk : k < 16) (hj : j < 8) (cut : s.interrupted k j = true) (tick last digest : DWord) :
    exec (.statusAnswer k j 5 tick last digest) s = .next ((s.unasked k j).changeSlot k j (fun q => q.ended tick last digest)) := by
  have cut' : (s.unasked k j).interrupted k j = true := cut
  refine (onUnit_slotOk hk hj _).trans (congrArg _ ?_)
  exact (if_neg (by simpa [State.unasked] using cut')).trans (if_pos rfl)

theorem exec_statusAnswer_other (hk : k < 16) (hj : j < 8) (cut : s.interrupted k j = true) {n : Nat} (hn : n ≠ 5) (tick last digest : DWord) :
    exec (.statusAnswer k j n tick last digest) s = .next ((s.unasked k j).changeSlot k j Slot.reopened) := by
  have cut' : (s.unasked k j).interrupted k j = true := cut
  refine (onUnit_slotOk hk hj _).trans (congrArg _ ?_)
  exact (if_neg (by simpa [State.unasked] using cut')).trans (if_neg hn)

theorem exec_statusQueryTimeout {q : Nat × Nat × DWord} (hk : k < 16) (hj : j < 8)
    (asked : s.power.queries.find? (fun q => q.1 = k && q.2.1 = j) = some q) :
    exec (.statusQueryTimeout k j) s = .next (((s.until (q.2.2.toNat + 12500000)).changeSlot k j Slot.reopened).unasked k j) := by
  refine (onUnit_slotOk hk hj _).trans (congrArg _ ?_)
  rw [asked]
  rfl

/-- After time has passed a slot is reopened and its query forgotten. -/
theorem reopened_after (h : s.passes u) (k j : Nat) :
    ((u.changeSlot k j Slot.reopened).unasked k j).mem = s.mem ∧
      (∀ q ∈ ((u.changeSlot k j Slot.reopened).unasked k j).power.queries, q.1 ≠ k ∨ q.2.1 ≠ j) ∧
      ((u.changeSlot k j Slot.reopened).unasked k j).slot k j = (s.slot k j).reopened ∧
      ((u.changeSlot k j Slot.reopened).unasked k j).clock = u.clock := by
  have same : u.slot k j = s.slot k j := by rw [State.slot, h.slots, State.slot]
  refine ⟨(changeSlot_mem ..).trans h.mem, unasked_queries _ k j, ?_, changeSlot_clock ..⟩
  exact (slot_changeSlot_same ..).trans (congrArg Slot.reopened same)

/-! ## O49 -/

/-- Settles O49: the answer is sent on the fabric alone; the answer and the timeout change the slot and forget the query. Which slot the lead
answers for is log 22. -/
theorem statusQueriesSettleSlots : Obligations.StatusQueriesSettleSlots := by
  unfold Obligations.StatusQueriesSettleSlots
  refine ⟨fun s k q src n hk lead => ?_, fun s k j n tick last digest hk hj cut => ?_, fun s k j q hk hj asked => ?_⟩
  · have sent := control_onlyForwards s k q.tag src 0x0E
      (leBytes 4 q.state ++ leBytes 4 0 ++ leBytes 8 q.endTick.toNat ++ leBytes 8 q.lastStep.toNat ++ leBytes 8 q.digest.toNat)
    exact ⟨_, exec_statusQuery hk lead src n, sent.sameWork, sent.power, sent.errors, rfl⟩
  · have forgotten (f : Slot → Slot) : ∀ q ∈ ((s.unasked k j).changeSlot k j f).power.queries, q.1 ≠ k ∨ q.2.1 ≠ j := by
      rw [changeSlot_power]
      exact unasked_queries s k j
    by_cases hn : n = 5
    · subst hn
      exact ⟨_, exec_statusAnswer_done hk hj cut tick last digest, changeSlot_mem .., changeSlot_jobs .., forgotten _,
        fun _ => slot_changeSlot_same .., fun other => absurd rfl other⟩
    · exact ⟨_, exec_statusAnswer_other hk hj cut hn tick last digest, changeSlot_mem .., changeSlot_jobs .., forgotten _,
        fun five => absurd five hn, fun _ => slot_changeSlot_same ..⟩
  · exact ⟨_, exec_statusQueryTimeout hk hj asked, reopened_after (until_passes ..) k j⟩

end Sys2Proof.Machine
end

section
/-! PROOFS. The throttle pin, its watch and the thermal levels (R567, R590, R593, R639, R640, R645, R647). -/

namespace Sys2Proof.Machine

variable {s t u : State}

theorem State.passes.pins (h : s.passes t) : t.pins = s.pins := by rw [h]
theorem State.passes.power (h : s.passes t) : t.power = s.power := by rw [h]

/-! ## Passing time leaves the device's own registers (R26) -/

/-- The registers below the first context's object are the same. -/
structure State.sameLow (s t : State) : Prop where
  reg : ∀ i j, dkey i j < 0x200000 → t.reg i j = s.reg i j

namespace State.sameLow

theorem refl (s : State) : s.sameLow s := ⟨fun _ _ _ => rfl⟩
theorem trans (h : s.sameLow t) (g : t.sameLow u) : s.sameLow u :=
  ⟨fun i j low => (g.reg i j low).trans (h.reg i j low)⟩
theorem of_dict (h : t.dict = s.dict) : s.sameLow t := ⟨fun i j _ => reg_congr h i j⟩

end State.sameLow

theorem setReg_sameLow (s : State) {idx : Nat} (sub : Nat) (v : Word) (h : 0x2000 ≤ idx) : s.sameLow (s.setReg idx sub v) := by
  refine ⟨fun i j low => reg_setReg_other _ _ _ _ _ _ ?_⟩
  simp only [dkey] at *
  omega

theorem setReg64_sameLow (s : State) {idx : Nat} (sub v : Nat) (h : 0x2000 ≤ idx) : s.sameLow (s.setReg64 idx sub v) :=
  (setReg_sameLow _ _ _ h).trans (setReg_sameLow _ _ _ h)

theorem bump64_sameLow (s : State) {idx : Nat} (sub n : Nat) (h : 0x2000 ≤ idx) : s.sameLow (s.bump64 idx sub n) := setReg64_sameLow _ _ _ h

theorem foldl_sameLow {β : Type} (f : State → β → State) (h : ∀ t x, State.sameLow t (f t x)) (l : List β) (s : State) : s.sameLow (l.foldl f s) :=
  foldl_keeps (fun t => s.sameLow t) f (fun t x ht => ht.trans (h t x)) l s (.refl s)

theorem le_coreObj (c o : Nat) : 0x2000 ≤ coreObj c o := by
  unfold coreObj
  omega

theorem le_ctxObj (k o : Nat) : 0x2000 ≤ ctxObj k o := by
  unfold ctxObj
  omega

theorem countWaits_sameLow (s : State) (c : Nat) (p : Core) (n : Nat) : s.sameLow (s.countWaits c p n) := by
  unfold State.countWaits
  dsimp only
  split
  · exact .refl s
  · have stalls := foldl_sameLow (fun (t : State) sub => t.bump64 (coreObj c 0x5) sub n) (fun _ _ => bump64_sameLow _ _ _ (le_coreObj ..))
    split
    · exact stalls _ s
    · exact (stalls _ s).trans (bump64_sameLow _ _ _ (le_coreObj ..))

theorem stallQueues_sameLow (s : State) (k : Nat) (j : Job) (n : Nat) : s.sameLow (s.stallQueues k j n) := by
  unfold State.stallQueues
  dsimp only
  split
  · exact .refl s
  · have counted (t : State) (a : Nat) (b : Word) (c : Nat) :
        t.sameLow (((t.bump64 (ctxObj k 0x23) 0x01 a).setReg (ctxObj k 0x23) 0x03 b).setReg64 (ctxObj k 0x23) 0x04 c) :=
      ((bump64_sameLow _ _ _ (le_ctxObj ..)).trans (setReg_sameLow _ _ _ (le_ctxObj ..))).trans (setReg64_sameLow _ _ _ (le_ctxObj ..))
    exact ⟨(counted (s.setJob k _) _ _ _).reg⟩

theorem stallAll_sameLow (s : State) (n : Nat) : s.sameLow (s.stallAll n) := by
  refine foldl_sameLow _ (fun t p => ?_) s.jobs s
  repeat' split
  · exact stallQueues_sameLow ..
  · exact .refl t
  · exact .refl t

theorem passCycles_sameLow (s : State) (n : Nat) : s.sameLow (s.passCycles n) := by
  unfold State.passCycles
  split
  · exact .refl s
  · extract_lets u t
    have waits : s.sameLow u := (stallAll_sameLow s n).trans (foldl_sameLow _ (fun _ _ => countWaits_sameLow ..) _ _)
    have ramps : u.sameLow t := by
      refine foldl_sameLow _ (fun v p => ?_) _ _
      exact .of_dict rfl
    exact ⟨(waits.trans ramps).reg⟩

theorem until_sameLow (s : State) (n : Nat) : s.sameLow (s.until n) := by
  unfold State.until
  split
  · exact passCycles_sameLow ..
  · exact .refl s

/-! ## Throttle begins (R590, R593) -/

theorem State.entered.of_errors {kind effect : Nat} {unit : Word} {d0 d1 : DWord} (h : u.entered t kind effect unit d0 d1)
    (same : u.errors = s.errors) : s.entered t kind effect unit d0 d1 := by
  rwa [State.entered, ← same]

/-- Between s and t a record has been entered: the log has changed, and what reports an event. -/
def State.records (s t : State) : Prop := State.raises { s with errors := t.errors } t

namespace State.records

theorem of_raises (h : s.raises t) : s.records t := by
  unfold State.records State.raises at *
  rw [h]

theorem trans (h : s.records t) (g : t.records u) : s.records u := by
  unfold State.records State.raises at *
  rw [g, h]

theorem clock (h : s.records t) : t.clock = s.clock := by rw [State.raises.clock h]
theorem pins (h : s.records t) : t.pins = s.pins := by rw [State.raises.pins h]
theorem mem (h : s.records t) : t.mem = s.mem := by rw [State.raises.mem h]
theorem lcores (h : s.records t) : t.lcores = s.lcores := by rw [State.raises.lcores h]
theorem slots (h : s.records t) : t.slots = s.slots := by rw [State.raises.slots h]
theorem power (h : s.records t) : t.power = s.power := by rw [State.raises.power h]

theorem sameWork (h : s.records t) : s.sameWork t :=
  have g : State.raises { s with errors := t.errors } t := h
  ⟨g.mem, g.lcores, g.cores, g.slots, g.jobs, g.barriers, g.sems⟩

end State.records

theorem alarm_records (s : State) (idx sub i : Nat) : s.records (s.alarm idx sub i) := .of_raises (alarm_raises ..)

theorem addError_records (s : State) (kind effect : Nat) (unit job : Word) (op : Nat) (step d0 d1 : DWord) :
    s.records (s.addError kind effect unit job op step d0 d1) := addError_raises ..

theorem throttleBegins_records (s : State) (why : Nat) : s.records (s.throttleBegins why) := (alarm_records ..).trans (addError_records ..)

theorem throttleBegins_entered (s : State) (why : Nat) : s.entered (s.throttleBegins why) 0x0105 0 mgmt (BitVec.ofNat 64 s.duty) 0 :=
  (addError_entered ..).of_errors (alarm_errors ..)

theorem reg_throttleBegins_other (s : State) (why : Nat) {i j : Nat} (h8 : dkey i j ≠ dkey 0x0300 0x08) (h3 : dkey i j ≠ dkey 0x1000 0x03)
    (h4 : dkey i j ≠ dkey 0x1000 0x04) : (s.throttleBegins why).reg i j = s.reg i j :=
  (reg_addError_other _ _ _ _ _ _ _ _ _ _ _ h3 h4).trans (reg_alarm_other _ _ _ _ _ _ h8)

theorem throttleBegins_alarmed (s : State) (why : Nat) : (s.throttleBegins why).alarmed 0x0300 0x08 1 := by
  rw [State.alarmed, State.throttleBegins, reg_addError_other _ _ _ _ _ _ _ _ _ _ _ (by decide) (by decide)]
  exact alarmed_alarm _ _ _ (by decide)

/-! ## The throttle pin (R639, R640) -/

/-- The state with the throttle pin as given since tick n. -/
def State.pinned (s : State) (on : Bool) (n : Option DWord) : State := { s with pins := { s.pins with throttleN := on, throttleSince := n } }

theorem exec_throttleNAssert (alive : s.power.alive = true) (off : s.pins.throttleN = false) :
    exec .throttleNAssert s = .next ((s.nextEdge.pinned true (some s.clock.tick)).throttleBegins 1) :=
  congrArg Host.Outcome.next (if_neg (by simp [alive, off]))

theorem exec_throttleNDeassert (on : s.pins.throttleN = true) : exec .throttleNDeassert s = .next (s.nextEdge.pinned false none) :=
  congrArg Host.Outcome.next (if_neg (by simp [on]))

/-- The state in which the throttle pin is no longer watched. -/
def State.unwatched (s : State) : State := { s with pins := { s.pins with throttleSince := none } }

/-- The throttle pin is found to be stuck: alarm and record (R640). -/
def State.stuck (s : State) (n : DWord) : State := (s.unwatched.alarm 0x0440 0x05 2).addError 0x0303 0 mgmt noJob 0 noStep n 0

theorem exec_throttleStuck {n : DWord} (on : s.pins.throttleN = true) (since : s.pins.throttleSince = some n) :
    exec .throttleStuck s = .next ((s.until (n.toNat + 250000000)).stuck n) := by
  rw [show exec .throttleStuck s = execThrottleStuck s from rfl, execThrottleStuck, on, since]
  rfl

theorem duty_of_sameLow (h : s.sameLow t) : t.duty = s.duty := congrArg BitVec.toNat (h.reg 0x0300 0x04 (by decide))

/-- What is seen of an assertion once time has led to the edge at which throttle begins. -/
theorem throttleBegins_after (time : s.passes u) (low : s.sameLow u) {t : State} {n : DWord}
    (ht : t = (u.pinned true (some n)).throttleBegins 1) :
    t.throttled = true ∧ t.pins = { s.pins with throttleN := true, throttleSince := some n } ∧ t.clock = u.clock ∧ t.alarmed 0x0300 0x08 1 ∧
      s.entered t 0x0105 0 mgmt (BitVec.ofNat 64 s.duty) 0 ∧ t.mem = s.mem ∧ t.lcores = s.lcores ∧ t.slots = s.slots := by
  subst ht
  have begun := throttleBegins_records (u.pinned true (some n)) 1
  have pins : ((u.pinned true (some n)).throttleBegins 1).pins = { s.pins with throttleN := true, throttleSince := some n } := by
    rw [begun.pins, State.pinned, time.pins]
  have duty : (u.pinned true (some n)).duty = s.duty := duty_of_sameLow (low.trans (.of_dict rfl))
  refine ⟨by simp [State.throttled, pins], pins, begun.clock, throttleBegins_alarmed .., ?_, begun.mem.trans time.mem,
    begun.lcores.trans time.lcores, begun.slots.trans time.slots⟩
  rw [← duty]
  exact (throttleBegins_entered ..).of_errors time.errors

theorem unpinned_after (time : s.passes u) :
    (u.pinned false none).throttled = decide (s.power.thermal ≠ 0) ∧ (u.pinned false none).clock = u.clock ∧
      (u.pinned false none).errors = s.errors ∧ (u.pinned false none).mem = s.mem ∧ (u.pinned false none).lcores = s.lcores ∧
      (u.pinned false none).slots = s.slots := by
  refine ⟨?_, rfl, time.errors, time.mem, time.lcores, time.slots⟩
  simp [State.throttled, State.pinned, time.power]

theorem stuck_after (time : s.passes u) (on : s.pins.throttleN = true) (n : DWord) :
    (u.stuck n).throttled = true ∧ (u.stuck n).pins.throttleSince = none ∧ (u.stuck n).clock = u.clock ∧ (u.stuck n).alarmed 0x0440 0x05 2 ∧
      s.entered (u.stuck n) 0x0303 0 mgmt n 0 ∧ (u.stuck n).mem = s.mem ∧ (u.stuck n).lcores = s.lcores ∧ (u.stuck n).slots = s.slots := by
  have found : u.unwatched.records (u.stuck n) := (alarm_records ..).trans (addError_records ..)
  have pins : (u.stuck n).pins = { s.pins with throttleSince := none } := by
    rw [found.pins, State.unwatched, time.pins]
  refine ⟨by simp [State.throttled, pins, on], congrArg Pins.throttleSince pins, found.clock, ?_, ?_, found.mem.trans time.mem,
    found.lcores.trans time.lcores, found.slots.trans time.slots⟩
  · rw [State.alarmed, State.stuck, reg_addError_other _ _ _ _ _ _ _ _ _ _ _ (by decide) (by decide)]
    exact alarmed_alarm _ _ _ (by decide)
  · exact (addError_entered ..).of_errors ((alarm_errors ..).trans time.errors)

/-! ## Temperatures (R645, R647) -/

theorem noteTemps_eq (s : State) (pods devices : List Int) : s.noteTemps pods devices = { s with dict := (s.noteTemps pods devices).dict } := by
  unfold State.noteTemps
  dsimp only
  repeat' split
  all_goals rfl

theorem reg_noteTemps_other (s : State) (pods devices : List Int) {i j : Nat} (h1 : dkey i j ≠ dkey 0x0280 0x01)
    (h2 : dkey i j ≠ dkey 0x0280 0x02) : (s.noteTemps pods devices).reg i j = s.reg i j := by
  unfold State.noteTemps
  dsimp only
  repeat' split
  · rfl
  · exact reg_setReg_other _ _ _ _ _ _ h1
  · exact reg_setReg_other _ _ _ _ _ _ h2
  · exact (reg_setReg_other _ _ _ _ _ _ h2).trans (reg_setReg_other _ _ _ _ _ _ h1)

theorem reg_noteTemps_pods (s : State) {pods : List Int} (h : pods ≠ []) (devices : List Int) :
    (s.noteTemps pods devices).reg 0x0280 0x01 = BitVec.ofInt 32 (hottest pods) := by
  unfold State.noteTemps
  dsimp only
  rw [if_neg h]
  split
  · exact reg_setReg_same ..
  · exact (reg_setReg_other _ _ _ _ _ _ (by decide)).trans (reg_setReg_same ..)

theorem noteTemps_raises (s : State) (pods devices : List Int) : s.raises (s.noteTemps pods devices) := by
  unfold State.raises
  rw [noteTemps_eq]

/-- The state at thermal level n. -/
def State.heated (s : State) (n : Nat) : State := { s with power := { s.power with thermal := n } }

theorem State.raises.heated (h : s.raises t) (n : Nat) : (s.heated n).raises (t.heated n) := by
  unfold State.raises State.heated at *
  rw [h]

/-- Thermal level 1 is entered. -/
def State.toLevel1 (s : State) (pods devices : List Int) : State := (((s.noteTemps pods devices).heated 1).alarm 0x0280 0x06 0).throttleBegins 2

/-- Thermal level 2 is entered. -/
def State.toLevel2 (s : State) (pods : List Int) (inlet : Int) : State :=
  (((((s.noteTemps pods []).setReg 0x0280 0x03 (BitVec.ofInt 32 inlet)).heated 2).alarm 0x0280 0x06 1).throttleBegins 2).addError 0x0304 0 mgmt noJob
    (hottestAt pods) noStep (BitVec.ofInt 64 (hottest pods)) (BitVec.ofInt 64 inlet)

theorem exec_thermalLevel1Entry_hot {pods devices : List Int} (cool : s.power.thermal = 0)
    (hot : (reachesC 100 pods || reachesC 95 devices) = true) :
    exec (.thermalLevel1Entry pods devices) s = .next (s.toLevel1 pods devices) :=
  congrArg Host.Outcome.next (if_pos (by simp [cool, hot]))

theorem exec_thermalLevel1Entry_cool {pods devices : List Int} (h : (reachesC 100 pods || reachesC 95 devices) = false) :
    exec (.thermalLevel1Entry pods devices) s = .next (s.noteTemps pods devices) :=
  congrArg Host.Outcome.next (if_neg (by simp [h]))

theorem exec_thermalLevel2Entry_hot {pods : List Int} (inlet : Int) (below : s.power.thermal ≠ 2) (hot : reachesC 105 pods = true) :
    exec (.thermalLevel2Entry pods inlet) s = .next (s.toLevel2 pods inlet) :=
  congrArg Host.Outcome.next (if_pos (by simp [below, hot]))

theorem exec_thermalLevel2Entry_cool {pods : List Int} (inlet : Int) (h : s.power.thermal = 2 ∨ reachesC 105 pods = false) :
    exec (.thermalLevel2Entry pods inlet) s = .next ((s.noteTemps pods []).setReg 0x0280 0x03 (BitVec.ofInt 32 inlet)) := by
  refine congrArg Host.Outcome.next (if_neg ?_)
  obtain h | h := h <;> simp [h]

theorem exec_thermalLevelExit {pods devices : List Int} {n : Nat}
    (cooled : ((s.power.thermal = 1 && (withinC 95 pods && withinC 90 devices)) || (s.power.thermal = 2 && withinC 100 pods)) = true)
    (hn : n = if withinC 95 pods && withinC 90 devices then 0 else 1) :
    exec (.thermalLevelExit pods devices) s = .next (((s.until (s.clock.tick.toNat + 25000)).noteTemps pods devices).heated n) := by
  subst hn
  exact congrArg Host.Outcome.next (if_pos cooled)

theorem withinC_mono {a b : Nat} (h : a ≤ b) {l : List Int} (hl : withinC a l = true) : withinC b l = true := by
  simp only [withinC, List.all_eq_true, decide_eq_true_eq] at *
  intro t ht
  have := hl t ht
  omega

/-- What is seen of a level left once time has passed. -/
theorem heated_after (time : s.passes u) (pods devices : List Int) (n : Nat) :
    ((u.noteTemps pods devices).heated n).power = { s.power with thermal := n } ∧ ((u.noteTemps pods devices).heated n).clock = u.clock ∧
      ((u.noteTemps pods devices).heated n).errors = s.errors ∧ ((u.noteTemps pods devices).heated n).mem = s.mem ∧
      ((u.noteTemps pods devices).heated n).lcores = s.lcores := by
  have noted := noteTemps_raises u pods devices
  refine ⟨?_, noted.clock, noted.errors.trans time.errors, noted.mem.trans time.mem, noted.lcores.trans time.lcores⟩
  rw [State.heated, noted.power, time.power]

/-- The state in which the inlet's temperature has been noted (R647). -/
def State.inletNoted (s : State) (inlet : Int) : State :=
  if (16 * 45 : Nat) < inlet then (s.setReg 0x0280 0x03 (BitVec.ofInt 32 inlet)).alarm 0x0280 0x06 2 else s.setReg 0x0280 0x03 (BitVec.ofInt 32 inlet)

theorem inletNoted_seen (s : State) (inlet : Int) :
    (s.inletNoted inlet).reg 0x0280 0x03 = BitVec.ofInt 32 inlet ∧ (720 < inlet → (s.inletNoted inlet).alarmed 0x0280 0x06 2) ∧
      s.sameWork (s.inletNoted inlet) ∧ (s.inletNoted inlet).power = s.power ∧ (s.inletNoted inlet).errors = s.errors ∧
      (s.inletNoted inlet).pins = s.pins := by
  unfold State.inletNoted
  split
  · next warm =>
    have noted := (setReg_raises s 0x0280 0x03 (BitVec.ofInt 32 inlet)).trans (alarm_raises _ 0x0280 0x06 2)
    have kept := State.records.of_raises noted
    exact ⟨(reg_alarm_other _ _ _ _ _ _ (by decide)).trans (reg_setReg_same ..), fun _ => alarmed_alarm _ _ _ (by decide), kept.sameWork,
      kept.power, noted.errors, kept.pins⟩
  · next cold =>
    exact ⟨reg_setReg_same .., fun warm => absurd warm (by simpa using cold), (State.records.of_raises (setReg_raises ..)).sameWork, rfl, rfl, rfl⟩

theorem toLevel1_records (s : State) (pods devices : List Int) : (s.heated 1).records (s.toLevel1 pods devices) :=
  ((State.records.of_raises ((noteTemps_raises s pods devices).heated 1)).trans (alarm_records ..)).trans (throttleBegins_records ..)

theorem toLevel1_alarmed (s : State) (pods devices : List Int) : (s.toLevel1 pods devices).alarmed 0x0280 0x06 0 := by
  rw [State.alarmed, State.toLevel1, reg_throttleBegins_other _ _ (by decide) (by decide) (by decide)]
  exact alarmed_alarm _ _ _ (by decide)

theorem toLevel1_entered (s : State) (pods devices : List Int) :
    s.entered (s.toLevel1 pods devices) 0x0105 0 mgmt (BitVec.ofNat 64 s.duty) 0 := by
  have duty : (((s.noteTemps pods devices).heated 1).alarm 0x0280 0x06 0).duty = s.duty := by
    refine congrArg BitVec.toNat ((reg_alarm_other _ _ _ _ _ _ (by decide)).trans ?_)
    exact reg_noteTemps_other s pods devices (by decide) (by decide)
  rw [← duty]
  exact (throttleBegins_entered ..).of_errors ((alarm_errors ..).trans (noteTemps_raises ..).errors)

theorem toLevel2_records (s : State) (pods : List Int) (inlet : Int) : (s.heated 2).records (s.toLevel2 pods inlet) :=
  have noted := (noteTemps_raises s pods []).trans (setReg_raises _ 0x0280 0x03 (BitVec.ofInt 32 inlet))
  (((State.records.of_raises (noted.heated 2)).trans (alarm_records ..)).trans (throttleBegins_records ..)).trans (addError_records ..)

theorem reg_toLevel2 (s : State) (pods : List Int) (inlet : Int) {j : Nat} (hj : j < 256) :
    (s.toLevel2 pods inlet).reg 0x0280 j =
      ((((s.noteTemps pods []).setReg 0x0280 0x03 (BitVec.ofInt 32 inlet)).heated 2).alarm 0x0280 0x06 1).reg 0x0280 j := by
  have apart {i b : Nat} (hi : 0x0280 ≠ i) (hb : b < 256) : dkey 0x0280 j ≠ dkey i b := dkey_ne_of_index_ne hi hj hb
  exact (reg_addError_other _ _ _ _ _ _ _ _ _ _ _ (apart (by decide) (by decide)) (apart (by decide) (by decide))).trans
    (reg_throttleBegins_other _ _ (apart (by decide) (by decide)) (apart (by decide) (by decide)) (apart (by decide) (by decide)))

theorem toLevel2_alarmed (s : State) (pods : List Int) (inlet : Int) : (s.toLevel2 pods inlet).alarmed 0x0280 0x06 1 := by
  rw [State.alarmed, reg_toLevel2 s pods inlet (by decide)]
  exact alarmed_alarm _ _ _ (by decide)

theorem toLevel2_inlet (s : State) (pods : List Int) (inlet : Int) : (s.toLevel2 pods inlet).reg 0x0280 0x03 = BitVec.ofInt 32 inlet := by
  rw [reg_toLevel2 s pods inlet (by decide), reg_alarm_other _ _ _ _ _ _ (by decide)]
  exact reg_setReg_same ..

theorem toLevel2_next (s : State) (pods : List Int) (inlet : Int) : (s.toLevel2 pods inlet).errors.next = s.errors.next + 2 := by
  rw [State.toLevel2, addError_next, (throttleBegins_entered ..).1, alarm_errors]
  exact congrArg (fun l : ErrorLog => l.next + 2) (noteTemps_raises s pods []).errors

theorem toLevel2_newest (s : State) (pods : List Int) (inlet : Int) :
    ∃ r l, (s.toLevel2 pods inlet).errors.records = r :: l ∧ r.kind = 0x0304 ∧ r.detail0 = BitVec.ofInt 64 (hottest pods) ∧
      r.detail1 = BitVec.ofInt 64 inlet := by
  obtain ⟨-, r, l, newest, kind, -, -, detail0, detail1, -⟩ := addError_entered
    (((((s.noteTemps pods []).setReg 0x0280 0x03 (BitVec.ofInt 32 inlet)).heated 2).alarm 0x0280 0x06 1).throttleBegins 2) 0x0304 0 mgmt noJob
    (hottestAt pods) noStep (BitVec.ofInt 64 (hottest pods)) (BitVec.ofInt 64 inlet)
  exact ⟨r, l, newest, kind, detail0, detail1⟩

/-! ## O51 -/

/-- Settles O51: the pin by the state at the edge, the levels by what each entry records. That an exit takes the level down one or two levels
by the thresholds is log 87. -/
theorem throttleAndHeat : Obligations.ThrottleAndHeat := by
  unfold Obligations.ThrottleAndHeat
  refine ⟨fun s => ⟨fun alive off => ?_, fun on => ?_, fun n on since => ?_⟩, fun s pods devices => ⟨fun cool hot => ?_, fun below => ?_,
    fun hot pcool dcool le => ?_, fun two pcool warm => ?_⟩, fun s pods inlet => ⟨fun below hot => ?_, fun cool => ?_, ?_⟩⟩
  · exact ⟨_, exec_throttleNAssert alive off, throttleBegins_after (until_passes ..) (until_sameLow ..) rfl⟩
  · exact ⟨_, exec_throttleNDeassert on, unpinned_after (until_passes ..)⟩
  · exact ⟨_, exec_throttleStuck on since, stuck_after (until_passes ..) on n⟩
  · have hotter := toLevel1_records s pods devices
    exact ⟨_, exec_thermalLevel1Entry_hot cool hot, hotter.power, toLevel1_alarmed .., toLevel1_entered .., hotter.sameWork, hotter.clock⟩
  · refine ⟨_, exec_thermalLevel1Entry_cool below, noteTemps_eq .., fun i j apart hj => ?_, fun some => reg_noteTemps_pods s some devices⟩
    refine reg_noteTemps_other s pods devices ?_ ?_ <;>
    · simp only [dkey]
      omega
  · have cooled : ((s.power.thermal = 1 && (withinC 95 pods && withinC 90 devices)) || (s.power.thermal = 2 && withinC 100 pods)) = true := by
      have : s.power.thermal = 1 ∨ s.power.thermal = 2 := by omega
      simpa [pcool, dcool, withinC_mono (by decide : 95 ≤ 100) pcool] using this
    exact ⟨_, exec_thermalLevelExit cooled (by simp [pcool, dcool]), heated_after (until_passes ..) pods devices 0⟩
  · obtain ⟨power, -, kept⟩ := heated_after (until_passes s (s.clock.tick.toNat + 25000)) pods devices 1
    exact ⟨_, exec_thermalLevelExit (by simp [two, pcool]) (by simp [warm]), power, kept⟩
  · have hotter := toLevel2_records s pods inlet
    exact ⟨_, exec_thermalLevel2Entry_hot inlet below hot, hotter.power, toLevel2_alarmed .., toLevel2_next .., toLevel2_inlet ..,
      hotter.sameWork, hotter.clock, toLevel2_newest ..⟩
  · have noted := State.records.of_raises ((noteTemps_raises s pods []).trans (setReg_raises _ 0x0280 0x03 (BitVec.ofInt 32 inlet)))
    exact ⟨_, exec_thermalLevel2Entry_cool inlet cool, noted.power, (noteTemps_raises s pods []).errors, noted.sameWork, reg_setReg_same ..⟩
  · exact ⟨_, rfl, inletNoted_seen s inlet⟩

end Sys2Proof.Machine
end

section
/-! PROOFS. Replicas of a shielded job: digests, agreement, replay orders and the judgement (R496, R498, R499, R504). -/

namespace Sys2Proof.Machine

variable {s : State} {k : Nat} {j : Job}

theorem exec_replicaDigest_first {r : Nat} {step : DWord} (hk : k < 16) (hj : s.job k = some j) (lead : j.lead = true) (shielded : j.replicas ≠ 0)
    (here : j.jobLead = s.coord) (other : r ≠ j.replica) (compared : j.comparison step = true ∨ j.disputed.isSome = true)
    (fresh : j.digestBy r step = none) (digest : DWord) :
    exec (.replicaDigest k r step digest) s = .next (((s.setJob k (some { j with
      shieldDigests := j.shieldDigests ++ [(r, step, digest)] })).compareDigests k step).tryCommit k) := by
  refine (onUnit_context hk _).trans (congrArg _ ?_)
  have wanted : (j.comparison step || j.disputed.isSome) = true := by simpa using compared
  simp [hj, lead, shielded, here, other, wanted, fresh]

theorem compareDigests_of_missing {v : DWord} (hj : s.job k = some j) (calm : j.disputed = none) (missing : j.differs v = none) :
    s.compareDigests k v = s := by
  simp [State.compareDigests, hj, calm, missing]

theorem compareDigests_of_equal {v : DWord} (hj : s.job k = some j) (calm : j.disputed = none) (equal : j.differs v = some false) :
    s.compareDigests k v = s.agree k v := by
  simp [State.compareDigests, hj, calm, equal]

theorem exec_agreement_agreed (hk : k < 16) (hj : s.job k = some j) (shielded : j.replicas ≠ 0) (lead : j.lead = true) (step : DWord) :
    exec (.agreement k step true) s = .next ((s.setJob k (some { j with cleared := some step })).tryCommit k) := by
  refine (onUnit_context hk _).trans (congrArg _ ?_)
  simp [hj, shielded, lead]

theorem exec_agreement_differs (hk : k < 16) (hj : s.job k = some j) (shielded : j.replicas ≠ 0) (follows : j.lead = false) (step : DWord) :
    exec (.agreement k step false) s = .next ((s.setJob k (some { j with
      forced := if j.forced.contains step then j.forced else j.forced ++ [step] })).sendDigests k j) := by
  refine (onUnit_context hk _).trans (congrArg _ ?_)
  simp [hj, shielded, follows]

/-- A job that has taken the order to run steps after u up to v again, from replica r (R498). -/
def Job.ordered (j : Job) (u v : DWord) (r : Nat) : Job :=
  { j with order := some (u, v, r), restored := [], lead := false, input := if u = v then j.input else [] }

theorem takeOrder_asks {u : DWord} (hj : s.job k = some j) (later : u + 1 ≠ j.start) (v : DWord) (r : Nat) :
    s.takeOrder k u v r = (s.setJob k (some (j.ordered u v r))).askHeads k (j.ordered u v r) r := by
  rw [State.takeOrder, hj]
  exact if_neg later

theorem exec_replayOrder {u v : DWord} (hk : k < 16) (hj : s.job k = some j) (shielded : j.replicaMap ≠ []) (hears : j.standby = true ∨ u = v)
    (r : Nat) : exec (.replayOrder k u v r) s = .next (s.takeOrder k u v r) := by
  refine (onUnit_context hk _).trans (congrArg _ ?_)
  have taken : ¬ (decide (j.replicaMap = []) || (!j.standby && decide (u ≠ v))) = true := by
    obtain h | h := hears <;> simp [shielded, h]
  simp only [hj, if_neg taken]

theorem exec_replayDigests (hk : k < 16) (hj : s.job k = some j) (here : j.jobLead = s.coord) (src : Half) (step : DWord)
    (ranks : List (Nat × DWord × DWord)) :
    exec (.replayDigests k src step ranks) s = .next ((s.setJob k (some (j.addJudged src step ranks))).judge k) := by
  refine (onUnit_context hk _).trans (congrArg _ ?_)
  simp [hj, here]

theorem judge_of_calm (hj : s.job k = some j) (calm : j.disputed = none) : s.judge k = s := by
  simp [State.judge, hj, calm]

/-- Settles O48: each branch of the five commands. The messages and the forced comparison steps of a shielded job are log 19. -/
theorem replicasAreCompared : Obligations.ReplicasAreCompared := by
  unfold Obligations.ReplicasAreCompared
  refine ⟨fun s k r j step digest hk hj lead shielded here other compared fresh => ?_, fun s k j v hj calm => ⟨?_, ?_⟩,
    fun s k j step hk hj shielded => ⟨?_, ?_⟩, fun s k r j u v hk hj shielded hears later => ?_, fun s k j src step ranks hk hj here => ⟨?_, ?_⟩⟩
  · exact exec_replicaDigest_first hk hj lead shielded here other compared fresh digest
  · exact compareDigests_of_missing hj calm
  · exact compareDigests_of_equal hj calm
  · exact fun lead => exec_agreement_agreed hk hj shielded lead step
  · exact fun follows => exec_agreement_differs hk hj shielded follows step
  · rw [exec_replayOrder hk hj shielded hears r, takeOrder_asks hj later v r]
    rfl
  · exact exec_replayDigests hk hj here src step ranks
  · intro calm
    rw [exec_replayDigests hk hj here src step ranks, judge_of_calm (j := j.addJudged src step ranks) (job_setJob_same ..) calm]

end Sys2Proof.Machine
end

section
/-! PROOFS. Ledger records, partial sums, the end of a job, its teardown and its resumption (R433, R456, R463, R472, R523 to R529). -/

namespace Sys2Proof.Machine

variable {s t u : State} {k : Nat} {j : Job}

/-! ## What seats and leaves cores (R166 to R168) -/

/-- Between s and t logical cores have taken seats or left them: physical and logical cores, pods, the test in progress and counters. -/
def State.reseats (s t : State) : Prop :=
  t = { s with
    cores := t.cores
    lcores := t.lcores
    pods := t.pods
    radish := t.radish
    dict := t.dict }

namespace State.reseats

theorem refl (s : State) : s.reseats s := rfl

theorem trans (h : s.reseats t) (g : t.reseats u) : s.reseats u := by
  unfold State.reseats at *
  rw [g, h]

theorem slots (h : s.reseats t) : t.slots = s.slots := by rw [h]
theorem jobs (h : s.reseats t) : t.jobs = s.jobs := by rw [h]
theorem errors (h : s.reseats t) : t.errors = s.errors := by rw [h]

end State.reseats

theorem foldl_reseats {β : Type} (f : State → β → State) (h : ∀ t x, State.reseats t (f t x)) (l : List β) (s : State) : s.reseats (l.foldl f s) :=
  foldl_keeps (fun t => s.reseats t) f (fun t x ht => ht.trans (h t x)) l s rfl

theorem setCore_reseats (s : State) (c : Nat) (x : Core) : s.reseats (s.setCore c x) := rfl
theorem setLcore_reseats (s : State) (i : Nat) (x : Option LCore) : s.reseats (s.setLcore i x) := rfl
theorem setPod_reseats (s : State) (p : Nat) (x : Pod) : s.reseats (s.setPod p x) := rfl

theorem diag_reseats (s : State) (c sub n : Nat) (on : Bool) : s.reseats (s.diag c sub n on) := by
  unfold State.diag
  split <;> rfl

theorem notePods_reseats (s : State) : s.reseats s.notePods := foldl_reseats _ (fun _ _ => setPod_reseats ..) _ s

theorem startPods_reseats (s : State) (cs : List Nat) : s.reseats (s.startPods cs) := foldl_reseats _ (fun _ _ => setPod_reseats ..) _ s

theorem startLoad_reseats (s : State) (c bank k program : Nat) (b : Word) : s.reseats (s.startLoad c bank k program b) := by
  unfold State.startLoad
  split <;> rfl

theorem foldIn_reseats (s : State) (c i : Nat) : s.reseats (s.foldIn c i) := by
  unfold State.foldIn
  split <;> rfl

theorem foldOut_reseats (s : State) (i : Nat) : s.reseats (s.foldOut i) := by
  unfold State.foldOut
  split <;> rfl

theorem park_reseats (s : State) (i : Nat) : s.reseats (s.park i) := by
  unfold State.park
  split <;> rfl

theorem join_reseats (s : State) (c i : Nat) (boundary : Bool) : s.reseats (s.join c i boundary) := by
  unfold State.join
  split
  · rfl
  · extract_lets p mates here wait
    have waits : s.reseats wait := setCore_reseats ..
    split
    · exact waits
    next f folded alone seated _ =>
    have folds : s.reseats folded := setCore_reseats ..
    have seats : s.reseats seated := (setLcore_reseats ..).trans (setCore_reseats ..)
    clear_value seated alone folded here wait
    split
    · split
      · exact folds.trans (foldIn_reseats ..)
      · exact folds
    split
    · split
      · exact seats.trans (startLoad_reseats ..)
      · exact seats
    · split
      · rfl
      · split
        · exact waits
        · rfl
    · exact waits

theorem enter_reseats (s : State) (c : Nat) : s.reseats (s.enter c) :=
  (setCore_reseats ..).trans (foldl_reseats _ (fun _ _ => join_reseats ..) _ _)

theorem leave_reseats (s : State) (c i : Nat) : s.reseats (s.leave c i) := by
  unfold State.leave
  extract_lets p src q t
  have left : s.reseats t := rfl
  split
  · split
    · exact left
    · extract_lets u
      have emptied : s.reseats u := rfl
      split
      · exact emptied.trans (startLoad_reseats ..)
      · exact emptied
  · split
    · exact (left.trans (foldIn_reseats ..)).trans (enter_reseats ..)
    · exact left.trans (enter_reseats ..)
  · exact left

theorem testAbandoned_reseats (s : State) :
    s.reseats (({ s with radish := { s.radish with running := none } } : State).bump64 0x3100 0x09 1) := rfl

theorem abandonTile_reseats (s : State) (c : Nat) : s.reseats (s.abandonTile c) := by
  unfold State.abandonTile
  split
  · rfl
  · split
    · rfl
    · exact (((setCore_reseats ..).trans (setCore_reseats ..)).trans (testAbandoned_reseats _)).trans (notePods_reseats ..)

/-! ## A job whose cores do not move keeps its places (R524, R529) -/

/-- Between s and t the slots and, when none of its cores has a move to make, the job of context k are the same. -/
structure State.settles (k : Nat) (s t : State) : Prop where
  slots : t.slots = s.slots
  job : ∀ j, s.job k = some j → j.moves = [] → t.job k = some j

namespace State.settles

theorem of_reseats (h : s.reseats t) : State.settles k s t := ⟨h.slots, fun _ hj _ => by rwa [State.job, h.jobs]⟩
theorem refl (s : State) : State.settles k s s := of_reseats (.refl s)
theorem trans (h : State.settles k s t) (g : State.settles k t u) : State.settles k s u :=
  ⟨g.slots.trans h.slots, fun j hj still => g.job j (h.job j hj still) still⟩

end State.settles

theorem foldl_settles {β : Type} (f : State → β → State) (h : ∀ t x, State.settles k t (f t x)) (l : List β) (s : State) :
    State.settles k s (l.foldl f s) :=
  foldl_keeps (fun t => State.settles k s t) f (fun t x ht => ht.trans (h t x)) l s (.refl s)

/-- A core leaves its seat for its next one: only a job that has a move for it changes. -/
theorem vacate_settles (s : State) (c i : Nat) : State.settles k s (s.vacate c i) := by
  unfold State.vacate
  split
  · exact .refl s
  · next x _ =>
    split
    · have parked := (park_reseats s i).trans (foldl_reseats (fun (u : State) n => u.park n) (fun _ _ => park_reseats ..) (s.core c).fold _)
      exact .of_reseats (((parked.trans (setCore_reseats ..)).trans (leave_reseats ..)).trans (notePods_reseats ..))
    split
    · exact .refl s
    · next j hj =>
      split
      · exact .refl s
      · next m hm =>
        have moved : State.settles k s (s.setJob x.k (some { j with moves := j.moves.filter (fun n => n.1 ≠ i) })) := by
          refine ⟨rfl, fun j' hj' still => ?_⟩
          by_cases same : k = x.k
          · subst same
            obtain rfl : j = j' := Option.some.inj (hj.symm.trans hj')
            simp [still] at hm
          · exact (job_setJob_other _ _ _ _ same).trans hj'
        exact moved.trans (.of_reseats ((((setLcore_reseats ..).trans (leave_reseats ..)).trans (join_reseats ..)).trans (notePods_reseats ..)))

theorem departures_settles (s : State) (c : Nat) : State.settles k s (s.departures c) := by
  refine foldl_settles _ (fun t i => ?_) _ s
  split
  · split
    · exact vacate_settles ..
    · exact .refl t
  · exact .refl t

theorem reschedule_settles (s : State) (c : Nat) : State.settles k s (s.reschedule c) := by
  refine (departures_settles s c).trans (.of_reseats ?_)
  unfold State.reschedule
  generalize s.departures c = t
  dsimp only
  repeat' split
  all_goals first
    | exact ((foldOut_reseats ..).trans (foldIn_reseats ..)).trans (diag_reseats ..)
    | exact foldIn_reseats ..
    | rfl

theorem rejoin_settles (s : State) (e : PlacedCore) : State.settles k s (s.rejoin k e) := by
  unfold State.rejoin
  dsimp only
  split
  · exact .refl s
  · split
    · exact .refl s
    · refine State.settles.trans ?_ (.of_reseats (abandonTile_reseats ..))
      refine State.settles.trans ?_ (reschedule_settles ..)
      exact .of_reseats ((setLcore_reseats ..).trans (join_reseats ..))

/-! ## Messages and placement records (R327, R433, R463) -/

theorem State.onlyForwards.job (h : s.onlyForwards t) (i : Nat) : t.job i = s.job i := by rw [State.job, h.jobs, State.job]

theorem controlEveryone_onlyForwards (s : State) (k : Nat) (j : Job) (sub : Nat) (body : List Byte) :
    s.onlyForwards (s.controlEveryone k j sub body) :=
  foldl_onlyForwards _ (fun _ _ => control_onlyForwards ..) _ s

/-- The places, the epoch and the moves of two jobs are the same. -/
structure Job.sameSeats (a b : Job) : Prop where
  cores : b.coreMap = a.coreMap
  epoch : b.epoch = a.epoch
  preempted : b.preemptedAt = a.preemptedAt
  moves : b.moves = a.moves

/-- Context k has a job with the places of j. -/
def State.seats (k : Nat) (j : Job) (s : State) : Prop := ∃ j1, s.job k = some j1 ∧ j.sameSeats j1

theorem record_seats (h : State.seats k j s) (kind : Nat) (step : DWord) (body : List Byte) :
    State.seats k j (s.record k kind step body) ∧ (s.record k kind step body).slots = s.slots := by
  obtain ⟨j1, hj, same⟩ := h
  have told (c : Prop) [Decidable c] (l : List Half) (b : List Byte) :
      s.onlyForwards (if c then l.foldl (fun (u : State) d => u.control k j1.tag d 0x05 b) s else s) := by
    split
    · exact foldl_onlyForwards _ (fun _ _ => control_onlyForwards ..) _ s
    · exact .refl s
  simp only [State.record, hj]
  split
  · split
    · exact ⟨⟨j1, ((told ..).job k).trans hj, same⟩, (told ..).slots⟩
    · exact ⟨⟨_, job_setJob_same .., ⟨same.cores, same.epoch, same.preempted, same.moves⟩⟩, (told ..).slots⟩
  · have sent := control_onlyForwards s k j1.tag j1.leadCoord 0x05 (recordBytes kind step 0 body)
    exact ⟨⟨j1, (sent.job k).trans hj, same⟩, sent.slots⟩

theorem send_slots (s : State) (p : Packet) (job : Bool) : (s.send p job).slots = s.slots := rfl

theorem advance_slots (s : State) (gs : List Nat) : (s.advance gs).slots = s.slots := by
  unfold State.advance
  rw [foldl_frame State.slots _ fun _ _ => send_slots ..]
  refine foldl_frame State.slots _ (fun t p => ?_) s.lcores s
  split
  · split <;> rfl
  · rfl

theorem fillRepairs_slots (s : State) (a n : Nat) : (s.fillRepairs a n).slots = s.slots := by
  refine foldl_frame State.slots _ (fun t p => ?_) s.ctls s
  split <;> rfl

theorem devWrite_slots (s : State) (a : Nat) (bs : List Byte) : (s.devWrite a bs).slots = s.slots :=
  (advance_slots ..).trans (fillRepairs_slots ..)

theorem writePlacement_seats (h : State.seats k j s) (step : DWord) :
    State.seats k j (s.writePlacement k step) ∧ (s.writePlacement k step).slots = s.slots := by
  obtain ⟨j1, hj, same⟩ := h
  unfold State.writePlacement
  split
  · next none => exact absurd (none.symm.trans hj) (by simp)
  next j2 hj2 =>
  obtain rfl : j2 = j1 := Option.some.inj (hj2.symm.trans hj)
  extract_lets rs bytes t u
  have noted : t.job k = some { j2 with recordAddr := recordHome k, recordLen := bytes.length } := job_setJob_same ..
  have written : u.job k = t.job k := ((setReg64_at_job ..).trans (setReg_at_job ..)).trans (devWrite_at_job ..)
  have slots : u.slots = s.slots := (((setReg64_slots ..).trans (setReg_slots ..)).trans (devWrite_slots ..)).trans (setJob_slots ..)
  refine foldl_keeps (fun v => State.seats k j v ∧ v.slots = s.slots) _ (fun v b hv => ?_) _ u ⟨⟨_, written.trans noted, ?_⟩, slots⟩
  · obtain ⟨seated, same⟩ := record_seats hv.1 0x02 step b
    exact ⟨seated, same.trans hv.2⟩
  · exact ⟨same.cores, same.epoch, same.preempted, same.moves⟩

/-! ## A job that ends (R472, R524, R526) -/

theorem clearWork_keeps (s : State) (k : Nat) : (s.clearWork k).slots = s.slots ∧ (s.clearWork k).errors = s.errors := by
  unfold State.clearWork
  extract_lets left src1 src2 t
  have leaves : s.reseats left := foldl_reseats _ (fun _ _ => setCore_reseats ..) _ s
  have enters : t.reseats ((t.cores.foldl (fun (u : State) p => u.enter p.1) t).notePods) :=
    (foldl_reseats _ (fun _ _ => enter_reseats ..) _ t).trans (notePods_reseats ..)
  exact ⟨enters.slots.trans leaves.slots, enters.errors.trans leaves.errors⟩

/-- What is left of context k when its job is dropped. -/
theorem dropJob_leaves (s : State) (k : Nat) :
    (s.dropJob k).job k = none ∧ (s.dropJob k).mem = s.mem ∧ (s.dropJob k).errors = s.errors ∧ (s.dropJob k).slots = s.slots ∧
      (s.dropJob k).reg (ctxObj k 1) 1 = 0xFF := by
  obtain ⟨slots, errors⟩ := clearWork_keeps s k
  have mem : (s.clearWork k).mem = s.mem := (outer_eq (clearWork_outer s k)).2.2
  unfold State.dropJob
  dsimp only
  generalize s.clearWork k = t at slots errors mem
  have apart : dkey (ctxObj k 1) 1 ≠ dkey (ctxObj k 0x20) 4 := dkey_ne_of_index_ne (by simp [ctxObj]) (by decide) (by decide)
  refine ⟨by simp, mem, errors, slots, ?_⟩
  rw [reg_setReg_other _ _ _ _ _ _ apart, reg_setReg_same]

/-- The job of context k is dropped once its slot j has changed and the counter has counted it. -/
theorem endJob_leaves (s : State) (k j sub : Nat) (f : Slot → Slot) :
    let t := ((s.changeSlot k j f).bump (ctxObj k 1) sub 1).dropJob k
    t.job k = none ∧ t.mem = s.mem ∧ t.errors = s.errors ∧ t.slot k j = f (s.slot k j) ∧ t.reg (ctxObj k 1) 1 = 0xFF := by
  obtain ⟨job, mem, errors, slots, reg⟩ := dropJob_leaves ((s.changeSlot k j f).bump (ctxObj k 1) sub 1) k
  refine ⟨job, mem.trans (changeSlot_mem ..), errors.trans (changeSlot_raises ..).errors, ?_, reg⟩
  rw [State.slot, slots]
  exact slot_changeSlot_same ..

/-! ## What the lead hears (R433, R456, R463, R523) -/

theorem otherLeads_alone (h : j.replicas = 0) : j.otherLeads = [] := by simp [Job.otherLeads, h, upto]

theorem record_lead {kind : Nat} (hj : s.job k = some j) (lead : j.lead = true) (alone : j.replica ≠ 0 ∨ j.replicas = 0) (plain : kind ≠ 0x10)
    (step : DWord) (body : List Byte) :
    s.record k kind step body = s.setJob k (some { j with ledger := j.ledger ++ [(kind, field body 0 4, step, body)] }) := by
  obtain away | single := alone
  · simp [State.record, hj, lead, plain, away]
  · simp [State.record, hj, lead, plain, otherLeads_alone single]

theorem exec_ledgerRecord_lead {kind : Nat} {src : Half} {step : DWord} {bytes body : List Byte} (hj : s.job k = some j) (lead : j.lead = true)
    (own : j.rankMap.contains src = true) (alone : j.replica ≠ 0 ∨ j.replicas = 0) (one : parseRecords 1 bytes = [(kind, step, body)])
    (plain : kind ≠ 0x10) :
    exec (.ledgerRecord k src bytes) s =
      .next (s.setJob k (some { j with ledger := j.ledger ++ [(kind, field body 0 4, step, body)] })) := by
  refine congrArg Host.Outcome.next (?_ : s.ledgerArrive k src bytes = _)
  rw [← record_lead hj lead alone plain]
  simp only [State.ledgerArrive, hj, lead, own, one, Bool.and_self, if_true, List.foldl_cons, List.foldl_nil]

theorem exec_ledgerRecord_other (hj : s.job k = some j) (other : j.lead = false) (src : Half) (bytes : List Byte) :
    exec (.ledgerRecord k src bytes) s = .next ((s.setJob k (some { j with
      input := j.input ++ bytes, replay := j.replay || j.replica = 0 })).applyInput k) := by
  refine congrArg Host.Outcome.next (?_ : s.ledgerArrive k src bytes = _)
  simp [State.ledgerArrive, hj, other]

/-- While another device's part is missing, not every device has sent its part. -/
theorem parts_missing {src d : Half} (hd : d ∈ j.devices) (other : d ≠ src) : j.devices.all (fun c => [src].contains c) = false := by
  rw [List.all_eq_false]
  exact ⟨d, hd, by simpa using other⟩

theorem tapArrive_first {src d : Half} {step : DWord} (hj : s.job k = some j) (lead : j.lead = true) (hd : d ∈ j.devices) (other : d ≠ src)
    (taps : j.taps.isEmpty = false) (first : j.tapGot.find? (fun g => g.1 = step) = none) (sums : List (DWord × DWord)) :
    s.tapArrive k src step sums = s.setJob k (some { j with
      tapGot := j.tapGot.filter (fun g => g.1 ≠ step) ++ [(step, [src], addSums (List.replicate j.taps.length (0, 0)) sums)] }) := by
  have missing := parts_missing hd other
  simp only [State.tapArrive, hj, lead, taps, first, Option.getD_none, List.nil_append, missing]
  rfl

theorem watchArrive_first {src d : Half} {step : DWord} (hj : s.job k = some j) (lead : j.lead = true) (hd : d ∈ j.devices) (other : d ≠ src)
    (watches : j.watches.isEmpty = false) (first : j.watchGot.find? (fun g => g.1 = step) = none) (cs : List Counts) :
    s.watchArrive k src step cs = s.setJob k (some { j with
      watchGot := j.watchGot.filter (fun g => g.1 ≠ step) ++ [(step, [src], addCounts (List.replicate j.watches.length Counts.zero) cs)] }) := by
  have missing := parts_missing hd other
  simp only [State.watchArrive, hj, lead, watches, first, Option.getD_none, List.nil_append, missing]
  rfl

theorem releaseHeld_of_holds (h : s.holds k 255 = true) : s.releaseHeld k = s := by
  unfold State.releaseHeld
  split
  · rfl
  · exact if_pos h

/-- Whether the boundary is held does not depend on the partial counts. -/
theorem holds_watchGot (hj : s.job k = some j) (h : s.holds k 255 = true) (got : List (DWord × List Half × List Counts)) :
    (s.setJob k (some { j with watchGot := got })).holds k 255 = true := by
  simp only [State.holds, hj] at h
  simpa only [State.holds, job_setJob_same] using h

theorem exec_watchPartials_first {src d : Half} {step : DWord} (hj : s.job k = some j) (lead : j.lead = true) (hd : d ∈ j.devices)
    (other : d ≠ src) (watches : j.watches.isEmpty = false) (first : j.watchGot.find? (fun g => g.1 = step) = none)
    (held : s.holds k 255 = true) (cs : List Counts) :
    exec (.watchPartials k src step cs) s = .next (s.setJob k (some { j with
      watchGot := j.watchGot.filter (fun g => g.1 ≠ step) ++ [(step, [src], addCounts (List.replicate j.watches.length Counts.zero) cs)] })) := by
  refine congrArg Host.Outcome.next (?_ : (s.watchArrive k src step cs).releaseHeld k = _)
  rw [watchArrive_first hj lead hd other watches first]
  exact releaseHeld_of_holds (holds_watchGot hj held _)

theorem exec_endNotice (hj : s.job k = some j) (lead : j.lead = true) (src : Half) (last : DWord) :
    exec (.endNotice k src last) s = .next (((s.setJob k (some { j with
      ended := if j.ended.contains src then j.ended else j.ended ++ [src] })).tryCommit k).tryDone k) := by
  refine congrArg Host.Outcome.next ?_
  simp only [hj, lead]
  rfl

theorem exec_doneNotice (hj : s.job k = some j) (tick last digest : DWord) :
    exec (.doneNotice k tick last digest) s = .next (s.finishJob k j.j tick last digest) := by
  refine congrArg Host.Outcome.next ?_
  simp only [hj]

/-- The state in which the job lead has told the others of a teardown (R472). -/
def State.tornDown (s : State) (k : Nat) (j : Job) (cause : Nat) (c : Half) : State :=
  if j.jobLead = s.coord then s.controlEveryone k j 0x0A (teardownBody cause c) else s

theorem tornDown_onlyForwards (s : State) (k : Nat) (j : Job) (cause : Nat) (c : Half) : s.onlyForwards (s.tornDown k j cause c) := by
  unfold State.tornDown
  split
  · exact controlEveryone_onlyForwards ..
  · exact .refl s

theorem exec_teardown (hj : s.job k = some j) (cause : Nat) (c : Half) :
    exec (.teardown k cause c) s = .next ((s.tornDown k j cause c).endFaulted k j.j 0x0C 0xFFFFFFFF) := by
  refine congrArg Host.Outcome.next ?_
  simp only [hj]
  rfl

/-! ## A pre-empted job that takes new places (R529) -/

/-- The slot of a job that runs again, having waited for n ticks. -/
def Slot.resumed (q : Slot) (n : Nat) : Slot := { q with preempted := false, preemptedTicks := satAdd (2 ^ 64 - 1) q.preemptedTicks n }

/-- A job in its new places from tick n on. -/
def Job.replaced (j : Job) (cores : List PlacedCore) (n : DWord) : Job :=
  { j with coreMap := cores, epoch := j.epoch + 1, fromTick := n, moves := [], preemptedAt := none }

/-- The state in which the slot has resumed and the job has its new places. -/
def State.replaced (s : State) (k : Nat) (j : Job) (cores : List PlacedCore) : State :=
  (s.changeSlot k j.j (fun q => q.resumed (s.clock.tick - j.preemptedAt.getD s.clock.tick).toNat)).setJob k (some (j.replaced cores s.clock.tick))

theorem exec_jobResume {cores : List PlacedCore} (hk : k < 16) (hj : s.job k = some j) (places : s.newPlaces k j = some cores)
    (ready : s.resumable k = true) (first : ∀ i, i < 16 → s.precedes i k = false) :
    exec (.jobResume k) s = .next (cores.foldl (fun (u : State) e => u.rejoin k e)
      (((s.replaced k j cores).startPods (cores.map (fun e => e.phys))).writePlacement k j.bound)) := by
  have none : (upto 16).any (fun i => s.precedes i k) = false := by
    rw [List.any_eq_false]
    exact fun i hi => by simp [first i (List.mem_range.1 hi)]
  refine (onUnit_context hk _).trans (congrArg _ ?_)
  simp only [hj, places, ready, none]
  rfl

theorem replaced_slot (s : State) (k : Nat) (j : Job) (cores : List PlacedCore) :
    ((s.replaced k j cores).slot k j.j).preempted = false ∧ ((s.replaced k j cores).slot k j.j).state = (s.slot k j.j).state := by
  have slot : (s.replaced k j cores).slot k j.j = (s.slot k j.j).resumed (s.clock.tick - j.preemptedAt.getD s.clock.tick).toNat :=
    slot_changeSlot_same ..
  rw [slot]
  exact ⟨rfl, rfl⟩

/-- What is seen once every core has taken its new place. -/
theorem replaced_settles (s : State) (k : Nat) (j : Job) (cores : List PlacedCore) {t : State}
    (ht : t = cores.foldl (fun (u : State) e => u.rejoin k e)
      (((s.replaced k j cores).startPods (cores.map (fun e => e.phys))).writePlacement k j.bound)) :
    t.slots = (s.replaced k j cores).slots ∧ State.seats k (j.replaced cores s.clock.tick) t := by
  have begun := startPods_reseats (s.replaced k j cores) (cores.map (fun e => e.phys))
  have seated : State.seats k (j.replaced cores s.clock.tick) ((s.replaced k j cores).startPods (cores.map (fun e => e.phys))) := by
    refine ⟨j.replaced cores s.clock.tick, ?_, ⟨rfl, rfl, rfl, rfl⟩⟩
    rw [State.job, begun.jobs]
    exact job_setJob_same ..
  obtain ⟨⟨j1, hj1, same⟩, slots⟩ := writePlacement_seats seated j.bound
  have rest := foldl_settles (k := k) (fun (u : State) e => u.rejoin k e) (fun _ _ => rejoin_settles ..) cores
    (((s.replaced k j cores).startPods (cores.map (fun e => e.phys))).writePlacement k j.bound)
  subst ht
  exact ⟨rest.slots.trans (slots.trans begun.slots), j1, rest.job j1 hj1 same.moves, same⟩

/-! ## O47 -/

/-- Settles O47: each command by its equation, the end of a job by what dropping it leaves, and its resumption by what its cores keep when
none has a move to make. That a ledger record at a device that is no lead marks a replay is log 19 and log 90. -/
theorem jobsEndAndResume : Obligations.JobsEndAndResume := by
  unfold Obligations.JobsEndAndResume
  refine ⟨fun s k kind j src step bytes body hj lead own alone one plain => ?_, fun s k j src bytes hj other => ?_,
    fun s k j src d step hj lead hd other => ⟨fun cs watches first held => ?_, fun sums taps first => ?_⟩, fun s k j src last hj lead => ?_,
    fun s k j tick last digest hj => ?_, fun s k cause j c hj => ?_, fun s k j cores hk hj places ready first => ?_⟩
  · exact exec_ledgerRecord_lead hj lead own alone one plain
  · exact exec_ledgerRecord_other hj other src bytes
  · exact ⟨_, exec_watchPartials_first hj lead hd other watches first held cs, rfl, rfl, job_setJob_same ..⟩
  · exact congrArg Host.Outcome.next (tapArrive_first hj lead hd other taps first sums)
  · exact exec_endNotice hj lead src last
  · exact ⟨_, exec_doneNotice hj tick last digest, endJob_leaves s k j.j 0x08 (fun v => { v with
      state := 5, endTick := tick, lastStep := last, digest := digest, preempted := false })⟩
  · have sent := tornDown_onlyForwards s k j cause c
    obtain ⟨job, mem, errors, slot, -⟩ := endJob_leaves (s.tornDown k j cause c) k j.j 0x09 (fun v => { v with
      state := 6, cause := 0x0C, causeRecord := 0xFFFFFFFF, preempted := false })
    have same : (s.tornDown k j cause c).slot k j.j = s.slot k j.j := by rw [State.slot, sent.slots, State.slot]
    rw [same] at slot
    exact ⟨_, exec_teardown hj cause c, job, mem.trans sent.mem, errors.trans sent.errors, slot⟩
  · obtain ⟨slots, j1, hj1, same⟩ := replaced_settles s k j cores rfl
    obtain ⟨resumed, state⟩ := replaced_slot s k j cores
    refine ⟨_, j1, exec_jobResume hk hj places ready first, ?_, ?_, hj1, same.cores, same.epoch, same.preempted⟩
    · rwa [State.slot, slots]
    · rwa [State.slot, slots]

end Sys2Proof.Machine
end

section
/-! PROOFS. The commands and job fields of a slot, partitions, and an aggregate read on this device (R451, R510 to R518, R542). -/

namespace Sys2Proof.Machine

variable {s u t : State} {m k j : Nat}

/-! ## A slot's command (R516) -/

theorem slotOk_and (hk : k < 16) (hj : j < 8) : slotOk k j = true := by simp [slotOk, hk, hj]

/-- The slots of a device are different entries. -/
theorem slotKey_ne {i n : Nat} (hn : n < 8) (hj : j < 8) (other : i ≠ k ∨ n ≠ j) : 8 * i + n ≠ 8 * k + j := by omega

theorem slot_changeSlot_other (s : State) (f : Slot → Slot) {i n : Nat} (hn : n < 8) (hj : j < 8) (other : i ≠ k ∨ n ≠ j) :
    (s.changeSlot k j f).slot i n = s.slot i n := by
  rw [State.slot, (changeSlot_raises s k j f).slots]
  exact slot_setSlot_other _ _ _ _ _ _ (slotKey_ne hn hj other)

theorem changeSlot_lcores (s : State) (k j : Nat) (f : Slot → Slot) : (s.changeSlot k j f).lcores = s.lcores := (changeSlot_raises ..).lcores

theorem changeSlot_dict (s : State) (k j : Nat) (f : Slot → Slot) : (s.changeSlot k j f).dict = s.dict := by
  unfold State.changeSlot
  dsimp only
  split
  · rfl
  · exact msix_dict ..

/-- A command has changed slot j of context k by f, and no other slot, device memory, logical core, job or register. -/
structure State.slotTaken (s t : State) (k j : Nat) (f : Slot → Slot) : Prop where
  slot : t.slot k j = f (s.slot k j)
  others : ∀ i n, n < 8 → (i ≠ k ∨ n ≠ j) → t.slot i n = s.slot i n
  mem : t.mem = s.mem
  lcores : t.lcores = s.lcores
  jobs : t.jobs = s.jobs
  dict : t.dict = s.dict

theorem slotTaken_changeSlot (s : State) (hj : j < 8) (f : Slot → Slot) : s.slotTaken (s.changeSlot k j f) k j f where
  slot := slot_changeSlot_same ..
  others _ _ hn other := slot_changeSlot_other s f hn hj other
  mem := changeSlot_mem ..
  lcores := changeSlot_lcores ..
  jobs := changeSlot_jobs ..
  dict := changeSlot_dict ..

theorem State.slotTaken.setRankMap {f : Slot → Slot} (h : s.slotTaken u k j f) (l : List Half) : s.slotTaken (u.setRankMap k j l) k j f :=
  ⟨h.slot, h.others, h.mem, h.lcores, h.jobs, h.dict⟩

theorem State.slotTaken.obeyed {f : Slot → Slot} {op idx sub : Nat} (h : s.slotTaken u k j f) (ob : u.obeyed t m op idx sub) :
    s.slotTaken t k j f where
  slot := by rw [State.slot, ob.slots]; exact h.slot
  others i n hn other := by rw [State.slot, ob.slots]; exact h.others i n hn other
  mem := ob.mem.trans h.mem
  lcores := ob.lcores.trans h.lcores
  jobs := ob.jobs.trans h.jobs
  dict := ob.dict.trans h.dict

section commands

variable (hk : k < 16) (hj : j < 8) (hh : s.hears m (slotObj k j 0) = true)

include hk hj hh

theorem armRule_taken {f : Slot → Slot} (hf : armRule k j s = (s.changeSlot k j f, 0)) :
    ∃ t, exec (.arm m k j) s = .next t ∧ t.resultFor m = some (answerOf 3 (slotObj k j 0) 2 0 0) ∧ s.slotTaken t k j f :=
  have ob := command_obeyed hh hf
  ⟨_, onUnit_ordered hh (slotOk_and hk hj) _, ob.2, (slotTaken_changeSlot s hj f).obeyed ob⟩

theorem arm_written (ok : s.armOk k (s.slot k j) = true) (h1 : (s.slot k j).state = 1) :
    ∃ t, exec (.arm m k j) s = .next t ∧ t.resultFor m = some (answerOf 3 (slotObj k j 0) 2 0 0) ∧
      s.slotTaken t k j (fun v => { v with state := 2, launch := v.launchReg, armedTick := s.clock.tick }) :=
  armRule_taken hk hj hh (by simp [armRule, ok, h1])

theorem arm_rerun (ok : s.armOk k (s.slot k j) = true) (h3 : (s.slot k j).state = 3) (again : (s.slot k j).rerun = true)
    (unplaced : s.acceptedJob k j = none) :
    ∃ t, exec (.arm m k j) s = .next t ∧ t.resultFor m = some (answerOf 3 (slotObj k j 0) 2 0 0) ∧
      s.slotTaken t k j (fun v => { v with launch := v.launchReg, armedTick := s.clock.tick }) :=
  armRule_taken hk hj hh (by simp [armRule, ok, h3, again, State.giveUp, unplaced])

theorem arm_refused (h : s.armOk k (s.slot k j) = false ∨
      ((s.slot k j).state ≠ 1 ∧ ((s.slot k j).state ≠ 3 ∨ (s.slot k j).rerun = false))) :
    ∃ t, exec (.arm m k j) s = .next t ∧ s.declined t m 3 (slotObj k j 0) 2 5 := by
  have rule : armRule k j s = (s, 5) := by
    obtain bad | ⟨h1, h3 | first⟩ := h
    · simp [armRule, bad]
    · simp [armRule, h1, h3]
    · simp [armRule, h1, first]
  exact ⟨_, onUnit_ordered hh (slotOk_and hk hj) _, command_declined hh rule⟩

theorem withdraw_armed (h2 : (s.slot k j).state = 2) :
    ∃ t, exec (.withdraw m k j) s = .next t ∧ s.slotTaken t k j (fun v => { v with state := 1 }) := by
  have rule : withdrawRule k j s = ((s.changeSlot k j (fun v => { v with state := 1 })).setRankMap k j [], 0) := by simp [withdrawRule, h2]
  exact ⟨_, onUnit_ordered hh (slotOk_and hk hj) _, ((slotTaken_changeSlot s hj _).setRankMap []).obeyed (command_obeyed hh rule)⟩

theorem withdraw_refused (h2 : (s.slot k j).state ≠ 2) (h3 : (s.slot k j).state ≠ 3) :
    ∃ t, exec (.withdraw m k j) s = .next t ∧ s.declined t m 3 (slotObj k j 0) 2 5 := by
  have rule : withdrawRule k j s = (s, 5) := by simp [withdrawRule, h2, h3]
  exact ⟨_, onUnit_ordered hh (slotOk_and hk hj) _, command_declined hh rule⟩

theorem abort_refused (h4 : (s.slot k j).state ≠ 4) : ∃ t, exec (.abort m k j) s = .next t ∧ s.declined t m 3 (slotObj k j 0) 2 5 := by
  have rule : abortRule k j s = (s, 5) := by simp [abortRule, h4]
  exact ⟨_, onUnit_ordered hh (slotOk_and hk hj) _, command_declined hh rule⟩

theorem clear_ended (h : (s.slot k j).state = 1 ∨ (s.slot k j).state = 5 ∨ (s.slot k j).state = 6) :
    ∃ t, exec (.clear m k j) s = .next t ∧ s.slotTaken t k j (fun _ => {}) := by
  have rule : clearRule k j s = ((s.changeSlot k j (fun _ => {})).setRankMap k j [], 0) := by
    obtain h | h | h := h <;> simp [clearRule, h]
  exact ⟨_, onUnit_ordered hh (slotOk_and hk hj) _, ((slotTaken_changeSlot s hj _).setRankMap []).obeyed (command_obeyed hh rule)⟩

theorem clear_refused (h1 : (s.slot k j).state ≠ 1) (h5 : (s.slot k j).state ≠ 5) (h6 : (s.slot k j).state ≠ 6) :
    ∃ t, exec (.clear m k j) s = .next t ∧ s.declined t m 3 (slotObj k j 0) 2 5 := by
  have rule : clearRule k j s = (s, 5) := by simp [clearRule, h1, h5, h6]
  exact ⟨_, onUnit_ordered hh (slotOk_and hk hj) _, command_declined hh rule⟩

end commands

/-! ## A slot that a command faults (R526) -/

/-- Slot j of context k has faulted with a cause, and device memory stays. -/
structure State.slotFaulted (s t : State) (k j cause : Nat) : Prop where
  state : (t.slot k j).state = 6
  cause : (t.slot k j).cause = cause
  mem : t.mem = s.mem

theorem State.slotFaulted.obeyed {cause op idx sub : Nat} (h : s.slotFaulted u k j cause) (ob : u.obeyed t m op idx sub) :
    s.slotFaulted t k j cause := by
  have same : t.slot k j = u.slot k j := by rw [State.slot, ob.slots]; rfl
  exact ⟨same ▸ h.state, same ▸ h.cause, ob.mem.trans h.mem⟩

theorem dropFetched_keeps (s : State) (k : Nat) : (s.dropFetched k).slots = s.slots ∧ (s.dropFetched k).mem = s.mem := ⟨rfl, rfl⟩

theorem refuseSlot_slots_mem (s : State) (k j cause : Nat) :
    let t := s.changeSlot k j (fun v => { v with state := 6, cause := cause, causeRecord := 0xFFFFFFFF })
    (s.refuseSlot k j cause).slots = t.slots ∧ (s.refuseSlot k j cause).mem = t.mem :=
  dropFetched_keeps ((State.bump (s.changeSlot k j (fun v => { v with state := 6, cause := cause, causeRecord := 0xFFFFFFFF }))
    (ctxObj k 1) 0x09 1).setRankMap k j []) k

theorem refuseSlot_faults (s : State) (k j cause : Nat) : s.slotFaulted (s.refuseSlot k j cause) k j cause := by
  obtain ⟨slots, mem⟩ := refuseSlot_slots_mem s k j cause
  have slot := slot_changeSlot_same s k j (fun v => { v with state := 6, cause := cause, causeRecord := 0xFFFFFFFF })
  rw [State.slot, ← slots] at slot
  exact ⟨congrArg Slot.state slot, congrArg Slot.cause slot, mem.trans (changeSlot_mem ..)⟩

theorem endFaulted_faults (s : State) (k j cause : Nat) (rec : Word) : s.slotFaulted (s.endFaulted k j cause rec) k j cause := by
  obtain ⟨-, mem, -, slot, -⟩ := endJob_leaves s k j 0x09 (fun v => { v with
    state := 6, cause := cause, causeRecord := rec, preempted := false })
  exact ⟨congrArg Slot.state slot, congrArg Slot.cause slot, mem⟩

/-- A job that a command of its slot faults has its slot in state 6 with the cause. -/
theorem faultJob_faults {jb : Job} {cause : Nat} (hb : s.job k = some jb) (plain : ¬ (cause = 0x05 ∨ cause = 0x06 ∨ cause = 0x08))
    (kind : Nat) (rec : Word) : s.slotFaulted (s.faultJob k cause kind rec) k jb.j cause := by
  unfold State.faultJob
  simp only [hb, if_neg plain]
  split
  · have ended := endFaulted_faults (s.controlEveryone k jb 0x0A (teardownBody cause s.coord)) k jb.j cause rec
    exact ⟨ended.state, ended.cause, ended.mem.trans (controlEveryone_onlyForwards ..).mem⟩
  · have ended := endFaulted_faults (s.control k jb.tag jb.jobLead 0x0A (teardownBody cause s.coord)) k jb.j cause rec
    exact ⟨ended.state, ended.cause, ended.mem.trans (control_onlyForwards ..).mem⟩

/-- What withdrawing an accepted slot and aborting a running one do: the slot's job, or the slot alone, faults. -/
def State.stopSlot (s : State) (k j cause : Nat) : State :=
  match s.job k with
  | some jb => if jb.j = j then s.faultJob k cause 0 0xFFFFFFFF else s.refuseSlot k j cause
  | none => s.refuseSlot k j cause

theorem stopSlot_faults {cause : Nat} (plain : ¬ (cause = 0x05 ∨ cause = 0x06 ∨ cause = 0x08)) :
    s.slotFaulted (s.stopSlot k j cause) k j cause := by
  unfold State.stopSlot
  split
  case h_1 jb hb =>
    split
    case isTrue own => exact own ▸ faultJob_faults hb plain 0 0xFFFFFFFF
    case isFalse => exact refuseSlot_faults ..
  case h_2 => exact refuseSlot_faults ..

section faults

variable (hk : k < 16) (hj : j < 8) (hh : s.hears m (slotObj k j 0) = true)

include hk hj hh

theorem withdraw_accepted (h3 : (s.slot k j).state = 3) : ∃ t, exec (.withdraw m k j) s = .next t ∧ s.slotFaulted t k j 0x0A := by
  have rule : withdrawRule k j s = (s.stopSlot k j 0x0A, 0) := by
    simp only [withdrawRule, h3, State.stopSlot]
    cases s.job k with
    | none => rfl
    | some jb => by_cases own : jb.j = j <;> simp [own]
  exact ⟨_, onUnit_ordered hh (slotOk_and hk hj) _, (stopSlot_faults (by decide)).obeyed (command_obeyed hh rule)⟩

theorem abort_running (h4 : (s.slot k j).state = 4) : ∃ t, exec (.abort m k j) s = .next t ∧ s.slotFaulted t k j 0x0B := by
  have rule : abortRule k j s = (s.stopSlot k j 0x0B, 0) := by
    simp only [abortRule, h4, State.stopSlot]
    cases s.job k with
    | none => rfl
    | some jb => by_cases own : jb.j = j <;> simp [own]
  exact ⟨_, onUnit_ordered hh (slotOk_and hk hj) _, (stopSlot_faults (by decide)).obeyed (command_obeyed hh rule)⟩

end faults

/-! ## Discarded held parts (R544) -/

/-- Only what the masters hold has changed. -/
def State.onlyMasters (s t : State) : Prop := t = { s with masters := t.masters }

theorem dropParts_onlyMasters (s : State) (idx lo : Nat) : s.onlyMasters (s.dropParts idx lo) :=
  foldl_keeps (fun t => s.onlyMasters t) _ (fun t x ht => by rw [State.onlyMasters, ht]; rfl) s.masters s rfl

namespace State.onlyMasters

theorem mem (h : s.onlyMasters t) : t.mem = s.mem := by rw [h]
theorem lcores (h : s.onlyMasters t) : t.lcores = s.lcores := by rw [h]
theorem slots (h : s.onlyMasters t) : t.slots = s.slots := by rw [h]
theorem jobs (h : s.onlyMasters t) : t.jobs = s.jobs := by rw [h]
theorem dict (h : s.onlyMasters t) : t.dict = s.dict := by rw [h]

end State.onlyMasters

/-- A write to the highest sub-index of a field whose rule takes the whole value: the rule's state, but for held parts. -/
theorem write32_applied {u : State} {f : Field} {idx sub : Nat} {v : Word} (hh : s.hears m idx = true) (ho : 1 < m → idx ≠ ctxObj (m - 1) 0)
    (hf : fieldAt idx sub = some f) (hacc : f.acc ≠ 0) (hsub : sub = f.lo + f.n - 1) (h0 : s.wholeValue m idx f v &&& f.rsv = 0)
    (hi : idx ≠ 2 ∨ f.lo ≠ 5) (rule : ruleOf m idx f (s.wholeValue m idx f v) s = (u, 0)) :
    ∃ t w, exec (.write32 m idx sub v) s = .next t ∧ u.onlyMasters w ∧ w.obeyed t m 3 idx sub := by
  obtain ⟨t, run, narrow, wide⟩ := write32_takes_whole s v hh ho hf hacc hsub h0 hi (congrArg Prod.snd rule)
  rw [rule] at narrow wide
  by_cases hn : f.n = 1
  · exact ⟨t, u, run, rfl, narrow hn⟩
  · exact ⟨t, _, run, dropParts_onlyMasters .., (wide hn).1⟩

/-- A write to the highest sub-index of a field whose rule refuses the whole value changes nothing. -/
theorem write32_unapplied {r : Nat} {f : Field} {idx sub : Nat} {v : Word} (hh : s.hears m idx = true) (ho : 1 < m → idx ≠ ctxObj (m - 1) 0)
    (hf : fieldAt idx sub = some f) (hacc : f.acc ≠ 0) (hsub : sub = f.lo + f.n - 1) (h0 : s.wholeValue m idx f v &&& f.rsv = 0)
    (hi : idx ≠ 2 ∨ f.lo ≠ 5) (hr : r ≠ 0) (rule : ruleOf m idx f (s.wholeValue m idx f v) s = (s, r)) :
    ∃ t, exec (.write32 m idx sub v) s = .next t ∧ s.declined t m 3 idx sub r := by
  obtain ⟨hm, reach, serve, ha⟩ := (hears_iff s m idx).1 hh
  refine write32_declined s hm ha ?_
  have start : ¬ (idx = 2 ∧ f.lo = 5) := fun h => hi.elim (fun hidx => hidx h.1) (fun hlo => hlo h.2)
  rw [writeRule_field s v reach ho serve hf, if_neg hacc, if_neg (by omega)]
  simp [writeWhole, h0, start, rule, hr]

/-! ## Job fields of a slot (R510, R517) -/

theorem slotObj_ne_ctxObj (hk : k < 16) (k' j o : Nat) (h : k' < 16) : slotObj k j o ≠ ctxObj k' 0 := by
  simp only [slotObj, ctxObj]
  omega

theorem fieldsOf_slotObj (hk : k < 16) (hj : j < 8) : fieldsOf (slotObj k j 1) = slotFields 1 := by
  have le : 0x2400 ≤ slotObj k j 1 := by simp only [slotObj]; omega
  have lt : slotObj k j 1 < 0x2800 := by simp only [slotObj]; omega
  have third : slotObj k j 1 % 8 = 1 := by simp only [slotObj]; omega
  unfold fieldsOf
  rw [if_neg (by simp; omega), if_neg (by simp; omega), if_neg (by simp; omega), if_neg (by simp; omega), if_neg (by simp; omega),
    if_neg (by simp; omega), if_neg (by simp; omega), if_pos (by simp; omega), third]

/-- A field of an object is one of its list. -/
theorem fieldAt_mem {idx sub : Nat} {f : Field} (h1 : 1 ≤ sub) (hf : fieldAt idx sub = some f) : f ∈ fieldsOf idx := by
  unfold fieldAt at hf
  dsimp only at hf
  split at hf
  · exact absurd hf (by simp)
  · rw [if_neg (by omega)] at hf
    exact List.mem_of_find?_eq_some hf

theorem slotFields_written {f : Field} (h : f ∈ slotFields 1) : f.acc = 1 := by
  have all : ∀ g ∈ slotFields 1, g.acc = 1 := by decide
  exact all f h

theorem ruleOf_slotObj (hk : k < 16) (hj : j < 8) {f : Field} (acc : f.acc = 1) (n : Nat) :
    ruleOf m (slotObj k j 1) f n = jobFieldRule k j f.lo n := by
  have le : 0x2400 ≤ slotObj k j 1 := by simp only [slotObj]; omega
  have lt : slotObj k j 1 < 0x2800 := by simp only [slotObj]; omega
  have context : (slotObj k j 1 - 0x2400) / 64 = k := by simp only [slotObj]; omega
  have slot : (slotObj k j 1 - 0x2400) / 8 % 8 = j := by simp only [slotObj]; omega
  have third : slotObj k j 1 % 8 = 1 := by simp only [slotObj]; omega
  unfold ruleOf
  dsimp only
  rw [if_neg (by omega), if_neg (by simp; omega), if_neg (by simp; omega), if_pos (by simp; omega), context, slot, third]
  rfl

theorem exec_jobFieldWrite (hk : k < 16) (hj : j < 8) {sub : Nat} (h1 : 1 ≤ sub) (h9 : sub ≤ 9) (hm : m ≤ 16) (s : State) (v : Word) :
    exec (.jobFieldWrite m k j sub v) s = exec (.write32 m (slotObj k j 1) sub v) s := by
  show onUnit (masterOk m && slotOk k j && decide (1 ≤ sub ∧ sub ≤ 9)) _ = onUnit (masterOk m) _
  simp [onUnit, masterOk, slotOk, hk, hj, h1, h9, hm]

theorem jobField_settles {sub : Nat} {v : Word} {f : Field} (hk : k < 16) (hj : j < 8) (h1 : 1 ≤ sub) (h9 : sub ≤ 9)
    (hh : s.hears m (slotObj k j 1) = true) (hf : fieldAt (slotObj k j 1) sub = some f) (hsub : sub = f.lo + f.n - 1)
    (h0 : s.wholeValue m (slotObj k j 1) f v &&& f.rsv = 0) :
    ((s.slot k j).state ≤ 1 → ∃ t, exec (.jobFieldWrite m k j sub v) s = .next t ∧ t.mem = s.mem ∧ t.lcores = s.lcores ∧
      t.slot k j = { (s.slot k j).withField f.lo (s.wholeValue m (slotObj k j 1) f v) with state := 1 } ∧
      t.resultFor m = some (answerOf 3 (slotObj k j 1) sub 0 0)) ∧
    (1 < (s.slot k j).state → ∃ t, exec (.jobFieldWrite m k j sub v) s = .next t ∧ s.declined t m 3 (slotObj k j 1) sub 5) := by
  obtain ⟨hm, -⟩ := (hears_iff s m _).1 hh
  have acc : f.acc = 1 := slotFields_written (fieldsOf_slotObj hk hj ▸ fieldAt_mem h1 hf)
  have own : 1 < m → slotObj k j 1 ≠ ctxObj (m - 1) 0 := fun _ => slotObj_ne_ctxObj hk _ _ _ (by omega)
  have plain : slotObj k j 1 ≠ 2 := by simp only [slotObj]; omega
  have rule := ruleOf_slotObj (m := m) hk hj acc (s.wholeValue m (slotObj k j 1) f v)
  rw [exec_jobFieldWrite hk hj h1 h9 hm]
  refine ⟨fun free => ?_, fun busy => ?_⟩
  · obtain ⟨t, w, run, drop, ob⟩ := write32_applied hh own hf (by omega) hsub h0 (.inl plain)
      (by rw [rule, jobFieldRule, if_neg (by omega)])
    have taken := slotTaken_changeSlot (k := k) s hj (fun q => { q.withField f.lo (s.wholeValue m (slotObj k j 1) f v) with state := 1 })
    refine ⟨t, run, ?_, ?_, ?_, ob.2⟩
    · rw [ob.mem, drop.mem, taken.mem]
    · rw [ob.lcores, drop.lcores, taken.lcores]
    · rw [State.slot, ob.slots, drop.slots]
      exact taken.slot
  · exact write32_unapplied hh own hf (by omega) hsub h0 (.inl plain) (by decide) (by rw [rule, jobFieldRule, if_pos busy])

/-! ## Partitions of a context (R451, R532) -/

theorem fieldsOf_ctxObj (hk : k < 16) : fieldsOf (ctxObj k 0) = contextFields 0 := by
  have le : 0x2000 ≤ ctxObj k 0 := le_ctxObj k 0
  have lt : ctxObj k 0 < 0x2400 := by simp only [ctxObj]; omega
  have first : ctxObj k 0 % 0x40 = 0 := by simp only [ctxObj]; omega
  unfold fieldsOf
  rw [if_neg (by simp; omega), if_neg (by simp; omega), if_neg (by simp; omega), if_neg (by simp; omega), if_neg (by simp; omega),
    if_neg (by simp; omega), if_pos (by simp; omega), first]

theorem contextFields_wide {f : Field} (h : f ∈ contextFields 0) (h2 : 2 ≤ f.lo) : f.acc = 1 ∧ f.n = 2 := by
  have all : ∀ g ∈ contextFields 0, 2 ≤ g.lo → g.acc = 1 ∧ g.n = 2 := by decide
  exact all f h h2

theorem ruleOf_ctxObj (hk : k < 16) {f : Field} (acc : f.acc = 1) (h2 : 2 ≤ f.lo) (n : Nat) :
    ruleOf m (ctxObj k 0) f n = partitionRule k f.lo n := by
  have le : 0x2000 ≤ ctxObj k 0 := le_ctxObj k 0
  have lt : ctxObj k 0 < 0x2400 := by simp only [ctxObj]; omega
  have context : (ctxObj k 0 - 0x2000) / 0x40 = k := by simp only [ctxObj]; omega
  have first : ctxObj k 0 % 0x40 = 0 := by simp only [ctxObj]; omega
  unfold ruleOf
  dsimp only
  rw [if_neg (by omega), if_neg (by simp; omega), if_pos (by simp; omega), context, first]
  obtain ⟨lo, hlo⟩ : ∃ lo, f.lo = lo + 2 := ⟨f.lo - 2, by omega⟩
  rw [hlo]
  rfl

theorem exec_partitionWrite (hk : k < 16) {sub : Nat} (h2 : 2 ≤ sub) (hD : sub ≤ 0xD) (hm : m ≤ 16) (s : State) (v : Word) :
    exec (.partitionWrite m k sub v) s = exec (.write32 m (ctxObj k 0) sub v) s := by
  show onUnit (masterOk m && decide (k < 16) && decide (2 ≤ sub ∧ sub ≤ 0xD)) _ = onUnit (masterOk m) _
  simp [onUnit, masterOk, hk, h2, hD, hm]

/-- A value of two sub-indices is below 2^64. -/
theorem wholeValue_lt (s : State) (m idx : Nat) {f : Field} (hn : f.n = 2) (v : Word) : s.wholeValue m idx f v < 2 ^ 64 := by
  have low := wordsValue_lt (s.heldOrNow m idx f) 1
  have high := v.isLt
  rw [wholeValue_eq, hn, show 2 - 1 = 1 from rfl]
  omega

/-- Whether the partition field at lo of context k may become n. -/
def State.fitsPartition (s : State) (k lo n : Nat) : Bool :=
  s.partitionOk k ((lo - 2) / 4) (if lo % 4 = 2 then n else (s.partition k ((lo - 2) / 4)).1)
    (if lo % 4 = 2 then (s.partition k ((lo - 2) / 4)).2 else n)

theorem partitionRule_eq (k lo n : Nat) (s : State) :
    partitionRule k lo n s = orRefuse (s.fitsPartition k lo n) s (s.setReg64 (ctxObj k 0) lo n) := by
  simp only [partitionRule, State.fitsPartition]

theorem partition_settles {sub : Nat} {v : Word} {f : Field} (hm : m ≤ 1) (hk : k < 16) (hD : sub ≤ 0xD)
    (hh : s.hears m (ctxObj k 0) = true) (hf : fieldAt (ctxObj k 0) sub = some f) (h2 : 2 ≤ f.lo) (hsub : sub = f.lo + 1)
    (hrsv : f.rsv = 0) :
    (s.fitsPartition k f.lo (s.wholeValue m (ctxObj k 0) f v) = true →
      ∃ t, exec (.partitionWrite m k sub v) s = .next t ∧ t.reg64 (ctxObj k 0) f.lo = s.wholeValue m (ctxObj k 0) f v ∧ t.mem = s.mem ∧
        t.slots = s.slots ∧ t.jobs = s.jobs ∧ (∀ i, i < 256 → i ≠ f.lo → i ≠ sub → t.reg (ctxObj k 0) i = s.reg (ctxObj k 0) i)) ∧
    (s.fitsPartition k f.lo (s.wholeValue m (ctxObj k 0) f v) = false →
      ∃ t, exec (.partitionWrite m k sub v) s = .next t ∧ s.declined t m 3 (ctxObj k 0) sub 5) := by
  obtain ⟨acc, wide⟩ := contextFields_wide (fieldsOf_ctxObj hk ▸ fieldAt_mem (by omega) hf) h2
  have own : 1 < m → ctxObj k 0 ≠ ctxObj (m - 1) 0 := by omega
  have plain : ctxObj k 0 ≠ 2 := by simp only [ctxObj]; omega
  have unreserved : s.wholeValue m (ctxObj k 0) f v &&& f.rsv = 0 := by rw [hrsv, Nat.and_zero]
  have below := wholeValue_lt s m (ctxObj k 0) wide v
  have rule := ruleOf_ctxObj (m := m) hk acc h2 (s.wholeValue m (ctxObj k 0) f v)
  rw [exec_partitionWrite hk (by omega) hD (by omega)]
  refine ⟨fun fits => ?_, fun unfit => ?_⟩
  · obtain ⟨t, w, run, drop, ob⟩ := write32_applied (v := v) hh own hf (by omega) (by omega) unreserved (.inl plain)
      (by rw [rule, partitionRule_eq, fits]; rfl)
    have dict : t.dict = _ := ob.dict.trans drop.dict
    refine ⟨t, run, ?_, ob.mem.trans drop.mem, ob.slots.trans drop.slots, ob.jobs.trans drop.jobs, fun i hi lo hi' => ?_⟩
    · rw [State.reg64, reg_congr dict, reg_congr dict]
      exact reg64_setReg64 _ _ _ _ below
    · rw [reg_congr dict]
      exact reg_setReg64_other _ _ _ _ _ _ (by simp only [dkey]; omega) (by simp only [dkey]; omega)
  · exact write32_unapplied hh own hf (by omega) (by omega) unreserved (.inl plain) (by decide)
      (by rw [rule, partitionRule_eq, unfit]; rfl)

/-! ## An aggregate read on this device (R542, R556) -/

theorem exec_aggregateStart (hm : m ≤ 16) (s : State) :
    exec (.aggregateStart m) s = .next (s.command m 2 5 1 true (aggregateStartRule m 1)) := onUnit_masterOk hm _

theorem aggregateStart_busy (hm : m ≤ 1) (ha : s.power.alive = true) (busy : (s.master m).aState = 1) :
    ∃ t, exec (.aggregateStart m) s = .next t ∧ s.declined t m 3 2 5 5 :=
  ⟨_, exec_aggregateStart (by omega) s, command_declined (hears_always hm ha rfl) (by simp [aggregateStartRule, busy])⟩

theorem groupAnswers_single {f : WFrame} {o : WOp} (one : f.ops = [o]) (kind : o.op = 5 ∨ o.op = 6) (s : State) (m : Nat) :
    s.groupAnswers m f = [s.aggregate m o.op o.index o.sub o.instances] := by
  obtain h | h := kind <;> simp [State.groupAnswers, one, h]

theorem aggregateStart_local {o : WOp} (hm : m ≤ 1) (ha : s.power.alive = true) (one : (s.master m).aggregateFrame.ops = [o])
    (kind : o.op = 5 ∨ o.op = 6) (idle : (s.master m).aState ≠ 1) (here : s.isLocal (s.master m).aggregateFrame = true) :
    ∃ t, exec (.aggregateStart m) s = .next t ∧ s.sameWork t ∧ t.dict = s.dict ∧ (t.master m).aState = 2 ∧
      (t.master m).aResult = (s.aggregate m o.op o.index o.sub o.instances).result ∧
      (t.master m).aValue = (s.aggregate m o.op o.index o.sub o.instances).value ∧ (∀ n, n ≠ m → t.master n = s.master n) := by
  have group : forGroup o = true := by obtain h | h := kind <;> simp [forGroup, h]
  have rule : aggregateStartRule m 1 s = (s.objectDone m [s.aggregate m o.op o.index o.sub o.instances], 0) := by
    simp [aggregateStartRule, idle, one, group, here, groupAnswers_single one kind]
  have ob := command_obeyed (sub := 5) (v := 1) (command := true) (hears_always hm ha rfl : s.hears m 2 = true) rule
  have shown (n : Nat) : _ := congrArg (fun l : Sparse Master => sget (fun _ => ({} : Master)) l n) ob.masters
  have own := (shown m).trans (sget_sput_same ..)
  refine ⟨_, exec_aggregateStart (by omega) s, ob.sameWork ⟨rfl, rfl, rfl, rfl, rfl, rfl, rfl⟩, ob.dict, congrArg Master.aState own,
    congrArg Master.aResult own, congrArg Master.aValue own, fun n hn => (shown n).trans (sget_sput_other _ _ _ hn)⟩

/-- Settles O57, from what each command of a slot, each kind of field and the start of an aggregate read do. -/
theorem slotCommandsAndFields : Obligations.SlotCommandsAndFields := by
  refine ⟨fun s m k j hk hj hh => ⟨fun ok h1 => ?_, fun ok h3 again unplaced => ?_, arm_refused hk hj hh⟩,
    fun s m k j hk hj hh => ⟨fun h2 => ?_, fun h3 => ?_, withdraw_refused hk hj hh, fun h4 => ?_, abort_refused hk hj hh, fun h => ?_,
      clear_refused hk hj hh⟩,
    fun s m k j sub v f hk hj h1 h9 hh hf hsub h0 => jobField_settles hk hj h1 h9 hh hf hsub h0, ?_,
    fun s m hm ha => ⟨aggregateStart_busy hm ha, fun o => aggregateStart_local hm ha⟩⟩
  · obtain ⟨t, run, result, taken⟩ := arm_written hk hj hh ok h1
    exact ⟨t, run, result, taken.slot, fun i n _ => taken.others i n, taken.mem, taken.lcores, taken.jobs, taken.dict⟩
  · obtain ⟨t, run, -, taken⟩ := arm_rerun hk hj hh ok h3 again unplaced
    exact ⟨t, run, taken.slot, taken.mem, taken.lcores, taken.jobs, taken.dict⟩
  · obtain ⟨t, run, taken⟩ := withdraw_armed hk hj hh h2
    exact ⟨t, run, taken.slot, taken.mem, taken.lcores, taken.jobs, taken.dict, fun i n _ => taken.others i n⟩
  · obtain ⟨t, run, faulted⟩ := withdraw_accepted hk hj hh h3
    exact ⟨t, run, faulted.state, faulted.cause, faulted.mem⟩
  · obtain ⟨t, run, faulted⟩ := abort_running hk hj hh h4
    exact ⟨t, run, faulted.state, faulted.cause, faulted.mem⟩
  · obtain ⟨t, run, taken⟩ := clear_ended hk hj hh h
    exact ⟨t, run, taken.slot, taken.mem, taken.lcores, taken.jobs, taken.dict, fun i n _ => taken.others i n⟩
  · rintro s m k sub n v f hm hk hD hh hf h2 hsub rfl hrsv
    exact partition_settles hm hk hD hh hf h2 hsub hrsv

end Sys2Proof.Machine
end

section
/-! PROOFS. Start-up steps, failed attempts, the host link and the resets of the host interface (R531, R582 to R588, R631, R632, R648). -/

namespace Sys2Proof.Machine

variable {s t u : State}

/-! ## Step records (R592) -/

@[simp] theorem stepRec_setRec_same (s : State) (n : Nat) (r : StepRec) : (s.setRec n r).stepRec n = r := sget_sput_same ..

theorem stepRec_setRec_other (s : State) {n i : Nat} (r : StepRec) (h : i ≠ n) : (s.setRec n r).stepRec i = s.stepRec i :=
  sget_sput_other _ _ _ h

/-- A record that ends shows its status. -/
theorem endRecord_status (s : State) (n status : Nat) (detail : Word) : ((s.endRecord n status detail).stepRec n).status = status := by
  rw [State.endRecord, stepRec_setRec_same]

/-- What a step before discovery has as it begins. -/
theorem beginStep_early (s : State) {n : Nat} (h : n ≤ 11) :
    (s.beginStep n).power.step = n ∧ ((s.beginStep n).stepRec n).status = 1 ∧ ∀ i, i ≠ n → (s.beginStep n).stepRec i = s.stepRec i := by
  unfold State.beginStep
  dsimp only
  split
  · exact ⟨rfl, congrArg StepRec.status (stepRec_setRec_same ..), fun i hi => stepRec_setRec_other s _ hi⟩
  · rw [if_neg (by omega), if_neg (by omega)]
    exact ⟨rfl, congrArg StepRec.status (stepRec_setRec_same ..), fun i hi => stepRec_setRec_other s _ hi⟩

/-- A step before discovery ends with its record, and the next begins. -/
theorem finishStep_early (s : State) (f : StepFacts) {n : Nat} (h : n ≤ 10) :
    (s.finishStep n f).power.step = n + 1 ∧ ((s.finishStep n f).stepRec n).status = 2 ∧ ((s.finishStep n f).stepRec (n + 1)).status = 1 := by
  have next : s.finishStep n f = ((s.stepWork n f).endRecord n 2 0).beginStep (n + 1) := by
    rw [State.finishStep, if_neg (by omega)]
  obtain ⟨step, status, others⟩ := beginStep_early ((s.stepWork n f).endRecord n 2 0) (show n + 1 ≤ 11 by omega)
  rw [next]
  exact ⟨step, by rw [others n (by omega), endRecord_status], status⟩

/-- The last step ends start-up. -/
theorem finishStep_ready (s : State) (f : StepFacts) : (s.finishStep 13 f).power.phase = 1 ∧ (s.finishStep 13 f).power.failed = 0 ∧
    (s.finishStep 13 f).power.readyTick = s.clock.tick := by
  have last : s.finishStep 13 f = (s.endRecord 13 2 0).becomeReady := by simp [State.finishStep, State.stepWork]
  rw [last]
  exact ⟨rfl, rfl, rfl⟩

/-! ## START_UP (R582) -/

theorem exec_startUp (h : s.starting = true) (f : StepFacts) : exec (.startUp f) s = .next (s.goOn f) := by
  show Host.Outcome.next (if s.starting then s.goOn f else s) = _
  rw [h]
  rfl

/-- A step whose image fails its check is one that may end. -/
theorem stepMayEnd_of_badImage {n : Nat} (h : s.badImage n = true) : s.stepMayEnd n = true := by
  obtain ⟨early, -⟩ : (n = 1 ∨ n = 4) ∧ _ := by simpa [State.badImage] using h
  obtain rfl | rfl := early <;> rfl

section goOn

variable {n : Nat} (f : StepFacts) (step : s.power.step = n)

include step

theorem goOn_finishes (h0 : n ≠ 0) (may : s.stepMayEnd n = true) (good : s.badImage n = false) : s.goOn f = s.finishStep n f := by
  simp [State.goOn, step, h0, may, good]

theorem goOn_waits (h0 : n ≠ 0) (may : s.stepMayEnd n = false) : s.goOn f = s := by
  simp [State.goOn, step, h0, may]

theorem goOn_refuses (h0 : n ≠ 0) (bad : s.badImage n = true) : s.goOn f =
    (s.failStep n mgmt).imageRefused (s.startCheck (s.imageFor n)) (imageVersion (s.firmware.image (s.imageFor n))) (s.imageFor n) := by
  simp [State.goOn, step, h0, stepMayEnd_of_badImage bad, bad]

end goOn

/-! ## An attempt that fails (R585) -/

/-- What a record leaves of a stopped device: it is stopped. -/
theorem State.records.stopped (h : t.records u) (down : s.stopped t) : s.stopped u := by
  obtain ⟨mem, lcores, -, slots, jobs, barriers, sems⟩ := h.sameWork
  exact stopped_congr down lcores mem jobs barriers sems slots (by rw [h.power]) h.clock

/-- An attempt has failed after n failures: the count goes on to at most three, where the device is management-only. -/
structure State.attemptLost (n : Nat) (t : State) : Prop where
  failed : t.power.failed = min 3 (n + 1)
  phase : t.power.phase = if 3 ≤ n + 1 then 2 else 0

theorem attemptFailed_stopped (h : s.stopped t) : s.stopped t.attemptFailed := by
  unfold State.attemptFailed
  dsimp only
  split
  · exact (addError_records ..).stopped (stopped_congr h rfl rfl rfl rfl rfl rfl rfl rfl)
  · exact stopped_congr h rfl rfl rfl rfl rfl rfl rfl rfl

theorem attemptFailed_lost (h : s.power.phase = 0) : s.attemptFailed.attemptLost s.power.failed := by
  unfold State.attemptFailed
  dsimp only
  split
  case isTrue third => exact ⟨by rw [addError_power], by rw [addError_power, if_pos third]⟩
  case isFalse more => exact ⟨rfl, h.trans (if_neg more).symm⟩

/-- Before the third failure the attempt is to be tried again. -/
theorem attemptFailed_retries (h : s.power.failed < 2) :
    s.attemptFailed.power.failedAt = some s.attemptFailed.clock.tick ∧ s.attemptFailed.errors = s.errors := by
  unfold State.attemptFailed
  dsimp only
  rw [if_neg (by omega)]
  exact ⟨rfl, rfl⟩

/-- Step n has failed, the device has stopped and the failure is recorded; the count of failures waits. -/
def State.stepFailed (s : State) (n : Nat) (unit : Word) : State :=
  let t := (s.endRecord n 3 unit).stopAll
  t.addError 0x0102 0 mgmt noJob n noStep (BitVec.ofNat 64 (t.stepRec n).word.toNat) (BitVec.ofNat 64 (t.stepRec n).detail.toNat)

theorem stepFailed_stopped (s : State) (n : Nat) (unit : Word) : s.stopped (s.stepFailed n unit) :=
  (addError_records ..).stopped (stopAll_stopped (s.endRecord n 3 unit))

theorem stepFailed_power (s : State) (n : Nat) (unit : Word) : (s.stepFailed n unit).power = (s.endRecord n 3 unit).stopAll.power :=
  addError_power ..

theorem failStep_stopped (s : State) (n : Nat) (unit : Word) : s.stopped (s.failStep n unit) :=
  attemptFailed_stopped (stepFailed_stopped s n unit)

theorem failStep_lost (s : State) (n : Nat) (unit : Word) : (s.failStep n unit).attemptLost s.power.failed := by
  have power := stepFailed_power s n unit
  have lost := attemptFailed_lost (s := s.stepFailed n unit) (by rw [power]; rfl)
  rwa [power] at lost

theorem failStep_retries (s : State) (n : Nat) (unit : Word) (h : s.power.failed < 2) :
    (s.failStep n unit).power.failedAt = some (s.failStep n unit).clock.tick ∧ (s.failStep n unit).errors.next = s.errors.next + 1 := by
  obtain ⟨at_, errors⟩ := attemptFailed_retries (s := s.stepFailed n unit) (by rw [stepFailed_power]; exact h)
  exact ⟨at_, (congrArg ErrorLog.next errors).trans (addError_next ..)⟩

/-- A refused image leaves its alarm. -/
theorem imageRefused_records (s : State) (result version : Nat) (b : Bool) : s.records (s.imageRefused result version b) :=
  (addError_records ..).trans (alarm_records ..)

theorem imageRefused_alarmed (s : State) (result version : Nat) (b : Bool) : (s.imageRefused result version b).alarmed 0x3000 0x09 0 :=
  alarmed_alarm _ _ _ (by decide)

theorem startUp_settles (f : StepFacts) (h : s.starting = true) :
    (s.power.step = 0 → ∃ t, exec (.startUp f) s = .next t ∧ t.power.step = 1 ∧ t.power.starts = s.power.starts + 1 ∧
      (t.stepRec 1).status = 1 ∧ t.mem = s.mem ∧ t.lcores = s.lcores ∧ t.slots = s.slots) ∧
    (∀ n, s.power.step = n → n ≠ 0 → s.badImage n = true → ∃ t, exec (.startUp f) s = .next t ∧ s.stopped t ∧
      t.power.failed = min 3 (s.power.failed + 1) ∧ t.power.phase = (if 3 ≤ s.power.failed + 1 then 2 else 0) ∧
      t.alarmed 0x3000 0x09 0) := by
  rw [exec_startUp h]
  refine ⟨fun h0 => ⟨_, rfl, ?_⟩, fun n step h0 bad => ⟨_, rfl, ?_⟩⟩
  · have first : s.goOn f = s.beginAttempt s.power.cause := by simp [State.goOn, h0]
    rw [first]
    exact ⟨rfl, rfl, (beginStep_early _ (by decide)).2.1, rfl, rfl, rfl⟩
  · rw [goOn_refuses f step h0 bad]
    have noted := imageRefused_records (s.failStep n mgmt) (s.startCheck (s.imageFor n)) (imageVersion (s.firmware.image (s.imageFor n)))
      (s.imageFor n)
    have lost := failStep_lost s n mgmt
    rw [noted.power]
    exact ⟨noted.stopped (failStep_stopped ..), lost.failed, lost.phase, imageRefused_alarmed ..⟩

/-! ## Time limits and new attempts (R582, R585, R587) -/

theorem restoreSlot_step (s : State) (k j : Nat) : (s.restoreSlot k j).power.step = s.power.step := by
  unfold State.restoreSlot State.askLead
  dsimp only
  split
  · exact congrArg Power.step (changeSlot_power ..)
  · split
    · exact congrArg Power.step (changeSlot_power ..)
    · split
      · split
        · exact congrArg Power.step (changeSlot_power ..)
        · have sent := control_onlyForwards s k (s.slot k j).tag (s.leadOf (s.slot k j)) 0x0D (leBytes 8 (s.slot k j).sequence.toNat)
          exact (congrArg Power.step sent.power :)
      · rfl

theorem restoreSlots_step (s : State) : s.restoreSlots.power.step = s.power.step :=
  foldl_frame (fun u => u.power.step) (fun u (p : Nat × Slot) => u.restoreSlot (p.1 / 8) (p.1 % 8))
    (fun u p => restoreSlot_step u (p.1 / 8) (p.1 % 8)) s.slots s

/-- Step 12 ends and the last step begins. -/
theorem finishStep_discovery (s : State) (f : StepFacts) : (s.finishStep 12 f).power.step = 13 ∧ (s.finishStep 12 f).mem = s.mem := by
  have next : s.finishStep 12 f = (s.endRecord 12 2 0).beginStep 13 := by simp [State.finishStep, State.stepWork]
  rw [next]
  exact ⟨restoreSlots_step _, (outer_eq ((beginStep_outer ..).trans (endRecord_outer ..))).2.2⟩

theorem exec_stepTimeout {n : DWord} (h : s.starting = true) (began : s.power.stepBegan = some n) (unit : Word) :
    exec (.startupStepTimeout unit) s = .next (if s.power.step = 12
      then (s.until (n.toNat + stepLimit s.power.step)).finishStep 12 { refclk := false, failedCores := [], expanders := [] }
      else (s.until (n.toNat + stepLimit s.power.step)).failStep s.power.step unit) := by
  show execStartupStepTimeout unit s = _
  simp only [execStartupStepTimeout, h, began]

theorem stepTimeout_settles (unit : Word) (n : DWord) (h : s.starting = true) (began : s.power.stepBegan = some n) :
    (s.power.step ≠ 12 → ∃ t, exec (.startupStepTimeout unit) s = .next t ∧ (s.until (n.toNat + stepLimit s.power.step)).stopped t ∧
      t.power.failed = min 3 (s.power.failed + 1) ∧ t.power.phase = (if 3 ≤ s.power.failed + 1 then 2 else 0) ∧
      (s.power.failed < 2 → t.power.failedAt = some t.clock.tick ∧ t.errors.next = s.errors.next + 1)) ∧
    (s.power.step = 12 → ∃ t, exec (.startupStepTimeout unit) s = .next t ∧ t.power.step = 13 ∧ t.mem = s.mem) := by
  rw [exec_stepTimeout h began]
  have time := until_passes s (n.toNat + stepLimit s.power.step)
  generalize s.until (n.toNat + stepLimit s.power.step) = w at time
  refine ⟨fun other => ⟨_, rfl, ?_⟩, fun last => ⟨_, rfl, ?_⟩⟩
  · rw [if_neg other, ← time.power, ← time.errors]
    have lost := failStep_lost w w.power.step unit
    exact ⟨failStep_stopped .., lost.failed, lost.phase, failStep_retries w _ unit⟩
  · rw [if_pos last, ← time.mem]
    exact finishStep_discovery ..

theorem exec_startupRetry {n : DWord} (ha : s.power.alive = true) (failed : s.power.failedAt = some n) (saving : s.power.saving = none)
    (supply : s.power.waitSupply = false) (held : s.power.heldReset = false) :
    exec .startupRetry s = .next ((s.until (n.toNat + 250000)).beginAttempt 5) := by
  show execStartupRetry s = _
  simp only [execStartupRetry, ha, failed, saving, supply, held, Option.isSome_none, Bool.or_self, Bool.false_eq_true, if_false]

/-- What is seen of an attempt that begins once time has led to its tick. -/
theorem beginAttempt_after (time : s.passes u) (cause : Nat) : (u.beginAttempt cause).power.step = 1 ∧
    (u.beginAttempt cause).power.cause = cause ∧ (u.beginAttempt cause).power.failedAt = none ∧
    (u.beginAttempt cause).power.starts = s.power.starts + 1 ∧ (u.beginAttempt cause).clock = u.clock ∧
    (u.beginAttempt cause).mem = s.mem ∧ (u.beginAttempt cause).errors = s.errors := by
  rw [← time.power, ← time.mem, ← time.errors]
  exact ⟨rfl, rfl, rfl, rfl, rfl, rfl, rfl⟩

theorem startupRetry_begins {n : DWord} (ha : s.power.alive = true) (failed : s.power.failedAt = some n) (saving : s.power.saving = none)
    (supply : s.power.waitSupply = false) (held : s.power.heldReset = false) :
    ∃ t, exec .startupRetry s = .next t ∧ t.power.step = 1 ∧ t.power.cause = 5 ∧ t.power.failedAt = none ∧
      t.power.starts = s.power.starts + 1 ∧ t.clock = (s.until (n.toNat + 250000)).clock ∧ t.mem = s.mem ∧ t.errors = s.errors :=
  ⟨_, exec_startupRetry ha failed saving supply held, beginAttempt_after (until_passes ..) 5⟩

/-! ## The command to leave management-only (R587, R591) -/

/-- Only start-up's own state has changed. -/
def State.onlyPower (s t : State) : Prop := t = { s with power := t.power }

theorem clearedMethods_onlyPower (s : State) (l : List Nat) :
    s.onlyPower (l.foldl (fun (u : State) n => if (u.stepRec n).next = 0 then u else u.setRec n { u.stepRec n with next := 0 }) s) := by
  refine foldl_keeps (fun t => s.onlyPower t) _ (fun t n ht => ?_) l s rfl
  unfold State.onlyPower at ht ⊢
  split
  · exact ht
  · rw [ht]
    rfl

theorem leaveRule_leaves (h : s.power.phase = 2) : ∃ u, leaveRule s = (u, 0) ∧ u.power.phase = 0 ∧ u.power.step = 1 ∧ u.power.cause = 6 ∧
    u.power.failed = 0 ∧ u.mem = s.mem ∧ u.slots = s.slots := by
  have cleared := clearedMethods_onlyPower s (upto 14)
  unfold leaveRule
  dsimp only
  generalize List.foldl _ s (upto 14) = t at cleared
  have mem : t.mem = s.mem := by rw [cleared]
  have slots : t.slots = s.slots := by rw [cleared]
  rw [h, ← mem, ← slots]
  exact ⟨_, rfl, rfl, rfl, rfl, rfl, rfl, rfl⟩

theorem leaveManagementOnly_settles {m : Nat} (hm : m ≤ 1) (ha : s.power.alive = true) :
    (s.power.phase = 2 → ∃ t, exec (.leaveManagementOnly m) s = .next t ∧ t.power.phase = 0 ∧ t.power.step = 1 ∧ t.power.cause = 6 ∧
      t.power.failed = 0 ∧ t.resultFor m = some (answerOf 3 0x0310 3 0 0) ∧ t.mem = s.mem ∧ t.slots = s.slots) ∧
    (s.power.phase ≠ 2 → ∃ t, exec (.leaveManagementOnly m) s = .next t ∧ t.power = s.power ∧ s.sameWork t ∧
      t.resultFor m = some (answerOf 3 0x0310 3 5 0)) := by
  have run : exec (.leaveManagementOnly m) s = .next (s.command m 0x0310 3 2 true leaveRule) := onUnit_masterOk (by omega) _
  have heard : s.hears m 0x0310 = true := hears_always hm ha rfl
  rw [run]
  refine ⟨fun only => ⟨_, rfl, ?_⟩, fun other => ⟨_, rfl, ?_⟩⟩
  · obtain ⟨u, rule, phase, step, cause, failed, mem, slots⟩ := leaveRule_leaves only
    have ob := command_obeyed (sub := 3) (v := 2) (command := true) heard rule
    rw [ob.power]
    exact ⟨phase, step, cause, failed, ob.2, ob.mem.trans mem, ob.slots.trans slots⟩
  · have rule : leaveRule s = (s, 5) := by simp [leaveRule, orRefuse, other]
    have declined := command_declined (sub := 3) (v := 2) (command := true) heard rule
    exact ⟨by rw [declined.1], declined_sameWork declined ⟨rfl, rfl, rfl, rfl, rfl, rfl, rfl⟩, declined.2.2⟩

/-! ## The host link (R588, R631, R648) -/

/-- The link's state, speed and width are the same. -/
structure State.sameLink (s t : State) : Prop where
  state : t.host.state = s.host.state
  speed : t.host.speed = s.host.speed
  width : t.host.width = s.host.width

theorem State.sameLink.refl (s : State) : s.sameLink s := ⟨rfl, rfl, rfl⟩

theorem State.sameLink.trans (h : s.sameLink t) (g : t.sameLink u) : s.sameLink u :=
  ⟨g.state.trans h.state, g.speed.trans h.speed, g.width.trans h.width⟩

theorem msix_sameLink (s : State) (f v : Nat) : s.sameLink (s.msix f v) := by
  unfold State.msix
  split
  · exact ⟨rfl, rfl, rfl⟩
  · split <;> exact ⟨rfl, rfl, rfl⟩

theorem bump_sameLink (s : State) (idx sub n : Nat) : s.sameLink (s.bump idx sub n) := ⟨rfl, rfl, rfl⟩
theorem bump64_sameLink (s : State) (idx sub n : Nat) : s.sameLink (s.bump64 idx sub n) := ⟨rfl, rfl, rfl⟩

theorem hostWrites_sameLink (s : State) (fn : Nat) (ws : List (Nat × List Byte)) : s.sameLink (s.hostWrites fn ws) := by
  unfold State.hostWrites
  split <;> exact ⟨rfl, rfl, rfl⟩

theorem alarm_sameLink (s : State) (idx sub i : Nat) : s.sameLink (s.alarm idx sub i) := by
  unfold State.alarm
  split
  · exact .refl s
  · dsimp only
    have rise : s.sameLink { s.setReg idx sub (s.reg idx sub ||| BitVec.ofNat 32 (2 ^ i)) with
      serial := { s.serial with risen := s.serial.risen ++ [(idx, sub)] } } := ⟨rfl, rfl, rfl⟩
    split
    · split
      · exact rise.trans (msix_sameLink ..)
      · exact (rise.trans (msix_sameLink ..)).trans (msix_sameLink ..)
    · exact rise.trans (msix_sameLink ..)

theorem addError_sameLink (s : State) (kind effect : Nat) (unit job : Word) (op : Nat) (step d0 d1 : DWord) :
    s.sameLink (s.addError kind effect unit job op step d0 d1) :=
  addError_keeps s _ _ _ _ _ _ _ _ (fun t => s.sameLink t) (fun _ => ⟨rfl, rfl, rfl⟩) (fun _ ht => ht.trans ⟨rfl, rfl, rfl⟩)
    fun _ _ ht => ht.trans (alarm_sameLink ..)

theorem bump64_raises (s : State) (idx sub n : Nat) : s.raises (s.bump64 idx sub n) := rfl

theorem post_raises (s : State) (k base len : Nat) (bs : List Byte) : s.raises (s.post k base len bs) :=
  (hostWrites_raises ..).trans ((bump64_raises ..).trans ((bump_raises ..).trans (msix_raises ..)))

theorem post_sameLink (s : State) (k base len : Nat) (bs : List Byte) : s.sameLink (s.post k base len bs) :=
  (hostWrites_sameLink ..).trans ((bump64_sameLink ..).trans ((bump_sameLink ..).trans (msix_sameLink ..)))

/-- What the ledger tail's departure leaves: no more than messages and ledger registers have changed. -/
theorem flushTail_keeps (s : State) : s.raises s.flushTail ∧ s.sameLink s.flushTail := by
  unfold State.flushTail
  dsimp only
  refine foldl_keeps (fun t => s.raises t ∧ s.sameLink t) _ (fun t w ht => ?_) _ _ ⟨rfl, ⟨rfl, rfl, rfl⟩⟩
  exact ⟨ht.1.trans (post_raises ..), ht.2.trans (post_sameLink ..)⟩

theorem flushTail_empty (h : s.host.tail = []) : s.flushTail = s := by
  have same : { s with host := { s.host with tail := [] } } = s := by rw [← h]
  simp only [State.flushTail, h, List.filter_nil, List.foldl_nil, same]

/-- The host interface with its link served: the messages of functions in D0 go out. -/
def HostIf.served (h : HostIf) : HostIf :=
  { h with
    state := 2, speed := 6, width := 16, l0p := 16
    sent := h.sent ++ h.msix.filter (fun q => !(h.d3.contains q.1)), msix := h.msix.filter (fun q => !(!(h.d3.contains q.1))) }

/-- A link that is up is served at full speed and width, and nothing but messages and ledger registers has changed. -/
theorem hostUp_serves (s : State) : s.raises s.hostUp ∧ s.hostUp.host.state = 2 ∧ s.hostUp.host.speed = 6 ∧ s.hostUp.host.width = 16 := by
  obtain ⟨raised, link⟩ := flushTail_keeps { s with host := s.host.served }
  have first : s.raises { s with host := s.host.served } := rfl
  exact ⟨first.trans raised, link.state, link.speed, link.width⟩

/-- PERST_N reads as asserted, or not. -/
def State.perst (s : State) (b : Bool) : State := { s with pins := { s.pins with perstN := b } }

/-- The link down after PERST_N: functions leave D3hot, messages are lost and held writes go out. -/
def HostIf.reset (h : HostIf) : HostIf :=
  { h with
    state := 0, speed := 0, width := 0, l0p := 0, d3 := [], bar2 := [], msix := []
    writes := h.writes ++ h.heldWrites.map (fun w => w.2), heldWrites := [] }

theorem exec_perstNAssert_up (hd : s.down = false) (ha : s.power.alive = true) :
    exec .perstNAssert s = .next { (s.perst true).failHostAsks with host := (s.perst true).failHostAsks.host.reset } := by
  show execPerstNAssert s = _
  simp only [execPerstNAssert, hd, ha]
  rfl

theorem exec_perstNAssert_down (h : s.down = true ∨ s.power.alive = false) : exec .perstNAssert s = .next (s.perst true) := by
  show execPerstNAssert s = _
  have quiet : (s.down || !s.power.alive) = true := by simpa using h
  simp only [execPerstNAssert, quiet, if_true, State.perst]

theorem failHostAsks_none (h : s.host.asks = []) : s.failHostAsks = s := by simp [State.failHostAsks, h]

theorem perstNDeassert_trains (hc : s.power.control = true) :
    ∃ t, exec .perstNDeassert s = .next t ∧ t.pins = { s.pins with perstN := false } ∧ t.mem = s.mem ∧
      ((s.power.phase = 1 ∨ 9 < s.power.step) → t.host.state = 2 ∧ t.host.speed = 6 ∧ t.host.width = 16) ∧
      (s.power.phase ≠ 1 → s.power.step ≤ 9 → t.host = { s.host with state := 1 }) := by
  have run : exec .perstNDeassert s = .next (if s.power.phase = 1 || 9 < s.power.step then (s.perst false).hostUp
      else { s.perst false with host := { (s.perst false).host with state := 1 } }) := by
    show execPerstNDeassert s = _
    simp only [execPerstNDeassert, hc]
    rfl
  refine ⟨_, run, ?_⟩
  by_cases serve : s.power.phase = 1 ∨ 9 < s.power.step
  · obtain ⟨raised, link⟩ := hostUp_serves (s.perst false)
    rw [if_pos (by simpa using serve)]
    exact ⟨raised.pins, raised.mem, fun _ => link, fun h1 h9 => absurd serve (by omega)⟩
  · rw [if_neg (by simpa using serve)]
    exact ⟨rfl, rfl, fun h => absurd h serve, fun _ _ => rfl⟩

/-- The link without its training, counted and not yet recorded. -/
def State.linkLost (s : State) : State := { s with host := { s.host with state := 0, speed := 0, width := 0, l0p := 0 } }.bump 0x9900 0x0A 1

theorem pcieLinkDown_records (h : s.host.state ≠ 0) : ∃ t, exec .pcieLinkDown s = .next t ∧ t.host.state = 0 ∧ t.host.width = 0 ∧
    s.entered t 0x0305 0 (unitField 6 0 0) (BitVec.ofNat 64 s.host.word.toNat) s.clock.tick ∧ s.sameWork t ∧ t.power = s.power := by
  have run : exec .pcieLinkDown s = .next (s.linkLost.addError 0x0305 0 (unitField 6 0 0) noJob 0 noStep
      (BitVec.ofNat 64 s.host.word.toNat) s.clock.tick) := congrArg Host.Outcome.next (if_neg h)
  have link := addError_sameLink s.linkLost 0x0305 0 (unitField 6 0 0) noJob 0 noStep (BitVec.ofNat 64 s.host.word.toNat) s.clock.tick
  have noted := addError_records s.linkLost 0x0305 0 (unitField 6 0 0) noJob 0 noStep (BitVec.ofNat 64 s.host.word.toNat) s.clock.tick
  exact ⟨_, run, link.state, link.width, (addError_entered ..).of_errors (s := s) rfl, noted.sameWork, noted.power⟩

/-! ## D3hot and D0 (R632) -/

theorem onUnit_function {fn : Nat} (h : fn < 16) (t : State) : onUnit (decide (fn < 16)) t = .next t := by simp [onUnit, h]

/-- The host interface with function fn in D0: what was held for it goes out. -/
def HostIf.awake (h : HostIf) (fn : Nat) : HostIf := { h with d3 := h.d3.filter (fun n => n ≠ fn) }.release fn

/-- The messages of function fn go out. -/
def HostIf.deliver (h : HostIf) (fn : Nat) : HostIf :=
  { h with sent := h.sent ++ h.msix.filter (fun q => q.1 = fn), msix := h.msix.filter (fun q => q.1 ≠ fn) }

theorem exec_leaveD3 {fn : Nat} (h : fn < 16) (tail : s.host.tail = []) : exec (.powerStateChange fn false) s =
    .next { s with host := if s.host.state = 2 then (s.host.awake fn).deliver fn else s.host.awake fn } := by
  have run : exec (.powerStateChange fn false) s = .next (if s.host.state = 2
      then ({ s with host := (s.host.awake fn).deliver fn } : State).flushTail else { s with host := s.host.awake fn }) :=
    onUnit_function h _
  have empty : ({ s with host := (s.host.awake fn).deliver fn } : State).flushTail = { s with host := (s.host.awake fn).deliver fn } :=
    flushTail_empty tail
  rw [run, empty]
  split <;> rfl

theorem not_contains_filter_ne (l : List Nat) (fn : Nat) : (l.filter (fun n => n ≠ fn)).contains fn = false := by simp

theorem contains_filter_ne (l : List Nat) {fn g : Nat} (h : g ≠ fn) : (l.filter (fun n => n ≠ fn)).contains g = l.contains g := by
  rw [Bool.eq_iff_iff]
  simp [h]

/-- What a function's way out of D3hot leaves of the host interface, its messages aside. -/
theorem awake_leaves (h : HostIf) (fn : Nat) : (h.awake fn).d3.contains fn = false ∧
    (∀ g, g ≠ fn → (h.awake fn).d3.contains g = h.d3.contains g) ∧ (∀ w ∈ (h.awake fn).heldWrites, w.1 ≠ fn) ∧
    (∀ a ∈ (h.awake fn).asks, a.heldFor ≠ some fn) ∧ (h.awake fn).asks.length = h.asks.length := by
  refine ⟨not_contains_filter_ne .., fun g hg => contains_filter_ne _ hg, fun w hw => ?_, fun a ha => ?_, List.length_map ..⟩
  · exact of_decide_eq_true (List.mem_filter.1 hw).2
  · obtain ⟨b, -, rfl⟩ := List.mem_map.1 ha
    split
    · simp
    · assumption

theorem powerStateChange_settles {fn : Nat} (h : fn < 16) :
    (∃ t, exec (.powerStateChange fn true) s = .next t ∧ t.host.d3.contains fn = true ∧ t.host.msix = s.host.msix ∧
      t = { s with host := t.host }) ∧
    (s.host.tail = [] → ∃ t, exec (.powerStateChange fn false) s = .next t ∧ t.host.d3.contains fn = false ∧ t = { s with host := t.host } ∧
      (∀ g, g ≠ fn → t.host.d3.contains g = s.host.d3.contains g) ∧
      (s.host.state = 2 → t.host.sent = s.host.sent ++ s.host.msix.filter (fun q => q.1 = fn) ∧ ∀ q ∈ t.host.msix, q.1 ≠ fn) ∧
      t.host.writes = s.host.writes ++ (s.host.heldWrites.filter (fun w => w.1 = fn)).map (fun w => w.2) ∧
      (∀ w ∈ t.host.heldWrites, w.1 ≠ fn) ∧ (∀ a ∈ t.host.asks, a.heldFor ≠ some fn) ∧ t.host.asks.length = s.host.asks.length) := by
  refine ⟨⟨_, onUnit_function h _, by simp, rfl, rfl⟩, fun tail => ⟨_, exec_leaveD3 h tail, ?_⟩⟩
  obtain ⟨out, others, held, asks, length⟩ := awake_leaves s.host fn
  by_cases up : s.host.state = 2
  · rw [if_pos up]
    exact ⟨out, rfl, others, fun _ => ⟨rfl, fun q hq => of_decide_eq_true (List.mem_filter.1 hq).2⟩, rfl, held, asks, length⟩
  · rw [if_neg up]
    exact ⟨out, rfl, others, fun h2 => absurd h2 up, rfl, held, asks, length⟩

/-! ## A function-level reset (R531, R588, R589) -/

/-- What a slot becomes by a reset, here or, where its lead is asked, until the answer. -/
def Slot.restored (q : Slot) : Slot :=
  if q.state ≤ 2 then {} else if q.state = 3 ∨ (q.state = 4 ∧ q.leads = true) then q.reopened else q

/-- Slot j of context k is restored, and no other slot, memory, logical core or job has changed. -/
structure State.restores (s t : State) (k j : Nat) : Prop where
  slot : t.slot k j = (s.slot k j).restored
  others : ∀ i n, n < 8 → (i ≠ k ∨ n ≠ j) → t.slot i n = s.slot i n
  mem : t.mem = s.mem
  lcores : t.lcores = s.lcores
  jobs : t.jobs = s.jobs

theorem State.slotTaken.restores {k j : Nat} {f : Slot → Slot} (h : s.slotTaken t k j f) (same : f (s.slot k j) = (s.slot k j).restored) :
    s.restores t k j := ⟨h.slot.trans same, h.others, h.mem, h.lcores, h.jobs⟩

theorem rerunSlot_taken (s : State) {k j : Nat} (hj : j < 8) : s.slotTaken (s.rerunSlot k j) k j Slot.reopened := slotTaken_changeSlot s hj _

theorem restoreSlot_restores (s : State) {k j : Nat} (hj : j < 8) : s.restores (s.restoreSlot k j) k j := by
  unfold State.restoreSlot State.askLead
  dsimp only
  split
  case isTrue early =>
    exact ((slotTaken_changeSlot s hj (fun _ => {})).setRankMap []).restores (by rw [Slot.restored, if_pos early])
  case isFalse late =>
    split
    case isTrue h3 => exact (rerunSlot_taken s hj).restores (by rw [Slot.restored, if_neg late, if_pos (.inl h3)])
    case isFalse h3 =>
      split
      case isTrue h4 =>
        split
        case isTrue leads => exact (rerunSlot_taken s hj).restores (by rw [Slot.restored, if_neg late, if_pos (.inr ⟨h4, leads⟩)])
        case isFalse away =>
          have sent := control_onlyForwards s k (s.slot k j).tag (s.leadOf (s.slot k j)) 0x0D (leBytes 8 (s.slot k j).sequence.toNat)
          have same (i n : Nat) : (s.control k (s.slot k j).tag (s.leadOf (s.slot k j)) 0x0D
              (leBytes 8 (s.slot k j).sequence.toNat)).slot i n = s.slot i n := by rw [State.slot, sent.slots, State.slot]
          refine ⟨(same k j).trans ?_, fun i n _ _ => same i n, sent.mem, sent.lcores, sent.jobs⟩
          rw [Slot.restored, if_neg late, if_neg (by simp [h3, away])]
      case isFalse h4 =>
        exact ⟨by rw [Slot.restored, if_neg late, if_neg (by simp [h3, h4])], fun _ _ _ _ => rfl, rfl, rfl, rfl⟩

/-- The first n slots of context k are restored, and nothing else that a function-level reset keeps has changed. -/
structure State.restoresTo (s t : State) (k n : Nat) : Prop where
  slots : ∀ j, j < n → t.slot k j = (s.slot k j).restored
  others : ∀ i j, j < 8 → (i ≠ k ∨ n ≤ j) → t.slot i j = s.slot i j
  mem : t.mem = s.mem
  lcores : t.lcores = s.lcores
  jobs : t.jobs = s.jobs

theorem restoreFirst (s : State) (k : Nat) {n : Nat} (hn : n ≤ 8) :
    s.restoresTo ((upto n).foldl (fun (t : State) j => t.restoreSlot k j) s) k n := by
  induction n with
  | zero => exact ⟨fun j hj => absurd hj (by omega), fun _ _ _ _ => rfl, rfl, rfl, rfl⟩
  | succ n ih =>
    have before := ih (by omega)
    rw [upto, List.range_succ, List.foldl_append, ← upto]
    generalize (upto n).foldl (fun (t : State) j => t.restoreSlot k j) s = t at before
    have now := restoreSlot_restores t (k := k) (show n < 8 by omega)
    refine ⟨fun j hj => ?_, fun i j hj apart => ?_, now.mem.trans before.mem, now.lcores.trans before.lcores, now.jobs.trans before.jobs⟩
    · obtain rfl | less : j = n ∨ j < n := by omega
      · exact now.slot.trans (by rw [before.others k j (by omega) (.inr (by omega))])
      · exact (now.others k j (by omega) (.inr (by omega))).trans (before.slots j less)
    · exact (now.others i j hj (by omega)).trans (before.others i j hj (by omega))

theorem functionLevelReset_restores {k : Nat} (hk : k < 16) (hj : s.job k = none) :
    ∃ t, exec (.functionLevelReset k) s = .next t ∧ s.restoresTo t k 8 := by
  have idle : s.resetJob k = s := by simp only [State.resetJob, hj]
  have run : exec (.functionLevelReset k) s = .next ((upto 8).foldl (fun (t : State) j => t.restoreSlot k j) ((s.resetJob k).dropFetched k)) :=
    onUnit_context hk _
  have done := restoreFirst (s.dropFetched k) k (show 8 ≤ 8 by decide)
  rw [idle] at run
  exact ⟨_, run, done.slots, done.others, done.mem, done.lcores, done.jobs⟩

/-- Settles O53, one lemma for each event of start-up and of the host interface. -/
theorem startUpAndHostInterface : Obligations.StartUpAndHostInterface := by
  refine ⟨fun s f starting => ?_, fun s unit n => stepTimeout_settles unit n, fun s n => startupRetry_begins,
    fun s m => leaveManagementOnly_settles, fun s => ⟨fun hd ha none => ?_, fun hd ha => ⟨_, exec_perstNAssert_up hd ha, rfl, rfl, rfl⟩,
      exec_perstNAssert_down, fun hc => ?_, perstNDeassert_trains, pcieLinkDown_records⟩,
    fun s fn => powerStateChange_settles, fun s k hk hj => ?_⟩
  · obtain ⟨begins, refuses⟩ := startUp_settles f starting
    refine ⟨begins, fun n step h0 may good => ⟨?_, fun h10 => finishStep_early s f h10, ?_⟩, fun n step h0 may => ?_, refuses⟩
    · rw [exec_startUp starting, goOn_finishes f step h0 may good]
    · rintro rfl
      exact finishStep_ready s f
    · rw [exec_startUp starting, goOn_waits f step h0 may]
  · refine ⟨_, exec_perstNAssert_up hd ha, ?_⟩
    rw [failHostAsks_none (s := s.perst true) none]
    exact ⟨rfl, rfl, ⟨rfl, rfl, rfl, rfl, rfl, rfl, rfl⟩, rfl⟩
  · show execPerstNDeassert s = _
    simp only [execPerstNDeassert, hc]
    rfl
  · obtain ⟨t, run, done⟩ := functionLevelReset_restores hk hj
    refine ⟨t, run, done.mem, done.lcores, done.jobs, fun i j _ hj8 other => done.others i j hj8 (.inl other), fun j hj8 => ?_⟩
    rw [done.slots j hj8]
    refine ⟨fun early => if_pos early, fun ended => ?_, fun again => ?_⟩
    · rw [Slot.restored, if_neg (by omega), if_neg (by omega)]
    · rw [Slot.restored, if_neg (by omega), if_pos again]
      rfl

end Sys2Proof.Machine
end

section
/-! PROOFS. Firmware updates and attestation reports (R594 to R621). -/

namespace Sys2Proof.Machine

variable {s t u : State} {m : Nat}

/-! ## Commands of the firmware object (R542, R602) -/

theorem State.obeyed.firmware {op idx sub : Nat} (h : u.obeyed t m op idx sub) : t.firmware = u.firmware := by rw [h.1]

theorem State.obeyed.entered {op idx sub kind effect : Nat} {unit : Word} {d0 d1 : DWord} (h : u.obeyed t m op idx sub)
    (e : s.entered u kind effect unit d0 d1) : s.entered t kind effect unit d0 d1 := by
  rw [State.entered, h.errors]
  exact e

theorem State.obeyed.alarmed {op idx sub a b i : Nat} (h : u.obeyed t m op idx sub) (r : u.alarmed a b i) : t.alarmed a b i := by
  rw [State.alarmed, reg_congr h.dict]
  exact r

theorem State.records.firmware (h : s.records t) : t.firmware = s.firmware := by
  have kept : State.raises { s with errors := t.errors } t := h
  rw [kept]

theorem State.passes.firmware (h : s.passes t) : t.firmware = s.firmware := by rw [h]

/-- The state with another firmware update. -/
def State.withFirmware (s : State) (f : Firmware) : State := { s with firmware := f }

theorem withFirmware_sameWork (s : State) (f : Firmware) : s.sameWork (s.withFirmware f) := ⟨rfl, rfl, rfl, rfl, rfl, rfl, rfl⟩

/-! ## Images (R594) -/

@[simp] theorem image_setImage_same (f : Firmware) (b : Bool) (bs : List Byte) : (f.setImage b bs).image b = bs := by cases b <;> rfl

@[simp] theorem image_setImage_not (f : Firmware) (b : Bool) (bs : List Byte) : (f.setImage (!b) bs).image b = f.image b := by cases b <;> rfl

theorem imageRefused_entered (s : State) (result version : Nat) (b : Bool) : s.entered (s.imageRefused result version b) 0x0200 0 mgmt
    (BitVec.ofNat 64 version) (BitVec.ofNat 64 (slotNumber b)) := by
  rw [State.entered, State.imageRefused, alarm_errors]
  exact addError_entered ..

/-- An image is refused and its update is now g: what a state that obeys this has. -/
theorem obeyed_imageRefused {op idx sub result version : Nat} {g : Firmware} {b : Bool}
    (ob : ((s.withFirmware g).imageRefused result version b).obeyed t m op idx sub) :
    t.firmware = g ∧ t.alarmed 0x3000 9 0 ∧ s.sameWork t ∧
      s.entered t 0x0200 0 mgmt (BitVec.ofNat 64 version) (BitVec.ofNat 64 (slotNumber b)) :=
  have noted := imageRefused_records (s.withFirmware g) result version b
  ⟨ob.firmware.trans noted.firmware, ob.alarmed (imageRefused_alarmed ..), ob.sameWork noted.sameWork,
    ob.entered ((imageRefused_entered ..).of_errors (s := s) rfl)⟩

/-! ## Staging (R599 to R602) -/

theorem stagingOf_cases {f : Firmware} (h : f.stagingOf m ≠ 0) :
    (f.staging = none ∧ f.stagingOf m = 5) ∨ ∃ n bs, f.staging = some (n, bs) ∧ n ≠ m ∧ f.stagingOf m = 8 := by
  unfold Firmware.stagingOf at h ⊢
  cases hs : f.staging with
  | none => exact .inl ⟨rfl, rfl⟩
  | some q =>
    obtain ⟨n, bs⟩ := q
    rw [hs] at h
    have other : n ≠ m := fun own => h (if_pos own)
    exact .inr ⟨n, bs, rfl, other, if_neg other⟩

/-- What a word does to the bytes staged so far. -/
theorem firmwareDataRule_staged {bs : List Byte} (hs : s.firmware.staging = some (m, bs)) (v : Word) : firmwareDataRule m v s =
    if bs.length < 508 then (s.withFirmware { s.firmware with staging := some (m, bs ++ leBytes 4 v.toNat) }, 0)
    else if bs.length < 512 then (s.headerArrived m (bs ++ leBytes 4 v.toNat), 0)
    else if imageLength bs ≤ bs.length then (s, 5)
    else (s.withFirmware { s.firmware with staging := some (m, (bs ++ leBytes 4 v.toNat).take (imageLength bs)) }, 0) := by
  simp only [firmwareDataRule, hs, ne_eq, not_true_eq_false, if_false]
  rfl

/-- The update with nothing staged and image bs in the slot that does not boot. -/
def Firmware.taking (f : Firmware) (bs : List Byte) : Firmware := { f with staging := none, before := 0 }.setImage (!f.boot) bs

theorem taking_staging (f : Firmware) (bs : List Byte) : (f.taking bs).staging = none := by
  unfold Firmware.taking Firmware.setImage
  split <;> rfl

theorem taking_image (f : Firmware) (bs : List Byte) :
    (f.taking bs).image (!f.boot) = bs ∧ (f.taking bs).image f.boot = f.image f.boot :=
  ⟨image_setImage_same .., image_setImage_not ..⟩

section commands

variable (hm : m ≤ 1) (ha : s.power.alive = true)

include hm ha

/-- A command of 0x3000 whose rule is taken. -/
theorem firmware_obeyed {f : Rule} {i : Instr} {v : Word} (run : exec i s = onUnit (masterOk m) (s.command m 0x3000 2 v true f))
    (rule : f s = (u, 0)) : ∃ t, exec i s = .next t ∧ u.obeyed t m 3 0x3000 2 :=
  ⟨_, run.trans (onUnit_masterOk (by omega) _), command_obeyed (hears_always hm ha rfl) rule⟩

/-- A command of 0x3000 that its rule refuses. -/
theorem firmware_declined {f : Rule} {i : Instr} {v : Word} {r : Nat}
    (run : exec i s = onUnit (masterOk m) (s.command m 0x3000 2 v true f)) (rule : f s = (s, r)) :
    ∃ t, exec i s = .next t ∧ s.declined t m 3 0x3000 2 r :=
  ⟨_, run.trans (onUnit_masterOk (by omega) _), command_declined (hears_always hm ha rfl) rule⟩

theorem firmwareData_obeyed {v : Word} (rule : firmwareDataRule m v s = (u, 0)) :
    ∃ t, exec (.firmwareData m v) s = .next t ∧ u.obeyed t m 3 0x3001 1 :=
  ⟨_, onUnit_masterOk (by omega) _, command_obeyed (hears_always hm ha rfl) rule⟩

theorem firmwareData_declined {v : Word} {r : Nat} (rule : firmwareDataRule m v s = (s, r)) :
    ∃ t, exec (.firmwareData m v) s = .next t ∧ s.declined t m 3 0x3001 1 r :=
  ⟨_, onUnit_masterOk (by omega) _, command_declined (hears_always hm ha rfl) rule⟩

theorem firmwareBegin_settles :
    (s.firmware.state < 3 → s.firmware.stagingOf m ≠ 8 → ∃ t, exec (.firmwareBegin m) s = .next t ∧
      t.firmware = { s.firmware with
        staging := some (m, [])
        state := 1
        check := 0
        before := if s.firmware.state = 1 then s.firmware.before else s.firmware.state } ∧
      { s with firmware := t.firmware }.obeyed t m 3 0x3000 2) ∧
    (3 ≤ s.firmware.state → ∃ t, exec (.firmwareBegin m) s = .next t ∧ s.declined t m 3 0x3000 2 5) ∧
    (s.firmware.state < 3 → s.firmware.stagingOf m = 8 → ∃ t, exec (.firmwareBegin m) s = .next t ∧ s.declined t m 3 0x3000 2 8) := by
  refine ⟨fun early free => ?_, fun late => firmware_declined hm ha rfl (if_pos late), fun early other => firmware_declined hm ha rfl ?_⟩
  · obtain ⟨t, run, ob⟩ := firmware_obeyed (i := .firmwareBegin m) hm ha rfl
      ((if_neg (by omega)).trans (if_neg free) : firmwareBeginRule m s = _)
    exact ⟨t, run, ob.firmware, by rw [ob.firmware]; exact ob⟩
  · exact (if_neg (by omega)).trans (if_pos other)

/-- Without the staging, or with that of another master, nothing is fed, checked or aborted. -/
theorem unstaged_declined (h : s.firmware.stagingOf m ≠ 0) :
    (∃ t, exec (.firmwareCheck m) s = .next t ∧ s.declined t m 3 0x3000 2 (s.firmware.stagingOf m)) ∧
    (∃ t, exec (.firmwareAbort m) s = .next t ∧ s.declined t m 3 0x3000 2 (s.firmware.stagingOf m)) ∧
    ∀ v, ∃ t, exec (.firmwareData m v) s = .next t ∧ s.declined t m 3 0x3001 1 (s.firmware.stagingOf m) := by
  have rules : firmwareCheckRule m s = (s, s.firmware.stagingOf m) ∧ firmwareAbortRule m s = (s, s.firmware.stagingOf m) ∧
      ∀ v, firmwareDataRule m v s = (s, s.firmware.stagingOf m) := by
    obtain ⟨hs, code⟩ | ⟨n, bs, hs, other, code⟩ := stagingOf_cases h <;> rw [code]
    · simp only [firmwareCheckRule, firmwareAbortRule, firmwareDataRule, hs, implies_true, and_self]
    · simp only [firmwareCheckRule, firmwareAbortRule, firmwareDataRule, hs, ne_eq, other, not_false_eq_true, if_true, implies_true, and_self]
  obtain ⟨check, abort, data⟩ := rules
  exact ⟨firmware_declined hm ha rfl check, firmware_declined hm ha rfl abort, fun v => firmwareData_declined hm ha (data v)⟩

section staged

variable {bs : List Byte} (hs : s.firmware.staging = some (m, bs))

include hs

theorem firmwareData_extends (v : Word) (short : bs.length < 508) : ∃ t, exec (.firmwareData m v) s = .next t ∧
    { s with firmware := { s.firmware with staging := some (m, bs ++ leBytes 4 v.toNat) } }.obeyed t m 3 0x3001 1 :=
  firmwareData_obeyed hm ha ((firmwareDataRule_staged hs v).trans (if_pos short))

theorem firmwareData_full (v : Word) (long : 512 ≤ bs.length) (full : imageLength bs ≤ bs.length) :
    ∃ t, exec (.firmwareData m v) s = .next t ∧ s.declined t m 3 0x3001 1 5 :=
  firmwareData_declined hm ha (by rw [firmwareDataRule_staged hs, if_neg (by omega), if_neg (by omega), if_pos full])

theorem firmwareData_body (v : Word) (long : 512 ≤ bs.length) (more : bs.length < imageLength bs) :
    ∃ t, exec (.firmwareData m v) s = .next t ∧ { s with firmware := { s.firmware with
      staging := some (m, (bs ++ leBytes 4 v.toNat).take (imageLength bs)) } }.obeyed t m 3 0x3001 1 :=
  firmwareData_obeyed hm ha (by
    rw [firmwareDataRule_staged hs, if_neg (by omega), if_neg (by omega), if_neg (by omega)]
    rfl)

/-- The 512th byte has the header checked. -/
theorem firmwareData_header (v : Word) (low : 508 ≤ bs.length) (high : bs.length < 512) :
    ∃ t, exec (.firmwareData m v) s = .next t ∧ (s.headerArrived m (bs ++ leBytes 4 v.toNat)).obeyed t m 3 0x3001 1 :=
  firmwareData_obeyed hm ha (by rw [firmwareDataRule_staged hs, if_neg (by omega), if_pos high])

theorem firmwareData_goodHeader (v : Word) (low : 508 ≤ bs.length) (high : bs.length < 512)
    (good : s.headerCheck (bs ++ leBytes 4 v.toNat) = 1) : ∃ t, exec (.firmwareData m v) s = .next t ∧ t.firmware.check = 1 ∧
      t.firmware.staging = some (m, bs ++ leBytes 4 v.toNat) ∧ t.firmware.image (!s.firmware.boot) = [] ∧
      t.firmware.image s.firmware.boot = s.firmware.image s.firmware.boot ∧ s.sameWork t := by
  obtain ⟨t, run, ob⟩ := firmwareData_header hm ha hs v low high
  rw [State.headerArrived, if_pos good] at ob
  refine ⟨t, run, ?_⟩
  rw [ob.firmware]
  exact ⟨rfl, rfl, image_setImage_same .., image_setImage_not .., ob.sameWork (withFirmware_sameWork s _)⟩

theorem firmwareData_badHeader (v : Word) (low : 508 ≤ bs.length) (high : bs.length < 512) (r : Nat)
    (result : s.headerCheck (bs ++ leBytes 4 v.toNat) = r) (bad : r ≠ 1) : ∃ t, exec (.firmwareData m v) s = .next t ∧
      t.firmware = { s.firmware with
        staging := none
        state := s.firmware.before
        check := r } ∧ t.alarmed 0x3000 9 0 ∧ s.sameWork t ∧
      s.entered t 0x0200 0 mgmt (BitVec.ofNat 64 (imageVersion (bs ++ leBytes 4 v.toNat))) (BitVec.ofNat 64 (slotNumber (!s.firmware.boot))) := by
  obtain ⟨t, run, ob⟩ := firmwareData_header hm ha hs v low high
  rw [State.headerArrived, result, if_neg bad] at ob
  exact ⟨t, run, obeyed_imageRefused ob⟩

theorem firmwareCheck_passes (long : 512 ≤ bs.length) (good : bodyGood bs = true) :
    ∃ t, exec (.firmwareCheck m) s = .next t ∧ t.firmware.state = 2 ∧ t.firmware.check = 2 ∧
      t.firmware.staging = none ∧ t.firmware.image (!s.firmware.boot) = bs ∧ s.sameWork t ∧ t.errors = s.errors := by
  have rule : firmwareCheckRule m s = (s.withFirmware { s.firmware.taking bs with
      state := 2, check := 2 }, 0) := by
    simp only [firmwareCheckRule, hs, ne_eq, not_true_eq_false, if_false, long, good, decide_true, Bool.and_self, if_true]
    rfl
  obtain ⟨t, run, ob⟩ := firmware_obeyed (i := .firmwareCheck m) hm ha rfl rule
  refine ⟨t, run, ?_⟩
  rw [ob.firmware]
  exact ⟨rfl, rfl, taking_staging .., (taking_image ..).1, ob.sameWork (withFirmware_sameWork s _), ob.errors⟩

theorem firmwareCheck_fails (h : bs.length < 512 ∨ bodyGood bs = false) : ∃ t, exec (.firmwareCheck m) s = .next t ∧ t.firmware.state = 0 ∧
    t.firmware.check = 8 ∧ t.firmware.image (!s.firmware.boot) = [] ∧ s.sameWork t ∧ t.alarmed 0x3000 9 0 ∧
    s.entered t 0x0200 0 mgmt (BitVec.ofNat 64 (imageVersion bs)) (BitVec.ofNat 64 (slotNumber (!s.firmware.boot))) := by
  have bad : ¬ ((512 ≤ bs.length && bodyGood bs) = true) := by
    obtain short | body := h
    · simp [show ¬ 512 ≤ bs.length by omega]
    · simp [body]
  have rule : firmwareCheckRule m s =
      ((s.withFirmware { s.firmware.taking [] with
        state := 0, check := 8 }).imageRefused 8 (imageVersion bs) (!s.firmware.boot), 0) := by
    simp only [firmwareCheckRule, hs, ne_eq, not_true_eq_false, if_false]
    rw [if_neg bad]
    rfl
  obtain ⟨t, run, ob⟩ := firmware_obeyed (i := .firmwareCheck m) hm ha rfl rule
  obtain ⟨firmware, alarm, work, record⟩ := obeyed_imageRefused ob
  refine ⟨t, run, ?_⟩
  rw [firmware]
  exact ⟨rfl, rfl, (taking_image ..).1, work, alarm, record⟩

theorem firmwareAbort_empties : ∃ t, exec (.firmwareAbort m) s = .next t ∧ t.firmware.state = 0 ∧ t.firmware.staging = none ∧
    t.firmware.image (!s.firmware.boot) = [] ∧ t.firmware.image s.firmware.boot = s.firmware.image s.firmware.boot ∧ s.sameWork t ∧
    t.errors = s.errors := by
  have rule : firmwareAbortRule m s = (s.withFirmware { s.firmware.taking [] with
      state := 0 }, 0) := by
    simp only [firmwareAbortRule, hs, ne_eq, not_true_eq_false, if_false]
    rfl
  obtain ⟨t, run, ob⟩ := firmware_obeyed (i := .firmwareAbort m) hm ha rfl rule
  refine ⟨t, run, ?_⟩
  rw [ob.firmware]
  obtain ⟨other, boot⟩ := taking_image s.firmware []
  exact ⟨rfl, taking_staging .., other, boot, ob.sameWork (withFirmware_sameWork s _), ob.errors⟩

end staged

/-! ## Activation, confirmation and fall-back (R603, R610 to R613) -/

theorem activate_moves (h2 : s.firmware.state = 2) (runs : s.power.phase ≠ 2)
    (older : field (s.firmware.image (!s.firmware.boot)) 0x068 8 ≤ s.firmware.version) :
    ∃ t, exec (.activate m) s = .next t ∧ t.firmware.state = 3 ∧ t.firmware.pairs = 0 ∧ t.firmware.switches = 0 ∧
      t.firmware.since = some s.clock.tick ∧ t.firmware.boot = s.firmware.boot ∧ s.sameWork t ∧ t.errors = s.errors := by
  have rule : activateRule s = (s.startMove 3 0, 0) := by simp [activateRule, h2, runs, older, orRefuse]
  obtain ⟨t, run, ob⟩ := firmware_obeyed (i := .activate m) hm ha rfl rule
  refine ⟨t, run, ?_⟩
  rw [ob.firmware]
  exact ⟨rfl, rfl, rfl, rfl, rfl, ob.sameWork (withFirmware_sameWork s _), ob.errors⟩

/-- Where no control core runs, the staged image is in its trial at once. -/
theorem activate_idle (h2 : s.firmware.state = 2) (idle : s.power.phase = 2) : ∃ t, exec (.activate m) s = .next t ∧ t.firmware.state = 4 ∧
    t.firmware.boot = !s.firmware.boot ∧ s.sameWork t := by
  have rule : activateRule s = (s.withFirmware { s.firmware with
      boot := !s.firmware.boot, state := 4, twice := true, trialSince := some s.clock.tick }, 0) := by
    simp only [activateRule, h2, idle, ne_eq, not_true_eq_false, if_false, if_true]
    rfl
  obtain ⟨t, run, ob⟩ := firmware_obeyed (i := .activate m) hm ha rfl rule
  refine ⟨t, run, ?_⟩
  rw [ob.firmware]
  exact ⟨rfl, rfl, ob.sameWork (withFirmware_sameWork s _)⟩

theorem activate_refused (h : s.firmware.state ≠ 2 ∨
      (s.power.phase ≠ 2 ∧ s.firmware.version < field (s.firmware.image (!s.firmware.boot)) 0x068 8)) :
    ∃ t, exec (.activate m) s = .next t ∧ s.declined t m 3 0x3000 2 5 := by
  refine firmware_declined hm ha rfl ?_
  show activateRule s = (s, 5)
  by_cases h2 : s.firmware.state = 2
  · obtain ⟨runs, newer⟩ := h.resolve_left (fun other => other h2)
    simp [activateRule, h2, runs, orRefuse, newer]
  · simp [activateRule, h2]

/-- The update once its trial is confirmed. -/
def Firmware.confirmed (f : Firmware) : Firmware :=
  { f with
    state := 0, twice := false, trialSince := none, pairs := 0, security := max f.security (imageSecurity (f.image f.boot))
    revoked := f.revoked ||| BitVec.ofNat 8 (2 ^ min 8 (field (f.image f.boot) 0x01E 2) - 1) }

theorem confirm_ends (h4 : s.firmware.state = 4) : ∃ t, exec (.confirm m) s = .next t ∧ t.firmware.state = 0 ∧
    t.firmware.boot = s.firmware.boot ∧ t.firmware.security = max s.firmware.security (imageSecurity (s.firmware.image s.firmware.boot)) ∧
    t.firmware.revoked = (s.firmware.revoked ||| BitVec.ofNat 8 (2 ^ min 8 (field (s.firmware.image s.firmware.boot) 0x01E 2) - 1)) ∧
    s.entered t 0x0203 0 mgmt (BitVec.ofNat 64 (imageVersion (s.firmware.image s.firmware.boot))) (BitVec.ofNat 64 t.firmware.security) ∧
    s.sameWork t := by
  have rule : confirmRule s = ((s.withFirmware s.firmware.confirmed).addError 0x0203 0 mgmt noJob 0 noStep
      (BitVec.ofNat 64 (imageVersion (s.firmware.image s.firmware.boot))) (BitVec.ofNat 64 s.firmware.confirmed.security), 0) := by
    simp only [confirmRule, h4, ne_eq, not_true_eq_false, if_false]
    rfl
  obtain ⟨t, run, ob⟩ := firmware_obeyed (i := .confirm m) hm ha rfl rule
  have noted := addError_records (s.withFirmware s.firmware.confirmed) 0x0203 0 mgmt noJob 0 noStep
      (BitVec.ofNat 64 (imageVersion (s.firmware.image s.firmware.boot))) (BitVec.ofNat 64 s.firmware.confirmed.security)
  refine ⟨t, run, ?_⟩
  rw [ob.firmware, noted.firmware]
  exact ⟨rfl, rfl, rfl, rfl, ob.entered ((addError_entered ..).of_errors (s := s) rfl), ob.sameWork noted.sameWork⟩

theorem confirm_refused (h4 : s.firmware.state ≠ 4) : ∃ t, exec (.confirm m) s = .next t ∧ s.declined t m 3 0x3000 2 5 :=
  firmware_declined hm ha rfl (if_pos h4 : confirmRule s = (s, 5))

end commands

/-- A move whose parts all run the other image: the update. -/
def Firmware.turned (f : Firmware) : Firmware := { f with boot := !f.boot, running := !f.boot, since := none }

theorem movedAll_trial (h3 : s.firmware.state = 3) :
    s.movedAll = s.withFirmware { s.firmware.turned with state := 4, trialSince := some s.clock.tick } := if_pos h3

/-- The update once its fall-back is complete. -/
def Firmware.fallenBack (f : Firmware) : Firmware := { f.turned with state := 0, pairs := 0, twice := false, trialSince := none }

theorem movedAll_back (h3 : s.firmware.state ≠ 3) : s.movedAll =
    ((s.withFirmware s.firmware.fallenBack).addError 0x0202 0 mgmt noJob s.firmware.backCause noStep
      (BitVec.ofNat 64 (imageVersion (s.firmware.image s.firmware.boot)))
      (BitVec.ofNat 64 (imageVersion (s.firmware.image (!s.firmware.boot))))).alarm 0x3000 0x09 2 := if_neg h3

/-- What the end of a fall-back leaves. -/
structure State.backTo (s t : State) : Prop where
  firmware : t.firmware = s.firmware.fallenBack
  records : (s.withFirmware s.firmware.fallenBack).records t
  alarmed : t.alarmed 0x3000 9 2
  entered : s.entered t 0x0202 0 mgmt (BitVec.ofNat 64 (imageVersion (s.firmware.image s.firmware.boot)))
    (BitVec.ofNat 64 (imageVersion (s.firmware.image (!s.firmware.boot))))

theorem movedAll_backTo (h3 : s.firmware.state ≠ 3) : s.backTo s.movedAll := by
  rw [movedAll_back h3]
  have noted := (addError_records (s.withFirmware s.firmware.fallenBack) 0x0202 0 mgmt noJob s.firmware.backCause noStep
    (BitVec.ofNat 64 (imageVersion (s.firmware.image s.firmware.boot)))
    (BitVec.ofNat 64 (imageVersion (s.firmware.image (!s.firmware.boot))))).trans (alarm_records _ 0x3000 0x09 2)
  refine ⟨noted.firmware, noted, alarmed_alarm _ _ _ (by decide), ?_⟩
  rw [State.entered, alarm_errors]
  exact (addError_entered ..).of_errors (s := s) rfl

theorem fallBackFor_moves (cause : Nat) (runs : s.power.phase ≠ 2) : s.fallBackFor cause = s.startMove 5 cause := if_neg runs

section fallBack

variable (hm : m ≤ 1) (ha : s.power.alive = true)

include hm ha

theorem fallBack_moves (h4 : s.firmware.state = 4) (runs : s.power.phase ≠ 2) : ∃ t, exec (.fallBack m) s = .next t ∧ t.firmware.state = 5 ∧
    t.firmware.backCause = 1 ∧ t.firmware.pairs = 0 ∧ t.firmware.boot = s.firmware.boot ∧ t.errors = s.errors ∧ s.sameWork t := by
  have rule : fallBackRule s = (s.startMove 5 1, 0) := by simp [fallBackRule, orRefuse, h4, fallBackFor_moves 1 runs]
  obtain ⟨t, run, ob⟩ := firmware_obeyed (i := .fallBack m) hm ha rfl rule
  refine ⟨t, run, ?_⟩
  rw [ob.firmware]
  exact ⟨rfl, rfl, rfl, rfl, ob.errors, ob.sameWork (withFirmware_sameWork s _)⟩

/-- Where no control core runs, the fall-back is complete at once. -/
theorem fallBack_idle (h4 : s.firmware.state = 4) (idle : s.power.phase = 2) : ∃ t, exec (.fallBack m) s = .next t ∧ t.firmware.state = 0 ∧
    t.firmware.boot = !s.firmware.boot ∧ s.sameWork t ∧ t.alarmed 0x3000 9 2 := by
  have rule : fallBackRule s = ((s.startMove 5 1).movedAll, 0) := by simp [fallBackRule, orRefuse, h4, State.fallBackFor, idle]
  obtain ⟨t, run, ob⟩ := firmware_obeyed (i := .fallBack m) hm ha rfl rule
  have back := movedAll_backTo (s := s.startMove 5 1) (by show 5 ≠ 3; decide)
  refine ⟨t, run, ?_⟩
  rw [ob.firmware, back.firmware]
  exact ⟨rfl, rfl, ob.sameWork back.records.sameWork, ob.alarmed back.alarmed⟩

theorem fallBack_refused (h4 : s.firmware.state ≠ 4) : ∃ t, exec (.fallBack m) s = .next t ∧ s.declined t m 3 0x3000 2 5 :=
  firmware_declined hm ha rfl (show fallBackRule s = (s, 5) by simp [fallBackRule, orRefuse, h4])

end fallBack

/-! ## The hand-over (R604 to R609) -/

/-- Changing numbers changes no more than the roles. -/
theorem swapRole_eq (f : Firmware) (n : Nat) : f.swapRole n = { f with roles := (f.swapRole n).roles } := by
  unfold Firmware.swapRole
  split <;> rfl

/-- What a switch forward keeps. -/
structure Firmware.switchesTo (f g : Firmware) : Prop where
  state : g.state = f.state
  boot : g.boot = f.boot
  since : g.since = f.since
  roles : g.roles = (f.swapRole (pairFirst f.pairs + f.switches)).roles
  first : f.switches = 0 → g.switches = 1 ∧ g.pairs = f.pairs
  second : f.switches ≠ 0 → f.again = false → g.switches = 0 ∧ g.pairs = f.pairs + 1

theorem switch_switchesTo (f : Firmware) : f.switchesTo f.switch := by
  have same := swapRole_eq f (pairFirst f.pairs + f.switches)
  unfold Firmware.switch
  dsimp only
  generalize hg : f.swapRole (pairFirst f.pairs + f.switches) = g at same ⊢
  split
  case isTrue first => exact ⟨by rw [same], by rw [same], by rw [same], by rw [hg], fun _ => ⟨rfl, by rw [same]⟩, fun h => absurd first h⟩
  case isFalse later =>
    split
    case isTrue again => exact ⟨by rw [same], by rw [same], by rw [same], by rw [hg], fun h => absurd h later, fun _ h => by simp [again] at h⟩
    case isFalse on => exact ⟨by rw [same], by rw [same], by rw [same], by rw [hg], fun h => absurd h later, fun _ _ => ⟨rfl, rfl⟩⟩

/-- The update of a hand-over that goes back from tick n. -/
def Firmware.reversed (f : Firmware) (n : DWord) : Firmware := { f with reversing := true, since := some n }.settle

theorem reversed_goes (f : Firmware) (n : DWord) (h : f.pairs ≠ 0 ∨ f.switches ≠ 0) :
    (f.reversed n).reversing = true ∧ (f.reversed n).state = f.state := by
  have part : ¬ ((true && decide (f.pairs = 0) && decide (f.switches = 0)) = true) := by simp; omega
  rw [Firmware.reversed, Firmware.settle, if_neg part]
  exact ⟨rfl, rfl⟩

theorem reversed_ends (f : Firmware) (n : DWord) (hp : f.pairs = 0) (hs : f.switches = 0) :
    (f.reversed n).reversing = false ∧ (f.reversed n).state = if f.state = 3 then 2 else 4 := by
  have whole : (true && decide (f.pairs = 0) && decide (f.switches = 0)) = true := by simp [hp, hs]
  rw [Firmware.reversed, Firmware.settle, if_pos whole]
  dsimp only
  split <;> exact ⟨rfl, rfl⟩

/-- What a hand-over that is late leaves. -/
def State.lateMove (s : State) : State :=
  ((s.withFirmware (s.firmware.reversed s.clock.tick)).addError 0x0201 0 mgmt noJob s.firmware.pairs noStep
    (BitVec.ofNat 64 (imageVersion (s.firmware.image (!s.firmware.boot)))) (BitVec.ofNat 64 s.firmware.version)).alarm 0x3000 0x09 1

theorem lateMove_records (s : State) : (s.withFirmware (s.firmware.reversed s.clock.tick)).records s.lateMove :=
  (addError_records ..).trans (alarm_records ..)

theorem lateMove_entered (s : State) : s.entered s.lateMove 0x0201 0 mgmt (BitVec.ofNat 64 (imageVersion (s.firmware.image (!s.firmware.boot))))
    (BitVec.ofNat 64 s.firmware.version) := by
  rw [State.entered, State.lateMove, alarm_errors]
  exact (addError_entered ..).of_errors (s := s) rfl

/-- What is seen of a late hand-over once time has led to its limit. -/
theorem lateMove_after (time : s.passes u) : u.lateMove.clock = u.clock ∧ u.lateMove.mem = s.mem ∧ u.lateMove.lcores = s.lcores ∧
    u.lateMove.alarmed 0x3000 9 1 ∧
    s.entered u.lateMove 0x0201 0 mgmt (BitVec.ofNat 64 (imageVersion (s.firmware.image (!s.firmware.boot))))
      (BitVec.ofNat 64 s.firmware.version) ∧
    ((s.firmware.pairs ≠ 0 ∨ s.firmware.switches ≠ 0) → u.lateMove.firmware.reversing = true ∧
      u.lateMove.firmware.state = s.firmware.state) ∧
    (s.firmware.pairs = 0 → s.firmware.switches = 0 → u.lateMove.firmware.reversing = false ∧
      u.lateMove.firmware.state = (if s.firmware.state = 3 then 2 else 4)) := by
  have noted := lateMove_records u
  have record := (lateMove_entered u).of_errors time.errors
  have firmware : u.lateMove.firmware = u.firmware.reversed u.clock.tick := noted.firmware
  rw [firmware, ← time.firmware]
  exact ⟨noted.clock, noted.mem.trans time.mem, noted.lcores.trans time.lcores, alarmed_alarm _ _ _ (by decide), record,
    reversed_goes _ _, reversed_ends _ _⟩

section moving

variable (control : s.power.control = true) (moving : s.firmware.moving = true) (forward : s.firmware.reversing = false)

include control moving forward

theorem exec_handoverSwitch (more : s.firmware.pairs < 4) : exec .handoverSwitch s =
    .next (s.windowEnd.withFirmware { s.firmware with since := some s.windowEnd.clock.tick }.switch) := by
  have same : s.windowEnd.firmware = s.firmware := (until_passes ..).firmware
  show execHandoverSwitch s = _
  unfold execHandoverSwitch
  dsimp only
  generalize s.windowEnd = w at same ⊢
  simp only [control, moving, same, forward, more, Bool.and_self, Bool.not_true, Bool.false_eq_true, if_false, if_true]
  rfl

theorem handoverSwitch_switches (more : s.firmware.pairs < 4) : ∃ t, exec .handoverSwitch s = .next t ∧ t.clock = s.windowEnd.clock ∧
    t.mem = s.mem ∧ t.lcores = s.lcores ∧ t.firmware.state = s.firmware.state ∧ t.firmware.boot = s.firmware.boot ∧
    t.firmware.since = some t.clock.tick ∧ t.firmware.roles = (s.firmware.swapRole (pairFirst s.firmware.pairs + s.firmware.switches)).roles ∧
    (s.firmware.switches = 0 → t.firmware.switches = 1 ∧ t.firmware.pairs = s.firmware.pairs) ∧
    (s.firmware.switches ≠ 0 → s.firmware.again = false → t.firmware.switches = 0 ∧ t.firmware.pairs = s.firmware.pairs + 1) := by
  rw [exec_handoverSwitch control moving forward more]
  have time : s.passes s.windowEnd := until_passes ..
  generalize s.windowEnd = w at time
  have switched := switch_switchesTo { s.firmware with since := some w.clock.tick }
  have roles : ({ s.firmware with since := some w.clock.tick }.swapRole (pairFirst s.firmware.pairs + s.firmware.switches)).roles =
      (s.firmware.swapRole (pairFirst s.firmware.pairs + s.firmware.switches)).roles := by
    unfold Firmware.swapRole
    split <;> rfl
  exact ⟨_, rfl, rfl, time.mem, time.lcores, switched.state, switched.boot, switched.since, switched.roles.trans roles, switched.first,
    switched.second⟩

theorem exec_managementSwitch (last : s.firmware.pairs = 4) : exec .managementSwitch s = .next s.nextEdge.movedAll := by
  show execManagementSwitch s = _
  simp [execManagementSwitch, control, moving, forward, last]

theorem managementSwitch_ends (last : s.firmware.pairs = 4) : ∃ t, exec .managementSwitch s = .next t ∧ t.firmware.boot = !s.firmware.boot ∧
    t.firmware.running = !s.firmware.boot ∧ t.clock = s.nextEdge.clock ∧ t.mem = s.mem ∧ t.lcores = s.lcores ∧
    (s.firmware.state = 3 → t.firmware.state = 4 ∧ t.firmware.trialSince = some t.clock.tick ∧ t.errors = s.errors) ∧
    (s.firmware.state = 5 → t.firmware.state = 0 ∧ t.alarmed 0x3000 9 2 ∧ s.entered t 0x0202 0 mgmt
      (BitVec.ofNat 64 (imageVersion (s.firmware.image s.firmware.boot)))
      (BitVec.ofNat 64 (imageVersion (s.firmware.image (!s.firmware.boot))))) := by
  rw [exec_managementSwitch control moving forward last]
  have time : s.passes s.nextEdge := until_passes ..
  generalize s.nextEdge = w at time
  rw [← time.firmware, ← time.mem, ← time.lcores, ← time.errors]
  refine ⟨_, rfl, ?_⟩
  by_cases h3 : w.firmware.state = 3
  · rw [movedAll_trial h3]
    exact ⟨rfl, rfl, rfl, rfl, rfl, fun _ => ⟨rfl, rfl, rfl⟩, fun h5 => absurd (h3.symm.trans h5) (by decide)⟩
  · have back := movedAll_backTo h3
    rw [back.firmware]
    exact ⟨rfl, rfl, back.records.clock, back.records.mem, back.records.lcores, fun h => absurd h h3,
      fun _ => ⟨rfl, back.alarmed, back.entered.of_errors time.errors⟩⟩

theorem exec_handoverTimeout {n : DWord} (hn : s.firmware.since = some n) :
    exec .handoverTimeout s = .next (s.until (n.toNat + 2500000)).lateMove := by
  show execHandoverTimeout s = _
  simp only [execHandoverTimeout, control, moving, forward, hn, Bool.and_self, Bool.not_false]
  generalize s.until (n.toNat + 2500000) = w
  rfl

theorem handoverTimeout_reverses (n : DWord) (hn : s.firmware.since = some n) : ∃ t, exec .handoverTimeout s = .next t ∧
    t.clock = (s.until (n.toNat + 2500000)).clock ∧ t.mem = s.mem ∧ t.lcores = s.lcores ∧ t.alarmed 0x3000 9 1 ∧
    s.entered t 0x0201 0 mgmt (BitVec.ofNat 64 (imageVersion (s.firmware.image (!s.firmware.boot)))) (BitVec.ofNat 64 s.firmware.version) ∧
    ((s.firmware.pairs ≠ 0 ∨ s.firmware.switches ≠ 0) → t.firmware.reversing = true ∧ t.firmware.state = s.firmware.state) ∧
    (s.firmware.pairs = 0 → s.firmware.switches = 0 → t.firmware.reversing = false ∧
      t.firmware.state = (if s.firmware.state = 3 then 2 else 4)) :=
  ⟨_, exec_handoverTimeout control moving forward hn, lateMove_after (until_passes ..)⟩

end moving

/-! ## The trial limit (R613) -/

theorem exec_trialLimitExpiry {n : DWord} (ha : s.power.alive = true) (h4 : s.firmware.state = 4) (limit : s.reg 0x3000 8 ≠ 0)
    (hn : s.firmware.trialSince = some n) :
    exec .trialLimitExpiry s = .next ((s.until (n.toNat + (s.reg 0x3000 8).toNat * 25000000)).fallBackFor 2) := by
  have positive : (s.reg 0x3000 8).toNat ≠ 0 := fun zero => limit (BitVec.eq_of_toNat_eq zero)
  show execTrialLimitExpiry s = _
  simp only [execTrialLimitExpiry, ha, h4, hn, ne_eq, positive, not_false_eq_true, decide_true, Bool.and_self]

/-- What is seen of a fall-back that begins once time has led to the trial limit. -/
theorem fallBackFor_after (time : s.passes u) (runs : s.power.phase ≠ 2) (cause : Nat) : (u.fallBackFor cause).firmware.state = 5 ∧
    (u.fallBackFor cause).firmware.backCause = cause ∧ (u.fallBackFor cause).clock = u.clock ∧ (u.fallBackFor cause).mem = s.mem ∧
    (u.fallBackFor cause).lcores = s.lcores := by
  rw [fallBackFor_moves cause (by rw [time.power]; exact runs)]
  exact ⟨rfl, rfl, rfl, time.mem, time.lcores⟩

theorem trialLimitExpiry_moves (n : DWord) (ha : s.power.alive = true) (h4 : s.firmware.state = 4) (limit : s.reg 0x3000 8 ≠ 0)
    (hn : s.firmware.trialSince = some n) (runs : s.power.phase ≠ 2) : ∃ t, exec .trialLimitExpiry s = .next t ∧ t.firmware.state = 5 ∧
      t.firmware.backCause = 2 ∧ t.clock = (s.until (n.toNat + (s.reg 0x3000 8).toNat * 25000000)).clock ∧ t.mem = s.mem ∧
      t.lcores = s.lcores :=
  ⟨_, exec_trialLimitExpiry ha h4 limit hn, fallBackFor_after (until_passes ..) runs 2⟩

/-! ## Attestation (R618, R619) -/

theorem hears_attestation (hm : m ≤ 16) (ha : s.power.alive = true) : s.hears m 0x3020 = true :=
  (hears_iff s m _).2 ⟨hm, by simp [reaches], by simp [State.serves, alwaysServed], ha⟩

theorem attestationCommand_settles (hm : m ≤ 16) (ha : s.power.alive = true) :
    ((s.master m).aStat ≠ 1 → ∃ t, exec (.attestationCommand m 1) s = .next t ∧
      (s.setMaster m { s.master m with aStat := 1 }).obeyed t m 3 0x3020 9) ∧
    (∀ v, (v ≠ 1 ∨ (s.master m).aStat = 1) → ∃ t, exec (.attestationCommand m v) s = .next t ∧ s.declined t m 3 0x3020 9 5) := by
  refine ⟨fun free => ⟨_, onUnit_masterOk hm _, command_obeyed (hears_attestation hm ha) ?_⟩,
    fun v h => ⟨_, onUnit_masterOk hm _, command_declined (hears_attestation hm ha) ?_⟩⟩
  · simp [attestRule, orRefuse, free]
  · obtain unknown | busy := h
    · simp [attestRule, orRefuse, show ¬ (v = 1#32) from unknown]
    · simp [attestRule, orRefuse, busy]

theorem length_leBytes (n v : Nat) : (leBytes n v).length = n := by
  induction n generalizing v with
  | zero => rfl
  | succ n ih => rw [leBytes, List.length_cons, ih]

@[simp] theorem length_fitBytes (n : Nat) (bs : List Byte) : (fitBytes n bs).length = n := by simp [fitBytes]

theorem length_headerHash (bs : List Byte) : (headerHash bs).length = 48 := by
  unfold headerHash
  split
  · exact List.length_replicate
  · exact length_fitBytes ..

/-- The body of a report has 256 bytes. -/
theorem length_reportBody (s : State) (nonce : List Byte) : (s.reportBody nonce).length = 256 := by
  unfold State.reportBody
  simp only [List.length_append, length_leBytes, length_fitBytes, length_headerHash, List.length_replicate]

theorem attestationReportReady_reports (hm : m ≤ 16) (ha : s.power.alive = true) (busy : (s.master m).aStat = 1) :
    ∃ t, exec (.attestationReportReady m) s = .next t ∧ (t.master m).aStat = 2 ∧ (t.master m).report.length = 352 ∧
      (t.master m).report.take 256 = s.reportBody (s.master m).nonceBytes ∧ (∀ n, n ≠ m → t.master n = s.master n) ∧
      t = { s with masters := t.masters } := by
  have length := length_reportBody s (s.master m).nonceBytes
  have run : exec (.attestationReportReady m) s = .next (s.setMaster m { s.master m with
      aStat := 2
      report := s.reportBody (s.master m).nonceBytes ++ fitBytes 96 (Config.identitySign (s.reportBody (s.master m).nonceBytes)) }) := by
    refine (onUnit_masterOk hm _).trans ?_
    simp only [ha, busy, Bool.not_true, ne_eq, not_true_eq_false, decide_false, Bool.or_self, Bool.false_eq_true, if_false]
  refine ⟨_, run, ?_⟩
  rw [master_setMaster_same]
  refine ⟨rfl, ?_, ?_, fun n hn => master_setMaster_other s m n _ hn, rfl⟩
  · rw [List.length_append, length, length_fitBytes]
  · rw [← length, List.take_left]

/-- Settles O60, from what each command of an update, each event of a hand-over and each attestation command does. -/
theorem firmwareUpdatesAndAttestation : Obligations.FirmwareUpdatesAndAttestation := by
  refine ⟨fun s m hm ha => ?_, fun s m hm ha => ?_, fun s control moving forward => ?_, fun s n => trialLimitExpiry_moves n,
    fun s m hm ha => ?_⟩
  · obtain ⟨begins, late, other⟩ := firmwareBegin_settles (s := s) hm ha
    exact ⟨begins, late, other, unstaged_declined hm ha, fun bs hs => ⟨firmwareData_extends hm ha hs,
      fun v low high => ⟨firmwareData_goodHeader hm ha hs v low high, firmwareData_badHeader hm ha hs v low high⟩,
      firmwareData_full hm ha hs, firmwareData_body hm ha hs, firmwareCheck_passes hm ha hs, firmwareCheck_fails hm ha hs,
      firmwareAbort_empties hm ha hs⟩⟩
  · exact ⟨activate_moves hm ha, activate_idle hm ha, activate_refused hm ha,
      fun h4 => ⟨confirm_ends hm ha h4, fallBack_moves hm ha h4, fallBack_idle hm ha h4⟩,
      fun h4 => ⟨confirm_refused hm ha h4, fallBack_refused hm ha h4⟩⟩
  · exact ⟨handoverSwitch_switches control moving forward, managementSwitch_ends control moving forward,
      handoverTimeout_reverses control moving forward⟩
  · obtain ⟨taken, refused⟩ := attestationCommand_settles (s := s) hm ha
    exact ⟨taken, refused, attestationReportReady_reports hm ha⟩

end Sys2Proof.Machine
end
